-- ==== Sys2Proof/Word.lean ====
section
/-! DEFINITION. Word.lean: the machine's words and the shape of its sparse tables (R3, R50, R57, R123). -/

namespace Sys2Proof

/-- A scalar register, a CSR, a memory dword (R123). -/
abbrev Word := BitVec 64

/-- A byte of any memory (R3). -/
abbrev Byte := BitVec 8

/-- A vector register or a bypass latch (R57, R141). -/
abbrev Vec := BitVec 2048

/-- A sparse table: keys strictly rising, no entry equal to what an unlisted key reads as.
`Machine/Sparse.lean` holds its operations. -/
abbrev SMap (α : Type) := List (Nat × α)

/-- A memory: a sparse table of bytes by address (`Host.Cell` is `Nat × BitVec 8`). -/
abbrev Bytes := SMap Byte

end Sys2Proof
end

