-- ==== Sys2Proof/Syntax.lean ====
section
/-! DEFINITION. Syntax.lean: the operand fields of every slot (R61, R62, R66, R75, R192, R194, R200), what an
event's occurrence says, and `Instr`, one constructor per row of the opcode table. Fields are kept raw: what makes
them legal stands in `Machine/Legality.lean` (R73). -/

namespace Sys2Proof

/-- Format R of slots S and A: slot bits [39:8] (R61, R67). -/
structure RF where
  f : BitVec 4   -- [39:36]
  c : BitVec 7   -- [35:29]
  b : BitVec 7   -- [28:22]
  a : BitVec 7   -- [21:15]
  d : BitVec 7   -- [14:8]
deriving DecidableEq, Repr, Inhabited

/-- Format I of slot S (R61). -/
structure IF where
  imm : BitVec 18  -- [39:22]
  a : BitVec 7
  d : BitVec 7
deriving DecidableEq, Repr, Inhabited

/-- Format L of slot S (R61). -/
structure LIF where
  z : BitVec 1     -- bit 39, reserved
  imm : BitVec 24  -- [38:15]
  d : BitVec 7
deriving DecidableEq, Repr, Inhabited

/-- Format B of slot S (R61). -/
structure BF where
  off : BitVec 20  -- [39:20]
  br : BitVec 1    -- [19]
  pd : BitVec 1    -- [18]
  cc : BitVec 3    -- [17:15]
  a : BitVec 7     -- [14:8]
deriving DecidableEq, Repr, Inhabited

/-- The V format (R62). -/
structure VF where
  f : BitVec 7     -- [55:49]
  rm : BitVec 2    -- [48:47]
  ty : BitVec 5    -- [46:42]
  gs : BitVec 3    -- [41:39]
  pr : BitVec 3    -- [38:36]
  c : BitVec 7     -- [35:29]
  b : BitVec 7     -- [28:22]
  a : BitVec 7     -- [21:15]
  d : BitVec 7     -- [14:8]
deriving DecidableEq, Repr, Inhabited

/-- The M slot above its opcode (R222, R227, R230, R231, R232, R236). -/
structure MF where
  hi : BitVec 10   -- [31:22]
  a : BitVec 7     -- [21:15]
  d : BitVec 7     -- [14:8]
deriving DecidableEq, Repr, Inhabited

/-- The X slot above its opcode (R233). -/
structure XF where
  hi : BitVec 5    -- [23:19]
  a : BitVec 7     -- [18:12]
  x : BitVec 4     -- [11:8]
deriving DecidableEq, Repr, Inhabited

/-- The L slot above its opcode; the formats LS, LV and LA and the fences divide `m` (R192, R194, R200, R246, R363). -/
structure LF where
  ty : BitVec 5    -- [47:43]
  m : BitVec 7     -- [42:36]
  c : BitVec 7     -- [35:29]
  b : BitVec 7     -- [28:22]
  a : BitVec 7     -- [21:15]
  d : BitVec 7     -- [14:8]
deriving DecidableEq, Repr, Inhabited

/-- Guard and source of a Steward move (R75). -/
structure MV where
  g : BitVec 2     -- [23:22]
  src : BitVec 11  -- [21:11]
deriving DecidableEq, Repr, Inhabited

/-- The seventeen type codes (R63). -/
inductive ETy where
  | i4 | i8 | i16 | i32 | i64 | n4 | n8 | n16 | n32 | n64 | f64 | f32 | bf16 | f16 | bm8 | bm5 | bm3
deriving DecidableEq, Repr, Inhabited

/-- What a controller found in one atom it read (R291). -/
inductive CellFault where
  | corrected (g : Nat)                        -- one bit, corrected and written back
  | uncorrectable (g : Nat) (bits : BitVec 256)  -- the bits as read
  | badParity (row : Nat)                      -- an activation counter with bad parity (R294)
deriving DecidableEq, Repr, Inhabited

/-- The one-at-a-time units of a Steward (R304). -/
inductive StewardUnit where
  | lsu | sem | log
deriving DecidableEq, Repr, Inhabited

/-- Who retires at a counter decrement (R115, R324). -/
inductive Unit4 where
  | core (c : Nat) | steward (n : Nat)
deriving DecidableEq, Repr, Inhabited

/-- Why a band is pre-empted (R109, R341, R343, R350, R398). -/
inductive PreemptWhy where
  | yielded | forNode (id : Nat) | atLock (holder : Nat) | parity (c : Nat)
deriving DecidableEq, Repr, Inhabited

/-- Who writes a control register (R406, R420). -/
inductive HostPort where
  | port0 | port1 | board
deriving DecidableEq, Repr, Inhabited

/-- What a register write names: an offset of BAR0 with the access width in bytes (R407), or a word of a
half-channel's LIVE map, whose address no rule gives (R295). (DESIGN CHOICE, log entry 132.) -/
inductive RegTarget where
  | bar0 (off width : Nat)
  | live (hc word : Nat)
deriving DecidableEq, Repr, Inhabited

/-- Requests of the board controller (R420). -/
inductive MgmtRequest where
  | temperature (sensor : Nat) | power | devid | bootstat | rasLog (i : Nat) | stewardLog (n i : Nat)
  | writePwrlim (v : Word) | writeStartctl (v : Word)
deriving DecidableEq, Repr, Inhabited

/-- Where an SPDM request came from (R418, R420). -/
inductive SpdmChannel where
  | doe0 | doe1 | mctp
deriving DecidableEq, Repr, Inhabited

/-- A firmware image that step 1 of a start is given (R417): its stage, its bytes, the RSA public key (modulus, exponent) and the
signature that came with it. -/
structure FwImage where
  stage : Nat
  image : List Byte
  modulus : Nat
  exponent : Nat
  signature : Nat
deriving DecidableEq, Repr, Inhabited

/-- Host accesses to memory (R406, R414); `own` is a host thread's access to its own memory. -/
inductive HostAccess where
  | read (port : Nat) (cxl : Bool) (pa len : Nat)
  | write (port : Nat) (cxl : Bool) (pa : Nat) (bytes : List Byte)
  | ownWrite (ha : Nat) (bytes : List Byte)
  | powerState (port : Nat) (d3 : Bool)      -- the host moves the port's function to D3hot, or back to D0 (R406)
deriving DecidableEq, Repr, Inhabited

/-- What a request asks of the ingress (R361). -/
inductive IngressOp where
  | read (len : Nat)
  | write (bytes : List Byte) (poison : List Bool)
  | atom (op : BitVec 4) (ty : BitVec 5) (v : Word)
  | step
deriving DecidableEq, Repr, Inhabited

/-- Where a request at the ingress came from (R353, R354, R361). -/
inductive IngressSource where
  | remote (port dev prio seq : Nat) (grant : Word) (off : Nat) (op : IngressOp)
  | loopback (id : Nat)
  | atom (tag : Nat)           -- the next atom of a write of another module performs (R371)
  | acknowledge (tag : Nat)    -- a write of another module has performed at DEVICE (R365)
  | answer (i : Nat)           -- an answer to another module leaves its router (R357, R358)
  | arrive (port prio : Nat) (resp : Bool) (n : Nat)  -- flits enter a receive buffer (R357)
  | leave (port prio : Nat) (resp : Bool) (n : Nat)   -- flits leave it
deriving DecidableEq, Repr, Inhabited

/-- A link: of a port of this module, or between two other modules (R352, R353). -/
inductive FabLink where
  | port (n : Nat)
  | between (a b : Nat)
deriving DecidableEq, Repr, Inhabited

/-- What other modules answer to a slab's remote operands (R367): the 64 slab rows of A and of B, and which of them met poison. An
operand in this module takes nothing from it. -/
structure FarOperands where
  a : List Byte
  b : List Byte
  pa : List Bool
  pb : List Bool
deriving DecidableEq, Repr, Inhabited

/-- How another module answers a Caravan step (R374, R376): the value or the refusal. -/
inductive CaravanRemote where
  | here
  | answer (v : Word) (poison : Bool)
  | refused (cause : Nat)
deriving DecidableEq, Repr, Inhabited

/-- Whose oldest write performs next (R241, R244). -/
inductive WriteSource where
  | core (c id : Nat)      -- an L-slot write of a core is performed at its destination
  | bank (k : Nat)         -- entry k of the controllers' write queues is banked
  | porter (cl j : Nat)    -- the next run of a Porter job
  | drain (c : Nat)        -- the next row of the core's drain
  | combine (port k : Nat) -- a full write-combining buffer is emitted
deriving DecidableEq, Repr, Inhabited

/-- The operations and events of the part, one constructor per row of the opcode table. -/
inductive Instr where
  /-- NOP (R53) -/
  | nop
  /-- ILLEGAL_OPCODE (R68) -/
  | illegalOpcode (slots : BitVec 6)
  /-- ADD (R124) -/
  | add (x : RF)
  /-- SUB (R124) -/
  | sub (x : RF)
  /-- MUL (R124) -/
  | mul (x : RF)
  /-- MULH (R124) -/
  | mulh (x : RF)
  /-- MULHN (R124) -/
  | mulhn (x : RF)
  /-- DIV (R125) -/
  | div (x : RF)
  /-- DIVN (R125) -/
  | divn (x : RF)
  /-- REM (R125) -/
  | rem (x : RF)
  /-- REMN (R125) -/
  | remn (x : RF)
  /-- AND (R124) -/
  | and (x : RF)
  /-- OR (R124) -/
  | or (x : RF)
  /-- XOR (R124) -/
  | xor (x : RF)
  /-- SHL (R124) -/
  | shl (x : RF)
  /-- SHR (R124) -/
  | shr (x : RF)
  /-- SAR (R124) -/
  | sar (x : RF)
  /-- ROT (R124) -/
  | rot (x : RF)
  /-- MIN (R124) -/
  | min (x : RF)
  /-- MAX (R124) -/
  | max (x : RF)
  /-- MINN (R124) -/
  | minn (x : RF)
  /-- MAXN (R124) -/
  | maxn (x : RF)
  /-- CMP (R126) -/
  | cmp (x : RF)
  /-- SEL (R124) -/
  | sel (x : RF)
  /-- CLZ (R124) -/
  | clz (x : RF)
  /-- POPC (R124) -/
  | popc (x : RF)
  /-- BFX (R127) -/
  | bfx (x : RF)
  /-- BFI (R127) -/
  | bfi (x : RF)
  /-- ADDI (R128) -/
  | addi (x : IF)
  /-- LOGI (R128) -/
  | logi (x : IF)
  /-- LI (R128) -/
  | li (x : LIF)
  /-- LIH (R128) -/
  | lih (x : LIF)
  /-- FADD (R129) -/
  | fadd (x : RF)
  /-- FSUB (R129) -/
  | fsub (x : RF)
  /-- FMUL (R129) -/
  | fmul (x : RF)
  /-- FMA (R129) -/
  | fma (x : RF)
  /-- FDIV (R129) -/
  | fdiv (x : RF)
  /-- FSQRT (R129) -/
  | fsqrt (x : RF)
  /-- FMIN (R130) -/
  | fmin (x : RF)
  /-- FMAX (R130) -/
  | fmax (x : RF)
  /-- FCMP (R131) -/
  | fcmp (x : RF)
  /-- FCVT (R133) -/
  | fcvt (x : RF)
  /-- FCLASS (R132) -/
  | fclass (x : RF)
  /-- CSRR (R135) -/
  | csrr (x : RF)
  /-- CSRW (R135) -/
  | csrw (x : RF)
  /-- PSET (R168) -/
  | pset (x : RF)
  /-- PSETS (R168) -/
  | psets (x : RF)
  /-- PCNT (R168) -/
  | pcnt (x : RF)
  /-- BR (R96) -/
  | br (x : BF)
  /-- BC (R96) -/
  | bc (x : BF)
  /-- CALL (R99) -/
  | call (x : BF)
  /-- CALLI (R99) -/
  | calli (x : RF)
  /-- RET (R99) -/
  | ret (x : RF)
  /-- JMPI (R97) -/
  | jmpi (x : RF)
  /-- LOOP (R101) -/
  | loop (x : RF)
  /-- LOOPI (R101) -/
  | loopi (x : RF)
  /-- LEXIT (R103) -/
  | lexit (x : RF)
  /-- LIDX (R103) -/
  | lidx (x : RF)
  /-- BSWAP (R105) -/
  | bswap (x : RF)
  /-- TRAP (R106) -/
  | trap (x : RF)
  /-- ERET (R106) -/
  | eret (x : RF)
  /-- WAITE (R108) -/
  | waite (x : RF)
  /-- YIELD (R109) -/
  | yield (x : RF)
  /-- EXIT (R110) -/
  | exit (x : RF)
  /-- VADD (R148) -/
  | vadd (x : VF)
  /-- VSUB (R148) -/
  | vsub (x : VF)
  /-- VADDS (R148) -/
  | vadds (x : VF)
  /-- VSUBS (R148) -/
  | vsubs (x : VF)
  /-- VMUL (R148) -/
  | vmul (x : VF)
  /-- VMULH (R148) -/
  | vmulh (x : VF)
  /-- VMIN (R149) -/
  | vmin (x : VF)
  /-- VMAX (R149) -/
  | vmax (x : VF)
  /-- VAND (R148) -/
  | vand (x : VF)
  /-- VOR (R148) -/
  | vor (x : VF)
  /-- VXOR (R148) -/
  | vxor (x : VF)
  /-- VSHL (R150) -/
  | vshl (x : VF)
  /-- VSHR (R150) -/
  | vshr (x : VF)
  /-- VSAR (R150) -/
  | vsar (x : VF)
  /-- VABS (R148) -/
  | vabs (x : VF)
  /-- VFADD (R151) -/
  | vfadd (x : VF)
  /-- VFSUB (R151) -/
  | vfsub (x : VF)
  /-- VFMUL (R151) -/
  | vfmul (x : VF)
  /-- VFMA (R151) -/
  | vfma (x : VF)
  /-- VFMIN (R152) -/
  | vfmin (x : VF)
  /-- VFMAX (R152) -/
  | vfmax (x : VF)
  /-- VFSGN (R153) -/
  | vfsgn (x : VF)
  /-- VRCP (R155) -/
  | vrcp (x : VF)
  /-- VRCPN (R158) -/
  | vrcpn (x : VF)
  /-- VRSQ (R155) -/
  | vrsq (x : VF)
  /-- VRSQN (R158) -/
  | vrsqn (x : VF)
  /-- VEXP2 (R155) -/
  | vexp2 (x : VF)
  /-- VLOG2 (R155) -/
  | vlog2 (x : VF)
  /-- VCMP (R159) -/
  | vcmp (x : VF)
  /-- VSEL (R160) -/
  | vsel (x : VF)
  /-- VCLASS (R161) -/
  | vclass (x : VF)
  /-- VPRES (R162) -/
  | vpres (x : VF)
  /-- VABSNT (R162) -/
  | vabsnt (x : VF)
  /-- VNRM (R163) -/
  | vnrm (x : VF)
  /-- VRED (R164) -/
  | vred (x : VF)
  /-- VSCAN (R164) -/
  | vscan (x : VF)
  /-- VPART (R171) -/
  | vpart (x : VF)
  /-- VPERM (R172) -/
  | vperm (x : VF)
  /-- VGATH (R172) -/
  | vgath (x : VF)
  /-- VBCAST (R173) -/
  | vbcast (x : VF)
  /-- VEXTR (R173) -/
  | vextr (x : VF)
  /-- VINS (R173) -/
  | vins (x : VF)
  /-- VSLIDE (R174) -/
  | vslide (x : VF)
  /-- VZIP (R175) -/
  | vzip (x : VF)
  /-- VUNZIP (R175) -/
  | vunzip (x : VF)
  /-- VEXPAND (R176) -/
  | vexpand (x : VF)
  /-- VCOMPRESS (R176) -/
  | vcompress (x : VF)
  /-- VIOTA (R177) -/
  | viota (x : VF)
  /-- VCVT (R178) -/
  | vcvt (x : VF)
  /-- VMAXA (R181) -/
  | vmaxa (x : VF)
  /-- VQNT (R182) -/
  | vqnt (x : VF)
  /-- VDQNT (R183) -/
  | vdqnt (x : VF)
  /-- MJOB (R222) -/
  | mjob (x : MF)
  /-- MZERO (R230) -/
  | mzero (x : MF)
  /-- MDRN (R227) -/
  | mdrn (x : MF)
  /-- MKAT (R236) -/
  | mkat (x : MF)
  /-- MRD (R231) -/
  | mrd (x : MF)
  /-- MWR (R231) -/
  | mwr (x : MF)
  /-- MWAIT (R232) -/
  | mwait (x : MF)
  /-- SCLD (R234) -/
  | scld (x : XF)
  /-- XSEL (R235) -/
  | xsel (x : XF)
  /-- XSET (R233) -/
  | xset (x : XF)
  /-- LD (R193) -/
  | ld (x : LF)
  /-- ST (R193) -/
  | st (x : LF)
  /-- LDR (R197) -/
  | ldr (x : LF)
  /-- VLD (R194) -/
  | vld (x : LF)
  /-- VST (R194) -/
  | vst (x : LF)
  /-- VLDS (R195) -/
  | vlds (x : LF)
  /-- VGLD (R195) -/
  | vgld (x : LF)
  /-- VSCT (R195) -/
  | vsct (x : LF)
  /-- VLDR (R197) -/
  | vldr (x : LF)
  /-- ATOM (R201) -/
  | atom (x : LF)
  /-- ACAS (R201) -/
  | acas (x : LF)
  /-- ACAS128 (R201) -/
  | acas128 (x : LF)
  /-- BARV (R204) -/
  | barv (x : LF)
  /-- BARW (R204) -/
  | barw (x : LF)
  /-- DRAIN (R249) -/
  | drain (x : LF)
  /-- FENCE (R247) -/
  | fence (x : LF)
  /-- FLD (R365) -/
  | fld (x : LF)
  /-- FST (R365) -/
  | fst (x : LF)
  /-- FATOM (R365) -/
  | fatom (x : LF)
  /-- PORT (R205) -/
  | port (x : RF)
  /-- CPUB (R269) -/
  | cpub (x : RF)
  /-- IPUB (R271) -/
  | ipub (x : RF)
  /-- LAUNCH (R345) -/
  | launch (x : RF)
  /-- SSIG (R347) -/
  | ssig (x : RF)
  /-- SWAIT (R348) -/
  | swait (x : RF)
  /-- GBAR (R349) -/
  | gbar (x : RF)
  /-- GSET (R362) -/
  | gset (x : RF)
  /-- GSET_MINT (R362) -/
  | gsetMint (x : RF)
  /-- CARAV (R372) -/
  | carav (x : RF)
  /-- MCST (R370) -/
  | mcst (x : RF)
  /-- CHKERR (R388) -/
  | chkerr (x : RF)
  /-- CKPT (R401) -/
  | ckpt (x : RF)
  /-- STEWARD_MOVE (R304) -/
  | stewardMove (x : MV) (dst : BitVec 11)
  /-- ALU_ADD (R307) -/
  | aluAdd (x : MV)
  /-- ALU_SUB (R307) -/
  | aluSub (x : MV)
  /-- ALU_AND (R307) -/
  | aluAnd (x : MV)
  /-- ALU_OR (R307) -/
  | aluOr (x : MV)
  /-- ALU_XOR (R307) -/
  | aluXor (x : MV)
  /-- ALU_SHL (R307) -/
  | aluShl (x : MV)
  /-- ALU_SHR (R307) -/
  | aluShr (x : MV)
  /-- ALU_EQ (R307) -/
  | aluEq (x : MV)
  /-- ALU_LT (R307) -/
  | aluLt (x : MV)
  /-- ALU_LTN (R307) -/
  | aluLtn (x : MV)
  /-- BR_JUMP (R308) -/
  | brJump (x : MV)
  /-- BR_IF (R308) -/
  | brIf (x : MV)
  /-- BR_CALL (R308) -/
  | brCall (x : MV)
  /-- BR_RET (R308) -/
  | brRet (x : MV)
  /-- LSU_LD (R309) -/
  | lsuLd (x : MV)
  /-- LSU_ST (R309) -/
  | lsuSt (x : MV)
  /-- SEM_SIG (R310) -/
  | semSig (x : MV)
  /-- SEM_WAIT (R310) -/
  | semWait (x : MV)
  /-- ROW_LEASE (R311) -/
  | rowLease (x : MV)
  /-- ROW_RELEASE (R311) -/
  | rowRelease (x : MV)
  /-- BKE_LD (R315) -/
  | bkeLd (x : MV) (n : BitVec 2)
  /-- BKE_ST (R315) -/
  | bkeSt (x : MV) (n : BitVec 2)
  /-- BKE_MV8 (R316) -/
  | bkeMv8 (x : MV) (n : BitVec 2)
  /-- BKE_MV4 (R316) -/
  | bkeMv4 (x : MV) (n : BitVec 2)
  /-- BKE_MVB (R316) -/
  | bkeMvb (x : MV) (n : BitVec 2)
  /-- BKE_RED (R319) -/
  | bkeRed (x : MV) (n : BitVec 2)
  /-- BKE_CLR (R320) -/
  | bkeClr (x : MV) (n : BitVec 2)
  /-- DEQ_COL (R318) -/
  | deqCol (x : MV) (n : BitVec 2)
  /-- ACC_RD (R320) -/
  | accRd (x : MV) (n : BitVec 2)
  /-- LOG_RD (R327) -/
  | logRd (x : MV)
  /-- NMK_DONE (R324) -/
  | nmkDone (x : MV)
  /-- STEWARD_TIMEOUT (R304) -/
  | stewardTimeout (n : Nat)
  /-- SEM_WAIT_EXPIRY (R310) -/
  | semWaitExpiry (n : Nat)
  /-- SEM_WAIT_SATISFIED (R310) -/
  | semWaitSatisfied (n : Nat)
  /-- ENGINE_OPERATION_END (R322) -/
  | engineOperationEnd (n e : Nat) (err : Option CellFault)
  /-- STEWARD_OPERATION_END (R322) -/
  | stewardOperationEnd (n : Nat) (u : StewardUnit)
  /-- NODE_WATCHDOG (R335) -/
  | nodeWatchdog (id : Nat)
  /-- LEASE_GRANT (R288) -/
  | leaseGrant (n rq : Nat)
  /-- LEASE_END (R288) -/
  | leaseEnd (n rq : Nat)
  /-- LEASE_RENEWAL (R312) -/
  | leaseRenewal (n rq : Nat)
  /-- WAVE_WINDOW (R297) -/
  | waveWindow (hc : Nat)
  /-- BANK_ARBITRATION (R289) -/
  | bankArbitration (bank : Nat) (err : Option CellFault)
  /-- OPEN_HOST_IDLE (R288) -/
  | openHostIdle (bank : Nat)
  /-- WATCHED_ROW_SPACING (R293) -/
  | watchedRowSpacing (bank row : Nat)
  /-- PER_BANK_REFRESH (R287) -/
  | perBankRefresh (bank : Nat)
  /-- PATROL_SCRUB (R291) -/
  | patrolScrub (g : Nat) (err : Option CellFault)
  /-- BLOCK_REVIVAL (R296) -/
  | blockRevival (hc block : Nat)
  /-- THERMAL_READOUT (R297) -/
  | thermalReadout (hc limit : Nat)
  /-- DIE_MIGRATION_UNIT (R298) -/
  | dieMigrationUnit (stack : Nat)
  /-- BANK_TEST (R399) -/
  | bankTest (bank : Nat) (decoded : List Nat)
  /-- BANK_TEST_END (R399) -/
  | bankTestEnd (bank : Nat) (passed : Bool)
  /-- CORE_BIST_END (R398) -/
  | coreBistEnd (c : Nat) (passed : Bool)
  /-- CORE_PARITY_ERROR (R398) -/
  | coreParityError (c : Nat)
  /-- LANDING_DATA_ARRIVAL (R198) -/
  | landingDataArrival (c k : Nat)
  /-- LANDING_TIMEOUT (R198) -/
  | landingTimeout (c : Nat)
  /-- SCLD_ARRIVAL (R234) -/
  | scldArrival (c k : Nat)
  /-- XSEL_LANDING (R235) -/
  | xselLanding (c k : Nat)
  /-- LOAD_RESPONSE (R196) -/
  | loadResponse (c id : Nat)
  /-- PORTER_JOB_START (R209) -/
  | porterJobStart (cl j : Nat)
  /-- PORTER_JOB_END (R207) -/
  | porterJobEnd (cl j : Nat)
  /-- PORT_TIMEOUT (R208) -/
  | portTimeout (cl j : Nat)
  /-- MJOB_START (R216) -/
  | mjobStart (c : Nat)
  /-- SLAB_END (R223) -/
  | slabEnd (c : Nat) (far : FarOperands)
  /-- MJOB_END (R223) -/
  | mjobEnd (c : Nat)
  /-- MJOB_FAULT_STOP (R225) -/
  | mjobFaultStop (c : Nat) (far : Option Nat)
  /-- MATRIX_TIMEOUT (R225) -/
  | matrixTimeout (c : Nat) (drain : Bool)
  /-- DRAIN_READ_END (R214) -/
  | drainReadEnd (c : Nat)
  /-- MDRN_END (R229) -/
  | mdrnEnd (c : Nat)
  /-- MKAT_END (R236) -/
  | mkatEnd (c : Nat) (fault : BitVec 24)
  /-- WAITE_WAKE (R108) -/
  | waiteWake (c : Nat)
  /-- WAITE_TIMEOUT (R108) -/
  | waiteTimeout (c : Nat)
  /-- BARW_WAKE (R204) -/
  | barwWake (c : Nat)
  /-- BARW_TIMEOUT (R204) -/
  | barwTimeout (c : Nat)
  /-- SWAIT_REREAD (R348) -/
  | swaitReread (c : Nat)
  /-- SWAIT_TIMEOUT (R348) -/
  | swaitTimeout (c : Nat)
  /-- CPUB_END (R269) -/
  | cpubEnd (c : Nat)
  /-- ICACHE_FILL (R266) -/
  | icacheFill (c : Nat)
  /-- PAGE_WALK (R282) -/
  | pageWalk (cl k : Nat)
  /-- WALK_TIMEOUT (R283) -/
  | walkTimeout (cl k : Nat)
  /-- WRITE_COMBINE_TIMEOUT (R258) -/
  | writeCombineTimeout (port k : Nat)
  /-- SYSTEM_ATOMIC_COMPLETION (R412) -/
  | systemAtomicCompletion (c : Nat) (ok : Bool)
  /-- NODE_CAPTURE (R334) -/
  | nodeCapture (q : Nat)
  /-- NODE_DISPATCH (R340) -/
  | nodeDispatch (id : Nat) (cores : List Nat)
  /-- PRIORITY_AGING (R339) -/
  | priorityAging (id : Nat)
  /-- PREEMPTION (R117) -/
  | preemption (id : Nat) (why : PreemptWhy)
  /-- RESUME (R117) -/
  | resume (id : Nat) (cores : List Nat)
  /-- SPARE_TAKEOVER (R122) -/
  | spareTakeover (c : Nat)
  /-- LOCK_WAIT_CHECK (R350) -/
  | lockWaitCheck (id : Nat)
  /-- PARKED_BAND_VICTIM (R350) -/
  | parkedBandVictim (id holder : Nat)
  /-- COUNTER_DECREMENT (R115) -/
  | counterDecrement (who : Unit4)
  /-- NODE_STOP (R383) -/
  | nodeStop (id : Nat)
  /-- NODE_RETRY (R390) -/
  | nodeRetry (id : Nat)
  /-- SLICE_CLEAR (R189) -/
  | sliceClear (c : Nat)
  /-- SHADOW_COPY (R393) -/
  | shadowCopy (id gran : Nat)
  /-- SHADOW_FALLBACK (R395) -/
  | shadowFallback (id gran : Nat)
  /-- SHADOW_CONFLICT (R396) -/
  | shadowConflict (id gran : Nat)
  /-- SHADOW_COMMIT (R394) -/
  | shadowCommit (id : Nat)
  /-- SHADOW_COPY_BACK (R394) -/
  | shadowCopyBack (gran : Nat)
  /-- CKPT_GRANULE (R404) -/
  | ckptGranule (k : Nat)
  /-- CKPT_END (R405) -/
  | ckptEnd (ok : Bool)
  /-- INTERLEAVE_COMMIT_END (R278) -/
  | interleaveCommitEnd (r : Nat)
  /-- TINV_END (R284) -/
  | tinvEnd
  /-- WINV_END (R359) -/
  | winvEnd
  /-- CTXKILL_END (R331) -/
  | ctxkillEnd
  /-- IRCMD_COMMIT (R277) -/
  | ircmdCommit (port : HostPort) (r : Nat) (v : Word)
  /-- TINV_GO (R284) -/
  | tinvGo (port : HostPort) (v : Word)
  /-- CTXKILL_GO (R331) -/
  | ctxkillGo (port : HostPort) (v : Word)
  /-- QDB_DOORBELL (R333) -/
  | qdbDoorbell (port : HostPort) (q : Nat) (v : Word)
  /-- QCFG_WRITE (R332) -/
  | qcfgWrite (port : HostPort) (q : Nat) (v : Word)
  /-- BKCFG_COMMIT (R343) -/
  | bkcfgCommit (port : HostPort) (b : Nat) (v : Word)
  /-- WINV_GO (R359) -/
  | winvGo (port : HostPort) (v : Word)
  /-- HSEM_CLAIM (R409) -/
  | hsemClaim (k : Nat) (p0 p1 : Bool)
  /-- HSEM_REL (R409) -/
  | hsemRel (port : HostPort) (k : Nat)
  /-- STARTCTL_COLD (R416) -/
  | startctlCold (port : HostPort)
  /-- STARTCTL_WARM (R416) -/
  | startctlWarm (port : HostPort)
  /-- PARKREL_GO (R399) -/
  | parkrelGo (port : HostPort) (k : Nat)
  /-- LOGCLR_GO (R408) -/
  | logclrGo (port : HostPort) (n : Nat)
  /-- PWRLIM_WRITE (R419) -/
  | pwrlimWrite (port : HostPort) (v : Word)
  /-- REGISTER_WRITE (R407) -/
  | registerWrite (port : HostPort) (t : RegTarget) (v : Word)
  /-- POWER_ON (R416) -/
  | powerOn
  /-- POWER_REMOVED (R420) -/
  | powerRemoved
  /-- START_STEP_END (R416) -/
  | startStepEnd (passed : Bool) (images : List FwImage)
  /-- MANAGEMENT_READY (R420) -/
  | managementReady
  /-- MANAGEMENT_REQUEST (R420) -/
  | managementRequest (rq : MgmtRequest)
  /-- GET_VERSION (R418) -/
  | getVersion (ch : SpdmChannel)
  /-- GET_CAPABILITIES (R418) -/
  | getCapabilities (ch : SpdmChannel)
  /-- NEGOTIATE_ALGORITHMS (R418) -/
  | negotiateAlgorithms (ch : SpdmChannel) (sign hash : Nat)
  /-- GET_DIGESTS (R418) -/
  | getDigests (ch : SpdmChannel)
  /-- GET_CERTIFICATE (R418) -/
  | getCertificate (ch : SpdmChannel)
  /-- CHALLENGE (R418) -/
  | challenge (ch : SpdmChannel) (nonce : BitVec 256)
  /-- GET_MEASUREMENTS (R418) -/
  | getMeasurements (ch : SpdmChannel) (nonce : BitVec 256)
  /-- HOST_LINK_DOWN (R409) -/
  | hostLinkDown (port : Nat)
  /-- HOST_MEMORY_ACCESS (R406) -/
  | hostMemoryAccess (acc : HostAccess)
  /-- INTERRUPT_SEND (R415) -/
  | interruptSend (v : Nat)
  /-- FABRIC_LINK_DOWN (R354) -/
  | fabricLinkDown (link : FabLink)
  /-- FLOW_OFF (R357) -/
  | flowOff (port prio : Nat) (resp : Bool)
  /-- FLOW_ON (R357) -/
  | flowOn (port prio : Nat) (resp : Bool)
  /-- FLIT_STARVATION (R358) -/
  | flitStarvation (port : Nat)
  /-- FLOW_DETOUR (R354) -/
  | flowDetour (dev prio : Nat)
  /-- INGRESS_REQUEST (R361) -/
  | ingressRequest (rq : IngressSource)
  /-- FABRIC_RESPONSE (R365) -/
  | fabricResponse (id : Nat) (cause : Nat) (v : Word) (poison : Bool)
  /-- LINK_NO_ROUTE (R356) -/
  | linkNoRoute (id : Nat)
  /-- LINK_TIMEOUT (R356) -/
  | linkTimeout (id : Nat)
  /-- MCST_MEMBER_WRITE (R371) -/
  | mcstMemberWrite (id m : Nat) (cause : Nat)
  /-- MCST_END (R371) -/
  | mcstEnd (id : Nat)
  /-- CARAVAN_STEP (R375) -/
  | caravanStep (id : Nat) (remote : CaravanRemote)
  /-- CARAVAN_RETURN (R376) -/
  | caravanReturn (id : Nat)
  /-- FTIME_TICK (R352) -/
  | ftimeTick
  /-- WRITE_PERFORMED (R241) -/
  | writePerformed (src : WriteSource)
  /-- FABRIC_LINK_UP (R352) -/
  | fabricLinkUp (link : FabLink)
  /-- HOST_LINK_UP (R415) -/
  | hostLinkUp (port : Nat)
  /-- CORE_FAULT_NOT_CONTAINED (R398) -/
  | coreFaultNotContained (c : Nat)
  /-- WAITING_BAND_TIMEOUT (R350) -/
  | waitingBandTimeout (id : Nat)
  /-- HOME_AGENT_SNOOP (R412) -/
  | homeAgentSnoop (line : Nat)
deriving DecidableEq, Repr, Inhabited

/-- What the next step does: a core runs a bundle, a Steward runs one, or an event of the table occurs. -/
inductive Act where
  | bundle (core : Nat)
  | steward (n : Nat)
  | event (i : Instr)
  | sliceError (core atom : Nat) (bits : BitVec 256)
  | send (id m : Nat)          -- a packet of a fabric request leaves its router (R354, R357, R358)
deriving DecidableEq, Repr, Inhabited

end Sys2Proof
end

