-- ==== Sys2Proof/Config.lean ====
section
/-! DEFINITION. Config.lean: what the spec fixes as a figure of the part, and the values it leaves open. An opaque
constant has no body: a claim about it holds for every value. -/

namespace Sys2Proof.Config
open Sys2Proof

/-- Which act comes next when the agenda is empty: no rule orders the agents' steps (DESIGN CHOICE, log entry 1). -/
opaque nextAct : Nat → Act
/-- DEVID.STEPPING (R408). (DESIGN CHOICE, log entry 11.) -/
opaque stepping : BitVec 8
/-- The device's certificate chain and its private-key signature (R418). (DESIGN CHOICE, log entry 12.) -/
opaque certChain : List Byte
/-- DESIGN CHOICE, log entry 12. -/
opaque sign : List Byte → List Byte
/-- Bytes of SPDM messages that the spec does not give (R418). -/
opaque spdmBody : Nat → List Byte → List Byte
/-- The SHA-256 digest in fuses of Evoryn's public key, and the bytes of a key (modulus, exponent) that it covers (R417). (DESIGN
CHOICE, log entry 117.) -/
opaque keyDigest : BitVec 256
/-- DESIGN CHOICE, log entry 117. -/
opaque keyBytes : Nat → Nat → List Byte
/-- Sensor readings by sensor and reading (R420). (DESIGN CHOICE, log entry 14.) -/
opaque sensor : Nat → Nat → Word

/-- The latch of a boosted load that met a fault (R57, R112 give none): by its address. (DESIGN CHOICE, log entry 8.) -/
opaque deferLatch : Nat → Vec

/-- The running value that a reduction register takes when bke.red asks for another accumulation format than the one it
holds (R319 gives none): old format, value, new format. (DESIGN CHOICE, log entry 10.) -/
opaque redMix : Nat → Nat → Nat → Nat

/-- Physical cores per cluster, clusters, cores (R1). -/
def coresPerCluster : Nat := 9
def clusters : Nat := 24
def cores : Nat := 216
/-- The cluster of a physical core. -/
def clusterOf (c : Nat) : Nat := c / coresPerCluster
/-- Time-outs in core cycles (R191, R225, R283, R356) and base-die cycles (R304). -/
def accessTimeout : Nat := 2 ^ 20
def linkTimeout : Nat := 2 ^ 22
/-- 1 ms and 1 µs in core cycles (R5). -/
def ms : Nat := 2000000
def us : Nat := 2000

end Sys2Proof.Config
end

