-- ==== Sys2Proof/Machine/Sparse.lean ====
section
/-! DEFINITION. Sparse.lean: sparse tables in one canonical form, and bytes read and written in them, little-endian
(R3). -/

namespace Sys2Proof.Machine

variable {α : Type} [DecidableEq α]

/-- What key `k` reads as: its entry, or `z` where none is listed. -/
def mget (z : α) : SMap α → Nat → α
  | [], _ => z
  | (k, v) :: t, n => if n < k then z else if n = k then v else mget z t n

/-- Insert `v` at `n`, keeping keys rising. -/
def mins (m : SMap α) (n : Nat) (v : α) : SMap α :=
  match m with
  | [] => [(n, v)]
  | (k, w) :: t => if n < k then (n, v) :: (k, w) :: t else if n = k then (n, v) :: t else (k, w) :: mins t n v

/-- Remove the entry at `n`. -/
def mdel (m : SMap α) (n : Nat) : SMap α :=
  match m with
  | [] => []
  | (k, w) :: t => if n < k then (k, w) :: t else if n = k then t else (k, w) :: mdel t n

/-- Write `v` at `n`: an entry equal to `z` is not listed. -/
def mput (z : α) (m : SMap α) (n : Nat) (v : α) : SMap α := if v = z then mdel m n else mins m n v

/-- Keys strictly rising, above `lo` where one is given. -/
def rising : Option Nat → SMap α → Bool
  | _, [] => true
  | lo, (k, _) :: t => (match lo with | none => true | some l => decide (l < k)) && rising (some k) t

/-- The canonical form: keys strictly rising, no entry equal to `z`. -/
def canon (z : α) (m : SMap α) : Bool := rising none m && m.all (fun e => decide (e.2 ≠ z))

/-- The entries with keys in `[lo, lo + n)`. -/
def mslice (m : SMap α) (lo n : Nat) : SMap α := m.filter (fun e => decide (lo ≤ e.1) && decide (e.1 < lo + n))

/-- The table with every entry of `[lo, lo + n)` removed. -/
def mclear (m : SMap α) (lo n : Nat) : SMap α := m.filter (fun e => !(decide (lo ≤ e.1) && decide (e.1 < lo + n)))

/-- Every listed entry through `f`, those that become `z` no longer listed. -/
def mmap (z : α) (m : SMap α) (f : Nat → α → α) : SMap α :=
  m.filterMap (fun e => if f e.1 e.2 = z then none else some (e.1, f e.1 e.2))

/-- Write every entry of a list, in order. -/
def mputs (z : α) (m : SMap α) (es : List (Nat × α)) : SMap α := es.foldl (fun m e => mput z m e.1 e.2) m

/-- Copy `[src, src + n)` over `[dst, dst + n)`. -/
def mcopy (z : α) (m : SMap α) (src dst n : Nat) : SMap α :=
  mputs z (mclear m dst n) ((mslice m src n).map (fun e => (e.1 - src + dst, e.2)))

/-- A byte of a memory; an unlisted byte reads as zero. (DESIGN CHOICE, log entry 5.) -/
def byteAt (m : Bytes) (a : Nat) : Byte := mget 0 m a

def bytesAt (m : Bytes) (a n : Nat) : List Byte := (List.range n).map (fun i => byteAt m (a + i))

/-- The canonical form of a memory: addresses strictly rising, no byte listed that is zero. (DESIGN CHOICE, log entry 5.) -/
def Memory.wf (m : Bytes) : Bool := canon 0 m

/-- Write bytes from `a` upwards. -/
def putBytes (m : Bytes) (a : Nat) : List Byte → Bytes
  | [] => m
  | b :: t => putBytes (mput 0 m a b) (a + 1) t

/-- The number that bytes hold, lowest first (R3). -/
def leNat : List Byte → Nat
  | [] => 0
  | b :: t => b.toNat + 256 * leNat t

/-- `n` bytes of a number, lowest first. -/
def natLe : Nat → Nat → List Byte
  | 0, _ => []
  | n + 1, v => BitVec.ofNat 8 v :: natLe n (v / 256)

/-- The element of a list at `i`, or `z`. -/
def nth {β : Type} (z : β) (l : List β) (i : Nat) : β := (l[i]?).getD z

/-- Replace the element at `i`. -/
def setNth {β : Type} (l : List β) (i : Nat) (v : β) : List β := l.set i v

/-- Does any `i < n` satisfy `p`? -/
def anyBelow (n : Nat) (p : Nat → Bool) : Bool := (List.range n).any p

end Sys2Proof.Machine
end

