-- ==== Sys2Proof/Machine/State.lean ====
section
/-! DEFINITION. State.lean: everything the spec gives the machine, as plain data; the reasons a step stops; reset.
A table `SMap α` lists only the entries that differ from the value named beside it. -/

namespace Sys2Proof.Machine

/-- Where a byte lives (R187, R239): a slice or instruction store of a physical core, device memory by physical
address, or a host address with its memory type (R411). -/
inductive Place where
  | slice (c off : Nat) | ist (c off : Nat) | dmem (pa : Nat) | sys (ha mt : Nat)
deriving DecidableEq, Repr, Inhabited

/-- Consecutive bytes at one place; `disc`: reached through a discardable page (R296). -/
structure Piece where
  pl : Place
  len : Nat
  disc : Bool
deriving DecidableEq, Repr, Inhabited

/-- Which register file a late result goes to. -/
inductive RFile where
  | none | s | v | p | x | g
deriving DecidableEq, Repr, Inhabited

/-- Where a late result goes: physical registers, element width, elements that are written, sign extension (R193),
the slot whose latch takes it (R57), and whether it goes to the boost shadow (R112). A
register number of 64 or more takes nothing. -/
structure LateDst where
  file : RFile
  regs : List Nat
  w : Nat
  cnt : Nat
  sext : Bool
  slot : Nat
  boost : Bool
deriving DecidableEq, Repr, Inhabited

/-- The atomic operations (R201). -/
inductive AtomKind where
  | op (n : Nat) | cas | cas128
deriving DecidableEq, Repr, Inhabited

/-- What a core has issued and memory has not yet done (R243), and the fences among it (R247, R249); `upto` bounds the
controllers' queue entries that were there when the fence issued. Of a load `ps` is what it has still to read, atom by atom, and
`got` what it has read, with its poison (R287). A gathered store stands in a write-combining buffer until
that is emitted (R258); a fabric access names the registers its answer goes to (R365); a spill of the call stack carries no colour (R100); an arrival at barrier register `k` waits for the loads of its own bundle (R349). -/
inductive MemOp where
  | load (ps : List Piece) (d : LateDst) (got : List Byte) (poi : Bool)
  | store (p : Piece) (bytes : List Byte) (nib : Bool)
  | atom (k : AtomKind) (ty : ETy) (p : Piece) (x y : Nat) (d : LateDst) (ev : Option Nat)
  | launch (q : Nat) (handler : Bool) (desc : List Byte) (d : LateDst)
  | ckpt (desc : List Byte) (d : LateDst)
  | fab (rd wr mc : Bool) (ps : List Piece) (d : LateDst)
  | rel (scope : Nat) (mask : BitVec 8) (upto : Nat)
  | acq (mask : BitVec 8)
  | full (scope : Nat) (mask : BitVec 8) (upto : Nat)
  | drain (mask : BitVec 8)
  | gathered
  | spill (p : Piece) (bytes : List Byte)
  | gbar (k : Nat)
deriving DecidableEq, Repr, Inhabited

/-- One entry of a core's program-ordered list; `acc`: performed at its destination, not yet banked (R241);
`at_`: CYCLE at its bundle, which names the bundle. -/
structure MemEnt where
  id : Nat
  colour : BitVec 3
  op : MemOp
  acc : Bool
  at_ : Nat
deriving DecidableEq, Repr, Inhabited

/-- Kinds of exposed result (R116). -/
inductive ExpKind where
  | ldr | scld | xsel
deriving DecidableEq, Repr, Inhabited

/-- An exposed result in flight (R116, R197): `off` bundles until the first that reads it, the entry
`id` of the memory list that reads it, the bytes once arrived, whether poison is consumed when they land (R197, R234), and
whether it goes to the boost shadow (R233). (DEDUCED, log entry 103.) -/
structure Exposed where
  kind : ExpKind
  dst : LateDst
  off : Nat
  id : Nat
  data : Option (List Byte)
  poi : Bool
  boosted : Bool
deriving DecidableEq, Repr, Inhabited

/-- A loop-stack entry (R93). -/
structure LoopEnt where
  start : BitVec 48
  stop : BitVec 48
  count : BitVec 32
  index : BitVec 32
  rot : Bool
deriving DecidableEq, Repr, Inhabited

/-- A deferred record (R112, R121): `reg` is its first physical register; a register of `dst` that a later boosted write
replaced is 64. -/
structure DefRec where
  reg : Nat
  insn : BitVec 48
  cause : Nat
  seq : Nat
  va : Word
  vb : Word
  pred : BitVec 16
  dst : LateDst
  vidx : List Vec
deriving DecidableEq, Repr, Inhabited

/-- The boost shadow (R93, R112): a copy is pending exactly where it is listed. -/
structure Shadow where
  s : List (Nat × Word)
  v : List (Nat × Vec)
  p : List (Nat × BitVec 16)
  x : List (Nat × BitVec 12)
  g : List (Nat × Word)
  recs : List DefRec
  fps : BitVec 6
  fdz : Bool             -- the shadow DZ came from a floating-point division (R41)
  retry : Bool           -- the records have trapped: the next resolve performs them again (R113)
  poi : List (RFile × List Nat)  -- consumptions that wait for the commit (R113), with the registers of each still pending
deriving DecidableEq, Repr, Inhabited

/-- The register files (R7): unlisted scalar, vector, scale and grant registers read as zero, unlisted predicates as
the full predicate 0xE000 (R92). -/
structure Regs where
  s : SMap Word
  v : SMap Vec
  p : SMap (BitVec 16)
  x : SMap (BitVec 12)
  g : SMap Word
deriving DecidableEq, Repr, Inhabited

/-- The control and status registers that are stored (R134); LOOPST is computed (R94). -/
structure Csrs where
  fps : BitVec 6
  fpc : BitVec 7
  cir : Word
  cause : BitVec 8
  epc : BitVec 48
  tvec : BitVec 48
  trec : Word
  cycle : Word
  ctxid : BitVec 16
  bookid : BitVec 6
deriving DecidableEq, Repr, Inhabited

/-- Matrix-engine operations (R216). -/
inductive MxKind where
  | mjob | mdrn | mkat
deriving DecidableEq, Repr, Inhabited

/-- An entry of the matrix engine's operation queue (R216): its token register, colour, the card or drain descriptor
captured at issue with its address, the grants read at issue (R222), scale and rounding mode (R227), and how far it
has got. -/
structure MxOp where
  kind : MxKind
  tok : Nat
  colour : BitVec 3
  card : List Byte
  addr : Word
  grA : Word
  grB : Word
  tile : Nat
  scale : BitVec 12
  rm : BitVec 2
  sig : BitVec 24
  started : Bool
  after : Nat            -- memory-list entries with lower ids are its before-set (R247); jobs with lower ones are earlier
  at_ : Nat              -- CYCLE at its bundle, whose fences order it too (R247, R250)
  prog : Nat             -- next slab in K-and-tile order; for a drain, rows read
  slabs : Nat            -- slabs added by this issue
  rows : Nat             -- rows written by a drain
  bytes : Nat
  flags : BitVec 6
  cause : Option Nat
  buf : List (BitVec 64 × Nat)  -- elements read from the tile and not yet written, with their counts
  handler : Bool         -- issued at handler level (R378)
  since : Nat            -- core cycle at which the access in progress began (R225)
deriving DecidableEq, Repr, Inhabited

/-- Why a core is parked (R108, R204, R348): the bundle has not committed and runs again once `res` says how the wait
ended. -/
inductive ParkKind where
  | waite (mask : BitVec 8)
  | barw (pl : Place) (par : Bool)
  | swait (va : Nat) (pl : Place) (thr : Word) (inh : Option Word)
  | sysAtom (k : AtomKind) (ty : ETy) (p : Piece) (x y : Nat)
deriving DecidableEq, Repr, Inhabited

/-- How a wait of a slot ended: by its condition or completion, and the value read. -/
structure WaitRes where
  slot : Nat
  ok : Bool
  val : Nat
deriving DecidableEq, Repr, Inhabited

/-- A park: the slot that waits, its deadline in core cycles, its start, the result once known, and the results of waits
of other slots of the same bundle that have ended. -/
structure Park where
  kind : ParkKind
  slot : Nat
  deadline : Option Nat
  since : Nat
  res : Option WaitRes
  prev : List WaitRes
deriving DecidableEq, Repr, Inhabited

/-- A read, or the fence, of a bundle that a system atomic holds (R54, R243, R247, R412): its slot, its entry of the memory list, and
what it gave, once it has. -/
structure Early where
  slot : Nat
  id : Nat
  got : Option (List Byte × Bool)
deriving DecidableEq, Repr, Inhabited

/-- A translation held in a TLB (R282). -/
structure TlbEnt where
  ctx : BitVec 16
  va : Nat
  level : Nat
  leaf : Word
deriving DecidableEq, Repr, Inhabited

/-- An instruction-cache line (R266): the address fetched, where it came from, its 64 bytes. -/
structure IcLine where
  va : Nat
  pl : Place
  bytes : List Byte
deriving DecidableEq, Repr, Inhabited

/-- A CPUB in progress (R264, R269), .W with mask 0: the writes it waits for, the first byte and length of its range as an address and as a
place, the level of its page, its mask and scope. -/
structure Cpub where
  waits : List Nat
  va : Nat
  pl : Place
  len : Nat
  level : Nat
  mask : BitVec 8
  scope : Nat
  gone : List (Place × Nat)  -- ranges that a CPUB.W has withdrawn meanwhile
deriving DecidableEq, Repr, Inhabited

/-- A physical core's state while it holds work, and its role in its band (R88, R89, R93). -/
structure Core where
  node : Option Nat        -- the node whose band holds the core
  num : Nat                -- core number c of R89
  running : Bool
  retiring : Bool          -- EXIT committed, its waits not yet over (R110)
  pc : BitVec 48
  regs : Regs
  lat : SMap Vec           -- bypass latches by slot 0-5 (R57); unlisted is zero
  latBoost : BitVec 6      -- latches loaded by a boosted instruction (R72)
  latWait : List (Nat × Nat)  -- slots whose latch awaits a late result, with the entry's id
  loops : List LoopEnt     -- bottom first
  calls : List Word        -- resident call-stack entries, oldest first
  cspl : Nat
  rb : BitVec 3
  rh : Bool
  evl : BitVec 8
  shadow : Shadow
  csr : Csrs
  level : Bool             -- true: handler level (R378)
  tlevel : Bool            -- trap-state level (R380)
  tlat : SMap Vec          -- trap-saved latches (R58)
  tlatBoost : BitVec 6
  exposed : List Exposed
  held : List Exposed      -- exposed results of the interrupted code (R118)
  postTrap : List (Bool × Nat × Word)  -- level, cause and TREC of causes taken at a boundary (R381)
  tval : SMap (BitVec 32)  -- tile values, 4096 t + 64 r + n (R211)
  tcnt : SMap (BitVec 16)  -- contributor counts
  mxq : List MxOp
  busy : BitVec 16         -- tile busy bits (R214)
  pendS : List Nat         -- scalar registers a later write owns (R193, R205)
  pendV : List Nat         -- vector registers a load owns
  toks : List Nat          -- registers whose status word no bundle has read yet (R250)
  mem : List MemEnt
  memNext : Nat
  flush : BitVec 8         -- colours of satisfied releases at SYSTEM whose flag has not left (R259)
  park : Option Park
  early : List Early       -- reads and fence of the bundle that a system atomic holds (R412)
  overs : List (Nat × Nat × Nat)  -- loads under way whose low bits a landing has replaced: entry, register, bits (R197)
  owed : Option Word       -- owner word of the SWAIT.INH at which the core was pre-empted, until that returns (R350)
  gwait : Option (Nat × Bool × Nat)   -- waiting in GBAR: register, phase awaited (R349), core cycle
  cpub : Option Cpub
  fetchMiss : Option Nat
  xlFault : Option (Nat × Nat × Nat)  -- page fault of a walk for this core: VA, cause, level (R283)
  engFault : List (Nat × Nat × Nat)   -- page faults of walks for its engines: the job, VA, cause (R208, R283)
  fetchFault : Option (Nat × Nat)     -- fetch fault to deliver: cause, TREC.INFO (R98)
  freeze : Nat             -- cycles of the present freeze (R198)
  isA : Bool               -- publish state of instruction-store half A: true is PUB (R267)
  isB : Bool
  tlb : List TlbEnt        -- L1 TLB
  ic : List IcLine
  failed : Option Nat      -- CIR verdict marked at EXIT (R389)
deriving DecidableEq, Repr, Inhabited

/-- The loaded boost shadow, empty. -/
def Shadow.none : Shadow := ⟨[], [], [], [], [], [], 0, false, false, []⟩

/-- CSRs after reset (R136-R140, R387). (DESIGN CHOICE, log entry 4.) -/
def Csrs.reset : Csrs := ⟨0, 0, 0, 0, 0, 0, 0, 0, 0, 0⟩

/-- A core that holds no work (R92 gives these values at a node's first bundle). (DESIGN CHOICE, log entry 4.) -/
def Core.idle : Core :=
  { node := Option.none, num := 0, running := false, retiring := false, pc := 0, regs := ⟨[], [], [], [], []⟩, lat := [],
    latBoost := 0, latWait := [], loops := [], calls := [], cspl := 0, rb := 0, rh := false, evl := 0,
    shadow := Shadow.none, csr := Csrs.reset, level := false, tlevel := false, tlat := [], tlatBoost := 0,
    exposed := [], held := [], postTrap := [], tval := [], tcnt := [], mxq := [], busy := 0, pendS := [],
    pendV := [], toks := [], mem := [], memNext := 0, flush := 0, park := Option.none, early := [], overs := [], owed := Option.none, gwait := Option.none, cpub := Option.none,
    fetchMiss := Option.none, xlFault := Option.none, engFault := [], fetchFault := Option.none, freeze := 0, isA := false, isB := false,
    tlb := [], ic := [], failed := Option.none }

/-- A Porter job (R205-R209). -/
structure PJob where
  core : Nat
  tok : Nat
  colour : BitVec 3
  card : List Byte
  after : Nat              -- memory-list entries with lower ids are its before-set (R247); jobs with lower ones are earlier
  started : Bool
  run : Nat                -- runs done
  bytes : Nat
  cause : Option Nat
  handler : Bool           -- issued at handler level (R378)
  since : Nat              -- core cycle at which the access in progress began (R208)
deriving DecidableEq, Repr, Inhabited

/-- A table walk in progress (R282): the cores whose bundles wait for it, the cores and jobs whose engines do, the level of the
load in progress, the table it reads (at level 0, the root's), and when that load began. -/
structure Walk where
  ctx : BitVec 16
  va : Nat
  waiters : List Nat
  eng : List (Nat × Nat)
  lev : Nat
  base : Nat
  since : Nat
deriving DecidableEq, Repr, Inhabited

/-- A barrier register of a cluster's barrier unit (R349). -/
structure BarReg where
  node : Nat
  gang : Nat
  k : Nat
  phase : Bool
  arr : BitVec 8
deriving DecidableEq, Repr, Inhabited

/-- A cluster (R1, R88). -/
structure Cluster where
  tlb : List TlbEnt        -- L2 TLB
  walks : List Walk
  jobs : List PJob
  bars : List BarReg
  filter : List Nat        -- granules whose dirty bit is known set (R285)
deriving DecidableEq, Repr, Inhabited

/-- A lease request of a Steward (R311). -/
structure Lease where
  id : Nat
  bank : Nat               -- 16 stack group + 4 bank group + bank
  row : Nat
  wave : Bool              -- of an all-bank wave that has not activated it yet (R297)
  held : Bool
  budget : Nat
  released : Bool
  since : Nat              -- base-die cycle of the request, or of the grant while held
  asked : Bool             -- waiting for a grant: at row.lease, and again at a renewal (R312)
deriving DecidableEq, Repr, Inhabited

/-- A queued engine operation (R304, R314): trigger code within the engine's block, trigger value, operand ports as
captured, and the lease request it is bound to (R311). -/
structure EngOp where
  trig : Nat
  t : Word
  o0 : Word
  o1 : Word
  o2 : Word
  lease : Option Nat
  seq : Nat
  prog : Nat               -- columns copied, or weight groups added, under earlier leases (R312)
deriving DecidableEq, Repr, Inhabited

/-- A bank engine (R314). -/
structure Engine where
  buf : Bytes
  bpoi : SMap Bool         -- poison of buffer atoms
  acc : SMap (BitVec 32)
  taint : SMap Bool
  redv : BitVec 32         -- reduction value, in the low bits of its accumulation format
  redf : BitVec 2          -- that format: 0 FP32, 1 BF16, 2 FP16
  redc : BitVec 16
  redp : Bool              -- a poisoned atom entered the reduction
  flags : BitVec 5
  satLogged : Bool
  q : List EngOp
deriving DecidableEq, Repr, Inhabited

/-- A reduction register holding absent, and an engine at a node's first bundle (R301). -/
def Engine.idle : Engine := ⟨[], [], [], [], 0xFFC00001, 0, 0, false, 0, false, []⟩

/-- A semaphore operation in flight (R310). -/
structure SemOp where
  wait : Bool
  t : Word
  o : Word
  deadline : Option Nat
  seq : Nat
deriving DecidableEq, Repr, Inhabited

/-- An lsu operation in flight (R309): address, and data of a store. -/
structure LsuOp where
  st : Bool
  addr : Word
  data : Word
  seq : Nat
deriving DecidableEq, Repr, Inhabited

/-- A Steward (R300-R305). -/
structure Steward where
  node : Option Nat
  running : Bool
  done : Option (Nat × Option Nat)  -- status and halt cause once ended; the completion steps may still run (R324)
  imem : Bytes
  dmem : Bytes
  q : SMap Word            -- q0-q31
  g : Bool
  pc : Nat
  calls : List Nat         -- bottom first
  arg : Word
  clk : Option Nat         -- base-die cycle of the node's first bundle, once it has begun
  stat : BitVec 8
  ports : SMap Word        -- operand and result ports by number
  lsu : Option LsuOp       -- lsu operation in flight
  sem : Option SemOp
  logop : Option Word
  eng : List Engine        -- e0-e3
  leases : List Lease
  leaseNext : Nat
  opNext : Nat             -- trigger order of operations
  waited : Bool            -- sem.res holds the 1 of a sem.wait, not yet read (R310)
  acqSeq : Nat             -- the first place in trigger order after the latest acquire (R250, R310)
  stallSince : Option Nat
  log : List Word          -- error log entries, oldest first (R326)
  lost : Nat
  alert : Bool
  taintLogged : Bool
deriving DecidableEq, Repr, Inhabited

/-- DESIGN CHOICE, log entry 6. -/
def Steward.idle : Steward :=
  ⟨none, false, none, [], [], [], false, 0, [], 0, none, 0, [], none, none, none,
    [Engine.idle, Engine.idle, Engine.idle, Engine.idle], [], 0, 0, false, 0, none, [], 0, false, false⟩

/-- Where in a bank a Steward cause arose (R326). -/
structure At where
  bank : Nat
  row : Nat
  atom : Nat
deriving DecidableEq, Repr, Inhabited

/-- A Steward bundle in execution (R77, R304): the Steward as every move reads it, the image the moves write, whether the
bundle stalls, whether on a pending sem.wait, the cause that halts it with its INFO and place, and the target of a branch. -/
structure SFrame where
  n : Nat
  pre : Steward
  now : Steward
  stall : Bool
  semStall : Bool
  halt : Option (Nat × Nat × At)
  branch : Option Nat
deriving DecidableEq, Repr, Inhabited

/-- Row-buffer states (R288); `ended`: OPEN-ENGINE with its lease ended, until arbitration decides. -/
inductive RowState where
  | closed | host (row : Nat) | engine (row : Nat) | ended (row : Nat)
deriving DecidableEq, Repr, Inhabited

/-- A DRAM bank (R287-R294). -/
structure Bank where
  row : RowState
  lastUse : Nat            -- base-die cycle of the last access to the open row
  acts : SMap (BitVec 11)  -- activation counters by row
  actAt : Nat              -- base-die cycle of the last activation (R293)
  badPar : List Nat        -- rows whose counter has bad parity (R292)
  watch : List (Nat × Nat) -- watched rows with the base-die cycle of their last activation
  refresh : Nat            -- next row group to refresh
  refAt : Nat              -- base-die cycle of the last refresh command (R287)
  corrected : Nat          -- corrected errors of the 24-hour period `period` (R291)
  period : Nat
  bad : List (Nat × BitVec 256 × BitVec 256)  -- atoms logged as uncorrectable: the bits held before the error, those read
  testing : Bool
  testReq : Bool
  parked : Bool            -- served from the park area (R399)
deriving DecidableEq, Repr, Inhabited

def Bank.idle : Bank := ⟨.closed, 0, [], 0, [], [], 0, 0, 0, 0, [], false, false, false⟩

/-- Who made a write, for its publish state, its colour and its completion (R264, R310). -/
inductive Writer where
  | core (c : Nat) (id : Nat) (colour : BitVec 3) | job (c : Nat) (colour : BitVec 3) (tag : Nat)
  | fabric (c : Nat) (colour : BitVec 3) (id : Nat) | steward (n : Nat) | ingress (id : Nat) | host (port : Nat) | device
deriving DecidableEq, Repr, Inhabited

/-- An accepted write that is not yet banked (R241). -/
structure WqEnt where
  loc : Nat                -- 32 x geometry + byte
  bytes : List Byte
  by_ : Writer
  seq : Nat
  at_ : Nat                -- base-die cycle of arrival
deriving DecidableEq, Repr, Inhabited

/-- An interleave region in force (R274); rows are those of the matrix and of its inverse. -/
structure Region where
  base : Nat
  k : Nat
  rows : List (BitVec 34)
  inv : List (BitVec 34)
deriving DecidableEq, Repr, Inhabited

/-- A region's staging registers and status (R276). -/
structure RegionRegs where
  irbase : Word
  ircfg : Word
  mrow : SMap Word         -- rows that differ from their unit vector
  pend : Option (Option Region)  -- what a commit in progress installs; none in it disables the region
  code : BitVec 8
deriving DecidableEq, Repr, Inhabited

/-- Device memory and its controllers (R273-R299). -/
structure Dram where
  mem : Bytes              -- by location, 32 x geometry + byte; unlisted reads as zero
  poi : SMap Bool          -- by geometry
  pub : SMap (BitVec 2)    -- publish state by geometry: 0 UNPUB, 1 PUBLISHING, 2 PUB
  elided : SMap Bool       -- refresh blocks that are not live, 512 x half-channel + block
  reviving : List Nat
  wq : List WqEnt
  wqNext : Nat
  banks : SMap Bank        -- by geometry bits [33:19]
  regions : SMap (Option Region)
  stage : SMap RegionRegs
  actmax : SMap Nat        -- by half-channel; unlisted is 64
  window : SMap (Nat × Nat)  -- wave window by half-channel: start in base-die cycles, limit at its start
  spare : SMap (Option Nat)  -- by stack: the die whose contents the spare takes
  mark : SMap Nat          -- migration watermark by stack, in units; unlisted is 0
  filters : SMap (List Nat)  -- dirty filters of the controllers, by half-channel
  cut : Nat
deriving DecidableEq, Repr, Inhabited

/-- A hardware queue (R332). -/
structure Queue where
  base : Word
  ctx : BitVec 16
  pmax : BitVec 6
  dev : Bool
  en : Bool
  logn : BitVec 4
  head : BitVec 32
  tail : BitVec 32
  code : BitVec 8
  drainTo : Option (BitVec 32)  -- entries still to be captured after a refused doorbell (R333)
  graph : Nat              -- number of the graph being captured
  from_ : List (Nat × Nat × Nat)  -- entries written by LAUNCH: index, launching node, core number
deriving DecidableEq, Repr, Inhabited

def Queue.reset : Queue := ⟨0, 0, 0, false, false, 4, 0, 0, 0, none, 0, []⟩

/-- Where a node stands (R338-R341, R350, R383, R390, R394). -/
inductive NodeSt where
  | captured | running | draining | preempted | waiting | stopping (cause : Nat) | retry | commit | done (ok : Bool) (cause : Nat)
deriving DecidableEq, Repr, Inhabited

/-- A SWAIT.INH at which a core was pre-empted (R350): address and place, threshold and owner word, and when its time-out passes. -/
structure SavedWait where
  swait : Option (Nat × Place × Word × Option Word)
  until_ : Option Nat
deriving DecidableEq, Repr, Inhabited

/-- What a pre-empted core holds that the layouts of R119-R121 give no place: causes still to be taken, consumptions that
wait in the shadow, marks of latches, and what replay entries, held ones and matrix entries stand for (DESIGN CHOICE, log entry 86). -/
structure Resid where
  num : Nat
  memNext : Nat
  traps : List (Bool × Nat × Word)
  poi : List (RFile × List Nat)
  retry : Bool
  fdz : Bool
  latBoost : BitVec 6
  tlatBoost : BitVec 6
  exposed : List Exposed
  held : List Exposed
  mx : List MxOp
  recs : List (Nat × LateDst)
deriving DecidableEq, Repr, Inhabited

/-- A self-test of the reliability controller (R398): of a core, or of a bank. -/
inductive TestKey where
  | core (c : Nat) | bank (b : Nat)
deriving DecidableEq, Repr, Inhabited

/-- A captured node (R334-R341). -/
structure Node where
  id : Nat
  queue : Nat
  index : BitVec 32
  ctx : BitVec 16
  desc : List Byte
  foot : List (Nat × Nat × Nat)   -- base, size, kind
  launcher : Option (Nat × Nat)   -- node and core number that launched it
  graph : Nat
  prio : Nat
  aged : Nat
  st : NodeSt
  readyAt : Option Nat     -- core cycle at which it first became ready: its age
  agingFrom : Option Nat   -- since when it has been ready and not placed
  placedAt : Nat           -- core cycle of the present placement
  begun : Nat              -- core cycle at which the present run was dispatched
  ran : Nat                -- cycles run before the present placement
  cores : List Nat         -- physical cores by core number
  gone : List Nat          -- core numbers that have retired
  stewards : List Nat
  left : Nat               -- children of a near-memory node's counter still to decrement
  tries : Nat              -- earlier runs
  cause : Option Nat       -- first failure marked
  causeAt : Nat × Nat      -- its core cycle, and its Steward where one reported it (R324)
  final : Bool             -- its failure is not retried: its context has ended
  shdw : Bool
  fell : Bool              -- runs on without shadows (R392, R395)
  waits : List (Nat × SavedWait)
  offer : Bool             -- a YIELD has offered its cores, and a ready node takes them (R109)
  victim : Bool            -- parked whole for 2 µs at a lock: a victim for the holding context (R350)
  testWait : List TestKey  -- self-tests its failure triggered
  evs : List (Nat × Nat)   -- events for cores of the band that are pre-empted: core number, bit (R108)
  saved : List Resid
  hurt : List (Nat × Nat)  -- cores whose parity error pre-empted the band: core number and physical core (R122, R398)
deriving DecidableEq, Repr, Inhabited

/-- A booking (R342). -/
structure Booking where
  stage : Word
  clus : BitVec 24
  ctx : BitVec 16
  ceil : BitVec 6
  level : BitVec 6
  en : Bool
  code : BitVec 8
  use : Nat
  idle : Nat
deriving DecidableEq, Repr, Inhabited

def Booking.reset : Booking := ⟨0, 0, 0, 0, 0, false, 0, 0, 0⟩

/-- A redirect entry (R393, R394). -/
structure Redirect where
  node : Nat
  gran : Nat
  pool : Nat
  ready : Bool             -- the copy has been taken
  global : Bool
deriving DecidableEq, Repr, Inhabited

/-- A first write that waits for a granule, for room or, with `held`, for another node that shadows it (R395, R396). -/
structure ShadowWait where
  node : Nat
  gran : Nat
  held : Bool
  since : Nat
deriving DecidableEq, Repr, Inhabited

/-- A checkpoint in progress (R403-R405). -/
structure Ckpt where
  ctx : BitVec 16
  desc : List Byte
  seq : Nat
  chosen : List (Nat × Option Nat)  -- granules of the region still to stream, ascending, with their physical granules
  ahead : List Nat         -- physical granules that a write waits for (R404)
  streamed : Nat
  man : List (Nat × Bool)  -- granules streamed, with poison
  cause : Option Nat
  start : Nat
deriving DecidableEq, Repr, Inhabited

/-- Queues, nodes, bookings, shadows, checkpoints, reliability (R330-R351, R390-R405). -/
structure Sched where
  queues : SMap Queue
  nodes : List Node
  nodeNext : Nat
  bookings : SMap Booking
  walkHang : Bool          -- walks of the scheduler and the ingress meet no answer (R283)
  ctxCache : List (Nat × Word × Byte)   -- context-table entries read (R330): context, ROOT word, CEIL
  killing : Option (BitVec 16)
  shbase : Word
  shsize : BitVec 16
  shfree : List Nat        -- free pool granules
  redir : List Redirect
  shwait : List ShadowWait
  ckpt : Option Ckpt
  ckptSeq : Nat
  rasctl : Word
  raslog : List Word
  rasNew : List Nat        -- places of the entries the board controller has not read (R420)
  parkbase : SMap Word
  coreBad : List Nat       -- physical cores retired
  coreTest : List Nat      -- physical cores held for BIST
  coreParity : List Nat    -- those a contained parity error holds, until their band is saved (R398)
  coreClear : List Nat     -- physical cores whose slice is being cleared
  spareUsed : SMap (Option Nat)  -- by cluster: the core number slot the spare has taken
deriving DecidableEq, Repr, Inhabited

/-- Where a Caravan's packet is (R376): at its core, a slice, a Steward, or on another module. -/
inductive CarPos where
  | core | slice (c : Nat) | steward (n : Nat) | far (dev : Nat)
deriving DecidableEq, Repr, Inhabited

/-- Kinds of fabric request. Slab rows of a matrix job are packets 0-63 to the module of A and 64-127 to that of B (R367). A multicast holds the status of each member and, once its checks have passed at the own ingress, the
pieces still to write (R371). -/
inductive FabKind where
  | fld (ty : ETy) | fst (v : Word) (w : Nat) | fatom (op : Nat) (ty : ETy) (v : Word)
  | mcst (desc : List Byte) (payload : Option (List Byte × List Bool)) (st : List (Option Nat)) (todo : List (Option (List Piece)))
  | carav (p : Word) (offs : List (BitVec 16)) (mask : Word) (n k budget : Nat) (poi : Bool) (res : Option Nat)
    (pos : CarPos)
  | rows (a b : Option Nat)
deriving DecidableEq, Repr, Inhabited

/-- A fabric request in flight (R353-R376). -/
structure FabReq where
  id : Nat
  core : Nat
  mid : Nat                -- its entry in the core's memory list
  tok : Nat
  kind : FabKind
  faddr : Word
  grant : Option Word
  prio : Nat
  at_ : Nat
  colour : BitVec 3
  after : Nat
  handler : Bool           -- issued at handler level (R378)
  resp : Option (Nat × Word × Bool)  -- cause, value, poison, once answered by the own ingress
  sent : List Nat          -- packets that have left the router: 0, or a multicast's members (R358)
  order : Nat              -- its place in the order of issue of its flow (R354)
deriving DecidableEq, Repr, Inhabited

/-- A write or atomic of another module that has passed its checks (R361, R365): the pieces and cells still to write, and the answer. -/
structure FarReq where
  tag : Nat
  dev : Nat
  prio : Nat
  seq : Nat
  win : Nat
  ctx : BitVec 16
  todo : List Piece
  cells : List (Byte × Bool)
  bytes : List Byte
  poison : Bool
deriving DecidableEq, Repr, Inhabited

/-- An answer to another module, at its router since the cycle `at_` (R357, R358, R365). -/
structure FarAns where
  dev : Nat
  prio : Nat
  seq : Nat
  cause : Nat
  bytes : List Byte
  poison : Bool
  at_ : Nat
deriving DecidableEq, Repr, Inhabited

/-- The fabric: windows and grants (R359-R361), links, routes and flow control (R352-R358), and requests under way. -/
structure Fabric where
  fabcfg : Word
  ftime : Word
  winbase : Word
  winv : Word
  winvOn : Option Nat              -- the window whose invalidation is in progress (R359)
  wcache : List (Nat × List Byte)  -- window cache
  itlb : List TlbEnt               -- ingress TLB
  keyctl : BitVec 4
  keys : SMap Word                 -- KEYk.LO at 2k, KEYk.HI at 2k + 1
  lpcfg : SMap Word                -- EN, ROLE, PEER
  up : BitVec 16
  off : SMap Nat                   -- 8 port + 2 priority + class: cycle after that of the buffer's OFF, 0 when ON
  starved : SMap (Option (Nat × Nat))  -- by port: the starved packet that goes next, by request and member (R358)
  detour : SMap Bool               -- flows on a detour: 4 device + priority
  routes : SMap (List Nat)         -- by flow: the modules on the route of its packets in flight (R354)
  farDown : List (Nat × Nat)       -- links between other modules that are down
  lost : SMap Nat                  -- by device: cycle after that in which its last route was lost (R356)
  lastSend : SMap Nat              -- 4 port + priority: cycle of the last packet sent (R358)
  onAt : SMap Nat                  -- 4 port + priority: cycle of the last ON for requests
  rx : SMap Nat                    -- flits in each receive buffer, keyed as `off` (R357)
  rxOff : SMap Bool                -- receive buffers for which OFF has been sent
  seqs : SMap Nat                  -- next sequence number expected per ingress flow
  reqs : List FabReq
  reqNext : Nat
  far : List FarReq                -- writes of other modules that the ingress has admitted
  farNext : Nat
  answers : List FarAns            -- answers to other modules that have not left their router
  ingress : List (Nat × Nat × Nat × List Byte × Bool)  -- those that have left: device, sequence, cause, value, poison
deriving DecidableEq, Repr, Inhabited

/-- A write-combining buffer (R258): port, 64-byte line, bytes placed, colours, its first store, and the stores in it by core
and entry. -/
structure WcBuf where
  port : Nat
  line : Nat
  bytes : List (Nat × Byte)
  colours : BitVec 8
  since : Nat
  ents : List (Nat × Nat)
deriving DecidableEq, Repr, Inhabited

/-- SPDM responder state per channel (R418). -/
structure Spdm where
  stage : Nat              -- 0 none, 1 version, 2 capabilities, 3 algorithms
  last : List Byte         -- the last response
deriving DecidableEq, Repr, Inhabited

/-- Hosts, control space and start-up (R406-R420). -/
structure HostSide where
  power : Bool
  mgmtReady : Bool
  state : BitVec 2         -- BOOTSTAT.STATE
  step : Nat               -- BOOTSTAT.STEP
  warm : Bool
  pwrlim : BitVec 11
  hpath : SMap Word
  hp1base : Word
  hp1limit : Word
  hsem : SMap (Option Nat) -- owner port of each held semaphore
  hsemTie : Bool           -- port that wins the next tie
  tinvAddr : Word
  tinvCtl : Word
  tinv : Option (Nat × BitVec 16 × Nat)  -- the invalidation in progress: mode, context, page address (R284)
  dirtybase : Word
  ctxbase : Word
  ctxkill : Word
  tvecinit : BitVec 48
  vectors : SMap (BitVec 128)  -- interrupt vectors, XOR the reset value with MASK = 1
  pend : SMap Bool
  msgs : List (Nat × Nat × Nat)   -- interrupt messages sent: port, address, data
  portUp : BitVec 2
  d3hot : BitVec 2         -- ports whose function is in D3hot (R406)
  sys : Bytes              -- host and CXL memory
  wcb : List WcBuf
  posted : SMap (BitVec 8) -- by port: colours of the writes emitted since its last flush (R259)
  owned : List Nat         -- host lines held for an atomic (R412)
  meas : SMap (BitVec 256)
  spdm : SMap Spdm
  reply : List Byte        -- what the last host or board read returned
  unread : List (Nat × Nat)  -- Steward log entries that raised an alert and that the board controller has not read (R420)
deriving DecidableEq, Repr, Inhabited

/-- What a memory write of the committing bundle still has to do, after every read (R54, R243). -/
inductive Late where
  | own (p : Piece) (bytes : List Byte) (nib : Bool)    -- at once: own slice or instruction store, a held arrival
  | porter (j : PJob)
  | fabric (r : FabReq)
  | gbar (k : Nat)
  | cpubX (j : Cpub)
  | cpubW (j : Cpub)
  | ev (n : Nat)                                        -- event-latch bit 4 of a core of the band (R347)
  | touch (ps : List Piece)                             -- the banks as a read at the bundle leaves them (R288)
deriving DecidableEq, Repr, Inhabited

/-- How the bundle leaves (R95). -/
inductive Ctl where
  | seq
  | goto (pc : BitVec 48) (bubbles : Nat)
  | lexit (k : Nat)
  | bswap (idx : Nat)
  | trap (n : BitVec 16)
  | eret
  | exit_
  | yield
deriving DecidableEq, Repr, Inhabited

/-- A bundle in execution (R54, R74): the core as every slot reads it, the image the slots write, and what each slot
reports. Nothing of it is architectural before the bundle commits. -/
structure Frame where
  pre : Core
  now : Core
  hdr : BitVec 16
  used : BitVec 6          -- slots that hold an instruction
  enc : List (Nat × Nat)   -- slot, encoding cause (R73)
  faults : List (Nat × Nat × Nat)  -- slot, cause, TREC.INFO
  stall : Bool
  flags : List (Nat × BitVec 6 × Bool)  -- slot, flags, integer division
  bflags : BitVec 6        -- flags of boosted slots
  bfdz : Bool
  csrw : Option (Nat × Word)
  late : List Late
  ctl : Ctl
  resolve : Option Bool    -- a resolving branch: true as predicted (R113)
  park : Option Park       -- the wait this bundle must make
  walk : List (Nat × Bool)     -- addresses whose translation is missing
  chkfail : Option Nat     -- CHKERR.FAIL stops the node (R388)
  ports : List (RFile × Nat × Nat × Nat) -- file, slot, read ports, write ports (R69)
  writes : List (Nat × RFile × Nat)      -- slot, file, register written (R70)
  reads : List (Nat × List Byte × Bool)  -- reads made at the bundle itself: slot, bytes, poison (R412)
  eaten : Nat              -- consumptions of poison by the bundle (R387)
  slots : List (Nat × Instr)
deriving DecidableEq, Repr, Inhabited

/-- The machine. `agenda`, `cur`, `hdr`, `choice`, `frame` and `sframe` are the model's own: what runs next, who runs it, the
header staged for a single instruction, the counter of free choices, and the bundle in execution (of a core, of a Steward)
(DESIGN CHOICE, log entry 1). -/
structure State where
  agenda : List Act
  cur : Nat
  hdr : BitVec 16
  choice : Nat
  frame : Option Frame
  sframe : Option SFrame
  now : Nat                -- core cycles since power-on
  cores : SMap Core        -- by physical core 0-215; unlisted is `Core.idle`
  slices : Bytes           -- 2^20 x core + offset
  spoi : SMap Bool         -- slice poison, 2^15 x core + atom
  ists : Bytes             -- instruction stores, 2^15 x core + offset
  clusters : SMap Cluster
  stewards : SMap Steward
  dram : Dram
  sched : Sched
  fab : Fabric
  host : HostSide
deriving DecidableEq, Repr, Inhabited

/-- Why the machine stops. -/
inductive Fault where
  /-- Raised by every act while the module has no power (R420): nothing runs. Safe: no act has an effect there. -/
  | unpowered
deriving DecidableEq, Repr

/-- Why an act has no meaning in a state. -/
inductive Refusal where
  /-- Raised by the arms of instructions with no meaning yet. Safe. -/
  | notModelled (mnemonic : String)
  /-- Raised by an event that cannot occur in the state it is offered (the guard of the event's own rule fails). Safe:
  `step` passes over such an event. -/
  | notEnabled (event : String)
deriving DecidableEq, Repr

def Cluster.empty : Cluster := ⟨[], [], [], [], []⟩

/-- A region's registers after reset (R276): K is 39. -/
def RegionRegs.reset : RegionRegs := ⟨0, 39, [], none, 0⟩

/-- DESIGN CHOICE, log entry 7. -/
def Dram.reset : Dram :=
  ⟨[], [], [], [], [], [], 0, [], [], [], [], [], [], [], [], 0⟩

def Sched.reset : Sched :=
  ⟨[], [], 0, [], false, [], none, 0, 0, [], [], [], none, 0, 0, [], [], [], [], [], [], [], []⟩

/-- DESIGN CHOICE, log entry 119. -/
def Fabric.reset : Fabric := ⟨0, 0, 0, 0, none, [], [], 0, [], [], 0, [], [], [], [], [], [], [], [], [], [], [], [], 0, [], 0, [], []⟩

def Spdm.reset : Spdm := ⟨0, []⟩

/-- DESIGN CHOICE, log entry 2. -/
def HostSide.reset : HostSide :=
  ⟨false, false, 0, 0, false, 1600, [], 0, 0, [], false, 0, 0, none, 0, 0, 0, 0, [], [], [], 0, 0, [], [], [], [], [], [], [],
    []⟩

/-- The machine right after reset: every register at the value its field map gives, no power-on yet seen, nothing
queued, every memory unlisted. (DESIGN CHOICE, log entries 2, 4 and 5.) -/
def State.reset : State :=
  { agenda := [], cur := 0, hdr := 0, choice := 0, frame := none, sframe := none, now := 0, cores := [], slices := [], spoi := [],
    ists := [], clusters := [], stewards := [], dram := Dram.reset, sched := Sched.reset, fab := Fabric.reset,
    host := HostSide.reset }

end Sys2Proof.Machine
end

