-- ==== Sys2Proof/Machine/Mem.lean ====
section
/-! DEFINITION. Mem.lean: where a byte lies and what reading and writing it does at its owner: interleave, atoms, poison,
publish states, elided blocks, the write queue, dirty bits, shadow granules (R34-R36, R241, R264, R273-R296, R391). -/

namespace Sys2Proof.Machine
open Sys2Proof

/-! ### Interleave and geometry (R273-R279) -/

def parity34 (x : BitVec 34) : Bool := (List.range 34).foldl (fun p i => p != x.getLsbD i) false

/-- Matrix times vector over GF(2): bit j is the parity of row j with the vector (R274). -/
def matVec (rows : List (BitVec 34)) (a : Nat) : Nat :=
  ((List.range 34).map (fun j =>
    if parity34 (nth 0 rows j &&& BitVec.ofNat 34 a) then 2 ^ j else 0)).sum

def regionOf (d : Dram) (pa : Nat) : Option Region :=
  (d.regions.filterMap (·.2)).find? (fun r => pa / 2 ^ r.k == r.base / 2 ^ r.k)

/-- The geometry vector of a physical address's atom (R273, R274). -/
def geom (d : Dram) (pa : Nat) : Nat :=
  match regionOf d pa with
  | some r => matVec r.rows (pa / 32 % 2 ^ 34)
  | none => pa / 32 % 2 ^ 34

/-- The physical address of a geometry vector: the inverse of a region's matrix, which its block keeps (R275, R285). -/
def unGeom (d : Dram) (g : Nat) : Nat :=
  match (d.regions.filterMap (·.2)).find? (fun r => g / 2 ^ (r.k - 5) == r.base / 2 ^ r.k) with
  | some r => 32 * matVec r.inv g
  | none => 32 * g

/-- Fields of a geometry vector (R273). -/
def gBank (g : Nat) : Nat := g / 2 ^ 19 % 2 ^ 15
def gRow (g : Nat) : Nat := g / 32 % 2 ^ 14
def gHc (g : Nat) : Nat := g / 2 ^ 25 % 2 ^ 9
def gStack (g : Nat) : Nat := g / 2 ^ 31 % 8
/-- The refresh block of a geometry vector, 512 x half-channel + block (R295). -/
def gBlock (g : Nat) : Nat := gHc g * 512 + g / 2 ^ 23 % 4 * 128 + gRow g / 128

def bank (d : Dram) (b : Nat) : Bank := mget Bank.idle d.banks b
def setBank (d : Dram) (b : Nat) (f : Bank → Bank) : Dram := { d with banks := mput Bank.idle d.banks b (f (bank d b)) }

/-- A stack's park area, when present (R399). -/
def parkBase (s : State) (stack : Nat) : Option Nat :=
  let w := mget 0 s.sched.parkbase stack
  if w.getLsbD 0 then some ((w.extractLsb' 24 15).toNat * 2 ^ 24) else none

/-- Where an atom of a bank is kept: in place, or in the park area that serves it (R399). -/
def served (s : State) (g : Nat) : Nat :=
  if (bank s.dram (gBank g)).parked then
    match parkBase s (gStack g) with
    | some p => geom s.dram (p + 32 * (g % 2 ^ 19))
    | none => g
  else g

def atomOf (s : State) (pa : Nat) : Nat := served s (geom s.dram pa)
/-- The location of a byte. -/
def locOf (s : State) (pa : Nat) : Nat := 32 * atomOf s pa + pa % 32

/-- Is the block that holds an atom live (R295)? -/
def live (d : Dram) (g : Nat) : Bool := !mget false d.elided (gBlock g)

/-! ### Shadow granules (R391-R394) -/

/-- The physical address that an access of a node reaches. -/
def redirect (s : State) (node : Option Nat) (pa : Nat) : Nat :=
  match s.sched.redir.find? (fun r => r.gran == pa / 2 ^ 18 && r.ready && (r.global || some r.node == node)) with
  | some r => r.pool * 2 ^ 18 + pa % 2 ^ 18
  | none => pa

/-! ### Reading (R34, R241, R296) -/

/-- A byte as a compute die reads it: the newest accepted write, else the banked byte (R241). -/
def dByte (d : Dram) (loc : Nat) : Byte :=
  match (d.wq.filter (fun e => decide (e.loc ≤ loc) && decide (loc < e.loc + e.bytes.length))).getLast? with
  | some e => nth 0 e.bytes (loc - e.loc)
  | none => byteAt d.mem loc

/-- Bytes of device memory with the poison a reader meets; a block that is not live reads as zeros, which poison a read
through a page that is not discardable (R296). -/
def dRead (s : State) (node : Option Nat) (pa n : Nat) (disc : Bool) : List Byte × Bool :=
  let rd (i : Nat) : Byte × Bool :=
    let a := redirect s node (pa + i)
    let g := atomOf s a
    if live s.dram g then (dByte s.dram (32 * g + a % 32), mget false s.dram.poi g) else (0, !disc)
  let l := (List.range n).map rd
  (l.map (·.1), l.any (·.2))

/-- Read `n` bytes at a place (R34, R187): slices and instruction stores by physical core. -/
def readPlace (s : State) (node : Option Nat) (p : Place) (n : Nat) (disc : Bool) : List Byte × Bool :=
  match p with
  | .slice c o =>
    (bytesAt s.slices (c * 2 ^ 20 + o) n,
      anyBelow n (fun i => mget false s.spoi (c * 2 ^ 15 + (o + i) / 32)))
  | .ist c o => (bytesAt s.ists (c * 2 ^ 15 + o) n, false)
  | .dmem pa => dRead s node pa n disc
  | .sys ha _ => (bytesAt s.host.sys ha n, false)

def readPiece (s : State) (node : Option Nat) (p : Piece) : List Byte × Bool := readPlace s node p.pl p.len p.disc
/-- DESIGN CHOICE, log entry 28. -/
def readPieces (s : State) (node : Option Nat) (ps : List Piece) : List Byte × Bool :=
  let l := ps.map (readPiece s node)
  (l.flatMap (·.1), l.any (·.2))

/-! ### Writing -/

def onDram (s : State) (f : Dram → Dram) : State := { s with dram := f s.dram }
def onHost (s : State) (f : HostSide → HostSide) : State := { s with host := f s.host }
def onSched (s : State) (f : Sched → Sched) : State := { s with sched := f s.sched }
def onFab (s : State) (f : Fabric → Fabric) : State := { s with fab := f s.fab }

/-- Base-die cycles (R5). (DESIGN CHOICE, log entry 3.) -/
def baseNow (s : State) : Nat := s.now / 2

/-- Put bytes into a bank's array. -/
def bankBytes (d : Dram) (loc : Nat) (bs : List Byte) : Dram := { d with mem := putBytes d.mem loc bs }

def coreAt (s : State) (c : Nat) : Core := mget Core.idle s.cores c
def setCore (s : State) (c : Nat) (k : Core) : State := { s with cores := mput Core.idle s.cores c k }
def onCore (s : State) (c : Nat) (f : Core → Core) : State := setCore s c (f (coreAt s c))

/-- An entry of a core's memory list is done. -/
def dropMem (s : State) (c id : Nat) : State := onCore s c (fun k => { k with mem := k.mem.filter (fun e => e.id != id) })

/-- A write that has been banked no longer counts for its writer (R241, R247, R310). -/
def bankedBy (s : State) (w : Writer) : State :=
  match w with
  | .core c id _ =>
    if s.dram.wq.any (fun e => e.by_ == w) then s
    else onCore s c (fun k => { k with mem := k.mem.filter (fun e => !(e.id == id && e.acc)) })
  | _ => s

/-- Bank the queue entry at index `k` (R241). -/
def bankEntry (s : State) (k : Nat) : State :=
  match s.dram.wq[k]? with
  | some e => bankedBy (onDram s (fun d => { bankBytes d e.loc e.bytes with wq := d.wq.eraseIdx k })) e.by_
  | none => s

/-- Bank the queued writes that `hit` names, oldest first. -/
def bankWhere (s : State) (hit : WqEnt → Bool) : State :=
  (s.dram.wq.filter hit).foldl (fun s e => match s.dram.wq.findIdx? (fun o => o.seq == e.seq) with
    | some k => bankEntry s k
    | none => s) s

/-- Bank every queued write to the atom of a byte. -/
def flushByte (s : State) (loc : Nat) : State := bankWhere s (fun e => e.loc / 32 == loc / 32)

/-- Which dirty filter a writer uses (R285). -/
def filterKey (w : Writer) : Option Nat :=
  match w with
  | .core c _ _ => some (Config.clusterOf c)
  | .job c _ _ => some (Config.clusterOf c)
  | _ => none

def cluster (s : State) (k : Nat) : Cluster := mget Cluster.empty s.clusters k
def setCluster (s : State) (k : Nat) (f : Cluster → Cluster) : State :=
  { s with clusters := mput Cluster.empty s.clusters k (f (cluster s k)) }

/-- Keep the newest 256 granules of a filter. -/
def filterAdd (l : List Nat) (n : Nat) : List Nat := (l ++ [n]).drop (l.length + 1 - 256)

/-- Zero one refresh block: array, poison, publish states (R296). -/
def zeroBlock (d : Dram) (k : Nat) : Dram :=
  let hit (g : Nat) : Bool := gBlock g == k
  { d with mem := d.mem.filter (fun e => !hit (e.1 / 32)), poi := d.poi.filter (fun e => !hit e.1),
           pub := d.pub.filter (fun e => !hit e.1), wq := d.wq.filter (fun e => !hit (e.loc / 32)) }

/-- Blocks of a stretch of device memory that are not live are live from now on, as zeros (R296). (DEDUCED, log entry 80.) -/
def reviveRange (s : State) (pa len : Nat) : State :=
  s.dram.elided.foldl (fun s e =>
    if e.2 && anyBelow (len / 32 + 1) (fun i => gBlock (atomOf s (pa + 32 * i)) == e.1) then
      onDram s (fun d => { zeroBlock d e.1 with elided := mput false d.elided e.1 false })
    else s) s

/-- A controller changes one byte: the write is accepted, and banked in its turn (R241, R285). -/
def acceptByte (s : State) (loc : Nat) (f : Byte → Byte) : State :=
  onDram s (fun d => { d with wq := d.wq ++ [⟨loc, [f (dByte d loc)], .device, d.wqNext, baseNow s⟩], wqNext := d.wqNext + 1 })

/-- Record a write to a granule in the dirty bitmap, unless a filter holds it (R285). -/
def setDirty (s : State) (w : Writer) (pa : Nat) : State :=
  if !s.host.dirtybase.getLsbD 0 then s
  else
    let n := pa / 2 ^ 18
    let hc := gHc (atomOf s pa)
    let known := match filterKey w with
      | some k => (cluster s k).filter.contains n
      | none => (mget [] s.dram.filters hc).contains n
    if known then s
    else
      let a := (s.host.dirtybase.extractLsb' 18 21).toNat * 2 ^ 18 + n / 8
      let l := locOf s a
      let s := acceptByte (reviveRange s a 1) l (fun b => b ||| BitVec.ofNat 8 (2 ^ (n % 8)))
      match filterKey w with
      | some k => setCluster s k (fun c => { c with filter := filterAdd c.filter n })
      | none => onDram s (fun d => { d with filters := mput [] d.filters hc (filterAdd (mget [] d.filters hc) n) })

/-- The publish state of the line of a physical address, kept with its lower atom (R264). -/
def lineKey (s : State) (pa : Nat) : Nat := atomOf s (pa / 64 * 64)
def lineState (s : State) (pa : Nat) : BitVec 2 := mget 0 s.dram.pub (lineKey s pa)
def setLine (s : State) (pa : Nat) (v : BitVec 2) : State :=
  onDram s (fun d => { d with pub := mput 0 d.pub (lineKey s pa) v })

/-- Do two places share a byte over their lengths? -/
def placesMeet (p : Place) (n : Nat) (q : Place) (m : Nat) : Bool :=
  let meet (a b : Nat) : Bool := decide (a < b + m) && decide (b < a + n)
  match p, q with
  | .dmem a, .dmem b => meet a b
  | .sys a _, .sys b _ => meet a b
  | _, _ => false

/-- Line `i` of a CPUB's range, as its owner keeps it, unless a CPUB.W has withdrawn it. -/
def cpubLine (s : State) (node : Option Nat) (j : Cpub) (i : Nat) : Option Nat :=
  match j.pl with
  | .dmem pa =>
    if j.gone.any (fun g => placesMeet (.dmem (pa + 64 * i)) 64 g.1 g.2) then none else some (lineKey s (redirect s node (pa + 64 * i)))
  | _ => none

/-- A CPUB in progress covers the line (R264). -/
def cpubCovers (s : State) (node : Option Nat) (j : Cpub) (key : Nat) : Bool :=
  anyBelow (j.len / 64) (fun i => cpubLine s node j i == some key)

/-- The core and colour of a writer whose writes fences order. -/
def writerCore (w : Writer) : Option (Nat × BitVec 3) :=
  match w with
  | .core c _ col => some (c, col)
  | .job c col _ => some (c, col)
  | .fabric c col _ => some (c, col)
  | _ => none

/-- Is the write one that a CPUB.X in progress on the line awaits (R264): of its core, in a colour of its mask? -/
def publishesWith (s : State) (w : Writer) (pa : Nat) : Bool :=
  match writerCore w with
  | none => false
  | some (c, col) => match (coreAt s c).cpub with
    | some j => j.mask.getLsbD col.toNat && cpubCovers s (coreAt s c).node j (lineKey s pa)
    | none => false

/-- A write performs at a line (R264). -/
def unpublish (s : State) (w : Writer) (pa : Nat) : State :=
  if lineState s pa == 1 && publishesWith s w pa then s else setLine s pa 0

/-- How a write of `n` bytes leaves an atom's poison (R36): a carried poison sets it; otherwise a write of all 32 bytes clears it. -/
def poiAfter (old carry : Bool) (n : Nat) : Bool := carry || (old && decide (n < 32))

/-- A device-memory write within one atom is accepted: dirty bit first, then metadata, then the queue (R241, R264,
R285). -/
def acceptAtom (s : State) (w : Writer) (pa : Nat) (bs : List Byte) (carry : Bool) : State :=
  let s := unpublish (setDirty s w pa) w pa
  let g := atomOf s pa
  onDram s (fun d =>
    { d with poi := mput false d.poi g (poiAfter (mget false d.poi g) carry bs.length),
             wq := d.wq ++ [⟨32 * g + pa % 32, bs, w, d.wqNext, baseNow s⟩],
             wqNext := d.wqNext + 1 })

/-- The bytes of `[a, a + n)` cut at atom boundaries: address and bytes of each part. -/
def cutAtoms (a : Nat) : List Byte → List (Nat × List Byte)
  | [] => []
  | b :: t =>
    match cutAtoms (a + 1) t with
    | (a', bs) :: r => if (a + 1) % 32 = 0 then (a, [b]) :: (a', bs) :: r else (a, b :: bs) :: r
    | [] => [(a, [b])]

/-- A slice write within one atom (R36). -/
def sliceAtom (s : State) (c off : Nat) (bs : List Byte) (carry : Bool) : State :=
  let k := c * 2 ^ 15 + off / 32
  { s with slices := putBytes s.slices (c * 2 ^ 20 + off) bs,
           spoi := mput false s.spoi k (poiAfter (mget false s.spoi k) carry bs.length) }

/-- A write to an instruction-store half leaves that half UNPUB (R267). (DEDUCED, log entry 51.) -/
def istWrite (s : State) (c off : Nat) (bs : List Byte) : State :=
  let s := { s with ists := putBytes s.ists (c * 2 ^ 15 + off) bs }
  let lo := decide (off < 2 ^ 14)
  let hi := decide (2 ^ 14 < off + bs.length)
  onCore s c (fun k => { k with isA := k.isA && !lo, isB := k.isB && !hi })

/-! ### Host ports (R259, R411) -/

/-- The host port that carries a host address (R411). -/
def hostPortOf (s : State) (ha : Nat) : Nat :=
  if s.host.hp1base.toNat ≤ ha ∧ ha < s.host.hp1limit.toNat then 1 else 0

/-- Colours of writes emitted on a port since its last flush (R259). -/
def markPosted (m : SMap (BitVec 8)) (port : Nat) (cols : BitVec 8) : SMap (BitVec 8) := mput 0 m port (mget 0 m port ||| cols)

/-- Before the first write after a release at SYSTEM leaves on the port of `ha`, every other port that emitted a write of its colours
since its last flush completes a zero-length read (R247, R259). (DEDUCED, log entry 108.) -/
def flushFor (s : State) (w : Writer) (ha : Nat) : State :=
  match writerCore w with
  | none => s
  | some (c, _) =>
    let k := coreAt s c
    let m := k.mem.foldl (fun m e => m ||| (match e.op with
      | .rel 5 x _ | .full 5 x _ => x
      | _ => 0)) k.flush
    if m = 0 then s
    else
      let F := hostPortOf s ha
      setCore (onHost s (fun h => { h with posted := h.posted.filter (fun e => e.1 == F || e.2 &&& m == 0) })) c { k with flush := 0 }

/-- A write to a host line leaves on its port (R258, R259): one on a non-coherent path is posted. -/
def postWrite (s : State) (w : Writer) (ha mt : Nat) (bs : List Byte) : State :=
  let s := flushFor s w ha
  onHost s (fun h => { h with
    sys := putBytes h.sys ha bs,
    posted := match writerCore w with
      | some (_, col) => if mt = 1 ∨ mt = 2 then markPosted h.posted (hostPortOf s ha) (BitVec.ofNat 8 (2 ^ col.toNat)) else h.posted
      | none => h.posted })

/-- Write bytes at a place; `carry` marks bytes taken from poisoned data (R36). -/
def writePlace (s : State) (w : Writer) (node : Option Nat) (p : Place) (bs : List Byte) (carry : Bool) : State :=
  match p with
  | .slice c o => (cutAtoms o bs).foldl (fun s e => sliceAtom s c e.1 e.2 carry) s
  | .ist c o => istWrite s c o bs
  | .dmem pa => (cutAtoms pa bs).foldl (fun s e => acceptAtom s w (redirect s node e.1) e.2 carry) s
  | .sys ha mt => postWrite s w ha mt bs

/-- The place `n` bytes further on. -/
def Place.add (p : Place) (n : Nat) : Place :=
  match p with
  | .slice c o => .slice c (o + n)
  | .ist c o => .ist c (o + n)
  | .dmem a => .dmem (a + n)
  | .sys a m => .sys (a + n) m

/-- The atom a place's byte lies in, as a key: accesses with equal keys are ordered (R242, R243). -/
def Place.atomKey (p : Place) : Nat × Nat :=
  match p with
  | .slice c o => (0, (c * 2 ^ 20 + o) / 32)
  | .ist c o => (1, (c * 2 ^ 15 + o) / 32)
  | .dmem a => (2, a / 32)
  | .sys a _ => (3, a / 32)

/-- The atoms of a piece. -/
def pieceKeys (p : Piece) : List (Nat × Nat) := ((List.range p.len).map (fun i => (p.pl.add i).atomKey)).eraseDups

/-- Do two places have a byte in one atom in common? -/
def overlaps (p q : Piece) : Bool := (pieceKeys p).any (fun k => (pieceKeys q).contains k)

/-- The bank of a device-memory place has an engine lease open: no main-die access is served there (R290). -/
def leased (s : State) (p : Place) : Bool :=
  match p with
  | .dmem pa =>
    match (bank s.dram (gBank (atomOf s pa))).row with
    | .engine _ => true
    | _ => false
  | _ => false

/-- An address lies in an interleave region (R274). -/
def inRegion (x : Option Region) (pa : Nat) : Bool := x.any (fun g => pa / 2 ^ g.k == g.base / 2 ^ g.k)

/-- A commit in progress moves the address: new accesses to it stall at their issuers (R278). -/
def remapped (s : State) (node : Option Nat) (p : Place) : Bool :=
  match p with
  | .dmem pa => s.dram.stage.any (fun e => match e.2.pend with
    | some x => inRegion x (redirect s node pa) || inRegion (mget none s.dram.regions e.1) (redirect s node pa)
    | none => false)
  | _ => false

/-- The block of a device-memory place is being revived: other accesses to it wait (R296). -/
def beingRevived (s : State) (node : Option Nat) (p : Place) : Bool :=
  match p with
  | .dmem pa => s.dram.reviving.contains (gBlock (atomOf s (redirect s node pa)))
  | _ => false

/-- The block of a device-memory place is not live, so that a write must first revive it (R296). -/
def needsRevival (s : State) (node : Option Nat) (p : Place) : Option Nat :=
  match p with
  | .dmem pa => let g := atomOf s (redirect s node pa); if live s.dram g then none else some (gBlock g)
  | _ => none

/-- May queue entry `k` be banked now: is it the oldest of its bank (R242, R289)? -/
def bankable (d : Dram) (k : Nat) : Bool :=
  match d.wq[k]? with
  | some e => !(d.wq.take k).any (fun o => gBank (o.loc / 32) == gBank (e.loc / 32))
  | none => false

/-- Bank every queued write, oldest first. -/
def bankAll (s : State) : State := (List.range s.dram.wq.length).foldl (fun s _ => bankEntry s 0) s

end Sys2Proof.Machine
end

