-- ==== Sys2Proof/Machine/Order.lean ====
section
/-! DEFINITION. Order.lean: the memory list of a core: what its accesses wait for (R243) and what fences hold (R247-R250). -/

namespace Sys2Proof.Machine
open Sys2Proof

/-! ### The memory list: order and fences (R243-R249) -/

def MemOp.pieces : MemOp → List Piece
  | .load ps _ _ _ => ps
  | .store p _ _ => [p]
  | .atom _ _ p _ _ _ _ => [p]
  | .spill p _ => [p]
  | .fab _ _ _ ps _ => ps
  | _ => []

/-- Does the entry still have to read (R247)? -/
def MemEnt.reads (e : MemEnt) : Bool :=
  !e.acc && (match e.op with
    | .load .. | .atom .. | .launch .. | .ckpt .. => true
    | .fab rd _ _ _ _ => rd
    | _ => false)

/-- Does the entry write memory? -/
def MemEnt.writes (e : MemEnt) : Bool :=
  match e.op with
  | .store .. | .atom .. | .launch .. | .gathered | .spill .. => true
  | .fab _ wr _ _ _ => wr
  | _ => false

/-- A write that takes the colour of its bundle (R55): a spill carries none (R100). -/
def MemEnt.coloured (e : MemEnt) : Bool := e.writes && (match e.op with
  | .spill .. => false
  | _ => true)

/-- An entry that reads and writes nothing: a load, a descriptor read or a fabric read (R243, item 1). -/
def MemEnt.pureRead (e : MemEnt) : Bool := e.reads && !e.writes

/-- Is the owner of a place within a scope of core `c` (R239, R240)? -/
def within (c : Nat) (scope : Nat) (p : Place) : Bool :=
  match p with
  | .slice d _ => scope ≥ 3 || d == c || (scope ≥ 1 && Config.clusterOf d == Config.clusterOf c) ||
      (scope == 2 && d / 108 == c / 108)
  | .ist d _ => d == c
  | .dmem _ => scope ≥ 3
  | .sys _ _ => scope ≥ 5

/-- Does an earlier write still hold back a release at `scope` (R247)? An accepted write does from DEVICE up. -/
def holdsBack (c scope : Nat) (mask : BitVec 8) (e : MemEnt) : Bool :=
  e.coloured && mask.getLsbD e.colour.toNat && (!e.acc || scope ≥ 3) &&
    (match e.op with
     | .fab .. => scope ≥ 4
     | .launch .. => true
     | op => op.pieces.any (fun p => within c scope p.pl))

/-- Writes of the core's engine jobs, accepted and not banked, among the first `upto` the controllers took (R247). (DEDUCED, log entry 32.) -/
def jobsUnbanked (s : State) (c upto : Nat) (mask : BitVec 8) : Bool :=
  s.dram.wq.any (fun e => decide (e.seq < upto) && (match e.by_ with
    | .job d col _ => d == c && mask.getLsbD col.toNat
    | _ => false))

/-- Write-combined stores of a masked colour not yet emitted (R249, R259). (DEDUCED, log entry 38.) -/
def sysUnflushed (s : State) (mask : BitVec 8) : Bool :=
  s.host.wcb.any (fun b => b.colours &&& mask != 0)

/-- Colours of a release at SYSTEM (R247, R259). -/
def MemOp.sysMask : MemOp → BitVec 8
  | .rel 5 m _ | .full 5 m _ => m
  | _ => 0

/-- Is a fence satisfied, given the entries before it (R247)? -/
def fenceOk (s : State) (c : Nat) (before : List MemEnt) (op : MemOp) : Bool :=
  let loads := before.any (fun e => e.reads)
  let rel (scope : Nat) (mask : BitVec 8) (upto : Nat) : Bool :=
    !loads && !before.any (holdsBack c scope mask) && !(scope ≥ 3 && jobsUnbanked s c upto mask) &&
      !(scope == 5 && sysUnflushed s mask)
  match op with
  | .rel scope mask upto => rel scope mask upto
  | .acq _ => !loads
  | .full scope mask upto => rel scope mask upto
  | .drain mask => !before.any (fun e => e.coloured && !e.acc && mask.getLsbD e.colour.toNat) && !sysUnflushed s mask
  | _ => true

def MemOp.isFence : MemOp → Bool
  | .rel .. | .acq _ | .full .. | .drain _ => true
  | _ => false

/-- Drop every fence that is satisfied: `seen` holds the entries before. -/
def pruneGo (s : State) (c : Nat) : List MemEnt → List MemEnt → List MemEnt
  | seen, [] => seen
  | seen, e :: t =>
    if e.op.isFence && fenceOk s c (seen.filter (fun o => !o.op.isFence)) e.op then pruneGo s c seen t
    else pruneGo s c (seen ++ [e]) t

/-- The core without its satisfied fences. A release at SYSTEM leaves its colours for the flag that it orders (R259). -/
def pruned (s : State) (c : Nat) (k : Core) : Core :=
  let l := pruneGo s c [] k.mem
  let gone := k.mem.filter (fun e => e.op.isFence && !l.contains e)
  { k with mem := l, flush := gone.foldl (fun m e => m ||| e.op.sysMask) k.flush }

/-- An ACQ or FULL of an earlier bundle still holds back a bundle that loads, starts a job, or writes in this colour
(R248). -/
def acqHolds (k : Core) (col : BitVec 3) (writeOnly : Bool) : Bool :=
  k.mem.any (fun e => match e.op with
    | .acq m => !writeOnly || m.getLsbD col.toNat
    | .full .. => true
    | _ => false)

/-- A DRAIN of an earlier bundle still holds back every bundle (R249). -/
def drainHolds (k : Core) : Bool := k.mem.any (fun e => match e.op with
  | .drain _ => true
  | _ => false)

/-- L-slot writes issued and not performed (R244). -/
def writesOut (k : Core) : Nat :=
  ((k.mem.filter (fun e => e.coloured && !e.acc && (match e.op with
    | .atom _ _ _ _ _ d _ => d.slot == 3
    | .launch .. => false
    | .fab _ _ mc _ _ => !mc
    | _ => true))).map (·.at_)).eraseDups.length

/-- Own-slice or own-instruction-store entries still in the list: accesses there perform in bundle order (R243). -/
def ownPending (c : Nat) (k : Core) : Bool :=
  k.mem.any (fun e => !e.acc && e.op.pieces.any (fun p => match p.pl with
    | .slice d _ => d == c
    | .ist d _ => d == c
    | _ => false))

def isOwn (c : Nat) (p : Place) : Bool :=
  match p with
  | .slice d _ => d == c
  | .ist d _ => d == c
  | _ => false

/-- An acquire of the bundle at CYCLE `n`: the writes of its other slots come after it (R247, R250). -/
def MemEnt.ownAcq (e : MemEnt) (n : Nat) : Bool := e.at_ == n && (match e.op with
  | .acq _ => true
  | _ => false)

/-- May entry `id` of core `c` perform now: R243 with every fence before it (R247)? -/
def mayPerform (s : State) (c id : Nat) : Bool :=
  let l := (coreAt s c).mem
  let before := l.filter (fun e => decide (e.id < id))
  match l.find? (fun e => e.id == id) with
  | none => false
  | some e =>
    let clash (o : MemEnt) : Bool := !o.acc && o.op.pieces.any (fun p => e.op.pieces.any (fun q => overlaps p q))
    let own (o : MemEnt) : Bool :=
      !o.acc && o.op.pieces.any (fun p => isOwn c p.pl) && e.op.pieces.any (fun p => isOwn c p.pl)
    let sameBundle (o : MemEnt) : Bool := o.at_ == e.at_ && o.pureRead && e.writes
    let fence (o : MemEnt) : Bool := o.op.isFence && (decide (o.id < id) || (e.writes && o.ownAcq e.at_)) &&
      !fenceOk s c (l.filter (fun b => decide (b.id < o.id) && b.id != id && !b.op.isFence)) o.op &&
      (match o.op with
       | .rel .. => e.writes || (match e.op with
         | .ckpt .. => true
         | _ => false)
       | .acq m => e.reads || !e.coloured || m.getLsbD e.colour.toNat
       | .full .. => true
       | _ => false)
    !e.acc && !before.any (fun o => clash o || own o || sameBundle o) && !l.any fence

/-- The fences that `on` names let an engine job of the core act: read (R248), or write (R247). -/
def fencesLet (s : State) (c : Nat) (on : MemEnt → Bool) (col : BitVec 3) (write : Bool) : Bool :=
  let l := (coreAt s c).mem
  !l.any (fun o => o.op.isFence && on o &&
    !fenceOk s c (l.filter (fun b => decide (b.id < o.id) && !b.op.isFence)) o.op &&
    (match o.op with
     | .rel .. => write
     | .acq m => !write || m.getLsbD col.toNat
     | .full .. => true
     | _ => false))

/-- The fences before memory-list id `after` let a job of the core act. -/
def jobMay (s : State) (c after : Nat) (col : BitVec 3) (write : Bool) : Bool := fencesLet s c (fun o => decide (o.id < after)) col write

/-- The same for a matrix job issued at CYCLE `n`, whose own bundle's fences count (R247, R250). -/
def mxMay (s : State) (c after n : Nat) (col : BitVec 3) (write : Bool) : Bool :=
  fencesLet s c (fun o => decide (o.id < after) || o.at_ == n) col write

end Sys2Proof.Machine
end

