-- ==== Sys2Proof/Machine/Xlate.lean ====
section
/-! DEFINITION. Xlate.lean: the windows of R187 and the five-level translation of R280-R283. -/

namespace Sys2Proof.Machine
open Sys2Proof

/-- What an access does (R283); `rw` reads and writes: an atomic, an accumulating drain. -/
inductive Acc where
  | rd | wr | rw | ex
deriving DecidableEq, Repr

def Acc.writes (k : Acc) : Bool := k == .wr || k == .rw

def nodeOf (s : State) (id : Nat) : Option Node := s.sched.nodes.find? (fun n => n.id == id)
def onNode (s : State) (id : Nat) (f : Node → Node) : State :=
  onSched s (fun h => { h with nodes := h.nodes.map (fun n => if n.id == id then f n else n) })

/-- The cores of a band by core number (R89); a core with no node is its own band. -/
def bandOf (s : State) (node : Option Nat) : List Nat :=
  match node.bind (nodeOf s) with
  | some n => n.cores
  | none => []

/-- What the windows of R187 say of an address. -/
inductive Win where
  | at_ (p : Place)
  | refused
  | virt
deriving DecidableEq, Repr

def sliceWin : Nat := 0xFF0000000000
def istWin : Nat := 0xFE0000000000
def va48 (a : Word) : Nat := a.toNat % 2 ^ 48

/-- R187 for an address of core `c` of a band; bits [63:48] are ignored. -/
def window (s : State) (node : Option Nat) (c : Nat) (va : Nat) : Win :=
  if sliceWin ≤ va ∧ va < sliceWin + 2 ^ 32 then
    match (bandOf s node)[(va - sliceWin) / 2 ^ 20]? with
    | some p => .at_ (.slice p (va % 2 ^ 20))
    | none => .refused
  else if istWin ≤ va ∧ va < istWin + 2 ^ 32 then
    if va - istWin < 2 ^ 15 then .at_ (.ist c (va - istWin)) else .refused
  else .virt

/-- The levels of the table: level, lowest bit of its index, bits of its index (R280). -/
def levels : List (Nat × Nat × Nat) := [(0, 39, 9), (1, 30, 9), (2, 26, 4), (3, 21, 5), (4, 18, 3)]
def pageBits (level : Nat) : Nat := if level = 1 then 30 else if level = 2 then 26 else if level = 3 then 21 else 18

/-- A 64-bit read by physical address, with its poison. -/
def phys64 (s : State) (pa : Nat) : Word × Bool :=
  let r := dRead s none pa 8 true
  (BitVec.ofNat 64 (leNat r.1), r.2)

/-- R281's format of a leaf at a level. -/
def leafOk (e : Word) (level : Nat) : Bool :=
  let pa := (e.extractLsb' 18 34).toNat
  e.extractLsb' 52 12 == 0 && e.extractLsb' 11 7 == 0 && decide (pa % 2 ^ (pageBits level - 18) = 0) &&
    (e.getLsbD 7 || (decide (pa < 2 ^ 21) && e.extractLsb' 8 2 == 0))

/-- What one load of a walk finds: a cause, a leaf, or the next table. -/
inductive WalkStep where
  | stop (cause : Nat)
  | leaf (e : Word)
  | down (base : Nat)
deriving DecidableEq, Repr

/-- The entry that a walk of an address reads in a table, by level (R280). -/
def walkAt (va base : Nat) (lev : Nat × Nat × Nat) : Nat := base + 8 * (va / 2 ^ lev.2.1 % 2 ^ lev.2.2)

/-- One load of a walk (R280-R282). An entry that is not valid is not looked at further. (DESIGN CHOICE, log entry 130.) -/
def walkLoad (s : State) (va base : Nat) (lev : Nat × Nat × Nat) : WalkStep :=
  let r := phys64 s (walkAt va base lev)
  let e := r.1
  if r.2 then .stop 0x1B
  else if !e.getLsbD 0 then .stop 0x18
  else if e.getLsbD 1 then (if lev.1 = 0 || !leafOk e lev.1 then .stop 0x1A else .leaf e)
  else if lev.1 = 4 || e.extractLsb' 39 25 != 0 || e.extractLsb' 2 10 != 0 then .stop 0x1A
  else .down ((e.extractLsb' 12 27).toNat * 2 ^ 12)

/-- A leaf, or the cause and the level at which the walk stopped. -/
def walkGo (s : State) (va : Nat) : List (Nat × Nat × Nat) → Nat → Except (Nat × Nat) (Nat × Word)
  | [], _ => .error (0x1A, 4)
  | lev :: rest, base =>
    match walkLoad s va base lev with
    | .stop cause => .error (cause, lev.1)
    | .leaf e => .ok (lev.1, e)
    | .down base => walkGo s va rest base

/-- The device holds the entry of a context, and where it stands (R330). -/
def ctxHeld (s : State) (ctx : BitVec 16) : Bool := s.sched.ctxCache.any (fun e => e.1 == ctx.toNat)
def ctxAddr (s : State) (ctx : BitVec 16) : Nat := (s.host.ctxbase.extractLsb' 22 17).toNat * 2 ^ 22 + 64 * ctx.toNat

/-- A context's ROOT word and CEIL as the device holds them, reading the entry at first use (R330). -/
def ctxEntry (s : State) (ctx : BitVec 16) : Word × Byte :=
  match s.sched.ctxCache.find? (fun e => e.1 == ctx.toNat) with
  | some (_, r, c) => (r, c)
  | none =>
    let a := ctxAddr s ctx
    ((phys64 s a).1, (dRead s none (a + 8) 1 true).1.headD 0)

def ctxLoad (s : State) (ctx : BitVec 16) : State :=
  if ctxHeld s ctx then s
  else
    let e := ctxEntry s ctx
    onSched s (fun h => { h with ctxCache := h.ctxCache ++ [(ctx.toNat, e.1, e.2)] })

def ctxValid (s : State) (ctx : BitVec 16) : Bool := (ctxEntry s ctx).1.getLsbD 0

/-- The walk of an address in a context (R280). -/
def walk (s : State) (ctx : BitVec 16) (va : Nat) : Except (Nat × Nat) (Nat × Word) :=
  let root := (ctxEntry s ctx).1
  if !root.getLsbD 0 then .error (0x18, 0) else walkGo s va levels ((root.extractLsb' 12 27).toNat * 2 ^ 12)

def tlbEnt (ctx : BitVec 16) (va level : Nat) (leaf : Word) : TlbEnt :=
  ⟨ctx, va / 2 ^ pageBits level * 2 ^ pageBits level, level, leaf⟩
def tlbHit (ctx : BitVec 16) (va : Nat) (e : TlbEnt) : Bool :=
  e.ctx == ctx && va / 2 ^ pageBits e.level == e.va / 2 ^ pageBits e.level
def tlbFind (l : List TlbEnt) (ctx : BitVec 16) (va : Nat) : Option TlbEnt := l.find? (tlbHit ctx va)

/-- Where a leaf takes an address. -/
def leafPlace (e : TlbEnt) (va : Nat) : Place :=
  let a := (e.leaf.extractLsb' 18 34).toNat * 2 ^ 18 + va % 2 ^ pageBits e.level
  if e.leaf.getLsbD 7 then .sys a (e.leaf.extractLsb' 8 2).toNat else .dmem a

/-- Permissions of a leaf (R281, R283), then the page state of a write (R263): the cause that refuses the access. (DEDUCED, log entry 30.) -/
def leafCheck (leaf : Word) (k : Acc) (handler : Bool) : Option Nat :=
  let ok := match k with
    | .rd => leaf.getLsbD 2
    | .wr => leaf.getLsbD 3
    | .rw => leaf.getLsbD 2 && leaf.getLsbD 3
    | .ex => leaf.getLsbD 4
  if !ok || (leaf.getLsbD 5 && !handler) then some 0x19
  else if k.writes && leaf.getLsbD 10 then some 0x37 else none

/-- TREC.INFO of a translation cause (R283); WRITE_EXECUTABLE has none (R262). (DEDUCED, log entry 30.) -/
def xlInfo (cause level : Nat) (k : Acc) : Nat :=
  if cause = 0x37 then 0 else level + (if k.writes then 16 else 0) + (if k == .ex then 32 else 0)

/-- How an address of a core translates now. -/
inductive Xl where
  | ok (p : Place) (disc : Bool) (e : Option TlbEnt)
  | fault (cause info : Nat)
  | miss
deriving DecidableEq, Repr

/-- Translation by a core: its TLBs, or the fault a walk for it delivered (R282). A leaf stands in the TLB before its permissions are
looked at, so that every permission fault has level 5. (DESIGN CHOICE, log entry 131.) -/
def xlCore (s : State) (c : Nat) (k : Core) (va : Nat) (acc : Acc) : Xl :=
  match window s k.node c va with
  | .at_ p => .ok p false none
  | .refused => .fault 0x11 0
  | .virt =>
    match k.xlFault with
    | some (v, cause, level) =>
      if v = va / 2 ^ 18 then .fault cause (xlInfo cause level acc) else lookup
    | none => lookup
where
  lookup : Xl :=
    match (tlbFind k.tlb k.csr.ctxid va).orElse (fun _ => tlbFind (cluster s (Config.clusterOf c)).tlb k.csr.ctxid va) with
    | some e =>
      match leafCheck e.leaf acc k.level with
      | some cause => .fault cause (xlInfo cause 5 acc)
      | none => .ok (leafPlace e va) (e.leaf.getLsbD 6) (some e)
    | none => .miss

/-- Translation by job `j` of an engine of core `c` (R207, R225, R282, R283): through the cluster's TLB, or the fault that a walk for
it delivered. (DEDUCED, log entry 39.) -/
def xlEngine (s : State) (c j : Nat) (handler : Bool) (va : Nat) (acc : Acc) : Xl :=
  let k := coreAt s c
  match window s k.node c va with
  | .at_ p => .ok p false none
  | .refused => .fault 0x11 0
  | .virt =>
    match k.engFault.find? (fun e => e.1 == j && e.2.1 == va / 2 ^ 18) with
    | some e => .fault e.2.2 0
    | none =>
      match tlbFind (cluster s (Config.clusterOf c)).tlb k.csr.ctxid va with
      | none => .miss
      | some e => match leafCheck e.leaf acc handler with
        | some cause => .fault cause 0
        | none => .ok (leafPlace e va) (e.leaf.getLsbD 6) (some e)

/-- Translation at user level in a context, with no window (R335, R361): the scheduler's and the ingress's. Their walks have no walker
of a cluster, and end at once, or by their time-out where memory gives no answer. (DESIGN CHOICE, log entry 121.) -/
def xlCtx (s : State) (tlb : List TlbEnt) (ctx : BitVec 16) (va : Nat) (acc : Acc) : Except Nat (Place × Bool × TlbEnt) :=
  let r : Except Nat TlbEnt := match tlbFind tlb ctx va with
    | some e => .ok e
    | none =>
      if s.sched.walkHang then .error 0x1C
      else match walk s ctx va with
        | .ok (l, leaf) => .ok (tlbEnt ctx va l leaf)
        | .error (cause, _) => .error cause
  match r with
  | .error cause => .error cause
  | .ok e => match leafCheck e.leaf acc false with
    | some cause => .error cause
    | none => .ok (leafPlace e va, e.leaf.getLsbD 6, e)

/-- The entries that a walk of an address reads, in order (R280, R282). -/
def walkReads (s : State) (va : Nat) : List (Nat × Nat × Nat) → Nat → List Piece
  | [], _ => []
  | lev :: rest, base =>
    ⟨.dmem (walkAt va base lev), 8, true⟩ :: (match walkLoad s va base lev with
      | .down base => walkReads s va rest base
      | _ => [])

/-- What `xlCtx` reads for an address: its context's entry at first use (R330), and the tables where no translation is held. -/
def xlReads (s : State) (tlb : List TlbEnt) (ctx : BitVec 16) (va : Nat) : List Piece :=
  if (tlbFind tlb ctx va).isSome then []
  else
    let root := (ctxEntry s ctx).1
    (if ctxHeld s ctx then [] else [⟨.dmem (ctxAddr s ctx), 64, true⟩]) ++
      (if !root.getLsbD 0 || s.sched.walkHang then [] else walkReads s va levels ((root.extractLsb' 12 27).toNat * 2 ^ 12))

/-- Bytes of a virtual range read for an engine of a core: page by page in 256 KiB steps, first fault first. -/
def pagesGo (va : Nat) : Nat → Nat → List (Nat × Nat)
  | 0, _ => []
  | _, 0 => []
  | fuel + 1, n =>
    let room := 2 ^ 18 - va % 2 ^ 18
    let k := min n room
    (va, k) :: pagesGo (va + k) fuel (n - k)

/-- A virtual range as parts that each lie within one granule. -/
def pages (va n : Nat) : List (Nat × Nat) := pagesGo va (n / 2 ^ 18 + 2) n

/-- The pieces of a virtual range in a context, at user level. -/
def ctxPieces (s : State) (ctx : BitVec 16) (va n : Nat) (acc : Acc) : Except Nat (List Piece) :=
  (pages va n).mapM (fun e => match xlCtx s [] ctx (e.1 % 2 ^ 48) acc with
    | .ok (p, d, _) => .ok ⟨p, e.2, d⟩
    | .error x => .error x)

/-- The walks of a virtual range in a context. -/
def ctxReads (s : State) (ctx : BitVec 16) (va n : Nat) : List Piece :=
  (pages va n).flatMap (fun e => xlReads s [] ctx (e.1 % 2 ^ 48))

/-- Write bytes over pieces in order. -/
def writePieces (s : State) (w : Writer) (node : Option Nat) : List Piece → List Byte → Bool → State
  | [], _, _ => s
  | p :: ps, bs, carry => writePieces (writePlace s w node p.pl (bs.take p.len) carry) w node ps (bs.drop p.len) carry

end Sys2Proof.Machine
end

