-- ==== Sys2Proof/Machine/Prio.lean ====
section
/-! DEFINITION. Prio.lean: who goes first and where work fits: node descriptors (R335), effective priority (R339, R350),
readiness (R338), free cores and bookings (R340-R343). -/

namespace Sys2Proof.Machine
open Sys2Proof

/-- Fields of a node descriptor (R335). -/
def dB (d : List Byte) (i : Nat) : Nat := (nth 0 d i).toNat
def dN (d : List Byte) (i n : Nat) : Nat := leNat ((d.drop i).take n)
def d64 (d : List Byte) (i : Nat) : Nat := dN d i 8
def nKind (n : Node) : Nat := dB n.desc 0x40
def nGang (n : Node) : Nat := max 1 (dB n.desc 0x41)
def nGangs (n : Node) : Nat := dB n.desc 0x42
def nBook (n : Node) : Option Nat := if 128 ≤ dB n.desc 0x44 then some (dB n.desc 0x44 % 32) else none
def nRetry (n : Node) : Bool := dB n.desc 0x45 % 2 == 1
def nGlast (n : Node) : Bool := dB n.desc 0x45 / 2 % 2 == 1
def nNotify (n : Node) (i : Nat) : Bool := dB n.desc 0x46 / 2 ^ i % 2 == 1
def nGbarn (n : Node) : Nat := dB n.desc 0x48
def nIvec (n : Node) : Nat := dN n.desc 0x4A 2
def nWdog (n : Node) : Nat := dN n.desc 0x4C 4
def nSmask (n : Node) : List Nat := (List.range 512).filter (fun i => dN n.desc 0x80 64 / 2 ^ i % 2 == 1)

def queueAt (s : State) (q : Nat) : Queue := mget Queue.reset s.sched.queues q
def setQueue (s : State) (q : Nat) (f : Queue → Queue) : State :=
  onSched s (fun h => { h with queues := mput Queue.reset h.queues q (f (queueAt s q)) })
def bookingAt (s : State) (b : Nat) : Booking := mget Booking.reset s.sched.bookings b
def setBooking (s : State) (b : Nat) (f : Booking → Booking) : State :=
  onSched s (fun h => { h with bookings := mput Booking.reset h.bookings b (f (bookingAt s b)) })
def stewardAt (s : State) (n : Nat) : Steward := mget Steward.idle s.stewards n
def setSteward (s : State) (n : Nat) (f : Steward → Steward) : State :=
  { s with stewards := mput Steward.idle s.stewards n (f (stewardAt s n)) }

def isDone (n : Node) : Bool :=
  match n.st with
  | .done .. => true
  | _ => false

/-- The ceiling of a node's aging (R339). (DEDUCED, log entry 64.) -/
def ceilOf (s : State) (n : Node) : Nat :=
  match nBook n with
  | some b => (bookingAt s b).ceil.toNat
  | none => (ctxEntry s n.ctx).2.toNat % 64

/-- Nodes with a core that waits at SWAIT.INH for a lock held by the context: parked, pre-empted there, or not yet returned from it
(R350). -/
def lockWaiters (s : State) (ctx : BitVec 16) : List Node :=
  let owns (o : Option Word) : Bool := match o with
    | some w => w.getLsbD 63 && w.extractLsb' 0 16 == ctx
    | none => false
  s.sched.nodes.filter (fun m =>
    m.cores.any (fun c => (coreAt s c).node == some m.id && ((match (coreAt s c).park with
      | some ⟨.swait _ _ _ o, _, _, _, _, _⟩ => owns o
      | _ => false) || owns (coreAt s c).owed)) ||
    ((m.st == .waiting || m.st == .preempted) && m.waits.any (fun w => match w.2.swait with
      | some (_, _, _, o) => owns o
      | none => false)))

/-- Effective priority (R339): base, aged, inherited (R350); the fuel bounds chains of locks. -/
def effGo (s : State) : Nat → Node → Nat
  | 0, n => max n.prio n.aged
  | f + 1, n => ((lockWaiters s n.ctx).map (effGo s f)).foldl max (max n.prio n.aged)
def effP (s : State) (n : Node) : Nat := effGo s s.sched.nodes.length n

/-- Do two footprints overlap with one of them writing (R338)? -/
def footClash (a b : List (Nat × Nat × Nat)) : Bool :=
  a.any (fun x => b.any (fun y => decide (x.1 < y.1 + y.2.1) && decide (y.1 < x.1 + x.2.1) && (x.2.2 ≥ 2 || y.2.2 ≥ 2)))

/-- Dependences not yet satisfied (R338). -/
def dependsOn (n m : Node) : Bool := m.queue == n.queue && decide (m.id < n.id) && m.ctx == n.ctx && footClash m.foot n.foot
def hasEdge (s : State) (n : Node) : Bool := s.sched.nodes.any (fun m => !isDone m && dependsOn n m)

/-- Waiting for a placement: captured, re-queued or pre-empted (R338, R341, R390). -/
def wantsPlace (n : Node) : Bool :=
  match n.st with
  | .captured | .preempted => true
  | _ => false
def ready (s : State) (n : Node) : Bool := wantsPlace n && !hasEdge s n

/-- Enabled bookings that hold a cluster. -/
def holders (s : State) (cl : Nat) : List Nat :=
  (List.range 32).filter (fun b => (bookingAt s b).en && (bookingAt s b).clus.getLsbD cl)

/-- Cores of a cluster that placements may use (R1, R122, R343): eight, the spare once it has taken the place of a retired one; a
cluster that has lost two is left out, but for a booking, which keeps the remaining ones. -/
def usableCores (s : State) (cl : Nat) : List Nat :=
  let all := (List.range 9).map (fun i => 9 * cl + i)
  let bad := all.filter (fun c => s.sched.coreBad.contains c)
  if 2 ≤ bad.length && (holders s cl).isEmpty then []
  else all.filter (fun c => !bad.contains c && (c % 9 != 8 || (mget none s.sched.spareUsed cl).isSome))

/-- Is a core free: usable, not held for test, cleared (or, where `soon`, about to be), with no work but that of the nodes `vic`? -/
def coreFree (s : State) (vic : List Nat) (soon : Bool) (c : Nat) : Bool :=
  (usableCores s (c / 9)).contains c && !s.sched.coreTest.contains c && (soon || !s.sched.coreClear.contains c) &&
    (match (coreAt s c).node with
     | none => true
     | some id => vic.contains id)

def freeBars (s : State) (vic : List Nat) (cl : Nat) : Nat :=
  16 - ((cluster s cl).bars.filter (fun b => !vic.contains b.node)).length

/-- May a node be placed in a cluster (R340)? (DEDUCED, log entry 65.) -/
def allowed (s : State) (n : Node) (cl : Nat) : Bool :=
  (holders s cl).all (fun b => nBook n == some b || decide ((bookingAt s b).level.toNat < effP s n))

/-- Gangs of a node that the cores `on` of a cluster can take. -/
def room (s : State) (vic : List Nat) (soon : Bool) (on : Nat → Bool) (n : Node) (cl : Nat) : Nat :=
  let c := ((List.range 9).filter (fun i => on (9 * cl + i) && coreFree s vic soon (9 * cl + i))).length / nGang n
  if nGbarn n = 0 then c else min c (freeBars s vic cl / nGbarn n)

/-- A band that a core's failed self-test pre-empted goes back as it was, the core itself or the spare in its place (R122, R398): the
cores it must take by core number; none where it may go anywhere. A spare that is in use leaves the band free to go elsewhere. -/
def bound (s : State) (n : Node) : List (Nat × Nat) :=
  n.hurt.filterMap (fun e =>
    if !s.sched.coreBad.contains e.2 then some e
    else if mget none s.sched.spareUsed (e.2 / 9) == some (e.2 % 9) then some (e.1, 9 * (e.2 / 9) + 8) else none)

/-- A self-test, or the spare's turn, is still to come for a band that a parity error pre-empted (R122, R398). -/
def hurtWait (s : State) (n : Node) : Bool :=
  n.hurt.any (fun e => s.sched.coreTest.contains e.2 || (s.sched.coreBad.contains e.2 && e.2 % 9 != 8 &&
    (mget none s.sched.spareUsed (e.2 / 9)).isNone && !s.sched.coreBad.contains (9 * (e.2 / 9) + 8)))

/-- Can the node be placed on the cores `on`, were the nodes `vic` to leave (R340)? -/
def canPlaceOn (s : State) (vic : List Nat) (soon : Bool) (on : Nat → Bool) (n : Node) : Bool :=
  !hurtWait s n && (bound s n).all (fun e => on e.2 && coreFree s vic soon e.2) &&
    decide (nGangs n ≤ (((List.range 24).filter (allowed s n)).map (room s vic soon on n)).sum)

/-- Can the node be placed, were the nodes `vic` to leave (R340)? -/
def canPlace (s : State) (vic : List Nat) (soon : Bool) (n : Node) : Bool := canPlaceOn s vic soon (fun _ => true) n

/-- Cores of a cluster that a band can run on, idle and unbooked: eight, with the spare in the place of a lost one, and none once two are
lost (R122, R340). -/
def shapeCores (s : State) (cl : Nat) : Nat :=
  if 2 ≤ ((List.range 9).filter (fun i => s.sched.coreBad.contains (9 * cl + i))).length then 0 else 8

/-- Could the band be placed on the whole device, idle and unbooked (R340)? -/
def shapeOk (s : State) (n : Node) : Bool :=
  decide (nGangs n ≤ ((List.range 24).map (fun cl =>
    let c := shapeCores s cl / nGang n
    if nGbarn n = 0 then c else min c (16 / nGbarn n))).sum)

/-- Are the Stewards of a near-memory node free (R300)? A half-channel under a bank test is not (R399). -/
def stewardsFree (s : State) (n : Node) : Bool :=
  (nSmask n).all (fun k => (stewardAt s k).node.isNone && (stewardAt s k).done.isNone &&
    !(List.range 64).any (fun i => (bank s.dram (64 * k + i)).testing))

/-- Where a node stands in the order of dispatch (R340): effective priority, age, queue number, capture. -/
def keyBefore (a b : Nat × Nat × Nat × Nat) : Bool :=
  decide (b.1 < a.1) || (a.1 == b.1 && (decide (a.2.1 < b.2.1) || (a.2.1 == b.2.1 && (decide (a.2.2.1 < b.2.2.1) ||
    (a.2.2.1 == b.2.2.1 && decide (a.2.2.2 < b.2.2.2))))))
def nodeKey (s : State) (n : Node) : Nat × Nat × Nat × Nat := (effP s n, n.readyAt.getD 0, n.queue, n.id)

/-- A re-queued node goes before every later-captured ready node of its queue (R390): it stands at the first of their places. -/
def dispatchKey (s : State) (n : Node) : Nat × Nat × Nat × Nat :=
  if n.st == .captured && decide (0 < n.tries) then
    ((s.sched.nodes.filter (fun m => m.queue == n.queue && decide (n.id < m.id) && ready s m)).map (nodeKey s)).foldl
      (fun a b => if keyBefore b a then b else a) (nodeKey s n)
  else nodeKey s n
def before (s : State) (a b : Node) : Bool :=
  let x := dispatchKey s a
  let y := dispatchKey s b
  keyBefore x y || (x == y && decide (a.id < b.id))

/-- A YIELD by a core of the node finds a ready node that the cores of its band can hold (R109). (DEDUCED, log entry 124.) -/
def yields (s : State) (n : Node) : Bool :=
  s.sched.nodes.any (fun m => ready s m && nKind m == 0 && m.id != n.id && decide (effP s n ≤ effP s m) &&
    canPlaceOn s [n.id] true (fun c => n.cores.contains c && (coreAt s c).node == some n.id) m)

/-- Cores of a gang that have not retired (R349). -/
def liveCores (s : State) (id gang : Nat) : List Nat :=
  match nodeOf s id with
  | none => []
  | some n => (List.range (nGang n)).filter (fun i => match n.cores[gang * nGang n + i]? with
    | some p => (coreAt s p).node == some id
    | none => false)

/-- Set arrivals of a gang's registers and flip every phase that all its live cores have joined (R349). -/
def barArrive (s : State) (id gang : Nat) (cl : Nat) (arr : Nat → BitVec 8) : State :=
  let live := liveCores s id gang
  let upd (b : BarReg) : BarReg :=
    if b.node == id && b.gang == gang then
      let a := b.arr ||| arr b.k
      if a != 0 && live.all (fun i => a.getLsbD i) then { b with phase := !b.phase, arr := 0 } else { b with arr := a }
    else b
  setCluster s cl (fun c => { c with bars := c.bars.map upd })

end Sys2Proof.Machine
end

