-- ==== Sys2Proof/Machine/Report.lean ====
section
/-! DEFINITION. Report.lean: what the part tells its hosts: interrupt vectors (R415), the reliability log (R400), Steward
error logs and alerts (R326, R328). -/

namespace Sys2Proof.Machine
open Sys2Proof

/-- An interrupt vector's 128 bits: an unlisted vector is zero with MASK = 1 (R415). -/
def vector (h : HostSide) (v : Nat) : BitVec 128 := mget 0 h.vectors v ^^^ (1 <<< 96)
def setVector (h : HostSide) (v : Nat) (b : BitVec 128) : HostSide :=
  { h with vectors := mput 0 h.vectors v (b ^^^ (1 <<< 96)) }
def vMasked (b : BitVec 128) : Bool := b.getLsbD 96
def vPort (b : BitVec 128) : Nat := if b.getLsbD 97 then 1 else 0

/-- Raise a vector: it stays pending until INTERRUPT_SEND (R415). (DEDUCED, log entry 92.) -/
def raiseVec (s : State) (v : Nat) : State := onHost s (fun h => { h with pend := mput false h.pend v true })

/-- Raise the reliability vector, where enabled (R400, R408). (DEDUCED, log entry 79.) -/
def raiseRas (s : State) : State :=
  if s.sched.rasctl.getLsbD 11 then raiseVec s (s.sched.rasctl.extractLsb' 0 11).toNat else s

/-- An entry of the reliability log; with 64 held the oldest goes (R400). (DEDUCED, log entry 79.) -/
def rasLog (s : State) (code unit num : Nat) : State :=
  let us := (s.fab.ftime.toNat / 1000) % 2 ^ 32
  let e : Word := BitVec.ofNat 64 (code * 2 ^ 56 + unit * 2 ^ 48 + num * 2 ^ 32 + us)
  raiseRas (onSched s (fun h =>
    let k := h.raslog.length + 1 - 64
    { h with raslog := (h.raslog ++ [e]).drop k,
             rasNew := (h.rasNew.filter (fun i => decide (k ≤ i))).map (· - k) ++ [h.raslog.length - k] }))

/-- NUM of a bank (R400). -/
def bankNum (b : Nat) : Nat := b / 2 ^ 12 * 4096 + b % 2 ^ 12

/-- Does a Steward cause raise the stack's alert (R325)? -/
def alerts (code : Nat) : Bool := [0x60, 0x61, 0x62, 0x63, 0x64, 0x65, 0x67].contains code

def logEntry (code info pc : Nat) (a : At) : Word :=
  BitVec.ofNat 64 (code * 2 ^ 56 + info % 256 * 2 ^ 48 + pc % 1024 * 2 ^ 38 + a.bank % 64 * 2 ^ 32 + a.row * 2 ^ 18 +
    a.atom * 2 ^ 13)

/-- Record a cause in a Steward's error log, and raise its stack's alert (R326, R328, R420); the newest entry held stands for a
cause that a full log did not take. (DEDUCED, log entry 56.) -/
def stewardLog (s : State) (n code info pc : Nat) (a : At) : State :=
  let e := logEntry code info pc a
  let held := (stewardAt s n).log.length
  let s := setSteward s n (fun t =>
    if t.log.length < 32 then { t with log := t.log ++ [e] } else { t with lost := min (t.lost + 1) 65535 })
  if alerts code then
    raiseRas (onHost (setSteward s n (fun t => { t with alert := true })) (fun h => { h with
      unread := (h.unread ++ [(n, min held 31)]).eraseDups }))
  else s

def nowhere : At := ⟨0, 0, 0⟩

/-- The place of an atom, by its geometry number. -/
def atomPlace (g : Nat) : At := ⟨gBank g % 64, gRow g, g % 32⟩

/-- A poisoned value entered a Steward register, from the place given (R321). -/
def taint (s : State) (n : Nat) (a : At) : State :=
  let t := stewardAt s n
  let s := setSteward s n (fun t => { t with stat := t.stat ||| 0x80 })
  if t.taintLogged then s
  else setSteward (stewardLog s n 0x67 0 t.pc a) n (fun t => { t with taintLogged := true })

/-- An uncorrectable error found at a controller (R291): poison, log, and the request for a bank test (R398). (DEDUCED, log entry 56.) -/
def uncorrectable (s : State) (g : Nat) (bits : BitVec 256) : State :=
  let old := BitVec.ofNat 256 (leNat (bytesAt s.dram.mem (32 * g) 32))
  let s := onDram s (fun d =>
    { d with poi := mput false d.poi g true, mem := putBytes d.mem (32 * g) (natLe 32 bits.toNat) })
  let s := onDram s (fun d => setBank d (gBank g) (fun b =>
    { b with bad := if b.bad.any (fun e => e.1 == g) then b.bad else b.bad ++ [(g, old, bits)], testReq := true }))
  rasLog s 0x65 2 (bankNum (gBank g))

/-- An uncorrectable error on reading an atom of a slice that a band holds (R34, R189): the atom is poisoned and delivers the bits
read. (DEDUCED, log entry 115.) -/
def sliceError (s : State) (c a : Nat) (bits : BitVec 256) : State :=
  if c < Config.cores ∧ a < 2 ^ 15 ∧ s.host.power ∧ s.sched.nodes.any (fun n => n.cores.contains c) then
    { s with slices := putBytes s.slices (c * 2 ^ 20 + 32 * a) (natLe 32 bits.toNat), spoi := mput false s.spoi (c * 2 ^ 15 + a) true }
  else s

/-- A corrected error (R291): counted; past 64 the bank is reported for a test. -/
def corrected (s : State) (g : Nat) : State :=
  let day := baseNow s / 86400000000000
  onDram s (fun d => setBank d (gBank g) (fun b =>
    let k := if b.period = day then b.corrected + 1 else 1
    { b with corrected := k, period := day, testReq := b.testReq || decide (64 < k) }))

/-- What the error checks of one read found (R291). -/
def cellFault (s : State) (e : Option CellFault) : State :=
  match e with
  | some (.corrected g) => corrected s g
  | some (.uncorrectable g bits) => uncorrectable s g bits
  | _ => s

end Sys2Proof.Machine
end

