-- ==== Sys2Proof/Machine/BankOps.lean ====
section
/-! DEFINITION. BankOps.lean: row buffers, activation counters and watch lists of the DRAM banks (R287-R294, R297). A bank
is numbered by geometry bits [33:19]: 64 x half-channel + the Steward's bank bit. -/

namespace Sys2Proof.Machine
open Sys2Proof

def onBank (s : State) (b : Nat) (f : Bank → Bank) : State := onDram s (fun d => setBank d b f)

/-- Refresh one row: its counter starts again with good parity, and it leaves the watch list (R292). -/
def refreshRow (k : Bank) (row : Nat) : Bank :=
  { k with acts := mput 0 k.acts row 0, badPar := k.badPar.filter (· != row), watch := k.watch.filter (fun e => e.1 != row) }

/-- Refresh the rows within two of a row (R294). -/
def refreshNear (k : Bank) (row : Nat) : Bank :=
  ([row + 1, row + 2] ++ (if 1 ≤ row then [row - 1] else []) ++ (if 2 ≤ row then [row - 2] else [])).foldl
    (fun k r => if r < 2 ^ 14 then refreshRow k r else k) k

/-- A row at or past its threshold: neighbours refreshed, counter reset with good parity, the controller's entry in the Steward log (R293,
R294, R325). -/
def guardRow (s : State) (b row code : Nat) : State :=
  stewardLog (onBank s b (fun k => { refreshNear k row with acts := mput 0 (refreshNear k row).acts row 0,
                                                            badPar := k.badPar.filter (· != row) })) (b / 64) code 0 0
    ⟨b % 64, row, 0⟩

/-- The check of a row's activation counter at PRE (R292-R294). A row that joins the watch list was last activated when it was
opened (R293). -/
def preCheck (s : State) (b row : Nat) : State :=
  let k := bank s.dram b
  let c := (mget 0 k.acts row).toNat
  if c = 2047 ∨ k.badPar.contains row then guardRow s b row 0x6A
  else if 768 ≤ c ∧ !k.watch.any (fun e => e.1 == row) then
    if k.watch.length < 16 then onBank s b (fun k => { k with watch := k.watch ++ [(row, k.actAt)] })
    else guardRow s b row 0x6B
  else s

/-- A watched row is activated at most once in 126 µs (R293). (DEDUCED, log entry 36.) -/
def spaced (s : State) (b row : Nat) : Bool :=
  (bank s.dram b).watch.all (fun e => e.1 != row || decide (e.2 + 126000 ≤ baseNow s))

/-- Open rows of a half-channel, and its limit (R297). -/
def openRows (s : State) (hc : Nat) : Nat :=
  ((List.range 64).filter (fun i => (bank s.dram (64 * hc + i)).row != .closed)).length
/-- DESIGN CHOICE, log entry 7. -/
def actmaxOf (s : State) (hc : Nat) : Nat := mget 64 s.dram.actmax hc

/-- PRE of a bank's open row, with its check. -/
def precharge (s : State) (b row : Nat) : State := onBank (preCheck s b row) b (fun k => { k with row := .closed })

/-- ACT of a row: the counter counts it, stopping at 2,047 (R292). (DEDUCED, log entry 36.) -/
def activate (s : State) (b row : Nat) (st : RowState) : State :=
  onBank s b (fun k =>
    let c := mget 0 k.acts row
    { k with row := st, lastUse := baseNow s, actAt := baseNow s, acts := mput 0 k.acts row (if c = 2047 then c else c + 1),
             watch := k.watch.map (fun e => if e.1 == row then (row, baseNow s) else e) })

/-- Bring a row of a bank to state `st` for its next user, none where R290, R293 or R297 makes it wait (R288). -/
def openRow (s : State) (b row : Nat) (st : RowState) : Option State :=
  let act (s : State) : Option State :=
    if spaced s b row && decide (openRows s (b / 64) < actmaxOf s (b / 64)) then some (activate s b row st) else none
  match (bank s.dram b).row with
  | .engine _ => none
  | .host r => if r = row then some (onBank s b (fun k => { k with row := st, lastUse := baseNow s })) else act (precharge s b r)
  | .ended r =>
    if r = row && st == .host row then some (onBank s b (fun k => { k with row := st, lastUse := baseNow s }))
    else act (precharge s b r)
  | .closed => act s

/-- The bank's refresh command is due (R287): a level-1 obligation. -/
def refreshDue (s : State) (b : Nat) : Bool := decide ((bank s.dram b).refAt + 15625 ≤ baseNow s)

/-- A main-die access to an atom is served, once no refresh is due: its row stands open for the hosts (R288, R289). -/
def hostOpen (s : State) (g : Nat) : Option State :=
  if refreshDue s (gBank g) then none else openRow s (gBank g) (gRow g) (.host (gRow g))

/-- A checkpoint still has to stream the granule (R404). -/
def ckptHolds (s : State) (pa : Nat) : Bool :=
  match s.sched.ckpt with
  | some k => k.chosen.any (fun g => g.2 == some (pa / 2 ^ 18))
  | none => false

/-- A store that nothing but a lease keeps from its controller: no granule to shadow, no checkpoint (R290, R393, R404). -/
def keptByLease (s : State) (node : Option Nat) (pa : Nat) : Bool :=
  (match (bank s.dram (gBank (atomOf s (redirect s node pa)))).row with
   | .engine _ | .ended _ => true
   | _ => false) &&
  !ckptHolds s (redirect s node pa) && (match node.bind (nodeOf s) with
    | some n => !n.shdw || n.fell || s.sched.redir.any (fun r => r.node == n.id && r.gran == pa / 2 ^ 18 && r.ready)
    | none => true)

/-- The atom at whose controller an access of core `c` stands, once nothing of its own holds it back: what a load reads next, an atomic,
or a store that a lease has kept from being accepted. (DEDUCED, log entry 60.) -/
def readsNext (s : State) (c : Nat) (k : Core) (m : MemEnt) : Option Nat :=
  let atom (store : Bool) (p : Piece) : Option Nat := match p.pl with
    | .dmem pa => if store && !keptByLease s k.node pa then none else some (atomOf s (redirect s k.node pa))
    | _ => none
  match (match m.op with
    | .load (p :: _) _ _ _ => atom false p
    | .atom _ _ p _ _ _ _ => atom false p
    | .store p _ _ => atom true p
    | .spill p _ => atom true p
    | _ => none) with
  | some g => if mayPerform s c m.id then some g else none
  | none => none

/-- Core cycles since an access of a core was issued: its age at the controller. (DEDUCED, log entry 60.) -/
def ageOf (k : Core) (m : MemEnt) : Nat := k.csr.cycle.toNat - m.at_

/-- A main-die access of some core waits at a bank, for the row where one is named (R288, R289). -/
def readWaits (s : State) (b : Nat) (row : Option Nat) : Bool :=
  s.cores.any (fun e => e.2.mem.any (fun m => (readsNext s e.1 e.2 m).any (fun g => gBank g == b && row.all (· == gRow g))))

/-- Such an access has waited for more than 1,000 base-die cycles (R289, level 2). (DEDUCED, log entry 60.) -/
def agedRead (s : State) (b : Nat) : Bool :=
  s.cores.any (fun e => e.2.mem.any (fun m => decide (2000 < ageOf e.2 m) && (readsNext s e.1 e.2 m).any (fun g => gBank g == b)))

/-- Age of a queued write in core cycles. -/
def WqEnt.age (s : State) (e : WqEnt) : Nat := 2 * (baseNow s - e.at_)

/-- An older main-die access of the bank, a queued write or an access of a core, can be served: it goes first (R289). -/
def olderFirst (s : State) (b age : Nat) : Bool :=
  s.dram.wq.any (fun e => gBank (e.loc / 32) == b && decide (age < e.age s) && (hostOpen s (e.loc / 32)).isSome) ||
  s.cores.any (fun e => e.2.mem.any (fun m => decide (age < ageOf e.2 m) &&
    (readsNext s e.1 e.2 m).any (fun g => gBank g == b && (hostOpen s g).isSome)))

/-- A main-die read of an atom is served, unless an older access of its bank goes first (R289). -/
def hostRead (s : State) (age g : Nat) : Option State := if olderFirst s (gBank g) age then none else hostOpen s g

/-- Atoms of one row that follow each other stand for one use of it. -/
def rowRuns : List Nat → List Nat
  | [] => []
  | [g] => [g]
  | g :: h :: t => if gBank g = gBank h ∧ gRow g = gRow h then rowRuns (h :: t) else g :: rowRuns (h :: t)

/-- The next row of a transfer that has opened the banks `mine`: one of them, idle by now, closes where the half-channel has no room for
another (R288, R297). -/
def openNext (age : Nat) (o : Option (State × List Nat)) (g : Nat) : Option (State × List Nat) :=
  o.bind (fun e =>
    match hostRead e.1 age g with
    | some t => some (t, e.2 ++ [gBank g])
    | none =>
      (e.2.find? (fun b => b / 64 == gBank g / 64 && b != gBank g && (match (bank e.1.dram b).row with
        | .host _ => true
        | _ => false))).bind (fun b =>
          match (bank e.1.dram b).row with
          | .host r => (hostRead (precharge e.1 b r) age g).map (fun t => (t, e.2.filter (· != b) ++ [gBank g]))
          | _ => none))

/-- The atoms of a stretch of device memory; without regions and parked banks 1 KiB lies in one row, and its first atom stands for it. -/
def stretchAtoms (s : State) (via : Nat → Nat) (pa len : Nat) : List Nat :=
  if s.dram.regions.isEmpty && !s.dram.banks.any (fun e => e.2.parked) then
    (List.range ((pa % 1024 + len + 1023) / 1024)).map (fun i => atomOf s (via (pa / 1024 * 1024 + 1024 * i)))
  else (List.range ((pa % 32 + len + 31) / 32)).map (fun i => atomOf s (via (pa / 32 * 32 + 32 * i)))

/-- One access after another to the rows of atoms (R287). -/
def openRowsOf (age : Nat) (s : State) (atoms : List Nat) : Option State := ((rowRuns atoms).foldl (openNext age) (some (s, []))).map (·.1)

/-- The same for every atom of device-memory pieces, of the age given. -/
def openAged (age : Nat) (s : State) (node : Option Nat) (ps : List Piece) : Option State :=
  openRowsOf age s (ps.flatMap (fun p => match p.pl with
    | .dmem pa => stretchAtoms s (redirect s node) pa p.len
    | _ => []))

/-- The same for a stretch of physical addresses, no redirect followed: a transfer of the device's own engines. -/
def rawOpen (s : State) (pa len : Nat) : Option State := openRowsOf 0 s (stretchAtoms s (fun a => a) pa len)

/-- An access that arrives now. -/
def hostOpenAll (s : State) (node : Option Nat) (ps : List Piece) : Option State := openAged 0 s node ps

/-- A write-combining buffer holds bytes of a host line (R258). -/
def combining (s : State) (p : Piece) : Bool :=
  match p.pl with
  | .sys ha _ => s.host.wcb.any (fun b => decide (ha / 64 ≤ b.line) && decide (b.line ≤ (ha + p.len - 1) / 64))
  | _ => false

/-- May pieces be read now by an access of the age given: no lease holds their bank, no revival their block, no buffer their line? Then
the banks as the reads leave them (R289, R290, R296, R258). -/
def gateAged (age : Nat) (s : State) (node : Option Nat) (ps : List Piece) : Option State :=
  if ps.any (fun p => combining s p || beingRevived s node p.pl) then none else openAged age s node ps

/-- The same of an access that arrives now. -/
def readGate (s : State) (node : Option Nat) (ps : List Piece) : Option State := gateAged 0 s node ps

/-- The same of an access that starts now: a commit in progress stalls it (R278). -/
def newGate (s : State) (node : Option Nat) (ps : List Piece) : Option State :=
  if ps.any (fun p => remapped s node p.pl) then none else readGate s node ps

/-! ### Leases (R290, R311, R312) -/

def leaseOf (t : Steward) (rq : Nat) : Option Lease := t.leases.find? (fun l => l.id == rq)
def onLease (t : Steward) (rq : Nat) (f : Lease → Lease) : Steward :=
  { t with leases := t.leases.map (fun l => if l.id == rq then f l else l) }

/-- Every accepted write to the leased row is banked before the engine's first burst (R290). -/
def bankRow (s : State) (b row : Nat) : State :=
  let hits (e : WqEnt) : Bool := gBank (e.loc / 32) == b && gRow (e.loc / 32) == row
  (List.range s.dram.wq.length).foldl (fun s _ =>
    match s.dram.wq.findIdx? hits with
    | some k => bankEntry s k
    | none => s) s

/-- Grant a lease: the row goes to OPEN-ENGINE with a budget of 16 bursts (R288). -/
def grantLease (s : State) (n rq : Nat) : Option State :=
  match leaseOf (stewardAt s n) rq with
  | none => none
  | some l =>
    let b := 64 * n + l.bank
    (openRow s b l.row (.engine l.row)).map (fun s =>
      setSteward (bankRow s b l.row) n (fun t => onLease t rq (fun l => { l with held := true, budget := 16, since := baseNow s, asked := false, wave := false })))

/-- Operations of the Steward's engines bound to a request (R311). -/
def boundOps (t : Steward) (rq : Nat) : Bool := t.eng.any (fun e => e.q.any (fun o => o.lease == some rq))

/-- A lease ends at a burst boundary: its row stays open until arbitration decides (R288). A released request goes once no operation is
bound to it, and is asked for again while one is (R311, R312). -/
def endLease (s : State) (n rq : Nat) : State :=
  match leaseOf (stewardAt s n) rq with
  | none => s
  | some l =>
    let b := 64 * n + l.bank
    let s := setSteward s n (fun t =>
      if l.released && !boundOps t rq then { t with leases := t.leases.filter (fun e => e.id != rq) }
      else onLease t rq (fun l => { l with held := false, asked := false, since := baseNow s }))
    if l.held then onBank s b (fun k => { k with row := .ended l.row }) else s

/-- Queued writes that have waited more than 1,000 base-die cycles (R289, level 2). -/
def agedWrite (s : State) (b : Nat) : Bool :=
  s.dram.wq.any (fun e => gBank (e.loc / 32) == b && decide (e.at_ + 1000 < baseNow s))

end Sys2Proof.Machine
end

