-- ==== Sys2Proof/Machine/Legality.lean ====
section
/-! DEFINITION. Legality.lean: what makes a slot's instruction illegal by itself (R73), the registers it reads and
writes (R69, R70), and what may be boosted (R71). -/

namespace Sys2Proof

/-- The element width of a type; of a block type, the bits of one element (R13, R21). -/
def ETy.w : ETy → Nat
  | .i4 | .n4 => 4
  | .i8 | .n8 | .bm8 => 8
  | .i16 | .n16 | .bf16 | .f16 => 16
  | .i32 | .n32 | .f32 => 32
  | .i64 | .n64 | .f64 => 64
  | .bm5 => 5
  | .bm3 => 3
def ETy.isI : ETy → Bool
  | .i4 | .i8 | .i16 | .i32 | .i64 => true
  | _ => false
def ETy.isN : ETy → Bool
  | .n4 | .n8 | .n16 | .n32 | .n64 => true
  | _ => false
def ETy.isF : ETy → Bool
  | .f64 | .f32 | .bf16 | .f16 => true
  | _ => false
def ETy.isB : ETy → Bool
  | .bm8 | .bm5 | .bm3 => true
  | _ => false
/-- Bytes of one block (R22). -/
def ETy.blk : ETy → Nat
  | .bm8 => 19
  | .bm5 => 13
  | .bm3 => 9
  | _ => 0
def LF.ix (x : LF) : Bool := x.m.getLsbD 6
def LF.aux (x : LF) : BitVec 8 := x.m.extractLsb' 0 6 ++ x.c.extractLsb' 5 2
def LF.disp (x : LF) : BitVec 12 := x.c.extractLsb' 0 5 ++ x.b
def LF.gs (x : LF) : BitVec 3 := x.m.extractLsb' 4 3
def LF.pr (x : LF) : BitVec 3 := x.m.extractLsb' 1 3
def LF.vix (x : LF) : Bool := x.m.getLsbD 0
def LF.op (x : LF) : BitVec 4 := x.m.extractLsb' 3 4
def LF.grant (x : LF) : BitVec 3 := x.m.extractLsb' 0 3
def LF.mask (x : LF) : BitVec 8 := x.m.extractLsb' 0 5 ++ x.c.extractLsb' 4 3
def LF.kind (x : LF) : Nat := (x.ty.extractLsb' 1 2).toNat
def LF.scope (x : LF) : Nat := (x.ty.extractLsb' 0 1 ++ x.m.extractLsb' 5 2).toNat
/-- The arrival of VLDR (R194). -/
def LF.arr (x : LF) : BitVec 8 := x.c ++ x.b.extractLsb' 6 1
/-- CPUB's fields (R269). -/
def RF.cpubMask (x : RF) : BitVec 8 := x.f ++ x.c.extractLsb' 3 4
def RF.cpubW (x : RF) : Bool := x.c.getLsbD 2
def RF.cpubScope (x : RF) : Nat := (x.c.extractLsb' 0 2).toNat
/-- GBAR's fields (R349). -/
def RF.gbarScope (x : RF) : Nat := (x.c.extractLsb' 3 3).toNat
def RF.gbarK (x : RF) : Nat := (x.c.extractLsb' 0 2).toNat
/-- CHKERR's fields (R388). -/
def RF.chkMode (x : RF) : Nat := (x.c.extractLsb' 1 2).toNat
def RF.chkMask (x : RF) : BitVec 2 := x.b.extractLsb' 0 2
/-- LOOP's trip field and loop length (R95). -/
def RF.loopE (x : RF) : Nat := (x.c ++ x.b).toNat
def RF.loopN (x : RF) : Nat := (x.a ++ x.d).toNat
def RF.trapN (x : RF) : BitVec 16 := x.b.extractLsb' 0 2 ++ x.a ++ x.d
def RF.bswapIdx (x : RF) : Nat := (x.c.extractLsb' 0 2 ++ x.b).toNat

end Sys2Proof

namespace Sys2Proof.Machine
open Sys2Proof

/-- The type of a code (R63). -/
def ety (c : BitVec 5) : Option ETy :=
  match c.toNat with
  | 0 => some .i4 | 1 => some .i8 | 2 => some .i16 | 3 => some .i32 | 4 => some .i64
  | 5 => some .n4 | 6 => some .n8 | 7 => some .n16 | 8 => some .n32 | 9 => some .n64
  | 10 => some .f64 | 11 => some .f32 | 12 => some .bf16 | 13 => some .f16
  | 14 => some .bm8 | 15 => some .bm5 | 16 => some .bm3 | _ => none

/-- Cause 0x01 unless the field is as required. -/
def need (ok : Bool) : List Nat := if ok then [] else [1]
def needImm (ok : Bool) : List Nat := if ok then [] else [0x0C]
def needReg (ok : Bool) : List Nat := if ok then [] else [4]
def z7 (x : BitVec 7) : List Nat := need (x == 0)

def isLatch (a : BitVec 7) : Bool := decide (0x70 ≤ a.toNat) && decide (a.toNat ≤ 0x75)

/-- A scalar source (R56). -/
def srcS (a : BitVec 7) : List Nat := if a.toNat < 64 || isLatch a then [] else [3]

/-- A vector source group (R56, R60). -/
def srcV (a : BitVec 7) (G : Nat) : List Nat :=
  if a.toNat < 64 then needReg (decide (a.toNat + G ≤ 32)) else if isLatch a && decide (G ≤ 1) then [] else [3]

/-- The source of a scalar pair (R60). -/
def srcP (a : BitVec 7) : List Nat := if a.toNat < 64 then needReg (a.toNat % 2 == 0) else [3]

/-- A scalar destination (R59). -/
def dstS (d : BitVec 7) : List Nat := need (decide (d.toNat ≤ 64))

/-- A vector destination group (R59, R60). -/
def dstV (d : BitVec 7) (G : Nat) : List Nat :=
  if d.toNat < 64 then needReg (decide (d.toNat + G ≤ 32)) else need (d.toNat == 64)

def dstP (d : BitVec 7) : List Nat :=
  if d.toNat < 64 then needReg (d.toNat % 2 == 0) else need (d.toNat == 64)

/-- A token register: written back, and not s0 (R205). -/
def dstTok (d : BitVec 7) : List Nat := need (decide (0 < d.toNat) && decide (d.toNat < 64))

/-- An even pair that must be written back, and not at s0 (R363, R372). -/
def dstTokP (d : BitVec 7) : List Nat := dstTok d ++ needReg (d.toNat % 2 == 0)

/-- The group size of a gs code (R62); codes 6 and 7 name none. (DEDUCED, log entry 26.) -/
def grp (gs : BitVec 3) : Nat := if gs.toNat ≤ 5 then gs.toNat + 1 else 1
/-- DEDUCED, log entry 26. -/
def gsOk (gs : BitVec 3) : List Nat := if gs.toNat ≤ 5 then [] else [0x0F]

def tyIs (p : ETy → Bool) (c : BitVec 5) : List Nat :=
  match ety c with
  | some t => if p t then [] else [5]
  | none => [5]

/-- Format R with every optional field zero but the sources and destination it names (R124). -/
def rr (x : RF) : List Nat := need (x.f == 0) ++ z7 x.c ++ srcS x.b ++ srcS x.a ++ dstS x.d
def r1 (x : RF) : List Nat := need (x.f == 0) ++ z7 x.c ++ z7 x.b ++ srcS x.a ++ dstS x.d

/-- Scalar floating point (R129): `c` is a source, `b` is a source, a rounding mode is used. -/
def fp (x : RF) (useC useB useRm : Bool) : List Nat :=
  need (!x.f.getLsbD 3) ++ need (useRm || (x.f.extractLsb' 0 2 == 0)) ++ (if useC then srcS x.c else z7 x.c) ++
    (if useB then srcS x.b else z7 x.b) ++ srcS x.a ++ dstS x.d

def rest0 (x : RF) (f c b a d : Bool) : List Nat :=
  need (!f || x.f == 0) ++ need (!c || x.c == 0) ++ need (!b || x.b == 0) ++ need (!a || x.a == 0) ++
    need (!d || x.d == 0)

def csrNum (x : RF) : Nat := (x.f ++ x.c).toNat

/-- CSR access (R134): 0x0D for a number that does not exist, 0x0E above the level. -/
def csrCauses (n : Nat) (lvl write : Bool) : List Nat :=
  if n ∈ [0, 1, 0x20, 0x21, 0x22, 0x23] then [] else
  if n == 2 then (if write && !lvl then [0x0E] else []) else
  if n ∈ [0x10, 0x11, 0x12, 0x13] then (if lvl then [] else [0x0E]) else [0x0D]

/-- The V format (R62, R144): permitted types, whether sb may be set, rm used, the check of f[5:0], operands b and c
used, registers of the destination. -/
def vchk (x : VF) (tys : ETy → Bool) (sb rm : Bool) (f : BitVec 6 → List Nat) (useB useC : Bool) (dG : Nat) :
    List Nat :=
  let G := grp x.gs
  let s := x.f.getLsbD 6
  tyIs tys x.ty ++ gsOk x.gs ++ need (rm || x.rm == 0) ++ need (sb || !s) ++ f (x.f.extractLsb' 0 6) ++
    srcV x.a G ++ (if useB then (if s && sb then srcS x.b else srcV x.b G) else (if s && sb then srcS x.b else z7 x.b)) ++
    (if useC then srcV x.c G else z7 x.c) ++ dstV x.d dG

def f0 (f : BitVec 6) : List Nat := need (f == 0)
def intTy (t : ETy) : Bool := t.isI || t.isN
def anyTy (t : ETy) : Bool := t.isI || t.isN || t.isF
def presTy (t : ETy) : Bool := t.isI || t.isF
def vint (x : VF) : List Nat := vchk x intTy true false f0 true false (grp x.gs)
def vfp (x : VF) (c rm : Bool) : List Nat := vchk x ETy.isF true rm f0 true c (grp x.gs)
def estTy (t : ETy) : Bool := t.isF && t != .f64
def vest (x : VF) : List Nat := vchk x estTy false true f0 false false (grp x.gs)

/-- Fields that codes 0x40-0x4B share (R169, R170): everything but a, b, c, f, pr. -/
def vsh (x : VF) (f : List Nat) (a b c d : List Nat) : List Nat :=
  tyIs anyTy x.ty ++ gsOk x.gs ++ need (x.rm == 0) ++ f ++ a ++ b ++ c ++ d

def fBit0 (x : VF) : List Nat := need (x.f.toNat ≤ 1)
def fSb (x : VF) : List Nat := need (x.f == 0 || x.f == 64)

/-- Registers of the narrower operand of a conversion (R178). -/
def narrow (G wn ww : Nat) : Nat := (G * wn + ww - 1) / ww

/-- The causes of VCVT (R178). With a type that is not legal the widths are unknown, and only what holds of a single register is
checked of operands a and d. A rounding mode is accepted with every pair of types. (DESIGN CHOICE, log entry 104.) -/
def vcvtCauses (x : VF) : List Nat :=
  let G := grp x.gs
  gsOk x.gs ++ need (!x.f.getLsbD 5 && !x.f.getLsbD 6) ++ z7 x.b ++ z7 x.c ++
    match ety x.ty, ety (x.f.extractLsb' 0 5) with
    | some d, some s =>
      if anyTy d && anyTy s then
        let ww := max d.w s.w
        srcV x.a (narrow G s.w ww) ++ dstV x.d (narrow G d.w ww)
      else 5 :: (srcV x.a 1 ++ dstV x.d 1)
    | _, _ => 5 :: (srcV x.a 1 ++ dstV x.d 1)

/-- Registers that `nb` blocks fill (R182). -/
def blkRegs (t : ETy) (nb : Nat) : Nat := (nb * t.blk + 255) / 256

/-- The causes of VQNT (R182). (DESIGN CHOICE, log entry 104.) -/
def vqntCauses (x : VF) : List Nat :=
  let G := grp x.gs
  gsOk x.gs ++ need (!x.f.getLsbD 5 && !x.f.getLsbD 6) ++ z7 x.b ++ need (x.c.toNat < 16) ++
    match ety x.ty, ety (x.f.extractLsb' 0 5) with
    | some d, some s =>
      if d.isB && s.isF then srcV x.a G ++ dstV x.d (blkRegs d (G * 2048 / s.w / 16))
      else 5 :: (srcV x.a G ++ dstV x.d 1)
    | _, _ => 5 :: (srcV x.a G ++ dstV x.d 1)

/-- The causes of VDQNT (R183). (DESIGN CHOICE, log entry 104.) -/
def vdqntCauses (x : VF) : List Nat :=
  let G := grp x.gs
  gsOk x.gs ++ need (!x.f.getLsbD 5 && !x.f.getLsbD 6) ++ z7 x.b ++ z7 x.c ++
    match ety x.ty, ety (x.f.extractLsb' 0 5) with
    | some d, some s =>
      if d.isF && s.isB then srcV x.a (blkRegs s (G * 2048 / d.w / 16)) ++ dstV x.d G
      else 5 :: (srcV x.a 1 ++ dstV x.d G)
    | _, _ => 5 :: (srcV x.a 1 ++ dstV x.d G)

def vredF (x : VF) (f : BitVec 6) : List Nat :=
  need (f.toNat < 8) ++ needImm (f.toNat % 8 ≤ 3) ++
    match ety x.ty with
    | some t => needImm (!(t.isF && f.toNat % 8 == 3)) ++ need ((t.isF && f.toNat % 8 == 0) || x.rm == 0)
    | none => need (x.rm == 0)

def vcmpF (x : VF) (f : BitVec 6) : List Nat :=
  need (f.toNat < 16) ++
    match ety x.ty with
    | some t => needImm (if t.isF then f.toNat % 16 ≤ 7 else f.toNat % 16 ≤ 5)
    | none => []

/-- Sizes of LD, ST and the fabric accesses (R193). -/
def sizeTy (t : ETy) : Bool := anyTy t && t != .i4 && t != .n4

def lsAddr (x : LF) : List Nat :=
  srcS x.a ++ (if x.ix then need (x.c.extractLsb' 0 5 == 0) ++ srcS x.b else [])

/-- The types of ATOM and FATOM by operation (R200). An operation above 9 permits the integer types only, so that a floating type
is an illegal type there. (DESIGN CHOICE, log entry 105.) -/
def atomTy (op : Nat) (t : ETy) : Bool :=
  if op == 9 then t == .f32 || t == .f64 else t == .i32 || t == .n32 || t == .i64 || t == .n64

/-- Fields of the vector memory instructions that all share (R194). -/
def lv (x : LF) (t : ETy → Bool) (ixOk : Bool) : List Nat :=
  tyIs t x.ty ++ gsOk x.gs ++ need (ixOk || !x.vix) ++ srcS x.a

def wideTy (t : ETy) : Bool := anyTy t && t != .i4 && t != .n4

def cvtTy (t : ETy) : Bool := t.isF || t == .i32 || t == .i64 || t == .n32 || t == .n64

/-- Every condition of R73 that a slot's instruction meets by itself, at handler level (`lvl`) or user level. -/
def causes (lvl : Bool) : Instr → List Nat
  | .add x | .sub x | .mul x | .mulh x | .mulhn x | .div x | .divn x | .rem x | .remn x | .and x | .or x | .xor x
  | .shl x | .shr x | .sar x | .rot x | .min x | .max x | .minn x | .maxn x => rr x
  | .cmp x => needImm (x.f.toNat ≤ 9) ++ z7 x.c ++ srcS x.b ++ srcS x.a ++ dstS x.d
  | .sel x => need (x.f == 0) ++ srcS x.c ++ srcS x.b ++ srcS x.a ++ dstS x.d
  | .clz x | .popc x => r1 x
  | .bfx x => need (x.f.toNat ≤ 1) ++ need (x.c.toNat < 64 && x.b.toNat < 64) ++
      needImm (x.b.toNat % 64 + x.c.toNat % 64 + 1 ≤ 64) ++ srcS x.a ++ dstS x.d
  | .bfi x => need (x.f == 0) ++ need (x.c.toNat < 64 && x.b.toNat < 64) ++
      needImm (x.b.toNat % 64 + x.c.toNat % 64 + 1 ≤ 64) ++ srcS x.a ++ dstS x.d
  | .addi x => srcS x.a ++ dstS x.d
  | .logi x => needImm (x.imm.extractLsb' 16 2 != 3) ++ srcS x.a ++ dstS x.d
  | .li x | .lih x => need (x.z == 0) ++ dstS x.d
  | .fadd x | .fsub x | .fmul x | .fdiv x => fp x false true true
  | .fma x => fp x true true true
  | .fsqrt x => fp x false false true
  | .fmin x | .fmax x => fp x false true false
  | .fclass x => fp x false false false
  | .fcmp x => need (!x.f.getLsbD 3 && x.f.extractLsb' 0 2 == 0) ++ need (x.c.toNat < 8) ++ srcS x.b ++ srcS x.a ++
      dstS x.d
  | .fcvt x => need (x.f.toNat < 4) ++ need (x.c.toNat < 32 && x.b.toNat < 32) ++ srcS x.a ++ dstS x.d ++
      (match ety (x.c.extractLsb' 0 5), ety (x.b.extractLsb' 0 5) with
       | some s, some d => if cvtTy s && cvtTy d && (s.isF || d.isF) then [] else [5]
       | _, _ => [5])
  | .csrr x => rest0 x false false true true false ++ dstS x.d ++ csrCauses (csrNum x) lvl false
  | .csrw x => rest0 x false false true false true ++ srcS x.a ++ csrCauses (csrNum x) lvl true
  | .pset x => need (!x.f.getLsbD 3) ++ needImm (!(x.f.extractLsb' 0 3 == 5 || x.f.extractLsb' 0 3 == 6)) ++
      need (x.c.toNat < 8) ++ z7 x.b ++ (if x.f.extractLsb' 0 3 == 7 then z7 x.a else srcS x.a) ++ z7 x.d
  | .psets x => need (!x.f.getLsbD 3) ++ needImm (x.f.toNat % 8 ≤ 4) ++ need (x.c.toNat < 64) ++
      gsOk (x.c.extractLsb' 3 3) ++ z7 x.b ++ srcS x.a ++ dstS x.d
  | .pcnt x => need (!x.f.getLsbD 3) ++ needImm (x.f.toNat % 8 ≤ 4) ++ need (x.c.toNat < 64) ++
      gsOk (x.c.extractLsb' 3 3) ++ z7 x.b ++ z7 x.a ++ dstS x.d
  | .br x => need (x.pd == 0 && x.cc == 0 && x.a == 0)
  | .bc x => srcS x.a
  | .call x => need (x.br == 0 && x.pd == 0 && x.cc == 0 && x.a == 0)
  | .calli x | .jmpi x => rest0 x true true true false true ++ srcS x.a
  | .ret x | .yield x | .exit x => rest0 x true true true true true
  | .loop x => need (x.f.toNat ≤ 1) ++ srcS x.a ++ z7 x.d
  | .loopi x => need (x.f.toNat ≤ 1)
  | .lexit x => needImm (x.f.toNat ≤ 5) ++ rest0 x false true true true true
  | .lidx x => needImm (x.f.toNat ≤ 5) ++ rest0 x false true true true false ++ dstS x.d
  | .bswap x => rest0 x true false false true true ++ need (x.c.toNat < 4)
  | .trap x => rest0 x true true false false false ++ need (x.b.toNat < 4)
  | .eret x => rest0 x true true true true true ++ (if lvl then [] else [0x0E])
  | .waite x => rest0 x true true false false false ++ srcS x.b ++ srcS x.a ++ dstS x.d
  | .vadd x | .vsub x | .vadds x | .vsubs x | .vmul x | .vmulh x | .vmin x | .vmax x | .vand x | .vor x | .vxor x
  | .vshl x | .vshr x | .vsar x => vint x
  | .vabs x => vchk x ETy.isI false false f0 false false (grp x.gs)
  | .vfadd x | .vfsub x | .vfmul x => vfp x false true
  | .vfma x => vfp x true true
  | .vfmin x | .vfmax x => vfp x false false
  | .vfsgn x => vchk x ETy.isF true false (fun f => need (f.toNat < 4) ++ needImm (f.toNat % 4 ≤ 2)) true false (grp x.gs)
  | .vrcp x | .vrsq x | .vexp2 x | .vlog2 x => vest x
  | .vrcpn x | .vrsqn x => vfp x false true
  | .vcmp x => vchk x anyTy true false (vcmpF x) true false (grp x.gs)
  | .vsel x => vchk x anyTy true false f0 true true (grp x.gs)
  | .vclass x => vchk x ETy.isF false false f0 false false (grp x.gs)
  | .vpres x => vchk x presTy false false f0 false false (grp x.gs)
  | .vabsnt x => vchk x presTy true false f0 true false (grp x.gs)
  | .vnrm x => vfp x false true
  | .vred x => vchk x anyTy false true (vredF x) false false 1
  | .vscan x => vchk x anyTy false true (vredF x) false false (grp x.gs)
  | .vpart x => tyIs (fun t => anyTy t && 16 ≤ t.w) x.ty ++ gsOk x.gs ++ need (x.rm == 0 && x.f == 0) ++
      srcV x.a (grp x.gs) ++ z7 x.b ++ need (x.c.toNat < 8) ++ needReg (x.c.toNat % 8 != 7) ++ dstV x.d (2 * grp x.gs)
  | .vperm x => vsh x (need (x.f == 0)) (srcV x.a (grp x.gs)) (srcV x.b (grp x.gs)) (srcV x.c (grp x.gs))
      (dstV x.d (grp x.gs))
  | .vgath x => vsh x (need (x.f == 0)) (srcV x.a (grp x.gs)) (srcV x.b (grp x.gs)) (z7 x.c) (dstV x.d (grp x.gs))
  | .vbcast x => vsh x (fBit0 x) (if x.f.getLsbD 0 then z7 x.a else srcV x.a (grp x.gs)) (srcS x.b) (z7 x.c)
      (dstV x.d (grp x.gs))
  | .vextr x => vsh x (need (x.f == 0) ++ need (x.pr == 0)) (srcV x.a (grp x.gs)) (srcS x.b) (z7 x.c) (dstS x.d)
  | .vins x => vsh x (need (x.f == 0) ++ need (x.pr == 0)) (srcS x.a) (srcS x.b) (z7 x.c) (dstV x.d (grp x.gs))
  | .vslide x => vsh x (fBit0 x) (srcV x.a (grp x.gs)) (srcS x.b) (z7 x.c) (dstV x.d (grp x.gs))
  | .vzip x | .vunzip x => vsh x (fBit0 x) (srcV x.a (grp x.gs)) (srcV x.b (grp x.gs)) (z7 x.c) (dstV x.d (grp x.gs))
  | .vexpand x | .vcompress x => vsh x (fSb x) (srcV x.a (grp x.gs))
      (if x.f.getLsbD 6 then srcS x.b else srcV x.b (grp x.gs)) (z7 x.c) (dstV x.d (grp x.gs))
  | .viota x => vsh x (fSb x) (z7 x.a) (if x.f.getLsbD 6 then srcS x.b else z7 x.b) (z7 x.c) (dstV x.d (grp x.gs))
  | .vcvt x => vcvtCauses x
  | .vmaxa x => vchk x ETy.isF false false f0 false false 1
  | .vqnt x => vqntCauses x
  | .vdqnt x => vdqntCauses x
  | .mjob x => need (x.hi == 0) ++ srcS x.a ++ dstTok x.d
  | .mzero x => need (x.hi == 0 && x.a.toNat ≤ 1) ++
      needReg ((x.d.extractLsb' 0 4).toNat + (x.a.extractLsb' 0 1 ++ x.d.extractLsb' 4 3).toNat + 1 ≤ 16)
  | .mdrn x => need (x.hi.toNat < 256) ++ srcS x.a ++ dstTok x.d
  | .mkat _ => []
  | .mrd x => need (x.hi.toNat < 64) ++ srcS x.a ++
      (if x.hi.extractLsb' 4 2 == 2 then needReg (!x.hi.getLsbD 0) ++ dstV x.d 2 else dstV x.d 1)
  | .mwr x => need (x.hi.toNat < 64) ++ srcS x.a ++ needImm (x.hi.extractLsb' 4 2 != 3) ++
      (if x.hi.extractLsb' 4 2 == 2 then needReg (!x.hi.getLsbD 0) ++ srcV x.d 2 else srcV x.d 1)
  | .mwait x => need (x.hi.toNat < 4)
  | .scld x => srcS x.a
  | .xsel x => need (!x.hi.getLsbD 4) ++ needImm (x.hi.extractLsb' 2 2 != 3) ++ srcV x.a 1
  | .xset _ => []
  | .ld x => tyIs sizeTy x.ty ++ need (x.aux == 0) ++ lsAddr x ++ dstS x.d
  | .st x => tyIs sizeTy x.ty ++ need (!x.aux.getLsbD 7) ++ srcS (x.aux.extractLsb' 0 7) ++ lsAddr x ++ z7 x.d
  | .ldr x => tyIs sizeTy x.ty ++ needImm (x.aux != 0) ++ lsAddr x ++ dstS x.d
  | .vld x => lv x anyTy true ++ (if x.vix then srcS x.b else []) ++ z7 x.c ++ dstV x.d (grp x.gs)
  | .vst x => lv x anyTy true ++ (if x.vix then srcS x.b else []) ++ srcV x.c (grp x.gs) ++ z7 x.d
  | .vlds x => lv x wideTy false ++ srcS x.b ++ z7 x.c ++ dstV x.d (grp x.gs)
  | .vgld x => lv x wideTy false ++ srcV x.b (grp x.gs) ++ z7 x.c ++ dstV x.d (grp x.gs)
  | .vsct x => lv x wideTy false ++ srcV x.b (grp x.gs) ++ srcV x.c (grp x.gs) ++ z7 x.d
  | .vldr x => lv x anyTy false ++ needImm (x.arr != 0) ++ dstV x.d (grp x.gs)
  | .atom x => tyIs (atomTy x.op.toNat) x.ty ++ needImm (x.op.toNat ≤ 9) ++ need (x.grant == 0) ++ srcS x.c ++ z7 x.b ++
      srcS x.a ++ dstS x.d
  | .acas x => tyIs (atomTy 0) x.ty ++ z7 x.m ++ srcS x.c ++ srcS x.b ++ srcS x.a ++ dstS x.d
  | .acas128 x => need (x.ty == 0) ++ z7 x.m ++ srcP x.c ++ srcP x.b ++ srcS x.a ++ dstP x.d
  | .barv x => need (x.ty == 0) ++ z7 x.m ++ z7 x.b ++ z7 x.c ++ srcS x.a ++ dstS x.d
  | .barw x => need (x.ty == 0) ++ z7 x.m ++ srcS x.b ++ srcS x.c ++ srcS x.a ++ dstS x.d
  | .drain x => need (x.ty == 0 && x.m.toNat < 32 && x.c.extractLsb' 0 4 == 0) ++ z7 x.b ++ z7 x.a ++ z7 x.d ++
      needImm (x.mask != 0)
  | .fence x => need (x.ty.toNat < 8 && x.c.extractLsb' 0 4 == 0) ++ z7 x.b ++ z7 x.a ++ z7 x.d ++
      needImm (x.mask != 0 && x.kind ≤ 2 && x.scope ≤ 5)
  | .fld x => tyIs sizeTy x.ty ++ need (x.op == 0) ++ z7 x.c ++ z7 x.b ++ srcS x.a ++ dstTokP x.d
  | .fst x => tyIs sizeTy x.ty ++ need (x.op == 0) ++ srcS x.c ++ z7 x.b ++ srcS x.a ++ dstTok x.d
  | .fatom x => tyIs (atomTy x.op.toNat) x.ty ++ needImm (x.op.toNat ≤ 9) ++ srcS x.c ++ z7 x.b ++ srcS x.a ++
      dstTokP x.d
  | .port x | .mcst x => rest0 x true true true false false ++ srcS x.a ++ dstTok x.d
  | .cpub x => z7 x.d ++ needImm (if x.cpubW then x.cpubMask == 0 else x.cpubMask != 0) ++ srcS x.b ++ srcS x.a
  | .ipub x => rest0 x true true true true true
  | .launch x => rest0 x true true false false false ++ srcS x.b ++ srcS x.a ++ dstS x.d
  | .ssig x => need (x.f.toNat ≤ 1) ++ (if x.f == 1 then srcS x.c else z7 x.c) ++ srcS x.b ++ srcS x.a ++ dstS x.d
  | .swait x => need (x.f.toNat ≤ 1) ++ srcS x.c ++ srcS x.b ++ srcS x.a ++ dstS x.d
  | .gbar x => need (x.f == 0 && !x.c.getLsbD 6 && !x.c.getLsbD 2) ++ z7 x.b ++ z7 x.a ++ z7 x.d ++
      needImm (x.gbarScope ≤ 5)
  | .gset x => rest0 x true true true false false ++ srcS x.a ++ need (x.d.toNat < 8)
  | .gsetMint x => need (x.f == 0 && x.c == 1) ++ srcS x.b ++ srcS x.a ++ dstS x.d
  | .carav x => need (x.f == 0) ++ need (x.c.getLsbD 6 || x.c.extractLsb' 0 3 == 0) ++ z7 x.b ++ srcS x.a ++ dstTokP x.d
  | .chkerr x => need (x.f == 0 && x.c.toNat < 8 && !x.c.getLsbD 0 && x.b.toNat < 4) ++ z7 x.a ++ dstS x.d ++
      needImm (x.chkMode ≤ 2 && (if x.chkMode == 0 then x.chkMask == 0 else x.chkMask != 0))
  | .ckpt x => rest0 x true true true false false ++ srcS x.a ++ dstS x.d
  | _ => []

/-- What a slot reads and writes: scalar sources, scalar pair bases, vector groups, predicates, scales, grants; then the
same of its own writes (R69, R70). -/
structure Uses where
  s : List (BitVec 7) := []
  sp : List (BitVec 7) := []
  v : List (BitVec 7 × Nat) := []
  p : List Nat := []
  sc : List Nat := []
  g : List Nat := []
  ws : List (BitVec 7) := []
  wsp : List (BitVec 7) := []
  wv : List (BitVec 7 × Nat) := []
  wp : List Nat := []
  wx : List Nat := []
  wg : List Nat := []
deriving Repr

def uRR (x : RF) : Uses := { s := [x.a, x.b], ws := [x.d] }
def uR1 (x : RF) : Uses := { s := [x.a], ws := [x.d] }

def uV (x : VF) (useB useC : Bool) (dG : Nat) : Uses :=
  let G := grp x.gs
  let sb := x.f.getLsbD 6
  { s := if sb then [x.b] else [], p := [x.pr.toNat], wv := [(x.d, dG)],
    v := (x.a, G) :: ((if useB && !sb then [(x.b, G)] else []) ++ (if useC then [(x.c, G)] else [])) }

def uLS (x : LF) : List (BitVec 7) := if x.ix then [x.a, x.b] else [x.a]
def uLV (x : LF) : List (BitVec 7) := if x.vix then [x.a, x.b] else [x.a]

/-- The registers an instruction's fields name (R69): late writes of hardware are not among them. -/
def uses : Instr → Uses
  | .add x | .sub x | .mul x | .mulh x | .mulhn x | .div x | .divn x | .rem x | .remn x | .and x | .or x | .xor x
  | .shl x | .shr x | .sar x | .rot x | .min x | .max x | .minn x | .maxn x | .cmp x => uRR x
  | .sel x => { s := [x.a, x.b, x.c], ws := [x.d] }
  | .clz x | .popc x | .bfx x => uR1 x
  | .bfi x => { s := [x.a, x.d &&& 63], ws := [x.d] }
  | .addi x => { s := [x.a], ws := [x.d] }
  | .logi x => { s := [x.a], ws := [x.d] }
  | .li x => { ws := [x.d] }
  | .lih x => { s := [x.d &&& 63], ws := [x.d] }
  | .fadd x | .fsub x | .fmul x | .fdiv x | .fmin x | .fmax x | .fcmp x => uRR x
  | .fma x => { s := [x.a, x.b, x.c], ws := [x.d] }
  | .fsqrt x | .fcvt x | .fclass x => uR1 x
  | .csrr x => { ws := [x.d] }
  | .csrw x => { s := [x.a] }
  | .pset x => { s := if x.f.extractLsb' 0 3 == 7 then [] else [x.a], wp := [(x.c.extractLsb' 0 3).toNat] }
  | .psets x => { s := [x.a], ws := [x.d], wp := [(x.c.extractLsb' 0 3).toNat] }
  | .pcnt x => { p := [(x.c.extractLsb' 0 3).toNat], ws := [x.d] }
  | .bc x => { s := [x.a] }
  | .calli x | .jmpi x | .loop x => { s := [x.a] }
  | .lidx x => { ws := [x.d] }
  | .waite x => uRR x
  | .vadd x | .vsub x | .vadds x | .vsubs x | .vmul x | .vmulh x | .vmin x | .vmax x | .vand x | .vor x | .vxor x
  | .vshl x | .vshr x | .vsar x | .vfadd x | .vfsub x | .vfmul x | .vfmin x | .vfmax x | .vfsgn x | .vrcpn x
  | .vrsqn x | .vcmp x | .vabsnt x | .vnrm x | .vgath x | .vzip x | .vunzip x | .vexpand x
  | .vcompress x => uV x true false (grp x.gs)
  | .vfma x | .vsel x | .vperm x => uV x true true (grp x.gs)
  | .vabs x | .vrcp x | .vrsq x | .vexp2 x | .vlog2 x | .vclass x | .vpres x
  | .vscan x => uV x false false (grp x.gs)
  | .vred x | .vmaxa x => uV x false false 1
  | .vpart x => { v := [(x.a, grp x.gs)],
                                  p := [x.pr.toNat],
                                  wv := (if x.d.getLsbD 6 then [] else [(x.d, grp x.gs), (x.d + BitVec.ofNat 7 (grp x.gs), grp x.gs)]),
                                  wp := [x.c.toNat % 8, x.c.toNat % 8 + 1] }
  | .vbcast x => { s := [x.b], v := if x.f.getLsbD 0 then [] else [(x.a, grp x.gs)], p := [x.pr.toNat],
                                  wv := [(x.d, grp x.gs)] }
  | .vextr x => { s := [x.b], v := [(x.a, grp x.gs)], ws := [x.d] }
  | .vins x => { s := [x.a, x.b], wv := [(x.d, grp x.gs)] }
  | .vslide x => { s := [x.b], v := [(x.a, grp x.gs)], p := [x.pr.toNat], wv := [(x.d, grp x.gs)] }
  | .viota x => { s := if x.f.getLsbD 6 then [x.b] else [], p := [x.pr.toNat], wv := [(x.d, grp x.gs)] }
  | .vcvt x =>
    match ety x.ty, ety (x.f.extractLsb' 0 5) with
    | some d, some s => { v := [(x.a, narrow (grp x.gs) s.w (max d.w s.w))], p := [x.pr.toNat],
                                  wv := [(x.d, narrow (grp x.gs) d.w (max d.w s.w))] }
    | _, _ => {}
  | .vqnt x =>
    match ety x.ty, ety (x.f.extractLsb' 0 5) with
    | some d, some s => { v := [(x.a, grp x.gs)], p := [x.pr.toNat], sc := [x.c.toNat % 16],
                                  wv := [(x.d, blkRegs d (grp x.gs * 2048 / s.w / 16))] }
    | _, _ => {}
  | .vdqnt x =>
    match ety x.ty, ety (x.f.extractLsb' 0 5) with
    | some d, some s => { v := [(x.a, blkRegs s (grp x.gs * 2048 / d.w / 16))], p := [x.pr.toNat],
                                  wv := [(x.d, grp x.gs)] }
    | _, _ => {}
  | .mjob x => { s := [x.a] }
  | .mdrn x => { s := [x.a], sc := [(x.hi.extractLsb' 4 4).toNat] }
  | .mrd x => { s := [x.a], wv := [(x.d, if x.hi.extractLsb' 4 2 == 2 then 2 else 1)] }
  | .mwr x => { s := [x.a], v := [(x.d, if x.hi.extractLsb' 4 2 == 2 then 2 else 1)] }
  | .scld x => { s := [x.a] }
  | .xsel x => { v := [(x.a, 1)] }
  | .xset x => { wx := [x.x.toNat] }
  | .ld x => { s := uLS x, ws := [x.d] }
  | .st x => { s := x.aux.extractLsb' 0 7 :: uLS x }
  | .ldr x => { s := uLS x }
  | .vld x => { s := uLV x, p := [x.pr.toNat], wv := [(x.d, grp x.gs)] }
  | .vst x => { s := uLV x, p := [x.pr.toNat], v := [(x.c, grp x.gs)] }
  | .vlds x => { s := [x.a, x.b], p := [x.pr.toNat], wv := [(x.d, grp x.gs)] }
  | .vgld x => { s := [x.a], v := [(x.b, grp x.gs)], p := [x.pr.toNat], wv := [(x.d, grp x.gs)] }
  | .vsct x => { s := [x.a], v := [(x.b, grp x.gs), (x.c, grp x.gs)], p := [x.pr.toNat] }
  | .vldr x => { s := [x.a], p := [x.pr.toNat] }
  | .atom x => { s := [x.a, x.c], ws := [x.d] }
  | .acas x => { s := [x.a, x.c, x.b], ws := [x.d] }
  | .acas128 x => { s := [x.a], sp := [x.c, x.b], wsp := [x.d] }
  | .barv x => { s := [x.a], ws := [x.d] }
  | .barw x => { s := [x.a, x.b, x.c], ws := [x.d] }
  | .fld x => { s := [x.a], g := [x.grant.toNat], ws := [x.d] }
  | .fst x => { s := [x.a, x.c], g := [x.grant.toNat] }
  | .fatom x => { s := [x.a, x.c], g := [x.grant.toNat], ws := [x.d] }
  | .port x | .mcst x => { s := [x.a] }
  | .cpub x => { s := [x.a, x.b] }
  | .launch x => { s := [x.a, x.b], ws := [x.d] }
  | .ssig x => { s := if x.f == 1 then [x.a, x.b, x.c] else [x.a, x.b], ws := [x.d] }
  | .swait x => { s := [x.a, x.b, x.c], ws := [x.d] }
  | .gset x => { s := [x.a], wg := [(x.d.extractLsb' 0 3).toNat] }
  | .gsetMint x => { s := [x.a, x.b], ws := [x.d] }
  | .carav x => { s := [x.a], g := if x.c.getLsbD 6 then [(x.c.extractLsb' 0 3).toNat] else [] }
  | .chkerr x => { ws := [x.d] }
  | .ckpt x => { s := [x.a], ws := [x.d] }
  | _ => {}

def cnt (p : BitVec 7 → Bool) (l : List (BitVec 7)) : Nat := (l.filter p).length
/-- A field that names a register other than s0. -/
def named (a : BitVec 7) : Bool := decide (0 < a.toNat) && decide (a.toNat < 64)

/-- Read ports of the files s, v, p, x, g (R69). -/
def readPorts (u : Uses) : List Nat :=
  [cnt named u.s + (u.sp.map (fun a => if a.toNat == 0 then 1 else if a.toNat < 64 then 2 else 0)).sum,
   cnt (fun a => a.toNat < 64) (u.v.map (·.1)), u.p.length, u.sc.length, u.g.length]

/-- Write ports of the files s, v, p, x, g (R69). -/
def writePorts (u : Uses) : List Nat :=
  [cnt named u.ws + (u.wsp.map (fun a => if a.toNat == 0 then 1 else if a.toNat < 64 then 2 else 0)).sum,
   cnt (fun a => a.toNat < 64) (u.wv.map (·.1)), u.wp.length, u.wx.length, u.wg.length]

def readBudget : List Nat := [8, 4, 2, 2, 2]
def writeBudget : List Nat := [4, 2, 2, 1, 1]

/-- The registers a slot writes, as file and index by name (R70). -/
def written (u : Uses) : List (Nat × Nat) :=
  (u.ws.filter named).map (fun a => (0, a.toNat)) ++
  (u.wsp.filter (fun a => a.toNat < 64)).flatMap (fun a => (if a.toNat == 0 then [] else [(0, a.toNat)]) ++ [(0, a.toNat + 1)]) ++
  (u.wv.filter (fun e => e.1.toNat < 64)).flatMap (fun e => (List.range e.2).map (fun i => (1, e.1.toNat + i))) ++
  u.wp.map (fun k => (2, k)) ++ u.wx.map (fun k => (3, k)) ++ u.wg.map (fun k => (4, k))

/-- The latches a slot reads (R56). -/
def latchReads (u : Uses) : List Nat :=
  ((u.s ++ u.sp ++ u.v.map (·.1)).filter isLatch).map (fun a => a.toNat - 0x70)

/-- The slot of an instruction: S, V, M, L, A, X as 0 to 5 (R52). -/
def slotOf : Instr → Option Nat
  | .add _ | .sub _ | .mul _ | .mulh _ | .mulhn _ | .div _ | .divn _ | .rem _ | .remn _ | .and _ | .or _ | .xor _
  | .shl _ | .shr _ | .sar _ | .rot _ | .min _ | .max _ | .minn _ | .maxn _ | .cmp _ | .sel _ | .clz _ | .popc _
  | .bfx _ | .bfi _ | .addi _ | .logi _ | .li _ | .lih _ | .fadd _ | .fsub _ | .fmul _ | .fma _ | .fdiv _
  | .fsqrt _ | .fmin _ | .fmax _ | .fcmp _ | .fcvt _ | .fclass _ | .csrr _ | .csrw _ | .pset _ | .psets _
  | .pcnt _ | .br _ | .bc _ | .call _ | .calli _ | .ret _ | .jmpi _ | .loop _ | .loopi _ | .lexit _ | .lidx _
  | .bswap _ | .trap _ | .eret _ | .waite _ | .yield _ | .exit _ => some 0
  | .vadd _ | .vsub _ | .vadds _ | .vsubs _ | .vmul _ | .vmulh _ | .vmin _ | .vmax _ | .vand _ | .vor _ | .vxor _
  | .vshl _ | .vshr _ | .vsar _ | .vabs _ | .vfadd _ | .vfsub _ | .vfmul _ | .vfma _ | .vfmin _ | .vfmax _
  | .vfsgn _ | .vrcp _ | .vrcpn _ | .vrsq _ | .vrsqn _ | .vexp2 _ | .vlog2 _ | .vcmp _ | .vsel _ | .vclass _
  | .vpres _ | .vabsnt _ | .vnrm _ | .vred _ | .vscan _ | .vpart _ | .vperm _ | .vgath _ | .vbcast _ | .vextr _
  | .vins _ | .vslide _ | .vzip _ | .vunzip _ | .vexpand _ | .vcompress _ | .viota _ | .vcvt _ | .vmaxa _
  | .vqnt _ | .vdqnt _ => some 1
  | .mjob _ | .mzero _ | .mdrn _ | .mkat _ | .mrd _ | .mwr _ | .mwait _ => some 2
  | .ld _ | .st _ | .ldr _ | .vld _ | .vst _ | .vlds _ | .vgld _ | .vsct _ | .vldr _ | .atom _ | .acas _
  | .acas128 _ | .barv _ | .barw _ | .drain _ | .fence _ | .fld _ | .fst _ | .fatom _ => some 3
  | .port _ | .cpub _ | .ipub _ | .launch _ | .ssig _ | .swait _ | .gbar _ | .gset _ | .gsetMint _ | .carav _
  | .mcst _ | .chkerr _ | .ckpt _ => some 4
  | .scld _ | .xsel _ | .xset _ => some 5
  | _ => none

/-- May the slot be boosted (R71)? -/
def mayBoost (i : Instr) : Bool :=
  match i with
  | .br _ | .bc _ | .call _ | .calli _ | .ret _ | .jmpi _ | .loop _ | .loopi _ | .lexit _ | .lidx _ | .bswap _
  | .trap _ | .eret _ | .waite _ | .yield _ | .exit _ | .csrw _ => false
  | .xsel _ | .xset _ | .ld _ | .vld _ | .vlds _ | .vgld _ => true
  | i => slotOf i == some 0 || slotOf i == some 1

/-- Is a Steward port a trigger (R302)? -/
def isTrigger (p : Nat) : Bool :=
  [65, 66, 67, 68, 69, 70, 71, 72, 73, 74, 80, 81, 82, 83, 97, 98, 114, 115, 129, 130, 416, 432].contains p ||
    (decide (0x100 ≤ p) && decide (p < 0x180) && [8, 9, 10, 11, 12, 13, 14, 16, 17].contains (p % 0x20))

/-- Does the instruction transfer control in a way an end bundle may not hold (R102)? -/
def transfers : Instr → Bool
  | .br _ | .bc _ | .call _ | .calli _ | .ret _ | .jmpi _ | .bswap _ | .eret _ => true
  | _ => false

end Sys2Proof.Machine
end

