-- ==== Sys2Proof/WellFormed.lean ====
section
/-! DEFINITION. WellFormed.lean: which instructions a bundle may hold (R73). -/

namespace Sys2Proof
open Sys2Proof.Machine

/-- A slot instruction is well-formed when no condition of R73 holds of it at handler level; a plain Steward move when its
destination is a port (R78) and no trigger (R302); an event always is. -/
def Instr.wf (i : Instr) : Bool :=
  match i with
  | .stewardMove _ dst => decide (dst.toNat < 0x400) && !isTrigger dst.toNat
  | .illegalOpcode _ => false
  | i => (causes true i).isEmpty

end Sys2Proof
end

