-- ==== Sys2Proof/Decode.lean ====
section
/-! DEFINITION. Decode.lean: slot words, bundles and Steward moves to instructions (R50-R68, R75, R302), total on any
bits; then the encoder, from the same tables. -/

namespace Sys2Proof
open Sys2Proof.Machine

/-- What one slot field holds (R53, R68): its NOP, an instruction, or the cause that refuses it. -/
inductive Dec where
  | nop
  | ins (i : Instr)
  | bad (cause : Nat)
deriving DecidableEq, Repr

def rfOf (w : BitVec 40) : RF :=
  ⟨w.extractLsb' 36 4, w.extractLsb' 29 7, w.extractLsb' 22 7, w.extractLsb' 15 7, w.extractLsb' 8 7⟩
def ifOf (w : BitVec 40) : IF := ⟨w.extractLsb' 22 18, w.extractLsb' 15 7, w.extractLsb' 8 7⟩
def lifOf (w : BitVec 40) : LIF := ⟨w.extractLsb' 39 1, w.extractLsb' 15 24, w.extractLsb' 8 7⟩
def bfOf (w : BitVec 40) : BF :=
  ⟨w.extractLsb' 20 20, w.extractLsb' 19 1, w.extractLsb' 18 1, w.extractLsb' 15 3, w.extractLsb' 8 7⟩
def vfOf (w : BitVec 56) : VF :=
  ⟨w.extractLsb' 49 7, w.extractLsb' 47 2, w.extractLsb' 42 5, w.extractLsb' 39 3, w.extractLsb' 36 3,
    w.extractLsb' 29 7, w.extractLsb' 22 7, w.extractLsb' 15 7, w.extractLsb' 8 7⟩
def mfOf (w : BitVec 32) : MF := ⟨w.extractLsb' 22 10, w.extractLsb' 15 7, w.extractLsb' 8 7⟩
def xfOf (w : BitVec 24) : XF := ⟨w.extractLsb' 19 5, w.extractLsb' 12 7, w.extractLsb' 8 4⟩
def lfOf (w : BitVec 48) : LF :=
  ⟨w.extractLsb' 43 5, w.extractLsb' 36 7, w.extractLsb' 29 7, w.extractLsb' 22 7, w.extractLsb' 15 7,
    w.extractLsb' 8 7⟩
def mvOf (w : BitVec 24) : MV := ⟨w.extractLsb' 22 2, w.extractLsb' 11 11⟩

/-- Opcode 0x00 (R53) and opcodes that the maps do not assign (R68). -/
def noOp {n : Nat} (w : BitVec n) : Dec :=
  if w = 0 then .nop else if w.extractLsb' 0 8 = 0 then .bad 1 else .bad 0

/-- The S slot (R64). -/
def decS (w : BitVec 40) : Dec :=
  match (w.extractLsb' 0 8).toNat with
  | 1 => .ins (.add (rfOf w))
  | 2 => .ins (.sub (rfOf w))
  | 3 => .ins (.mul (rfOf w))
  | 4 => .ins (.mulh (rfOf w))
  | 5 => .ins (.mulhn (rfOf w))
  | 6 => .ins (.div (rfOf w))
  | 7 => .ins (.divn (rfOf w))
  | 8 => .ins (.rem (rfOf w))
  | 9 => .ins (.remn (rfOf w))
  | 10 => .ins (.and (rfOf w))
  | 11 => .ins (.or (rfOf w))
  | 12 => .ins (.xor (rfOf w))
  | 13 => .ins (.shl (rfOf w))
  | 14 => .ins (.shr (rfOf w))
  | 15 => .ins (.sar (rfOf w))
  | 16 => .ins (.rot (rfOf w))
  | 17 => .ins (.min (rfOf w))
  | 18 => .ins (.max (rfOf w))
  | 19 => .ins (.minn (rfOf w))
  | 20 => .ins (.maxn (rfOf w))
  | 21 => .ins (.cmp (rfOf w))
  | 22 => .ins (.sel (rfOf w))
  | 23 => .ins (.clz (rfOf w))
  | 24 => .ins (.popc (rfOf w))
  | 25 => .ins (.bfx (rfOf w))
  | 26 => .ins (.bfi (rfOf w))
  | 32 => .ins (.addi (ifOf w))
  | 33 => .ins (.logi (ifOf w))
  | 34 => .ins (.li (lifOf w))
  | 35 => .ins (.lih (lifOf w))
  | 48 => .ins (.fadd (rfOf w))
  | 49 => .ins (.fsub (rfOf w))
  | 50 => .ins (.fmul (rfOf w))
  | 51 => .ins (.fma (rfOf w))
  | 52 => .ins (.fdiv (rfOf w))
  | 53 => .ins (.fsqrt (rfOf w))
  | 54 => .ins (.fmin (rfOf w))
  | 55 => .ins (.fmax (rfOf w))
  | 56 => .ins (.fcmp (rfOf w))
  | 57 => .ins (.fcvt (rfOf w))
  | 58 => .ins (.fclass (rfOf w))
  | 64 => .ins (.csrr (rfOf w))
  | 65 => .ins (.csrw (rfOf w))
  | 72 => .ins (.pset (rfOf w))
  | 73 => .ins (.psets (rfOf w))
  | 74 => .ins (.pcnt (rfOf w))
  | 80 => .ins (.br (bfOf w))
  | 81 => .ins (.bc (bfOf w))
  | 82 => .ins (.call (bfOf w))
  | 83 => .ins (.calli (rfOf w))
  | 84 => .ins (.ret (rfOf w))
  | 85 => .ins (.jmpi (rfOf w))
  | 86 => .ins (.loop (rfOf w))
  | 87 => .ins (.loopi (rfOf w))
  | 88 => .ins (.lexit (rfOf w))
  | 89 => .ins (.lidx (rfOf w))
  | 90 => .ins (.bswap (rfOf w))
  | 91 => .ins (.trap (rfOf w))
  | 92 => .ins (.eret (rfOf w))
  | 93 => .ins (.waite (rfOf w))
  | 94 => .ins (.yield (rfOf w))
  | 95 => .ins (.exit (rfOf w))
  | _ => noOp w

/-- The V slot (R65). -/
def decV (w : BitVec 56) : Dec :=
  match (w.extractLsb' 0 8).toNat with
  | 1 => .ins (.vadd (vfOf w))
  | 2 => .ins (.vsub (vfOf w))
  | 3 => .ins (.vadds (vfOf w))
  | 4 => .ins (.vsubs (vfOf w))
  | 5 => .ins (.vmul (vfOf w))
  | 6 => .ins (.vmulh (vfOf w))
  | 7 => .ins (.vmin (vfOf w))
  | 8 => .ins (.vmax (vfOf w))
  | 9 => .ins (.vand (vfOf w))
  | 10 => .ins (.vor (vfOf w))
  | 11 => .ins (.vxor (vfOf w))
  | 12 => .ins (.vshl (vfOf w))
  | 13 => .ins (.vshr (vfOf w))
  | 14 => .ins (.vsar (vfOf w))
  | 15 => .ins (.vabs (vfOf w))
  | 16 => .ins (.vfadd (vfOf w))
  | 17 => .ins (.vfsub (vfOf w))
  | 18 => .ins (.vfmul (vfOf w))
  | 19 => .ins (.vfma (vfOf w))
  | 20 => .ins (.vfmin (vfOf w))
  | 21 => .ins (.vfmax (vfOf w))
  | 22 => .ins (.vfsgn (vfOf w))
  | 32 => .ins (.vrcp (vfOf w))
  | 33 => .ins (.vrcpn (vfOf w))
  | 34 => .ins (.vrsq (vfOf w))
  | 35 => .ins (.vrsqn (vfOf w))
  | 36 => .ins (.vexp2 (vfOf w))
  | 37 => .ins (.vlog2 (vfOf w))
  | 48 => .ins (.vcmp (vfOf w))
  | 49 => .ins (.vsel (vfOf w))
  | 50 => .ins (.vclass (vfOf w))
  | 51 => .ins (.vpres (vfOf w))
  | 52 => .ins (.vabsnt (vfOf w))
  | 53 => .ins (.vnrm (vfOf w))
  | 54 => .ins (.vred (vfOf w))
  | 55 => .ins (.vscan (vfOf w))
  | 64 => .ins (.vpart (vfOf w))
  | 65 => .ins (.vperm (vfOf w))
  | 66 => .ins (.vgath (vfOf w))
  | 67 => .ins (.vbcast (vfOf w))
  | 68 => .ins (.vextr (vfOf w))
  | 69 => .ins (.vins (vfOf w))
  | 70 => .ins (.vslide (vfOf w))
  | 71 => .ins (.vzip (vfOf w))
  | 72 => .ins (.vunzip (vfOf w))
  | 73 => .ins (.vexpand (vfOf w))
  | 74 => .ins (.vcompress (vfOf w))
  | 75 => .ins (.viota (vfOf w))
  | 80 => .ins (.vcvt (vfOf w))
  | 81 => .ins (.vmaxa (vfOf w))
  | 82 => .ins (.vqnt (vfOf w))
  | 83 => .ins (.vdqnt (vfOf w))
  | _ => noOp w

/-- The M slot (R66). -/
def decM (w : BitVec 32) : Dec :=
  match (w.extractLsb' 0 8).toNat with
  | 1 => .ins (.mjob (mfOf w))
  | 2 => .ins (.mzero (mfOf w))
  | 3 => .ins (.mdrn (mfOf w))
  | 4 => .ins (.mkat (mfOf w))
  | 5 => .ins (.mrd (mfOf w))
  | 6 => .ins (.mwr (mfOf w))
  | 7 => .ins (.mwait (mfOf w))
  | _ => noOp w

/-- The L slot (R67). -/
def decL (w : BitVec 48) : Dec :=
  match (w.extractLsb' 0 8).toNat with
  | 1 => .ins (.ld (lfOf w))
  | 2 => .ins (.st (lfOf w))
  | 3 => .ins (.ldr (lfOf w))
  | 8 => .ins (.vld (lfOf w))
  | 9 => .ins (.vst (lfOf w))
  | 10 => .ins (.vlds (lfOf w))
  | 11 => .ins (.vgld (lfOf w))
  | 12 => .ins (.vsct (lfOf w))
  | 13 => .ins (.vldr (lfOf w))
  | 16 => .ins (.atom (lfOf w))
  | 17 => .ins (.acas (lfOf w))
  | 18 => .ins (.acas128 (lfOf w))
  | 24 => .ins (.barv (lfOf w))
  | 25 => .ins (.barw (lfOf w))
  | 32 => .ins (.drain (lfOf w))
  | 33 => .ins (.fence (lfOf w))
  | 40 => .ins (.fld (lfOf w))
  | 41 => .ins (.fst (lfOf w))
  | 42 => .ins (.fatom (lfOf w))
  | _ => noOp w

/-- The A slot (R67); bit 29 of GSET selects GSET.MINT (R362). -/
def decA (w : BitVec 40) : Dec :=
  match (w.extractLsb' 0 8).toNat with
  | 1 => .ins (.port (rfOf w))
  | 8 => .ins (.cpub (rfOf w))
  | 9 => .ins (.ipub (rfOf w))
  | 16 => .ins (.launch (rfOf w))
  | 17 => .ins (.ssig (rfOf w))
  | 18 => .ins (.swait (rfOf w))
  | 19 => .ins (.gbar (rfOf w))
  | 24 => if (rfOf w).c.getLsbD 0 then .ins (.gsetMint (rfOf w)) else .ins (.gset (rfOf w))
  | 25 => .ins (.carav (rfOf w))
  | 26 => .ins (.mcst (rfOf w))
  | 32 => .ins (.chkerr (rfOf w))
  | 33 => .ins (.ckpt (rfOf w))
  | _ => noOp w

/-- The X slot (R66). -/
def decX (w : BitVec 24) : Dec :=
  match (w.extractLsb' 0 8).toNat with
  | 1 => .ins (.scld (xfOf w))
  | 2 => .ins (.xsel (xfOf w))
  | 3 => .ins (.xset (xfOf w))
  | _ => noOp w

/-- The trigger an engine port code names within its block (R302). -/
def engTrig (x : MV) (n : BitVec 2) : Nat → Option Instr
  | 8 => some (.bkeLd x n)
  | 9 => some (.bkeSt x n)
  | 10 => some (.bkeMv8 x n)
  | 11 => some (.bkeMv4 x n)
  | 12 => some (.bkeMvb x n)
  | 13 => some (.bkeRed x n)
  | 14 => some (.bkeClr x n)
  | 16 => some (.deqCol x n)
  | 17 => some (.accRd x n)
  | _ => none

/-- A Steward move (R75, R302): a trigger where its destination is one, otherwise a plain move. -/
def decMove (w : BitVec 24) : Instr :=
  let x := mvOf w
  let dst := w.extractLsb' 0 11
  match dst.toNat with
  | 65 => .aluAdd x
  | 66 => .aluSub x
  | 67 => .aluAnd x
  | 68 => .aluOr x
  | 69 => .aluXor x
  | 70 => .aluShl x
  | 71 => .aluShr x
  | 72 => .aluEq x
  | 73 => .aluLt x
  | 74 => .aluLtn x
  | 80 => .brJump x
  | 81 => .brIf x
  | 82 => .brCall x
  | 83 => .brRet x
  | 97 => .lsuLd x
  | 98 => .lsuSt x
  | 114 => .semSig x
  | 115 => .semWait x
  | 129 => .rowLease x
  | 130 => .rowRelease x
  | 416 => .logRd x
  | 432 => .nmkDone x
  | p =>
    if 0x100 ≤ p ∧ p < 0x180 then (engTrig x (BitVec.ofNat 2 ((p - 0x100) / 0x20)) (p % 0x20)).getD (.stewardMove x dst)
    else .stewardMove x dst

/-- A bundle's header and its six slots, S, V, M, L, A, X (R50, R52). -/
structure Bundle where
  hdr : BitVec 16
  slots : List Dec
deriving DecidableEq, Repr

def decBundle (w : BitVec 256) : Bundle :=
  ⟨w.extractLsb' 0 16,
    [decS (w.extractLsb' 16 40), decV (w.extractLsb' 56 56), decM (w.extractLsb' 112 32), decL (w.extractLsb' 144 48),
     decA (w.extractLsb' 192 40), decX (w.extractLsb' 232 24)]⟩

/-- The header's fields (R51). -/
def hdrColour (h : BitVec 16) : BitVec 3 := h.extractLsb' 7 3
def hdrLe (h : BitVec 16) : Bool := h.getLsbD 6
def hdrBoost (h : BitVec 16) : BitVec 6 := h.extractLsb' 0 6
def hdrOk (h : BitVec 16) : Bool := h.extractLsb' 10 6 == 0

/-- The eight moves of a Steward bundle (R75). -/
def decMoves (w : BitVec 192) : List Instr := (List.range 8).map (fun i => decMove (w.extractLsb' (24 * i) 24))

def encRF (op : BitVec 8) (x : RF) : BitVec 40 := x.f ++ x.c ++ x.b ++ x.a ++ x.d ++ op
def encIF (op : BitVec 8) (x : IF) : BitVec 40 := x.imm ++ x.a ++ x.d ++ op
def encLIF (op : BitVec 8) (x : LIF) : BitVec 40 := x.z ++ x.imm ++ x.d ++ op
def encBF (op : BitVec 8) (x : BF) : BitVec 40 := x.off ++ x.br ++ x.pd ++ x.cc ++ x.a ++ op
def encVF (op : BitVec 8) (x : VF) : BitVec 56 :=
  x.f ++ x.rm ++ x.ty ++ x.gs ++ x.pr ++ x.c ++ x.b ++ x.a ++ x.d ++ op
def encMF (op : BitVec 8) (x : MF) : BitVec 32 := x.hi ++ x.a ++ x.d ++ op
def encXF (op : BitVec 8) (x : XF) : BitVec 24 := x.hi ++ x.a ++ x.x ++ op
def encLF (op : BitVec 8) (x : LF) : BitVec 48 := x.ty ++ x.m ++ x.c ++ x.b ++ x.a ++ x.d ++ op
def encMV (x : MV) (dst : BitVec 11) : BitVec 24 := x.g ++ x.src ++ dst
def encEng (x : MV) (n : BitVec 2) (t : BitVec 5) : BitVec 24 := encMV x ((2#4 : BitVec 4) ++ n ++ t)

/-- The word of a slot instruction or of a Steward move; `none` for an event, which has no word. -/
def encode : Instr → Option Nat
  | .add x => some (encRF 1 x).toNat
  | .sub x => some (encRF 2 x).toNat
  | .mul x => some (encRF 3 x).toNat
  | .mulh x => some (encRF 4 x).toNat
  | .mulhn x => some (encRF 5 x).toNat
  | .div x => some (encRF 6 x).toNat
  | .divn x => some (encRF 7 x).toNat
  | .rem x => some (encRF 8 x).toNat
  | .remn x => some (encRF 9 x).toNat
  | .and x => some (encRF 10 x).toNat
  | .or x => some (encRF 11 x).toNat
  | .xor x => some (encRF 12 x).toNat
  | .shl x => some (encRF 13 x).toNat
  | .shr x => some (encRF 14 x).toNat
  | .sar x => some (encRF 15 x).toNat
  | .rot x => some (encRF 16 x).toNat
  | .min x => some (encRF 17 x).toNat
  | .max x => some (encRF 18 x).toNat
  | .minn x => some (encRF 19 x).toNat
  | .maxn x => some (encRF 20 x).toNat
  | .cmp x => some (encRF 21 x).toNat
  | .sel x => some (encRF 22 x).toNat
  | .clz x => some (encRF 23 x).toNat
  | .popc x => some (encRF 24 x).toNat
  | .bfx x => some (encRF 25 x).toNat
  | .bfi x => some (encRF 26 x).toNat
  | .addi x => some (encIF 32 x).toNat
  | .logi x => some (encIF 33 x).toNat
  | .li x => some (encLIF 34 x).toNat
  | .lih x => some (encLIF 35 x).toNat
  | .fadd x => some (encRF 48 x).toNat
  | .fsub x => some (encRF 49 x).toNat
  | .fmul x => some (encRF 50 x).toNat
  | .fma x => some (encRF 51 x).toNat
  | .fdiv x => some (encRF 52 x).toNat
  | .fsqrt x => some (encRF 53 x).toNat
  | .fmin x => some (encRF 54 x).toNat
  | .fmax x => some (encRF 55 x).toNat
  | .fcmp x => some (encRF 56 x).toNat
  | .fcvt x => some (encRF 57 x).toNat
  | .fclass x => some (encRF 58 x).toNat
  | .csrr x => some (encRF 64 x).toNat
  | .csrw x => some (encRF 65 x).toNat
  | .pset x => some (encRF 72 x).toNat
  | .psets x => some (encRF 73 x).toNat
  | .pcnt x => some (encRF 74 x).toNat
  | .br x => some (encBF 80 x).toNat
  | .bc x => some (encBF 81 x).toNat
  | .call x => some (encBF 82 x).toNat
  | .calli x => some (encRF 83 x).toNat
  | .ret x => some (encRF 84 x).toNat
  | .jmpi x => some (encRF 85 x).toNat
  | .loop x => some (encRF 86 x).toNat
  | .loopi x => some (encRF 87 x).toNat
  | .lexit x => some (encRF 88 x).toNat
  | .lidx x => some (encRF 89 x).toNat
  | .bswap x => some (encRF 90 x).toNat
  | .trap x => some (encRF 91 x).toNat
  | .eret x => some (encRF 92 x).toNat
  | .waite x => some (encRF 93 x).toNat
  | .yield x => some (encRF 94 x).toNat
  | .exit x => some (encRF 95 x).toNat
  | .vadd x => some (encVF 1 x).toNat
  | .vsub x => some (encVF 2 x).toNat
  | .vadds x => some (encVF 3 x).toNat
  | .vsubs x => some (encVF 4 x).toNat
  | .vmul x => some (encVF 5 x).toNat
  | .vmulh x => some (encVF 6 x).toNat
  | .vmin x => some (encVF 7 x).toNat
  | .vmax x => some (encVF 8 x).toNat
  | .vand x => some (encVF 9 x).toNat
  | .vor x => some (encVF 10 x).toNat
  | .vxor x => some (encVF 11 x).toNat
  | .vshl x => some (encVF 12 x).toNat
  | .vshr x => some (encVF 13 x).toNat
  | .vsar x => some (encVF 14 x).toNat
  | .vabs x => some (encVF 15 x).toNat
  | .vfadd x => some (encVF 16 x).toNat
  | .vfsub x => some (encVF 17 x).toNat
  | .vfmul x => some (encVF 18 x).toNat
  | .vfma x => some (encVF 19 x).toNat
  | .vfmin x => some (encVF 20 x).toNat
  | .vfmax x => some (encVF 21 x).toNat
  | .vfsgn x => some (encVF 22 x).toNat
  | .vrcp x => some (encVF 32 x).toNat
  | .vrcpn x => some (encVF 33 x).toNat
  | .vrsq x => some (encVF 34 x).toNat
  | .vrsqn x => some (encVF 35 x).toNat
  | .vexp2 x => some (encVF 36 x).toNat
  | .vlog2 x => some (encVF 37 x).toNat
  | .vcmp x => some (encVF 48 x).toNat
  | .vsel x => some (encVF 49 x).toNat
  | .vclass x => some (encVF 50 x).toNat
  | .vpres x => some (encVF 51 x).toNat
  | .vabsnt x => some (encVF 52 x).toNat
  | .vnrm x => some (encVF 53 x).toNat
  | .vred x => some (encVF 54 x).toNat
  | .vscan x => some (encVF 55 x).toNat
  | .vpart x => some (encVF 64 x).toNat
  | .vperm x => some (encVF 65 x).toNat
  | .vgath x => some (encVF 66 x).toNat
  | .vbcast x => some (encVF 67 x).toNat
  | .vextr x => some (encVF 68 x).toNat
  | .vins x => some (encVF 69 x).toNat
  | .vslide x => some (encVF 70 x).toNat
  | .vzip x => some (encVF 71 x).toNat
  | .vunzip x => some (encVF 72 x).toNat
  | .vexpand x => some (encVF 73 x).toNat
  | .vcompress x => some (encVF 74 x).toNat
  | .viota x => some (encVF 75 x).toNat
  | .vcvt x => some (encVF 80 x).toNat
  | .vmaxa x => some (encVF 81 x).toNat
  | .vqnt x => some (encVF 82 x).toNat
  | .vdqnt x => some (encVF 83 x).toNat
  | .mjob x => some (encMF 1 x).toNat
  | .mzero x => some (encMF 2 x).toNat
  | .mdrn x => some (encMF 3 x).toNat
  | .mkat x => some (encMF 4 x).toNat
  | .mrd x => some (encMF 5 x).toNat
  | .mwr x => some (encMF 6 x).toNat
  | .mwait x => some (encMF 7 x).toNat
  | .ld x => some (encLF 1 x).toNat
  | .st x => some (encLF 2 x).toNat
  | .ldr x => some (encLF 3 x).toNat
  | .vld x => some (encLF 8 x).toNat
  | .vst x => some (encLF 9 x).toNat
  | .vlds x => some (encLF 10 x).toNat
  | .vgld x => some (encLF 11 x).toNat
  | .vsct x => some (encLF 12 x).toNat
  | .vldr x => some (encLF 13 x).toNat
  | .atom x => some (encLF 16 x).toNat
  | .acas x => some (encLF 17 x).toNat
  | .acas128 x => some (encLF 18 x).toNat
  | .barv x => some (encLF 24 x).toNat
  | .barw x => some (encLF 25 x).toNat
  | .drain x => some (encLF 32 x).toNat
  | .fence x => some (encLF 33 x).toNat
  | .fld x => some (encLF 40 x).toNat
  | .fst x => some (encLF 41 x).toNat
  | .fatom x => some (encLF 42 x).toNat
  | .port x => some (encRF 1 x).toNat
  | .cpub x => some (encRF 8 x).toNat
  | .ipub x => some (encRF 9 x).toNat
  | .launch x => some (encRF 16 x).toNat
  | .ssig x => some (encRF 17 x).toNat
  | .swait x => some (encRF 18 x).toNat
  | .gbar x => some (encRF 19 x).toNat
  | .gset x => some (encRF 24 x).toNat
  | .gsetMint x => some (encRF 24 x).toNat
  | .carav x => some (encRF 25 x).toNat
  | .mcst x => some (encRF 26 x).toNat
  | .chkerr x => some (encRF 32 x).toNat
  | .ckpt x => some (encRF 33 x).toNat
  | .scld x => some (encXF 1 x).toNat
  | .xsel x => some (encXF 2 x).toNat
  | .xset x => some (encXF 3 x).toNat
  | .stewardMove x dst => some (encMV x dst).toNat
  | .aluAdd x => some (encMV x 65).toNat
  | .aluSub x => some (encMV x 66).toNat
  | .aluAnd x => some (encMV x 67).toNat
  | .aluOr x => some (encMV x 68).toNat
  | .aluXor x => some (encMV x 69).toNat
  | .aluShl x => some (encMV x 70).toNat
  | .aluShr x => some (encMV x 71).toNat
  | .aluEq x => some (encMV x 72).toNat
  | .aluLt x => some (encMV x 73).toNat
  | .aluLtn x => some (encMV x 74).toNat
  | .brJump x => some (encMV x 80).toNat
  | .brIf x => some (encMV x 81).toNat
  | .brCall x => some (encMV x 82).toNat
  | .brRet x => some (encMV x 83).toNat
  | .lsuLd x => some (encMV x 97).toNat
  | .lsuSt x => some (encMV x 98).toNat
  | .semSig x => some (encMV x 114).toNat
  | .semWait x => some (encMV x 115).toNat
  | .rowLease x => some (encMV x 129).toNat
  | .rowRelease x => some (encMV x 130).toNat
  | .logRd x => some (encMV x 416).toNat
  | .nmkDone x => some (encMV x 432).toNat
  | .bkeLd x n => some (encEng x n 8).toNat
  | .bkeSt x n => some (encEng x n 9).toNat
  | .bkeMv8 x n => some (encEng x n 10).toNat
  | .bkeMv4 x n => some (encEng x n 11).toNat
  | .bkeMvb x n => some (encEng x n 12).toNat
  | .bkeRed x n => some (encEng x n 13).toNat
  | .bkeClr x n => some (encEng x n 14).toNat
  | .deqCol x n => some (encEng x n 16).toNat
  | .accRd x n => some (encEng x n 17).toNat
  | .nop => some 0
  | _ => none

/-- Bits of the slot field or move that holds an instruction (R50, R75). -/
def fieldBits (i : Instr) : Option Nat :=
  match slotOf i with
  | some 0 => some 40
  | some 1 => some 56
  | some 2 => some 32
  | some 3 => some 48
  | some 4 => some 40
  | some 5 => some 24
  | _ => if (encode i).isSome then some 24 else none

/-- What a slot decodes to, as an instruction. -/
def Dec.instr? : Dec → Option Instr
  | .nop => some .nop
  | .ins i => some i
  | .bad _ => none

/-- The one instruction of a whole bundle whose other slots are NOPs. -/
def Bundle.single (b : Bundle) : Option Instr :=
  match b.slots.filter (fun d => d != .nop) with
  | [] => some .nop
  | [d] => d.instr?
  | _ => none

/-- A 24-bit word is an X-slot field when its opcode is an X-slot opcode, and a Steward move otherwise. -/
def isXWord (w : Nat) : Bool := decide (1 ≤ w % 256) && decide (w % 256 ≤ 3)

/-- The instruction that a word of the opcode table decodes to, by the width of the field that holds it. -/
def decodeTableWord (nbits w : Nat) : Option Instr :=
  if nbits = 24 then
    if isXWord w then (decX (BitVec.ofNat 24 w)).instr? else some (decMove (BitVec.ofNat 24 w))
  else if nbits = 32 then (decM (BitVec.ofNat 32 w)).instr?
  else if nbits = 40 then
    match decS (BitVec.ofNat 40 w) with
    | .bad _ => (decA (BitVec.ofNat 40 w)).instr?
    | d => d.instr?
  else if nbits = 48 then (decL (BitVec.ofNat 48 w)).instr?
  else if nbits = 56 then (decV (BitVec.ofNat 56 w)).instr?
  else if nbits = 256 then (decBundle (BitVec.ofNat 256 w)).single
  else none

end Sys2Proof
end

