-- ==== Sys2Proof/Machine/Flags.lean ====
section
/-! DEFINITION. Flags.lean: the number formats, exact values, every rounding, and the exception flags that operations
raise (R13-R48). A result is a pair of bits and flags; flags are NV, DZ, OF, UF, NX, CSAT from bit 0 (R136). -/

namespace Sys2Proof.Machine
open Sys2Proof

abbrev Fl := BitVec 6
def fNV : Fl := 1
def fDZ : Fl := 2
def fOF : Fl := 4
def fUF : Fl := 8
def fNX : Fl := 16
def fCSAT : Fl := 32

/-- Rounding modes (R37). -/
inductive Rm where
  | rne | rtz | rdn | rup
deriving DecidableEq, Repr

/-- The mode of an FPC.RM code (R37). -/
def rmOf (c : BitVec 2) : Rm :=
  if c = 0 then .rne else if c = 1 then .rtz else if c = 2 then .rdn else .rup

/-- The mode of an instruction's rm field under FPC.RM (R37). -/
def rmDyn (rm fpcRm : BitVec 2) : Rm := if rm = 3 then rmOf fpcRm else rmOf rm

/-- Significand bits with the hidden bit, and the least normal exponent (R14). -/
def fprec : ETy → Nat
  | .f64 => 53 | .f32 => 24 | .f16 => 11 | _ => 8
def femin : ETy → Int
  | .f64 => -1022 | .f16 => -14 | _ => -126

/-- The absent code of a type; a view has none (R13). -/
def absentCode : ETy → Option Nat
  | .i4 => some 0x8 | .i8 => some 0x80 | .i16 => some 0x8000 | .i32 => some 0x80000000
  | .i64 => some 0x8000000000000000
  | .f64 => some 0xFFF8000000000001 | .f32 => some 0xFFC00001 | .f16 => some 0xFE01 | .bf16 => some 0xFFC1
  | .bm8 => some 0x80 | .bm5 => some 0x10 | .bm3 => some 0x4
  | _ => none

/-- The default NaN (R13). -/
def dnan : ETy → Nat
  | .f64 => 0x7FF8000000000000 | .f32 => 0x7FC00000 | .f16 => 0x7E00 | _ => 0x7FC0

def isAbsent (t : ETy) (b : Nat) : Bool := absentCode t == some b
/-- The absent code, or 0 where the format has none: the fill code of R169. -/
def fill (t : ETy) : Nat := (absentCode t).getD 0

/-- A floating-point value (R14, R15): a finite one is (-1)^neg m 2^e. -/
inductive FVal where
  | absent | snan | qnan
  | inf (neg : Bool)
  | fin (neg : Bool) (m : Nat) (e : Int)
deriving DecidableEq, Repr

/-- The value of a pattern (R14, R15). -/
def fval (t : ETy) (b : Nat) : FVal :=
  let p := fprec t
  let f := b % 2 ^ (p - 1)
  let e := b / 2 ^ (p - 1) % 2 ^ (t.w - p)
  let neg := b / 2 ^ (t.w - 1) % 2 == 1
  if isAbsent t b then .absent
  else if e = 2 ^ (t.w - p) - 1 then
    if f = 0 then .inf neg else if f / 2 ^ (p - 2) % 2 = 1 then .qnan else .snan
  else if e = 0 then .fin neg f (femin t - (p - 1 : Nat))
  else .fin neg (f + 2 ^ (p - 1)) (femin t - (p - 1 : Nat) + (e - 1 : Nat))

def signBit (t : ETy) (neg : Bool) : Nat := if neg then 2 ^ (t.w - 1) else 0
def infBits (t : ETy) (neg : Bool) : Nat := signBit t neg + (2 ^ (t.w - fprec t) - 1) * 2 ^ (fprec t - 1)
def maxFin (t : ETy) (neg : Bool) : Nat := infBits t neg - 1

/-- Floor of log2 of num / den, both positive. -/
def log2Q (num den : Nat) : Int :=
  let l : Int := (Nat.log2 num : Int) - (Nat.log2 den : Int)
  if 0 ≤ l then (if num < den * 2 ^ l.toNat then l - 1 else l)
  else (if num * 2 ^ (-l).toNat < den then l - 1 else l)

/-- num / den scaled by 2^s, as a fraction. -/
def scaleQ (num den : Nat) (s : Int) : Nat × Nat :=
  if 0 ≤ s then (num * 2 ^ s.toNat, den) else (num, den * 2 ^ (-s).toNat)

/-- Round a non-negative fraction to an integer, the sign of the value given (R37): the integer, and whether it is
inexact. -/
def roundInt (rm : Rm) (neg : Bool) (num den : Nat) : Nat × Bool :=
  let q := num / den
  let r := num % den
  let up : Bool :=
    match rm with
    | .rne => decide (2 * r > den) || (2 * r == den && q % 2 == 1)
    | .rtz => false
    | .rdn => neg && decide (r > 0)
    | .rup => !neg && decide (r > 0)
  (if up then q + 1 else q, decide (r > 0))

/-- Where an overflow goes in each mode (R39, R40). -/
def overflow (t : ETy) (rm : Rm) (neg : Bool) : Nat × Fl :=
  let toInf := match rm with
    | .rne => true
    | .rtz => false
    | .rdn => neg
    | .rup => !neg
  (if toInf then infBits t neg else maxFin t neg, fOF ||| fNX)

/-- Round (-1)^neg (num / den) 2^e once into an IEEE format, with OF, UF and NX (R37-R40); num and den positive.
Tininess is found after rounding. -/
def roundQ (t : ETy) (rm : Rm) (neg : Bool) (num den : Nat) (e : Int) : Nat × Fl :=
  let p := fprec t
  let E := log2Q num den + e
  let qmin := femin t - (p - 1 : Nat)
  let q := max (E - (p - 1 : Nat)) qmin
  let (a, b) := scaleQ num den (e - q)
  let (r, inex) := roundInt rm neg a b
  let bits := (q - qmin).toNat * 2 ^ (p - 1) + r
  if bits ≥ infBits t false then overflow t rm neg
  else
    let tiny : Bool :=
      if E < femin t then
        let (a0, b0) := scaleQ num den (e - (E - (p - 1 : Nat)))
        let r0 := (roundInt rm neg a0 b0).1
        !(E + 1 == femin t && r0 == 2 ^ p)
      else false
    (signBit t neg + bits, if inex then (if tiny then fUF ||| fNX else fNX) else 0)

/-- Round a dyadic (-1)^neg m 2^e; zero keeps its sign. -/
def roundD (t : ETy) (rm : Rm) (neg : Bool) (m : Nat) (e : Int) : Nat × Fl :=
  if m = 0 then (signBit t neg, 0) else roundQ t rm neg m 1 e

/-- A signed exact integer at 2^e. -/
def signedM (neg : Bool) (m : Nat) : Int := if neg then -(m : Int) else m

/-- Exact sum of two dyadics: mantissa and exponent. -/
def sumD (x : Int) (ex : Int) (y : Int) (ey : Int) : Int × Int :=
  let e := min ex ey
  (x * 2 ^ (ex - e).toNat + y * 2 ^ (ey - e).toNat, e)

/-- Round an exact dyadic sum; `zneg` is the sign of a zero result (R39). -/
def roundS (t : ETy) (rm : Rm) (m : Int) (e : Int) (zneg : Bool) : Nat × Fl :=
  if m = 0 then (signBit t zneg, 0) else roundD t rm (decide (m < 0)) m.natAbs e

/-- Sign of an exact zero sum (R39): equal signs of two zeros are kept, otherwise minus under RDN only. -/
def zeroSign (rm : Rm) (bothZero : Bool) (sx sy : Bool) : Bool :=
  if bothZero && sx == sy then sx else rm == .rdn

/-- Steps 1, 2 and 4 of R29 over the operands; `k` gives step 5. -/
def r29 (t : ETy) (xs : List FVal) (k : Nat × Fl) : Nat × Fl :=
  if xs.any (· == .absent) then (fill t, 0)
  else if xs.any (· == .snan) then (dnan t, fNV)
  else if xs.any (· == .qnan) then (dnan t, 0)
  else k

/-- Sum of two values that are no NaN and not absent (R39). -/
def addV (t : ETy) (rm : Rm) (x y : FVal) : Nat × Fl :=
  match x, y with
  | .inf s, .inf s' => if s == s' then (infBits t s, 0) else (dnan t, fNV)
  | .inf s, _ => (infBits t s, 0)
  | _, .inf s => (infBits t s, 0)
  | .fin sx mx ex, .fin sy my ey =>
    let (m, e) := sumD (signedM sx mx) ex (signedM sy my) ey
    roundS t rm m e (zeroSign rm (mx == 0 && my == 0) sx sy)
  | _, _ => (dnan t, 0)

def negV : FVal → FVal
  | .inf s => .inf (!s)
  | .fin s m e => .fin (!s) m e
  | x => x

def fAdd (t : ETy) (rm : Rm) (a b : Nat) : Nat × Fl :=
  let x := fval t a; let y := fval t b
  r29 t [x, y] (addV t rm x y)

def fSub (t : ETy) (rm : Rm) (a b : Nat) : Nat × Fl :=
  let x := fval t a; let y := fval t b
  r29 t [x, y] (addV t rm x (negV y))

/-- Product of values that are no NaN and not absent; 0 x infinity is invalid. -/
def fMul (t : ETy) (rm : Rm) (a b : Nat) : Nat × Fl :=
  let x := fval t a; let y := fval t b
  r29 t [x, y] (match x, y with
    | .inf s, .inf s' => (infBits t (s != s'), 0)
    | .inf s, .fin s' m _ => if m = 0 then (dnan t, fNV) else (infBits t (s != s'), 0)
    | .fin s' m _, .inf s => if m = 0 then (dnan t, fNV) else (infBits t (s != s'), 0)
    | .fin s m e, .fin s' m' e' => roundD t rm (s != s') (m * m') (e + e')
    | _, _ => (dnan t, 0))

def isZeroV : FVal → Bool
  | .fin _ 0 _ => true
  | _ => false
def isInfV : FVal → Bool
  | .inf _ => true
  | _ => false

/-- a x b + c with one rounding; steps 2 and 3 of R29 before step 4. -/
def fMa (t : ETy) (rm : Rm) (a b c : Nat) : Nat × Fl :=
  let x := fval t a; let y := fval t b; let z := fval t c
  if [x, y, z].any (· == .absent) then (fill t, 0)
  else if [x, y, z].any (· == .snan) then (dnan t, fNV)
  else if (isZeroV x && isInfV y) || (isInfV x && isZeroV y) then (dnan t, fNV)
  else if [x, y, z].any (· == .qnan) then (dnan t, 0)
  else
    match x, y with
    | .inf s, .inf s' => addV t rm (.inf (s != s')) z
    | .inf s, .fin s' _ _ => addV t rm (.inf (s != s')) z
    | .fin s' _ _, .inf s => addV t rm (.inf (s != s')) z
    | .fin s m e, .fin s' m' e' => addV t rm (.fin (s != s') (m * m') (e + e')) z
    | _, _ => (dnan t, 0)

/-- Quotient (R129): 0/0 and infinity/infinity are invalid, a finite non-zero value over zero divides by zero. -/
def fDiv (t : ETy) (rm : Rm) (a b : Nat) : Nat × Fl :=
  let x := fval t a; let y := fval t b
  r29 t [x, y] (match x, y with
    | .inf _, .inf _ => (dnan t, fNV)
    | .inf s, .fin s' _ _ => (infBits t (s != s'), 0)
    | .fin s _ _, .inf s' => (signBit t (s != s'), 0)
    | .fin s m e, .fin s' m' e' =>
      if m' = 0 then (if m = 0 then (dnan t, fNV) else (infBits t (s != s'), fDZ))
      else if m = 0 then (signBit t (s != s'), 0)
      else roundQ t rm (s != s') m m' (e - e')
    | _, _ => (dnan t, 0))

/-- Integer square root of `n` by bits, from 2^k down: the root so far is `r`. -/
def isqrtGo (n : Nat) : Nat → Nat → Nat
  | 0, r => r
  | k + 1, r => isqrtGo n k (if (r + 2 ^ k) * (r + 2 ^ k) ≤ n then r + 2 ^ k else r)

def isqrt (n : Nat) : Nat := isqrtGo n (Nat.log2 n / 2 + 1) 0

/-- Odd exponents are moved into the mantissa, so that the exponent is even. -/
def evenExp (m : Nat) (e : Int) : Nat × Int := if e % 2 = 0 then (m, e) else (2 * m, e - 1)

/-- An irrational value is known by its floor at 2^(e) and lies strictly above it: half a unit stands for the rest. -/
def stick (fl : Nat) (exact : Bool) : Nat := 2 * fl + (if exact then 0 else 1)

def fSqrt (t : ETy) (rm : Rm) (a : Nat) : Nat × Fl :=
  let x := fval t a
  r29 t [x] (match x with
    | .inf s => if s then (dnan t, fNV) else (infBits t false, 0)
    | .fin s m e =>
      if m = 0 then (signBit t s, 0)
      else if s then (dnan t, fNV)
      else
        let (m1, e1) := evenExp m e
        let n := m1 * 2 ^ 128
        let r := isqrt n
        roundD t rm false (stick r (r * r == n)) (e1 / 2 - 65)
    | _ => (dnan t, 0))

/-- Order of two values that are no NaN: -1, 0 or 1, with +0 = -0. -/
def cmpV (x y : FVal) : Int :=
  match x, y with
  | .inf s, .inf s' => if s == s' then 0 else if s then -1 else 1
  | .inf s, _ => if s then -1 else 1
  | _, .inf s => if s then 1 else -1
  | .fin s m e, .fin s' m' e' =>
    let (d, _) := sumD (signedM s m) e (-(signedM s' m')) e'
    if d < 0 then -1 else if d = 0 then 0 else 1
  | _, _ => 0

def negOf : FVal → Bool
  | .inf s => s
  | .fin s _ _ => s
  | _ => false

/-- Is a below b in the order that puts -0 below +0 (R130, R152)? -/
def below (x y : FVal) : Bool :=
  let c := cmpV x y
  decide (c < 0) || (c == 0 && negOf x && !negOf y)

/-- FMIN (`mx` false) and FMAX (R130). -/
def fMinMax (t : ETy) (mx : Bool) (a b : Nat) : Nat × Fl :=
  let x := fval t a; let y := fval t b
  r29 t [x, y] (if mx then (if below x y then b else a, 0) else (if below y x then b else a, 0))

/-- VFMIN and VFMAX: absent is the identity (R152). -/
def vfMinMax (t : ETy) (mx : Bool) (a b : Nat) : Nat × Fl :=
  if isAbsent t a then (b, 0) else if isAbsent t b then (a, 0) else fMinMax t mx a b

/-- The ordered result of a condition and its unordered result with NV on a quiet NaN (R131). -/
def fcond (cc : Nat) (c : Int) : Bool :=
  match cc with
  | 0 => c == 0 | 1 => c != 0 | 2 => c < 0 | 3 => c ≤ 0 | 4 => 0 < c | 5 => 0 ≤ c | 6 => false | _ => true
def funord (cc : Nat) : Bool := cc == 1 || cc == 6
def fquietNV (cc : Nat) : Bool := decide (2 ≤ cc) && decide (cc ≤ 5)

/-- FCMP and VCMP on a floating type: `none` when an operand is absent (R131, R159). -/
def fCmp (t : ETy) (cc : Nat) (a b : Nat) : Option Bool × Fl :=
  let x := fval t a; let y := fval t b
  if x == .absent || y == .absent then (none, 0)
  else if x == .snan || y == .snan then (some (funord cc), fNV)
  else if x == .qnan || y == .qnan then (some (funord cc), if fquietNV cc then fNV else 0)
  else (some (fcond cc (cmpV x y)), 0)

/-- The one-hot class (R132). -/
def fClass (t : ETy) (a : Nat) : Nat :=
  match fval t a with
  | .inf true => 1
  | .inf false => 128
  | .snan => 256
  | .qnan => 512
  | .absent => 1024
  | .fin s m _ =>
    if m = 0 then (if s then 8 else 16)
    else if m < 2 ^ (fprec t - 1) then (if s then 4 else 32)
    else (if s then 2 else 64)

/-- An integer of a type: its value under R17 and R29, the type's sign. -/
def ival (t : ETy) (b : Nat) : Int := if t.isI && decide (2 ^ (t.w - 1) ≤ b) then (b : Int) - 2 ^ t.w else b
def ibits (w : Nat) (v : Int) : Nat := (v % 2 ^ w).toNat
/-- The limits of a type (R17, R39). -/
def imax (t : ETy) : Int := if t.isI then 2 ^ (t.w - 1) - 1 else 2 ^ t.w - 1
def imin (t : ETy) : Int := if t.isI then -(2 ^ (t.w - 1) - 1) else 0
def isat (t : ETy) (v : Int) : Int := max (imin t) (min (imax t) v)

/-- Conversion (R39, R133, R179). -/
def cvt (d s : ETy) (rm : Rm) (b : Nat) : Nat × Fl :=
  if s.isF then
    match fval s b with
    | .absent => if d.isN then (0, fNV) else (fill d, 0)
    | .snan => if d.isF then (dnan d, fNV) else (0, fNV)
    | .qnan => if d.isF then (dnan d, 0) else (0, fNV)
    | .inf neg => if d.isF then (infBits d neg, 0) else (ibits d.w (if neg then imin d else imax d), fNV)
    | .fin neg m e =>
      if d.isF then roundD d rm neg m e
      else
        let (a, c) := scaleQ m 1 e
        let (r, inex) := roundInt rm neg a c
        let v := signedM neg r
        if v < imin d then (ibits d.w (imin d), fNV)
        else if imax d < v then (ibits d.w (imax d), fNV)
        else (ibits d.w v, if inex then fNX else 0)
  else if isAbsent s b then (if d.isN then (0, fNV) else (fill d, 0))
  else
    let v := ival s b
    if d.isF then roundS d rm v 0 false
    else if v < imin d then (ibits d.w (imin d), fNV)
    else if imax d < v then (ibits d.w (imax d), fNV)
    else (ibits d.w v, 0)

/-! ### Special functions (R154-R158) -/

/-- Round to nearest even onto multiples of 2^max(E - 14, -149) (R155): VRCP and VRSQ of .F32. -/
def est15 (neg : Bool) (num den : Nat) (e : Int) : Nat × Fl :=
  let E := log2Q num den + e
  let q := max (E - 14) (-149)
  let (a, b) := scaleQ num den (e - q)
  let (r, inex) := roundInt .rne neg a b
  let (bits, fl) := roundD .f32 .rne neg r q
  if fl &&& fOF != 0 then (infBits .f32 neg, fOF ||| fNX)
  else (bits, if inex then (if bits % 2 ^ 31 < 2 ^ 23 then fUF ||| fNX else fNX) else 0)

/-- Flags of R155 for a result rounded in one format: ties of UF follow the rounded magnitude. -/
def estFlags (t : ETy) (neg : Bool) (r : Nat × Fl) : Nat × Fl :=
  if r.2 &&& fOF != 0 then (infBits t neg, fOF ||| fNX)
  else if r.2 &&& fNX != 0 then (r.1, if r.1 % 2 ^ (t.w - 1) < 2 ^ (fprec t - 1) then fUF ||| fNX else fNX)
  else (r.1, 0)

def estRound (t : ETy) (neg : Bool) (num den : Nat) (e : Int) : Nat × Fl :=
  if t == .f32 then est15 neg num den e else estFlags t neg (roundQ t .rne neg num den e)

/-- VRCP (R155, R156), and the entry of R156 for any type. -/
def vRcp (t : ETy) (a : Nat) : Nat × Fl :=
  match fval t a with
  | .absent => (fill t, 0)
  | .snan => (dnan t, fNV)
  | .qnan => (dnan t, 0)
  | .inf s => (signBit t s, 0)
  | .fin s m e => if m = 0 then (infBits t s, fDZ) else estRound t s 1 m (-e)

/-- VRSQ (R155, R156). -/
def vRsq (t : ETy) (a : Nat) : Nat × Fl :=
  match fval t a with
  | .absent => (fill t, 0)
  | .snan => (dnan t, fNV)
  | .qnan => (dnan t, 0)
  | .inf s => if s then (dnan t, fNV) else (0, 0)
  | .fin s m e =>
    if m = 0 then (infBits t s, fDZ)
    else if s then (dnan t, fNV)
    else
      let (m1, e1) := evenExp m e
      let r := isqrt (2 ^ 256 / m1)
      estRound t false (stick r (r * r * m1 == 2 ^ 256)) 1 (-(e1 / 2) - 129)

/-- Rounding of VEXP2 and VLOG2 (R155): towards zero in .F32, to nearest in the narrow formats. -/
def expRound (t : ETy) (neg : Bool) (num : Nat) (e : Int) : Nat × Fl :=
  estFlags t neg (roundQ t (if t == .f32 then .rtz else .rne) neg num 1 e)

/-- ln 2 in units of 2^-N, by its series. -/
def ln2 (N : Nat) : Nat := ((List.range (N + 16)).map (fun k => 2 ^ (N + 32) / ((k + 1) * 2 ^ (k + 1)))).sum / 2 ^ 32

/-- 2^(f / 2^N) in units of 2^-N, for f < 2^N, by the exponential series. (DEDUCED, log entry 18.) -/
def exp2Frac (N f : Nat) : Nat :=
  let x := f * ln2 N / 2 ^ N
  ((List.range 96).foldl (fun (acc : Nat × Nat) k => (acc.1 + acc.2, acc.2 * x / 2 ^ N / (k + 1))) (0, 2 ^ N)).1

/-- VEXP2 (R155, R156): 2^a for a = I + f with I its floor; a fraction f > 0 gives an irrational value. (DEDUCED, log entry 18.) -/
def vExp2 (t : ETy) (a : Nat) : Nat × Fl :=
  match fval t a with
  | .absent => (fill t, 0)
  | .snan => (dnan t, fNV)
  | .qnan => (dnan t, 0)
  | .inf s => if s then (0, 0) else (infBits t false, 0)
  | .fin s m e =>
    if m = 0 then roundD t .rne false 1 0
    else if 12 < log2Q m 1 + e then
      (if s then (if t == .f32 then (0, fUF ||| fNX) else (0, fUF ||| fNX)) else (infBits t false, fOF ||| fNX))
    else
      let N : Nat := 320
      let x : Int := signedM s (scaleQ m 1 (e + N)).1 / (scaleQ m 1 (e + N)).2
      let I := x / 2 ^ N
      let f := (x % 2 ^ N).toNat
      if f = 0 then expRound t false 1 I else expRound t false (stick (exp2Frac N f) false) (I - N - 1)

/-- The first `k` fraction bits of log2 (y / 2^N), for 2^N ≤ y < 2^(N+1), by squaring. -/
def log2Bits (N : Nat) : Nat → Nat → Nat → Nat
  | 0, _, acc => acc
  | k + 1, y, acc =>
    let z := y * y / 2 ^ N
    if 2 ^ (N + 1) ≤ z then log2Bits N k (z / 2) (2 * acc + 1) else log2Bits N k z (2 * acc)

/-- VLOG2 (R155, R156): the exponent plus the logarithm of the significand; exact for a power of two. -/
def vLog2 (t : ETy) (a : Nat) : Nat × Fl :=
  match fval t a with
  | .absent => (fill t, 0)
  | .snan => (dnan t, fNV)
  | .qnan => (dnan t, 0)
  | .inf s => if s then (dnan t, fNV) else (infBits t false, 0)
  | .fin s m e =>
    if m = 0 then (infBits t true, fDZ)
    else if s then (dnan t, fNV)
    else
      let l := Nat.log2 m
      let E : Int := e + l
      if m = 2 ^ l then (if E = 0 then (0, 0) else expRound t (decide (E < 0)) E.natAbs 0)
      else
        let fr := log2Bits 420 180 (m * 2 ^ (420 - l)) 0
        let v : Int := E * 2 ^ 180 + fr
        if 0 ≤ v then expRound t false (stick v.toNat false) (-181)
        else expRound t true (stick (v.natAbs - 1) false) (-181)

/-- The Newton steps (R158); `sq` selects VRSQN. -/
def vNewton (sq : Bool) (t : ETy) (rm : Rm) (a b : Nat) : Nat × Fl :=
  let x := fval t a; let y := fval t b
  if x == .absent || y == .absent then (fill t, 0)
  else if x == .snan || y == .snan then (dnan t, fNV)
  else if x == .qnan || y == .qnan then (dnan t, 0)
  else if isZeroV y || isInfV y then (b, 0)
  else if isZeroV x || isInfV x then ((if sq then (vRsq t a).1 else (vRcp t a).1), 0)
  else
    match x, y with
    | .fin s m e, .fin s' m' e' =>
      if sq && s then (dnan t, fNV)
      else
        let A := signedM s m
        let B := signedM s' m'
        if sq then
          let (d, ed) := sumD 3 0 (-(A * B * B)) (e + e' + e')
          roundS t rm (B * d) (e' + ed - 1) s'
        else
          let (d, ed) := sumD 2 0 (-(A * B)) (e + e')
          roundS t rm (B * d) (e' + ed) s'
    | _, _ => (dnan t, 0)

/-- VNRM: a sum divided by a count (R163). -/
def vNrm (t : ETy) (rm : Rm) (a n : Nat) : Nat × Fl :=
  match fval t a with
  | .absent => (fill t, 0)
  | x =>
    if n = 0 then (fill t, 0)
    else
      match x with
      | .snan => (dnan t, fNV)
      | .qnan => (dnan t, 0)
      | .inf s => (infBits t s, 0)
      | .fin s m e => if m = 0 then (signBit t s, 0) else roundQ t rm s m n e
      | .absent => (fill t, 0)

/-- VFSGN (R153). -/
def vFsgn (t : ETy) (mode a b : Nat) : Nat × Fl :=
  let h := 2 ^ (t.w - 1)
  let sa := a / h % 2
  let sb := b / h % 2
  r29 t [fval t a, fval t b]
    (a % h + h * (if mode = 0 then sb else if mode = 1 then 1 - sb else (sa + sb) % 2), 0)

/-! ### Scales and block formats (R20-R25, R182, R183, R235) -/

/-- A scale code's value as mantissa and exponent; absent is none (R20). -/
def s12 (c : Nat) : Option (Nat × Int) :=
  if c = 0xFFF then none else if c = 0 then some (0, 0) else some (16 + c % 16, (c / 16 : Nat) - 131)

/-- Magnitude bits of a block element (R21). -/
def blkM : ETy → Nat
  | .bm8 => 7 | .bm5 => 4 | _ => 2

/-- The value of element i of a block of `t` held in a number of its bytes (R24): none is absent. -/
def blkElem (t : ETy) (blk i : Nat) : Option FVal :=
  let c := blk % 4096
  let m := blkM t
  let e := blk / 2 ^ (20 + (m + 1) * i) % 2 ^ (m + 1)
  let M := e % 2 ^ m
  let s := e / 2 ^ m == 1
  let mu : Int := if blk / 2 ^ (12 + i / 2) % 2 = 1 then 1 else 0
  match s12 c with
  | none => none
  | some (sm, se) =>
    if c = 0 then some (.fin false 0 0)
    else if s && M == 0 then none
    else some (.fin s (M * sm) (se - (m - 1 : Nat) - mu))

/-- VQNT's block (R182) of the elements at positions below the active count; `vs` has 16 entries, none inactive. -/
def quantBlock (bt src : ETy) (rm : Rm) (sig : Nat) (vs : List (Option Nat)) : Nat × Fl :=
  if sig = 0xFFF ∨ sig = 0 then (sig, 0)
  else
    match s12 sig with
    | none => (sig, 0)
    | some (sm, se) =>
      let m := blkM bt
      let mmax := 2 ^ m - 1
      let vals := vs.map (fun o => match o with
        | none => FVal.absent
        | some b => fval src b)
      let isFinNZ (v : FVal) : Bool := match v with
        | .fin _ k _ => k != 0
        | _ => false
      let under (v : FVal) : Bool := match v with       -- |v| / S < 1
        | .fin _ k e => decide (cmpV (.fin false k e) (.fin false sm se) < 0)
        | .absent => true
        | _ => false
      let muOf (k : Nat) : Bool :=
        let P := [nth .absent vals (2 * k), nth .absent vals (2 * k + 1)]
        P.any isFinNZ && P.all under
      let enc (i : Nat) : Nat × Fl :=
        let mu : Int := if muOf (i / 2) then 1 else 0
        match nth .absent vals i with
        | .absent => (2 ^ m, 0)
        | .snan => (2 ^ m, fNV)
        | .qnan => (2 ^ m, 0)
        | .inf s => ((if s then 2 ^ m else 0) + mmax, fOF ||| fNX)
        | .fin s k e =>
          let (a, b) := scaleQ k sm (e + mu - se + (m - 1 : Nat))
          let (r, inex) := roundInt rm s a b
          let fl : Fl := if r > mmax then fOF ||| fNX else if inex then fNX else 0
          let M := min r mmax
          ((if M = 0 then 0 else (if s then 2 ^ m else 0) + M), fl)
      let es := (List.range 16).map enc
      let mus := (List.range 8).map (fun k => if muOf k then 2 ^ (12 + k) else 0)
      (sig + mus.sum + ((List.range 16).map (fun i => (nth (0, 0) es i).1 * 2 ^ (20 + (m + 1) * i))).sum,
        es.foldl (fun f e => f ||| e.2) 0)

/-- VDQNT's element (R183). -/
def dequant (d bt : ETy) (rm : Rm) (blk i : Nat) : Nat × Fl :=
  match blkElem bt blk i with
  | some (.fin s m e) => roundD d rm s m e
  | _ => (fill d, 0)

/-- Is the value of code c at or above (num / den) 2^e? -/
def s12Ge (c num den : Nat) (e : Int) : Bool :=
  match s12 c with
  | some (m, em) =>
    let (a, _) := scaleQ (m * den) 1 (em - e)
    let (_, b) := scaleQ (m * den) 1 (em - e)
    decide (num * b ≤ a)
  | none => false

/-- The least code in [lo, lo + 2^k) that satisfies a monotone test, by halving. -/
def leastCode (p : Nat → Bool) : Nat → Nat → Nat
  | 0, lo => lo
  | k + 1, lo => if p (lo + 2 ^ k - 1) then leastCode p k lo else leastCode p k (lo + 2 ^ k)

/-- XSEL's code for the magnitude of an element (R235). -/
def xselCode (bt t : ETy) (b : Nat) : Nat × Fl :=
  match fval t b with
  | .absent => (0xFFF, 0)
  | .snan => (0xFFF, fNV)
  | .qnan => (0xFFF, 0)
  | .inf _ => (0xFFE, fOF ||| fNX)
  | .fin _ m e =>
    if m = 0 then (0, 0)
    else
      -- m 2^e / L with L = (2^k - 1) 2^-(k-1)
      let k := blkM bt
      let e' := e + (k - 1 : Nat)
      let den := 2 ^ k - 1
      if s12Ge 0xFFE m den e' then (leastCode (fun c => s12Ge c m den e') 12 1, 0) else (0xFFE, fOF ||| fNX)

/-! ### Integer elements (R148-R150) and reductions (R46, R47, R164) -/

/-- An element operation on an integer type under R29 step 1: absent gives absent on .I types. -/
def iop (t : ETy) (f : Int → Int → Int) (a b : Nat) : Nat :=
  if isAbsent t a || isAbsent t b then fill t else ibits t.w (f (ival t a) (ival t b))

def iAdd (t : ETy) := iop t (· + ·)
def iSub (t : ETy) := iop t (· - ·)
def iAdds (t : ETy) := iop t (fun a b => isat t (a + b))
def iSubs (t : ETy) := iop t (fun a b => isat t (a - b))
def iMul (t : ETy) := iop t (· * ·)
def iMulh (t : ETy) := iop t (fun a b => a * b / 2 ^ t.w)
def iAbs (t : ETy) (a : Nat) : Nat := if isAbsent t a then fill t else ibits t.w (ival t a).natAbs
def iMinMax (t : ETy) (mx : Bool) (a b : Nat) : Nat :=
  if isAbsent t a then b else if isAbsent t b then a
  else if mx then (if ival t a < ival t b then b else a) else (if ival t b < ival t a then b else a)

/-- Shifts of w-bit elements; an amount of w or more clears, or fills with the sign (R150). -/
def eShl (w a k : Nat) : Nat := if k < w then a * 2 ^ k % 2 ^ w else 0
def eShr (w a k : Nat) : Nat := if k < w then a / 2 ^ k else 0
def eSar (w a k : Nat) : Nat :=
  let k := min k w
  if a / 2 ^ (w - 1) % 2 = 1 then a / 2 ^ k + (2 ^ w - 2 ^ (w - k)) else a / 2 ^ k

/-- A condition on integer elements (R159). -/
def icond (cc : Nat) (a b : Int) : Bool :=
  match cc with
  | 0 => a == b | 1 => a != b | 2 => a < b | 3 => a ≤ b | 4 => b < a | _ => b ≤ a

/-- The operation of a reduction on present operands (R164). -/
def redPresent (t : ETy) (op : Nat) (rm : Rm) (a b : Nat) : Nat × Fl :=
  match op with
  | 0 => if t.isF then fAdd t rm a b else (iAdd t a b, 0)
  | 1 => if t.isF then vfMinMax t false a b else (iMinMax t false a b, 0)
  | 2 => if t.isF then vfMinMax t true a b else (iMinMax t true a b, 0)
  | _ => (iAdds t a b, 0)

/-- The combining step: absent is the identity (R26, R46). -/
def redOp (t : ETy) (op : Nat) (rm : Rm) (a b : Nat) : Nat × Fl :=
  if isAbsent t a then (b, 0) else if isAbsent t b then (a, 0) else redPresent t op rm a b

/-- What padding positions hold (R164): absent, or the identity of an .N type. -/
def redPad (t : ETy) (op : Nat) : Nat :=
  match absentCode t with
  | some c => c
  | none => if op = 1 then 2 ^ t.w - 1 else 0

/-- The least power of two not below n. -/
def pow2Ceil (n : Nat) : Nat := if n ≤ 1 then 1 else 2 ^ (Nat.log2 (n - 1) + 1)

/-- One step of the tree pairs position i with i + h (R46). -/
def treeStep (f : Nat → Nat → Nat × Fl) (l : List Nat) : List Nat × Fl :=
  let h := l.length / 2
  let rs := List.zipWith f (l.take h) (l.drop h)
  (rs.map (·.1), rs.foldl (fun a r => a ||| r.2) 0)

/-- The pairwise tree (R46) over 2^k positions. -/
def tree (f : Nat → Nat → Nat × Fl) : Nat → List Nat → Fl → Nat × Fl
  | 0, l, fl => (l.headD 0, fl)
  | k + 1, l, fl =>
    let (l', f') := treeStep f l
    tree f k l' (fl ||| f')

/-- A reduction of elements padded to a power of two (R46, R164). -/
def reduce (t : ETy) (op : Nat) (rm : Rm) (E c : Nat) (es : List Nat) : Nat × Fl :=
  let n := pow2Ceil E
  let l := es.take c ++ List.replicate (n - min c es.length) (redPad t op)
  tree (redOp t op rm) (Nat.log2 n) l 0

/-- One step of the scan with distance d (R47): the flags of the first `c` positions count (R165). -/
def scanStep (f : Nat → Nat → Nat × Fl) (c d : Nat) (l : List Nat) : List Nat × Fl :=
  let rs := List.zipWith f l (l.drop d)
  (l.take d ++ rs.map (·.1), (rs.take (c - d)).foldl (fun a r => a ||| r.2) 0)

/-- The steps of VSCAN: positions at and past the active count `c` raise no flag. (DEDUCED, log entry 113.) -/
def scanGo (f : Nat → Nat → Nat × Fl) (c : Nat) : Nat → Nat → List Nat → Fl → List Nat × Fl
  | 0, _, l, fl => (l, fl)
  | k + 1, d, l, fl =>
    let (l', f') := scanStep f c d l
    scanGo f c k (2 * d) l' (fl ||| f')

/-- VSCAN (R47, R164, R165). -/
def scan (t : ETy) (op : Nat) (rm : Rm) (E c : Nat) (es : List Nat) : List Nat × Fl :=
  let n := pow2Ceil E
  let l := es.take c ++ List.replicate (n - min c es.length) (redPad t op)
  scanGo (redOp t op rm) c (Nat.log2 n) 1 l 0

/-! ### Exact sums of products (R44, R45) -/

/-- The exact product of two factors and two scales; none is absent (R27, R223). -/
def prodV (xs : List FVal) : FVal :=
  if xs.any (· == .absent) then .absent
  else if xs.any (· == .snan) then .snan
  else if xs.any isZeroV && xs.any isInfV then .snan      -- 0 x infinity is invalid, as a signalling NaN is (R44)
  else if xs.any (· == .qnan) then .qnan
  else
    let neg := xs.foldl (fun s v => s != negOf v) false
    if xs.any isInfV then .inf neg
    else
      let (m, e) := xs.foldl (fun (a : Nat × Int) v => match v with
        | .fin _ k e => (a.1 * k, a.2 + e)
        | _ => a) (1, 0)
      .fin neg m e

/-- The exact sum of a chunk's present products (R44), with the NV it raises; none when no product is present. -/
def chunkSum (ps : List FVal) : Option (FVal × Fl) :=
  let l := ps.filter (· != .absent)
  if l.isEmpty then none
  else if l.any (· == .snan) then some (.qnan, fNV)
  else if l.any (· == .inf true) && l.any (· == .inf false) then some (.qnan, fNV)
  else if l.any (· == .qnan) then some (.qnan, 0)
  else if l.any (· == .inf true) then some (.inf true, 0)
  else if l.any (· == .inf false) then some (.inf false, 0)
  else
    let (m, e) := l.foldl (fun (a : Int × Int) v => match v with
      | .fin s k e => sumD a.1 a.2 (signedM s k) e
      | _ => a) (0, 0)
    let allNeg0 := l.all (fun v => isZeroV v && negOf v)
    some (.fin (if m = 0 then allNeg0 else decide (m < 0)) m.natAbs e, 0)

/-- Add a chunk to an accumulator element (R44): value, count, flags. -/
def accChunk (t : ETy) (v n : Nat) (ps : List FVal) : Nat × Nat × Fl :=
  match chunkSum ps with
  | none => (v, n, 0)
  | some (s, f) =>
    let k := (ps.filter (· != .absent)).length
    let (v', f') := r29 t [fval t v, s] (addV t .rne (fval t v) s)
    (v', min (n + k) 65535, f ||| f' ||| (if n + k > 65535 then fCSAT else 0))

end Sys2Proof.Machine
end

