-- ==== Sys2Proof/Machine/Operands.lean ====
section
/-! DEFINITION. Operands.lean: how a slot of the bundle in execution reads its sources and writes its results: register
rotation (R104), the boost shadow (R112), latches (R57), predicates (R167), vector elements (R142, R143). -/

namespace Sys2Proof.Machine
open Sys2Proof

/-- The physical register of a vector or scale name under the rotation base (R104). -/
def rotV (rb : BitVec 3) (k : Nat) : Nat := if 24 ≤ k then 24 + (k - 24 + 8 - rb.toNat) % 8 else k
def rotX (rb : BitVec 3) (k : Nat) : Nat := if 8 ≤ k then 8 + (k - 8 + 8 - rb.toNat) % 8 else k

/-- A pending shadow copy (R112). -/
def shGet {α : Type} (l : List (Nat × α)) (k : Nat) : Option α := (l.find? (fun e => e.1 == k)).map (·.2)
def shPut {α : Type} [DecidableEq α] (l : List (Nat × α)) (k : Nat) (v : α) : List (Nat × α) := mins l k v

/-- Register reads. s0 reads as zero (R123). -/
def Regs.rS (r : Regs) (k : Nat) : Word := if k = 0 then 0 else mget 0 r.s k
def Regs.rV (r : Regs) (k : Nat) : Vec := mget 0 r.v k
def Regs.rP (r : Regs) (k : Nat) : BitVec 16 := mget 0xE000 r.p k
def Regs.rX (r : Regs) (k : Nat) : BitVec 12 := mget 0 r.x k
def Regs.rG (r : Regs) (k : Nat) : Word := mget 0 r.g k

/-- Register writes. A write to s0 is discarded (R59). -/
def Regs.wS (r : Regs) (k : Nat) (v : Word) : Regs := if k = 0 then r else { r with s := mput 0 r.s k v }
def Regs.wV (r : Regs) (k : Nat) (v : Vec) : Regs := { r with v := mput 0 r.v k v }
def Regs.wP (r : Regs) (k : Nat) (v : BitVec 16) : Regs := { r with p := mput 0xE000 r.p k v }
def Regs.wX (r : Regs) (k : Nat) (v : BitVec 12) : Regs := { r with x := mput 0 r.x k v }
def Regs.wG (r : Regs) (k : Nat) (v : Word) : Regs := { r with g := mput 0 r.g k v }

/-- Is slot `k` of the bundle boosted (R51)? -/
def boosted (f : Frame) (k : Nat) : Bool := (hdrBoost f.hdr).getLsbD k

/-- The latch of slot `j` as the bundle reads it (R57). -/
def latch (f : Frame) (j : Nat) : Vec := mget 0 f.pre.lat j

/-- A scalar source of slot `k` (R54, R56, R112). -/
def rdS (f : Frame) (k : Nat) (a : BitVec 7) : Word :=
  if a.toNat < 64 then
    if boosted f k then (shGet f.pre.shadow.s a.toNat).getD (f.pre.regs.rS a.toNat) else f.pre.regs.rS a.toNat
  else (latch f (a.toNat - 0x70)).setWidth 64

/-- A vector register of slot `k` by physical index. -/
def rdVp (f : Frame) (k p : Nat) : Vec :=
  if boosted f k then (shGet f.pre.shadow.v p).getD (f.pre.regs.rV p) else f.pre.regs.rV p

/-- A vector source group of slot `k` (R104, R142). -/
def rdV (f : Frame) (k : Nat) (a : BitVec 7) (G : Nat) : List Vec :=
  if a.toNat < 64 then (List.range G).map (fun i => rdVp f k (rotV f.pre.rb (a.toNat + i)))
  else [latch f (a.toNat - 0x70)]

def rdP (f : Frame) (k p : Nat) : BitVec 16 :=
  if boosted f k then (shGet f.pre.shadow.p p).getD (f.pre.regs.rP p) else f.pre.regs.rP p

def rdX (f : Frame) (k x : Nat) : BitVec 12 :=
  let p := rotX f.pre.rb x
  if boosted f k then (shGet f.pre.shadow.x p).getD (f.pre.regs.rX p) else f.pre.regs.rX p

def rdG (f : Frame) (g : Nat) : Word := f.pre.regs.rG g

/-- Load the latch of slot `k`. -/
def setLat (f : Frame) (k : Nat) (v : Vec) : Frame :=
  { f with now := { f.now with lat := mput 0 f.now.lat k v } }

def onRegs (c : Core) (g : Regs → Regs) : Core := { c with regs := g c.regs }
def onShadow (c : Core) (g : Shadow → Shadow) : Core := { c with shadow := g c.shadow }

/-- Registers without those that a later write takes: 64 stands in their place. -/
def strikeRegs (ks : List Nat) (rs : List Nat) : List Nat := rs.map (fun r => if ks.contains r then 64 else r)

/-- Deferred records once later boosted writes have replaced the copies of registers `ks` of a file (R112): a record none of
whose registers is left has gone. -/
def dropRec (file : RFile) (ks : List Nat) (rs : List DefRec) : List DefRec :=
  (rs.map (fun r => if r.dst.file == file then { r with dst := { r.dst with regs := strikeRegs ks r.dst.regs } } else r)).filter
    (fun r => r.dst.regs.any (fun k => decide (k < 64)))

/-- Consumptions that wait, once those copies are replaced: one all of whose registers are gone will not be committed (R113).
One of a load with no register to write waits as it is. -/
def dropPoi (file : RFile) (ks : List Nat) (l : List (RFile × List Nat)) : List (RFile × List Nat) :=
  (l.map (fun e => if e.1 == file then (e.1, strikeRegs ks e.2) else e)).filter
    (fun e => e.2.isEmpty || e.2.any (fun k => decide (k < 64)))

/-- Put a scalar result into register `k` of the file, or of the shadow when boosted. -/
def putS (c : Core) (bst : Bool) (k : Nat) (v : Word) : Core :=
  if bst then
    if k = 0 then c else onShadow c (fun sh => { sh with s := shPut sh.s k v, recs := dropRec .s [k] sh.recs })
  else onRegs c (·.wS k v)

def putV (c : Core) (bst : Bool) (k : Nat) (v : Vec) : Core :=
  if bst then onShadow c (fun sh => { sh with v := shPut sh.v k v, recs := dropRec .v [k] sh.recs })
  else onRegs c (·.wV k v)

def putP (c : Core) (bst : Bool) (k : Nat) (v : BitVec 16) : Core :=
  if bst then onShadow c (fun sh => { sh with p := shPut sh.p k v }) else onRegs c (·.wP k v)

def putX (c : Core) (bst : Bool) (k : Nat) (v : BitVec 12) : Core :=
  if bst then onShadow c (fun sh => { sh with x := shPut sh.x k v }) else onRegs c (·.wX k v)

/-- Write a scalar result of slot `k`: its latch always, its register unless suppressed (R57, R59). -/
def wrS (f : Frame) (k : Nat) (d : BitVec 7) (v : Word) : Frame :=
  let f := setLat f k (v.setWidth 2048)
  if d.toNat < 64 then { f with now := putS f.now (boosted f k) d.toNat v } else f

/-- Write whole vector registers of slot `k` from its destination on (R59). -/
def wrV (f : Frame) (k : Nat) (d : BitVec 7) (vs : List Vec) : Frame :=
  let f := setLat f k (vs.headD 0)
  if d.toNat < 64 then
    let put (c : Core) (i : Nat) : Core := putV c (boosted f k) (rotV f.pre.rb (d.toNat + i)) (nth 0 vs i)
    { f with now := (List.range vs.length).foldl put f.now }
  else f

def wrP (f : Frame) (k p : Nat) (v : BitVec 16) : Frame := { f with now := putP f.now (boosted f k) p v }
def wrX (f : Frame) (k x : Nat) (v : BitVec 12) : Frame :=
  { setLat f k (v.setWidth 2048) with now := putX (setLat f k (v.setWidth 2048)).now (boosted f k) (rotX f.pre.rb x) v }

/-- Raise flags in slot `k`: at once, or in the shadow when boosted (R40, R112). -/
def raise (f : Frame) (k : Nat) (fl : Fl) (intDiv : Bool) : Frame :=
  if fl = 0 then f
  else if boosted f k then { f with bflags := f.bflags ||| fl, bfdz := f.bfdz || (fl.getLsbD 1 && !intDiv) }
  else { f with flags := f.flags ++ [(k, fl, intDiv)] }

/-- A fault of slot `k` (R381). -/
def faultAt (f : Frame) (k cause info : Nat) : Frame := { f with faults := f.faults ++ [(k, cause, info)] }

/-- The `n` elements of width `w` of a number, lowest first (R142). -/
def unpack (w : Nat) : Nat → Nat → List Nat
  | 0, _ => []
  | n + 1, v => v % 2 ^ w :: unpack w n (v / 2 ^ w)

/-- The number that elements of width `w` make. -/
def pack (w : Nat) : List Nat → Nat
  | [] => 0
  | e :: t => e + 2 ^ w * pack w t

/-- A group as one number, and back. -/
def joinV (vs : List Vec) : Nat := pack 2048 (vs.map BitVec.toNat)
def splitV (G n : Nat) : List Vec := (unpack 2048 G n).map (BitVec.ofNat 2048)

/-- Elements of a group (R142). -/
def elems (w G : Nat) (vs : List Vec) : List Nat := unpack w (G * 2048 / w) (joinV vs)

/-- The width a predicate's code names (R166). -/
def predW (p : BitVec 16) : Nat :=
  match (p.extractLsb' 13 3).toNat with
  | 0 => 4 | 1 => 8 | 2 => 16 | 3 => 32 | _ => 64

/-- The active count (R167). (DEDUCED, log entry 20.) -/
def active (p : BitVec 16) (w G : Nat) : Nat :=
  let E := G * 2048 / w
  if 5 ≤ (p.extractLsb' 13 3).toNat then E else min ((p.extractLsb' 0 13).toNat * predW p / w) E

/-- A predicate of a width code and a count. -/
def mkPred (W n : Nat) : BitVec 16 := BitVec.ofNat 3 W ++ BitVec.ofNat 13 n
def widthCode (w : Nat) : Nat := if w = 4 then 0 else if w = 8 then 1 else if w = 16 then 2 else if w = 32 then 3 else 4

/-- Merge new elements over old ones: `none` keeps the old element (R143). -/
def mergeE : List (Option Nat) → List Nat → List Nat
  | o :: os, e :: es => o.getD e :: mergeE os es
  | [], es => es
  | _, [] => []

/-- Write elements of slot `k`'s destination group (R143): positions given as `none` keep their value; with the write
suppressed they are zero in the latch. A boosted write of no element still enters pending copies, equal to the registers.
(DESIGN CHOICE, log entry 125.) -/
def wrE (f : Frame) (k : Nat) (d : BitVec 7) (w G : Nat) (es : List (Option Nat)) : Frame :=
  let old := if d.toNat < 64 then elems w G (rdV f k d G) else List.replicate (G * 2048 / w) 0
  wrV f k d (splitV G (pack w (mergeE es old)))

/-- The first `c` of the elements as new values, the rest kept. -/
def firstN (c : Nat) (es : List Nat) : List (Option Nat) := (es.take c).map some

def ty? (c : BitVec 5) : ETy := (ety c).getD .i8

/-- The element width, group and count of a V-slot instruction. -/
def vw (x : VF) : Nat := (ty? x.ty).w
def vcount (f : Frame) (x : VF) : Nat := active (rdP f 1 x.pr.toNat) (vw x) (grp x.gs)
def vE (x : VF) : Nat := grp x.gs * 2048 / vw x

/-- Operands a, b and c of a V-slot instruction as elements; with sb set, b is one scalar repeated (R144). -/
def opA (f : Frame) (x : VF) : List Nat := elems (vw x) (grp x.gs) (rdV f 1 x.a (grp x.gs))
def opB (f : Frame) (x : VF) : List Nat :=
  if x.f.getLsbD 6 then List.replicate (vE x) ((rdS f 1 x.b).toNat % 2 ^ vw x)
  else elems (vw x) (grp x.gs) (rdV f 1 x.b (grp x.gs))
def opC (f : Frame) (x : VF) : List Nat := elems (vw x) (grp x.gs) (rdV f 1 x.c (grp x.gs))

def orFlags (rs : List (Nat × Fl)) : Fl := rs.foldl (fun a r => a ||| r.2) 0

/-- Finish an element-wise instruction: write the first c results, raise their flags (R143, R147). -/
def vfin (f : Frame) (x : VF) (rs : List (Nat × Fl)) : Frame :=
  let c := vcount f x
  raise (wrE f 1 x.d (vw x) (grp x.gs) (firstN c (rs.map (·.1)))) 1 (orFlags (rs.take c)) false

def pure0 (n : Nat) : Nat × Fl := (n, 0)

/-- Element-wise over one, two or three operands. -/
def vmap1 (f : Frame) (x : VF) (g : Nat → Nat × Fl) : Frame := vfin f x (((opA f x).take (vcount f x)).map g)
def vmap2 (f : Frame) (x : VF) (g : Nat → Nat → Nat × Fl) : Frame :=
  vfin f x (List.zipWith g ((opA f x).take (vcount f x)) (opB f x))
def vmap3 (f : Frame) (x : VF) (g : Nat → Nat → Nat → Nat × Fl) : Frame :=
  vfin f x (List.zipWith (fun (p : Nat × Nat) c => g p.1 p.2 c) (((opA f x).take (vcount f x)).zip (opB f x)) (opC f x))

/-- FPC.RM as the bundle reads it (R135). -/
def fpcRm (f : Frame) : BitVec 2 := f.pre.csr.fpc.extractLsb' 5 2
def vrm (f : Frame) (x : VF) : Rm := rmDyn x.rm (fpcRm f)

def ofI (v : Int) : Word := BitVec.ofInt 64 v
/-- The low `w` bits of a number, sign-extended (R123). -/
def sextN (w v : Nat) : Word := BitVec.ofInt 64 (if 2 ^ (w - 1) ≤ v % 2 ^ w then (v % 2 ^ w : Int) - 2 ^ w else (v % 2 ^ w : Nat))

/-- The bundle is held by an atomic to a system page (R412). -/
def Park.atomic (p : Park) : Bool := match p.kind with
  | .sysAtom .. => true
  | _ => false

/-! ### CSRs (R94, R134-R140) -/

/-- LOOPST (R94). A boosted load in flight counts as pending in the shadow. (DEDUCED, log entry 24.) -/
def loopst (c : Core) : Word :=
  let sh := c.shadow
  let out := c.mem.any (fun e => match e.op with
    | .load _ d _ _ => d.boost
    | _ => false)
  let shv := out || !(sh.s.isEmpty && sh.v.isEmpty && sh.p.isEmpty && sh.x.isEmpty && sh.g.isEmpty && sh.recs.isEmpty)
  BitVec.ofNat 64 (c.cspl * 2 ^ 32 + c.calls.length * 2 ^ 28 + c.loops.length * 2 ^ 25 + c.rb.toNat * 2 ^ 22 +
    (if c.rh then 2 ^ 21 else 0) + (if shv then 2 ^ 20 else 0))

/-- The value CSRR reads (R134). -/
def csrRead (c : Core) (n : Nat) : Word :=
  match n with
  | 0x000 => c.csr.fps.setWidth 64
  | 0x001 => c.csr.fpc.setWidth 64
  | 0x002 => c.csr.cir
  | 0x010 => c.csr.cause.setWidth 64
  | 0x011 => c.csr.epc.setWidth 64
  | 0x012 => c.csr.tvec.setWidth 64
  | 0x013 => c.csr.trec
  | 0x020 => c.csr.cycle
  | 0x021 => c.csr.ctxid.setWidth 64
  | 0x022 => c.csr.bookid.setWidth 64
  | 0x023 => loopst c
  | _ => 0

/-- Writable fields of CIR (R387) and TREC (R139). -/
def cirRW : Word := 0x0000FFFF00FF0003
def trecRW : Word := 0x0000FFFF000000BF

/-- CSRW through the fields whose access is RW (R135-R140, R387). -/
def csrWrite (c : Csrs) (n : Nat) (v : Word) : Csrs :=
  match n with
  | 0x000 => { c with fps := v.setWidth 6 }
  | 0x001 => { c with fpc := v.setWidth 7 }
  | 0x002 => { c with cir := (c.cir &&& ~~~cirRW) ||| (v &&& cirRW) }
  | 0x010 => { c with cause := v.setWidth 8 }
  | 0x011 => { c with epc := v.setWidth 48 &&& 0xFFFFFFFFFFE0 }
  | 0x012 => { c with tvec := v.setWidth 48 &&& 0xFFFFFFFFFF00 }
  | 0x013 => { c with trec := v &&& trecRW }
  | _ => c


end Sys2Proof.Machine
end

