-- ==== Sys2Proof/Machine/Ops.lean ====
section
/-! DEFINITION. Ops.lean: what every bundle shares: late results (R116, R197), fences (R247), the scoreboard (R57, R193),
the checks of R74, taking a trap (R380) and returning from it (R106), commit, the back-edge (R102), and the frame an
instruction runs in (R54). -/

namespace Sys2Proof.Machine
open Sys2Proof

abbrev Out := Host.Outcome State Fault Refusal

/-- CYCLE counts `n` more core cycles (R140). (DESIGN CHOICE, log entry 16.) -/
def bump (n : Nat) (k : Core) : Core := { k with csr := { k.csr with cycle := k.csr.cycle + BitVec.ofNat 64 n } }

/-- One consumption of poison (R35, R387). -/
def consume (k : Core) : Core :=
  let c := k.csr.cir
  let n := (c.extractLsb' 32 16).toNat
  let n' : Word := BitVec.ofNat 64 (min (n + 1) 65535)
  { k with csr := { k.csr with cir := ((c &&& ~~~(0x0000FFFF00000001 : Word)) ||| (n' <<< 32)) ||| 1 } }

/-- One known-answer mismatch (R387). -/
def katMark (k : Core) : Core :=
  let c := k.csr.cir
  let n := (c.extractLsb' 16 8).toNat
  let n' : Word := BitVec.ofNat 64 (min (n + 1) 255)
  { k with csr := { k.csr with cir := ((c &&& ~~~(0x0000000000FF0002 : Word)) ||| (n' <<< 16)) ||| 2 } }

def consumeIf (b : Bool) (k : Core) : Core := if b then consume k else k
/-- Poison met by a load with destination `d` (R35), or by a boosted one, whose consumption waits for the commit (R113). -/
def consumeAt (d : LateDst) (b : Bool) (k : Core) : Core :=
  if !b then k else if d.boost then onShadow k (fun sh => { sh with poi := sh.poi ++ [(d.file, d.regs.filter (fun r => decide (r < 64)))] })
  else consume k

/-- Poison met by a slot of the bundle that is not boosted (R35, R387). -/
def eat (f : Frame) (b : Bool) : Frame := if b then { f with now := consume f.now, eaten := f.eaten + 1 } else f

/-! ### Late results -/

/-- A loaded value of width `w` as a scalar (R193). -/
def extend (sext : Bool) (w n : Nat) : Word := if sext then sextN w n else BitVec.ofNat 64 n

/-- A vector register, or its pending shadow copy. -/
def vecNow (k : Core) (bst : Bool) (r : Nat) : Vec := if bst then (shGet k.shadow.v r).getD (k.regs.rV r) else k.regs.rV r

/-- Put element values into a vector group by physical register, the rest as core `o` holds it (R143, R197). -/
def mergeV (o k : Core) (bst : Bool) (d : LateDst) (es : List Nat) : Core :=
  let n := d.regs.length
  let os := elems d.w n (d.regs.map (vecNow o bst))
  let vs := splitV n (pack d.w (mergeE (firstN d.cnt es) os))
  (List.range n).foldl (fun k i => let r := nth 64 d.regs i; if 64 ≤ r then k else putV k bst r (nth 0 vs i)) k

/-- Bytes to elements of width `w` (R194). -/
def bytesEl (w cnt : Nat) (bs : List Byte) : List Nat := unpack w cnt (leNat bs)

/-- Deliver the bytes of a late result to its registers; positions it does not write keep what core `o` holds. -/
def deliver (o k : Core) (d : LateDst) (bs : List Byte) : Core :=
  match d.file with
  | .none | .p | .g => k
  | .s =>
    match d.regs with
    | [r] => if 64 ≤ r then k else putS k d.boost r (extend d.sext d.w (leNat bs))
    | [r, r'] =>
      let k := if 64 ≤ r then k else putS k d.boost r (BitVec.ofNat 64 (leNat (bs.take 8)))
      if 64 ≤ r' then k else putS k d.boost r' (BitVec.ofNat 64 (leNat (bs.drop 8)))
    | _ => k
  | .v => mergeV o k d.boost d (bytesEl d.w d.cnt bs)
  | .x =>
    match d.regs with
    | [r] => if 64 ≤ r then k else putX k d.boost r (BitVec.ofNat 12 (leNat bs))
    | _ => k

/-- The value a late result loads into its latch (R57): of a scalar pair, the even register's. (DESIGN CHOICE, log entry 106.) -/
def lateLatch (d : LateDst) (bs : List Byte) : Vec :=
  match d.file with
  | .v => BitVec.ofNat 2048 (pack d.w ((bytesEl d.w d.cnt bs).take (2048 / d.w)))
  | _ => (extend d.sext (min d.w 64) (leNat (bs.take 8))).setWidth 2048

/-- Registers a late result owns are free again. -/
def release (k : Core) (d : LateDst) : Core :=
  match d.file with
  | .s => { k with pendS := k.pendS.filter (fun r => !d.regs.contains r) }
  | .v => { k with pendV := k.pendV.filter (fun r => !d.regs.contains r) }
  | _ => k

/-- The low bits that a landing has put over the result of entry `id` stand, as core `o` holds them (R197). -/
def keepOver (id : Nat) (bst : Bool) (o k : Core) : Core :=
  (o.overs.filter (fun e => e.1 == id)).foldl (fun k e =>
      let low : Vec := BitVec.ofNat 2048 (2 ^ e.2.2 - 1)
      putV k bst e.2.1 ((vecNow o bst e.2.1 &&& low) ||| (vecNow k bst e.2.1 &&& ~~~low)))
    { k with overs := k.overs.filter (fun e => e.1 != id) }

/-- A memory-list entry's result arrives: registers, the latch that waits for it, the scoreboard (R57, R196). -/
def arrive (k : Core) (id : Nat) (d : LateDst) (bs : List Byte) (poi : Bool) : Core :=
  let k := if d.boost then onShadow k (fun sh => { sh with recs := dropRec d.file d.regs sh.recs, poi := dropPoi d.file d.regs sh.poi })
    else k
  let k := consumeAt d poi k
  let k := release (keepOver id d.boost k (deliver k k d bs)) d
  let r := nth 64 d.regs 0
  if k.latWait.contains (d.slot, id) then
    { k with lat := mput 0 k.lat d.slot (if d.file == .v && d.cnt * d.w < 2048 && decide (r < 64) then
               vecNow k d.boost r else lateLatch d bs),
             latWait := k.latWait.filter (fun e => e != (d.slot, id)) }
  else k

/-- Where the result of an entry goes that memory, a queue, or another module answers. -/
def MemOp.dst : MemOp → Option LateDst
  | .load _ d _ _ => some d
  | .atom _ _ _ _ _ d _ => some d
  | .launch _ _ _ d => some d
  | .ckpt _ d => some d
  | .fab _ _ _ _ d => some d
  | _ => none

def MemOp.mapDst (g : LateDst → LateDst) : MemOp → MemOp
  | .load ps d got b => .load ps (g d) got b
  | .atom a t p x y d ev => .atom a t p x y (g d) ev
  | .launch q h desc d => .launch q h desc (g d)
  | .ckpt desc d => .ckpt desc (g d)
  | .fab rd wr mc ps d => .fab rd wr mc ps (g d)
  | op => op

/-- The low bits of register `r` that a result writes; a scalar or scale result writes all. -/
def LateDst.covers (d : LateDst) (r : Nat) : Nat :=
  match d.regs.findIdx? (· == r) with
  | none => 0
  | some i => if d.file == .v then min 2048 (d.cnt * d.w - 2048 * i) else 2048

/-- Accesses of earlier bundles whose register a landing takes no longer write what it writes; a register that it takes whole is free
again (R147, R197). One that goes to the boost shadow is overtaken only by a landing there. A token word that a job writes at its end
is no result of a bundle and stands over the landing. (DEDUCED, log entry 123.) -/
def overtake (k : Core) (d : LateDst) : Core :=
  let hit (o : LateDst) : Bool := o.file == d.file && o.boost == d.boost
  let whole := d.regs.filter (fun r => d.covers r == 2048)
  let strike (o : LateDst) : LateDst := if hit o then { o with regs := strikeRegs whole o.regs } else o
  let taken (e : MemEnt) : List Nat := match e.op.dst with
    | some o => if hit o then o.regs.filter (fun r => decide (r < 64) && d.regs.contains r) else []
    | none => []
  let gone := k.mem.flatMap (fun e => (taken e).filter whole.contains)
  let part := k.mem.flatMap (fun e => (taken e).filterMap (fun r =>
    if 0 < d.covers r ∧ d.covers r < 2048 then some (e.id, r, d.covers r) else none))
  let k := { k with mem := k.mem.map (fun e => { e with op := e.op.mapDst strike }), overs := k.overs ++ part }
  match d.file with
  | .s => { k with pendS := k.pendS.filter (fun r => !gone.contains r) }
  | .v => { k with pendV := k.pendV.filter (fun r => !gone.contains r) }
  | _ => k

/-- Land one exposed result at the boundary that found core `o` (R197, R233-R235). -/
def landOne (o k : Core) (e : Exposed) : Core :=
  match e.data with
  | none => k
  | some bs =>
    let d := { e.dst with boost := e.boosted }
    deliver o (consumeAt d e.poi (overtake k d)) d bs

/-- Land what is due at this boundary, in issue order: of two on one register the later stands, over what the register held
before the boundary (R197). -/
def landDue (k : Core) : Core :=
  let due := k.exposed.filter (fun e => e.off == 1)
  due.foldl (landOne k) { k with exposed := k.exposed.filter (fun e => e.off != 1) }

/-- Is a value due at this boundary still missing (R198)? -/
def frozen (k : Core) : Bool := k.exposed.any (fun e => e.off == 1 && e.data.isNone)

/-- Data for the exposed result that entry `id` of the memory list reads (R198, R234); the entry is done. -/
def fillExposed (k : Core) (id : Nat) (bs : List Byte) (poi : Bool) : Core :=
  let g (x : Exposed) : Exposed := if x.id == id && x.data.isNone then { x with data := some bs, poi := poi } else x
  { k with exposed := k.exposed.map g, held := k.held.map g, mem := k.mem.filter (fun e => e.id != id) }

/-- Landing slots in use (R198). -/
def landingUse (k : Core) : Nat :=
  ((k.exposed.filter (fun e => e.kind == .ldr)).map (fun e => e.dst.regs.length)).sum

/-! ### Traps (R380-R383) and nodes that stop -/

/-- A node stops with a cause: its cores stop at their next boundary (R383). -/
def stopNode (s : State) (c cause : Nat) : State :=
  match (coreAt s c).node with
  | none => onCore s c (fun k => { k with running := false })
  | some id => onNode s id (fun n => match n.st with
    | .stopping _ => n
    | _ => { n with st := .stopping cause })

/-- May a trap or a save be taken now: every exposed result and every awaited latch has its value (R118, R199)? -/
def landed (k : Core) : Bool := k.exposed.all (fun e => e.data.isSome) && k.latWait.isEmpty

/-- TREC of a trap (R139). -/
def trec (slots : BitVec 6) (info : Nat) (deferred : Bool) : Word :=
  slots.setWidth 64 ||| (if deferred then 0x80 else 0) ||| (BitVec.ofNat 16 info).setWidth 64 <<< 32

/-- The handler entry of a cause (R380). -/
def handlerPc (tvec : BitVec 48) (cause : Nat) : BitVec 48 := tvec + BitVec.ofNat 48 (32 * (cause / 16))

/-- A trap of the bundle that a system atomic holds: what it has issued is forgotten (R381, R412). -/
def dropEarly (s : State) (c : Nat) : State :=
  let ids := (coreAt s c).early.map (·.id)
  if ids.isEmpty then s
  else
    onFab (onCore s c (fun k => { k with early := [], mem := k.mem.filter (fun e => !ids.contains e.id) }))
      (fun h => { h with reqs := h.reqs.filter (fun r => !(r.core == c && ids.contains r.mid)) })

/-- Take a trap at the boundary before `epc` (R380): the values, then unhandled or the handler. At handler level the node
fails (R382). Until the exposed results have arrived the core waits (R199). -/
def takeTrap (s : State) (c cause : Nat) (epc : BitVec 48) (tr : Word) : State :=
  let k := bump 1 { coreAt s c with xlFault := none, fetchFault := none }
  if !landed k then setCore s c (bump 1 (coreAt s c))
  else
  let s := dropEarly s c
  let k := bump 1 { coreAt s c with xlFault := none, fetchFault := none }
  if k.level then
    stopNode (setCore s c { k with csr := { k.csr with cause := BitVec.ofNat 8 cause } }) c 0xB1
  else
    let k := { k with park := none, owed := none, csr := { k.csr with cause := BitVec.ofNat 8 cause, epc := epc, trec := tr } }
    if k.csr.tvec = 0 then stopNode (setCore s c k) c cause
    else setCore s c { k with tlat := k.lat, tlatBoost := k.latBoost, lat := [], latBoost := 0, held := k.exposed,
                              exposed := [], tlevel := k.level, level := true, pc := handlerPc k.csr.tvec cause }

/-- Return from a trap (R106): pc, latches, held results, level. A late result of the returning bundle takes no latch: the
latches are those of the interrupted code. The held results were issued first (R197). -/
def returnTrap (k : Core) : Core :=
  { k with pc := k.csr.epc, lat := k.tlat, latBoost := k.tlatBoost, latWait := [], exposed := k.held ++ k.exposed, held := [],
           level := k.tlevel }

/-! ### Opening a bundle -/

def coreDie (c : Nat) : Nat := c / 108

/-- The barrier register of a core's gang (R349). -/
def barOf (s : State) (c : Nat) (k : Core) (j : Nat) : Option BarReg :=
  k.node.bind fun id => (nodeOf s id).bind fun n =>
    (cluster s (Config.clusterOf c)).bars.find? (fun b => b.node == id && b.gang == k.num / nGang n && b.k == j)

/-- Before a pre-emption the core still ends the bundle whose wait is over, and takes a trap that is due (R117, R348). -/
def finishes (k : Core) : Bool :=
  (match k.park with
   | some p => p.res.isSome
   | none => false) || k.postTrap.any (fun e => e.1 == k.level) || k.mem.any (fun e => match e.op with
     | .gbar _ => true
     | _ => false)

/-- Does the core run at all: it holds work, its node is not being stopped or saved, and no YIELD waits (R109, R383)? -/
def issues (s : State) (k : Core) : Bool :=
  k.running && (match k.node.bind (nodeOf s) with
    | none => k.node.isNone
    | some n => (n.st == .running && !n.offer) || ((n.st == .running || n.st == .draining) && finishes k))

/-- What opening a bundle comes to. -/
inductive Opened where
  | stop (s : State)
  | run (s : State) (f : Frame)
deriving DecidableEq, Repr

/-- The frame of a bundle whose boundary is past (R54): latches start at zero, the bundle's own boosted results apart. -/
def newFrame (k : Core) (hdr : BitVec 16) : Frame :=
  { pre := k, now := { k with lat := [], latBoost := 0, latWait := [], shadow := Shadow.none }, hdr := hdr, used := 0,
    enc := [], faults := [], stall := false, flags := [], bflags := 0, bfdz := false, csrw := none, late := [],
    ctl := .seq, resolve := none, park := none, walk := [], chkfail := none, ports := [], writes := [], slots := [], reads := [], eaten := 0 }

/-- A GBAR arrival that waits for loads of its own bundle (R349). -/
def isGbar (e : MemEnt) : Bool := match e.op with
  | .gbar _ => true
  | _ => false

/-- The arrival of a core at a barrier register of its gang (R349). -/
def gbarArrive (s : State) (c j : Nat) : State :=
  let k := coreAt s c
  match k.node, k.node.bind (nodeOf s) with
  | some id, some n =>
    let bit : BitVec 8 := BitVec.ofNat 8 (2 ^ (k.num % nGang n))
    barArrive s id (k.num / nGang n) (Config.clusterOf c) (fun i => if i == j then bit else 0)
  | _, _ => s

/-- Open the next bundle of core `s.cur`, whose fences are pruned in `k`: traps due at the boundary, a GBAR wait, stalls of
the whole bundle, the freeze, then landings (R108, R197, R198, R248, R249, R269, R349, R381). (DEDUCED, log entry 94.) -/
def openOn (s : State) (k : Core) : Opened :=
  if !issues s k then .stop s
  else
    match k.park, k.gwait with
    | some ⟨_, _, _, _, none, _⟩, _ => .stop (setCore s s.cur (bump 1 k))
    | _, some (j, P, _) =>
      if k.mem.any isGbar then
        .stop (if k.mem.any (·.reads) then setCore s s.cur (bump 1 k)
          else gbarArrive (setCore s s.cur (bump 1 { k with mem := k.mem.filter (fun e => !isGbar e) })) s.cur j)
      else
      (match barOf s s.cur k j with
       | some b =>
         if b.phase == P then .stop (setCore s s.cur (bump 1 k))
         else .stop (setCore s s.cur (bump 1 { k with
           gwait := none, mem := k.mem ++ [⟨k.memNext, 0, .acq 0xFF, false, k.csr.cycle.toNat⟩],
           memNext := k.memNext + 1 }))
       | none => .stop (setCore s s.cur { k with gwait := none }))
    | _, none =>
      match (if k.park.isSome then none else k.postTrap.find? (fun e => e.1 == k.level)) with
      | some e =>
        .stop (if landed k then
          takeTrap (setCore s s.cur { k with postTrap := k.postTrap.erase e }) s.cur e.2.1 k.pc e.2.2
          else setCore s s.cur (bump 1 k))
      | none =>
        if k.cpub.isSome || drainHolds k then .stop (setCore s s.cur (bump 1 k))
        else if frozen k then .stop (setCore s s.cur (bump 1 { k with freeze := k.freeze + 1 }))
        else .run (setCore s s.cur k) (newFrame (landDue k) s.hdr)

/-- DEDUCED, log entry 94; DEDUCED, log entry 95; DEDUCED, log entry 100. -/
def openBundle (s : State) : Opened := openOn s (pruned s s.cur (coreAt s s.cur))

/-! ### Issuing one slot -/

def fileNum (f : Nat) : RFile := if f = 0 then .s else if f = 1 then .v else if f = 2 then .p else if f = 3 then .x else .g

/-- Registers that a later status word or value of the instruction owns (R205, R222, R363): no port, but the scoreboard
holds the bundle while an earlier one is outstanding. -/
def lateRegs : Instr → List Nat
  | .port x | .mcst x => [x.d.toNat]
  | .carav x => [x.d.toNat, x.d.toNat + 1]
  | .mjob x | .mdrn x => [x.d.toNat]
  | .fst x => [x.d.toNat]
  | .fld x | .fatom x => [x.d.toNat + 1]
  | _ => []

/-- Scalar registers a slot reads or writes, s0 and latches apart. -/
def scalarRegs (u : Uses) : List Nat :=
  ((u.s ++ u.ws).filter named).map BitVec.toNat ++
    ((u.sp ++ u.wsp).filter (fun a => a.toNat < 64)).flatMap (fun a => [a.toNat, a.toNat + 1])

/-- Physical vector registers a slot reads or writes (R104). -/
def vectorRegs (rb : BitVec 3) (u : Uses) : List Nat :=
  ((u.v ++ u.wv).filter (fun e => e.1.toNat < 64)).flatMap
    (fun e => (List.range e.2).map (fun i => rotV rb (e.1.toNat + i)))

/-- The scoreboard (R57, R193, R205): a register or latch that a late result still owns. -/
def waits (k : Core) (i : Instr) : Bool :=
  let u := uses i
  (scalarRegs u ++ lateRegs i).any (fun r => k.pendS.contains r) || (vectorRegs k.rb u).any (fun r => k.pendV.contains r) ||
    (latchReads u).any (fun j => k.latWait.any (fun e => e.1 == j))

/-- How a wait of slot `k` of this bundle ended, if it has (R108, R204, R348, R412). (DEDUCED, log entry 96.) -/
def waitRes (f : Frame) (k : Nat) : Option WaitRes :=
  match f.pre.park with
  | none => none
  | some p => (p.res.toList ++ p.prev).find? (fun r => r.slot == k)

/-- The bundle must wait: it does not commit, and runs again once the wait has ended. (DEDUCED, log entry 96.) -/
def parkOn (s : State) (f : Frame) (k : Nat) (kind : ParkKind) (deadline : Option Nat) : Frame :=
  match f.park with
  | some _ => f
  | none =>
    let prev := match f.pre.park with
      | some p => p.res.toList ++ p.prev
      | none => []
    { f with park := some ⟨kind, k, deadline, s.now, none, prev⟩ }

/-- The deadline of a time-out source: all ones is none. -/
def deadlineOf (s : State) (v : Word) : Option Nat := if v = BitVec.allOnes 64 then none else some (s.now + v.toNat)

/-- Append an entry to the core's memory list, in this bundle's colour. -/
def pushMem (f : Frame) (op : MemOp) : Frame :=
  { f with now := { f.now with
      mem := f.now.mem ++ [⟨f.now.memNext, hdrColour f.hdr, op, false, f.pre.csr.cycle.toNat⟩],
      memNext := f.now.memNext + 1 } }

/-- An acquire after the bundle's operation (R250). -/
def acquire (f : Frame) : Frame := pushMem f (.acq 0xFF)

/-- The first read of a written token register is an acquire (R250). (DEDUCED, log entry 45.) -/
def tokAcquire (f : Frame) (u : Uses) : Frame :=
  let rs := (u.s.filter named).map BitVec.toNat ++ (u.sp.filter (fun a => a.toNat < 64)).flatMap (fun a => [a.toNat, a.toNat + 1])
  if rs.any (fun r => f.pre.toks.contains r) then
    acquire { f with now := { f.now with toks := f.now.toks.filter (fun r => !rs.contains r) } }
  else f

/-- Issue one slot of the bundle: its encoding checks (R69-R73), the scoreboard, then its effect `g`. -/
def slotIn (i : Instr) (g : Frame → Frame) (f : Frame) : Frame :=
  match slotOf i with
  | none => f
  | some k =>
    let u := uses i
    let enc := (causes f.pre.level i).map (fun c => (k, c)) ++
      (if boosted f k && (!mayBoost i || f.pre.level) then [(k, 8)] else []) ++
      (if !boosted f k && (latchReads u).any (fun j => f.pre.latBoost.getLsbD j) then [(k, 9)] else [])
    let ports := (List.range 5).map (fun j => (fileNum j, k, nth 0 (readPorts u) j, nth 0 (writePorts u) j))
    let f := { f with used := f.used ||| BitVec.ofNat 6 (2 ^ k), enc := f.enc ++ enc, ports := f.ports ++ ports,
                      writes := f.writes ++ (written u).map (fun e => (k, fileNum e.1, e.2)), slots := f.slots ++ [(k, i)] }
    if waits f.pre i then { f with stall := true }
    else if !enc.isEmpty then f
    else g (tokAcquire f u)

/-! ### The checks of a whole bundle (R69-R74) -/

def slotBit (k : Nat) : BitVec 6 := BitVec.ofNat 6 (2 ^ k)
def orSlots (l : List Nat) : BitVec 6 := l.foldl (fun m k => m ||| slotBit k) 0

/-- Slots whose write overlaps another's (R70). -/
def conflicts (f : Frame) : List (Nat × Nat) :=
  (f.writes.filter (fun a => f.writes.any (fun b => b.1 != a.1 && b.2 == a.2))).map (fun a => (a.1, 6))

def budget (l : List Nat) (r : RFile) : Nat :=
  match r with
  | .s => nth 0 l 0 | .v => nth 0 l 1 | .p => nth 0 l 2 | .x => nth 0 l 3 | .g => nth 0 l 4 | .none => 0

/-- Slots that use an oversubscribed file's ports (R69). -/
def oversub (f : Frame) : List (Nat × Nat) :=
  [RFile.s, .v, .p, .x, .g].flatMap (fun r =>
    let us := f.ports.filter (fun p => p.1 == r)
    let rd := (us.map (fun p => p.2.2.1)).sum
    let wr := (us.map (fun p => p.2.2.2)).sum
    (if budget readBudget r < rd then (us.filter (fun p => 0 < p.2.2.1)).map (fun p => (p.2.1, 7)) else []) ++
    (if budget writeBudget r < wr then (us.filter (fun p => 0 < p.2.2.2)).map (fun p => (p.2.1, 7)) else []))

/-- Boost bits on slots that hold no instruction (R71). -/
def emptyBoost (f : Frame) : List (Nat × Nat) :=
  ((List.range 6).filter (fun k => boosted f k && !f.used.getLsbD k)).map (fun k => (k, 8))

def encAll (f : Frame) : List (Nat × Nat) := f.enc ++ conflicts f ++ oversub f ++ emptyBoost f

/-- The lowest cause of R74 and its slot mask, if the bundle is illegal. -/
def illegal (f : Frame) : Option (Nat × BitVec 6) :=
  let l := encAll f
  let codes := l.map (·.2) ++ (if hdrOk f.hdr then [] else [2])
  match codes.min? with
  | none => none
  | some m => some (m, if m = 2 then 0 else orSlots ((l.filter (fun e => e.2 == m)).map (·.1)))

/-- The end-bundle check of R102. (DEDUCED, log entry 21.) -/
def loopMark (f : Frame) : Bool :=
  let le := hdrLe f.hdr
  match f.pre.loops.getLast? with
  | none => le
  | some t => (le && t.stop != f.pre.pc) || (t.stop == f.pre.pc && (!le || f.slots.any (fun e => transfers e.2)))

/-- Does a register-held target of the bundle still wait for its value, so that TARGET_MISALIGNED is not yet decided? -/
def targetOpen (f : Frame) : Bool :=
  f.stall && f.slots.any (fun e => match e.2 with
    | .calli _ | .jmpi _ => waits f.pre e.2
    | _ => false)

/-! ### Flags (R40-R43) -/

/-- The trap cause of a set of enabled flags (R41). -/
def flagCause (fl : Fl) (floatDz : Bool) : Nat :=
  if fl.getLsbD 0 then 0x40
  else if fl.getLsbD 1 then (if floatDz then 0x41 else 0x45)
  else if fl.getLsbD 2 then 0x42 else if fl.getLsbD 3 then 0x43 else 0x44

def allFlags (f : Frame) : Fl := f.flags.foldl (fun a e => a ||| e.2.1) 0

/-- The enabled flags of a bundle: cause and slots (R41). -/
def flagTrap (f : Frame) : Option (Nat × BitVec 6) :=
  let en : Fl := (f.pre.csr.fpc.extractLsb' 0 5).setWidth 6
  let hot := f.flags.filter (fun e => e.2.1 &&& en != 0)
  if hot.isEmpty then none
  else
    let fl := hot.foldl (fun a e => a ||| (e.2.1 &&& en)) 0
    some (flagCause fl (hot.any (fun e => e.2.1.getLsbD 1 && !e.2.2)), orSlots (hot.map (·.1)))

/-! ### The boost shadow (R112, R113) -/

/-- Entry number of a deferred record (R121). -/
def recIx (r : DefRec) : Nat := if r.dst.file == .v then 64 + r.reg else r.reg

/-- The bundle's boosted results over the shadow they enter: a second write to one register replaces its copy, record or waiting
consumption, and a record replaces an older one of its entry. (DEDUCED, log entry 22.) -/
def mergeShadow (base new : Shadow) (fl : Fl) (fdz : Bool) : Shadow :=
  let ks := new.s.map (·.1)
  let kv := new.v.map (·.1)
  let rs := new.recs.flatMap (fun r => if r.dst.file == .s then r.dst.regs else [])
  let rv := new.recs.flatMap (fun r => if r.dst.file == .v then r.dst.regs else [])
  { s := new.s.foldl (fun l e => shPut l e.1 e.2) (base.s.filter (fun e => !rs.contains e.1)),
    v := new.v.foldl (fun l e => shPut l e.1 e.2) (base.v.filter (fun e => !rv.contains e.1)),
    p := new.p.foldl (fun l e => shPut l e.1 e.2) base.p,
    x := new.x.foldl (fun l e => shPut l e.1 e.2) base.x,
    g := new.g.foldl (fun l e => shPut l e.1 e.2) base.g,
    recs := dropRec .v (kv ++ rv) (dropRec .s (ks ++ rs) (base.recs.filter (fun r => !new.recs.any (fun n => recIx n == recIx r)))) ++
      new.recs,
    fps := base.fps ||| fl, fdz := base.fdz || fdz, retry := base.retry,
    poi := dropPoi .v (kv ++ rv) (dropPoi .s (ks ++ rs) base.poi) ++ new.poi }

/-- Registers that a non-boosted slot of the bundle writes, by physical index. -/
def wroteHere (f : Frame) (r : RFile) (k : Nat) : Bool :=
  f.writes.any (fun w => !boosted f w.1 && w.2.1 == r &&
    (match r with
     | .v => rotV f.pre.rb w.2.2 == k
     | .x => rotX f.pre.rb w.2.2 == k
     | _ => w.2.2 == k))

/-- Every pending copy replaces its register, and consumptions are recorded (R113); a write of the bundle itself
stands. -/
def commitShadow (f : Frame) (sh : Shadow) (k : Core) : Core :=
  let r := k.regs
  let r := (sh.s.filter (fun e => !wroteHere f .s e.1)).foldl (fun r e => r.wS e.1 e.2) r
  let r := (sh.v.filter (fun e => !wroteHere f .v e.1)).foldl (fun r e => r.wV e.1 e.2) r
  let r := (sh.p.filter (fun e => !wroteHere f .p e.1)).foldl (fun r e => r.wP e.1 e.2) r
  let r := (sh.x.filter (fun e => !wroteHere f .x e.1)).foldl (fun r e => r.wX e.1 e.2) r
  let r := (sh.g.filter (fun e => !wroteHere f .g e.1)).foldl (fun r e => r.wG e.1 e.2) r
  sh.poi.foldl (fun k _ => consume k)
    { k with regs := r, csr := { k.csr with fps := k.csr.fps ||| sh.fps } }

/-- A flag of the committed shadow whose enable is set (R113). (DEDUCED, log entry 22; DEDUCED, log entry 100.) -/
def shadowTrap (k : Core) (sh : Shadow) : List (Bool × Nat × Word) :=
  let en : Fl := (k.csr.fpc.extractLsb' 0 5).setWidth 6
  if sh.fps &&& en = 0 then [] else [(k.level, flagCause (sh.fps &&& en) sh.fdz, trec 0 0 true)]

/-- What performing a deferred record again comes to. -/
inductive Redo where
  | done (s : State) (k : Core)
  | fault (cause info : Nat)
  | miss (va : List (Nat × Bool))
deriving DecidableEq, Repr

/-- The addresses of a deferred load's elements from its saved values (R121): address and bytes of each, element width,
count. -/
def recParts (r : DefRec) : List (Nat × Nat) × Nat :=
  let x := lfOf r.insn
  let t := ty? x.ty
  let G := grp x.gs
  let n := active r.pred t.w G
  let at_ (a : Word) : Nat := a.toNat % 2 ^ 48
  match (r.insn.extractLsb' 0 8).toNat with
  | 1 =>
    let a := if x.ix then r.va + r.vb else r.va + x.disp.signExtend 64
    ([(at_ a, t.w / 8)], t.w / 8)
  | 8 =>
    let a := if x.vix then r.va + r.vb else r.va + (x.b.signExtend 64 <<< 5)
    ([(at_ a, (n * t.w + 7) / 8)], 32)
  | 10 => ((List.range n).map (fun i => (at_ (r.va + r.vb * BitVec.ofNat 64 i), t.w / 8)), t.w / 8)
  | _ =>
    let ix := elems t.w G r.vidx
    ((List.range n).map (fun i => (at_ (r.va + BitVec.ofNat 64 (nth 0 ix i * (t.w / 8))), t.w / 8)), t.w / 8)

/-! ### Resolving addresses of an L-slot access (R195) -/

/-- Cut a range at 16 KiB boundaries: the halves of the instruction store and every page end there. -/
def chunksGo : Nat → Nat → Nat → List (Nat × Nat)
  | 0, _, _ => []
  | fuel + 1, va, n =>
    if n = 0 then []
    else
      let k := min n (2 ^ 14 - va % 2 ^ 14)
      (va, k) :: chunksGo fuel (va + k) (n - k)
def chunks (va n : Nat) : List (Nat × Nat) := chunksGo (n / 2 ^ 14 + 2) va n

inductive Resolved where
  | ok (ps : List Piece)
  | fault (cause info : Nat)
  | miss (va : Nat)
deriving DecidableEq, Repr

/-- Translate parts in position order: the first that fails decides (R195); a write to the running instruction-store half
is refused (R267). -/
def xlParts (s : State) (c : Nat) (k : Core) (acc : Acc) : List (Nat × Nat) → Resolved
  | [] => .ok []
  | (va, n) :: t =>
    match xlCore s c k va acc with
    | .fault cause info => .fault cause info
    | .miss => .miss va
    | .ok p disc _ =>
      let running : Bool := match p with
        | .ist _ o => acc.writes && (decide (2 ^ 14 ≤ o) == k.rh)
        | _ => false
      if running then .fault 0x32 0
      else match xlParts s c k acc t with
        | .ok ps => .ok (⟨p, n, disc⟩ :: ps)
        | r => r

/-- The pieces of an access given as element addresses (R195): windows, then alignment, then translation. The window check covers
every byte of an element. (DESIGN CHOICE, log entry 114.) -/
def resolve (s : State) (c : Nat) (k : Core) (acc : Acc) (align : Nat) (els : List (Nat × Nat)) : Resolved :=
  let parts := els.flatMap (fun e => (chunks e.1 e.2).map (fun p => (p.1 % 2 ^ 48, p.2)))
  if parts.any (fun e => window s k.node c e.1 == .refused) then .fault 0x11 0
  else if els.any (fun e => e.1 % align != 0) then .fault 0x10 0
  else xlParts s c k acc parts

/-- A load by the core of these pieces can read now: no acquire holds it back (R248), the core's own earlier accesses to the atoms
have performed (R243), and so, in its own slice and instruction store, have all. -/
def loadMay (c : Nat) (k : Core) (ps : List Piece) : Bool :=
  !acqHolds k 0 false &&
    ps.all (fun p => !k.mem.any (fun e => !e.acc && e.op.pieces.any (fun q => overlaps q p)) && !(isOwn c p.pl && ownPending c k))

/-- Perform the deferred records again, in issue order, into the shadow (R113), each as a load of this bundle: what it must wait for
holds the bundle. (DEDUCED, log entry 23.) -/
def redo (c : Nat) : List DefRec → State → Core → Redo
  | [], s, k => .done s k
  | r :: t, s, k =>
    let p := recParts r
    match resolve s c k .rd p.2 p.1 with
    | .fault cause info => .fault cause info
    | .miss va => .miss [(va, false)]
    | .ok ps =>
      match (if loadMay c k ps then newGate s k.node ps else none) with
      | none => .miss []
      | some s =>
        let d := readPieces s k.node ps
        let dst := { r.dst with boost := true }
        redo c t s (let k := consumeAt dst d.2 k; deliver k k dst d.1)

/-! ### Commit -/

/-- The back-edge (R102): innermost loop outwards, while ends are shared. -/
def backEdgeGo : Nat → Core → Core
  | 0, k => k
  | n + 1, k =>
    match k.loops.getLast? with
    | none => k
    | some t =>
      let i := t.index + 1
      if i < t.count then
        { k with loops := k.loops.dropLast ++ [{ t with index := i }], rb := if t.rot then k.rb + 1 else k.rb,
                 pc := t.start }
      else
        let k := { k with loops := k.loops.dropLast, pc := t.stop + 32 }
        match k.loops.getLast? with
        | none => k
        | some u => if u.stop = t.stop then backEdgeGo n k else k
/-- DEDUCED, log entry 98. -/
def backEdge (k : Core) : Core := backEdgeGo 7 k

/-- The low nibble of the last byte over the byte that memory holds (R195). -/
def nibble (old : Byte) (bs : List Byte) : List Byte := bs.dropLast ++ [(old &&& 0xF0) ||| (bs.getLastD 0 &&& 0x0F)]

/-- Bytes of a store as they go to memory: with `nib` the last byte keeps its high nibble. -/
def storeBytes (s : State) (node : Option Nat) (p : Piece) (bs : List Byte) (nib : Bool) : List Byte :=
  if nib then nibble ((readPlace s node (p.pl.add (bs.length - 1)) 1 true).1.headD 0) bs else bs

/-- Set an event-latch bit of a core of a band, by core number (R108). -/
def setEvent (s : State) (node : Option Nat) (n bit : Nat) : State :=
  match (bandOf s node)[n]? with
  | some p => onCore s p (fun k => { k with evl := k.evl ||| BitVec.ofNat 8 (2 ^ bit) })
  | none => s

/-- A store that merges a nibble writes less than its last atom, whose poison therefore stays (R36, R195). -/
def nibKeeps (s : State) (node : Option Nat) (p : Piece) (nib : Bool) : Bool := nib && (readPlace s node p.pl 1 true).2

/-- Perform one write of the committing bundle (R54, R243). -/
def doLate (s : State) (c : Nat) (col : BitVec 3) (l : Late) : State :=
  match l with
  | .own p bs nib =>
    let node := (coreAt s c).node
    writePlace s (.core c 0 col) node p.pl (storeBytes s node p bs nib) (nibKeeps s node p nib)
  | .porter j => setCluster s (Config.clusterOf c) (fun cl => { cl with jobs := cl.jobs ++ [j] })
  | .fabric r => onFab s (fun h => { h with reqs := h.reqs ++ [{ r with id := h.reqNext, order := h.reqNext }], reqNext := h.reqNext + 1 })
  | .gbar j =>
    let k := coreAt s c
    (match k.node, k.node.bind (nodeOf s) with
     | some _, some _ =>
       let P := ((barOf s c k j).map (·.phase)).getD false
       let k := { k with gwait := some (j, P, s.now) }
       if k.mem.any (·.reads) then
         setCore s c { k with mem := k.mem ++ [⟨k.memNext, col, .gbar j, false, k.csr.cycle.toNat⟩], memNext := k.memNext + 1 }
       else gbarArrive (setCore s c k) c j
     | _, _ => s)
  | .touch ps => (readGate s (coreAt s c).node ps).getD s
  | .cpubX j =>
    let s := onCore s c (fun k => { k with cpub := some j })
    (match j.pl with
     | .dmem pa => (List.range (j.len / 64)).foldl (fun s i => setLine s (redirect s (coreAt s c).node (pa + 64 * i)) 1) s
     | _ => s)
  | .cpubW j => onCore s c (fun k => { k with cpub := some j })
  | .ev n => setEvent s (coreAt s c).node n 4

/-- Leave the bundle (R95-R110): pc, cycles and what control does after every slot has committed. -/
def leave (f : Frame) (k : Core) : Core :=
  let seq := { k with pc := k.pc + 32 }
  let edge (k : Core) : Core := if hdrLe f.hdr then backEdge k else k
  match f.ctl with
  | .seq | .yield => bump 1 (edge seq)
  | .goto pc n => bump (1 + n) (edge { k with pc := pc })
  | .lexit j =>
    let d := k.loops.length - 1 - j
    bump 1 { k with loops := k.loops.take d, pc := (k.loops.getD d default).stop + 32 }
  | .bswap idx =>
    let h := !k.rh
    bump 3 { k with rh := h, pc := BitVec.ofNat 48 (istWin + (if h then 2 ^ 14 else 0) + 32 * idx) }
  | .trap n =>
    let k := bump 1 (edge seq)
    { k with postTrap := (k.level, 0x3F, trec 0 n.toNat false) :: k.postTrap }
  | .eret => bump 1 (returnTrap k)
  | .exit_ =>
    let bad := if k.level && k.csr.cause != 0 then some k.csr.cause.toNat else none
    bump 1 { seq with running := false, retiring := true, postTrap := [], failed := bad }

/-- The core once every slot of the bundle has committed, before the bundle leaves (R43, R57, R112, R113, R116). A CSRW of CIR is
written before the bundle's consumptions are counted (R387). A boosted XSEL in flight is not in the shadow that a branch resolves:
it lands in the next one. (DESIGN CHOICE, log entry 16; DESIGN CHOICE, log entry 107.) -/
def bundleCore (f : Frame) (redone : Core) : Core :=
  let sh := redone.shadow
  let k := f.now
  let old := f.pre.exposed.map (fun e => { e with off := e.off - 1 })
  let csr := match f.csrw with
    | some (2, v) => { k.csr with cir := ((List.range f.eaten).foldl (fun k _ => consume k)
        { f.pre with csr := csrWrite f.pre.csr 2 v }).csr.cir }
    | some (n, v) => csrWrite k.csr n v
    | none => k.csr
  let k := { k with csr := { csr with fps := csr.fps ||| allFlags f }, exposed := old ++ k.exposed.drop old.length,
                    latBoost := hdrBoost f.hdr &&& f.used, freeze := 0, park := none, early := [], owed := none, xlFault := none, fetchFault := none }
  let traps := if f.resolve = some true then shadowTrap k sh else []
  let k := if f.resolve = some true then commitShadow f sh k else k
  let base := if f.resolve.isSome then Shadow.none else f.pre.shadow
  { k with shadow := mergeShadow base f.now.shadow f.bflags f.bfdz, postTrap := traps ++ k.postTrap }

/-- The core after its bundle commits. -/
def committed (f : Frame) (redone : Core) : Core := leave f (bundleCore f redone)

/-- Commit the bundle: the core, then its writes, then what a YIELD offers (R54, R109). -/
def commit (s : State) (c : Nat) (f : Frame) (redone : Core) : State :=
  let s := setCore s c (committed f redone)
  let s := f.late.foldl (fun s l => doLate s c (hdrColour f.hdr) l) s
  match f.ctl, (coreAt s c).node.bind (nodeOf s) with
  | .yield, some n => if yields s n then onNode s n.id (fun n => { n with offer := true }) else s
  | _, _ => s

/-- The walks `new` that a cluster is left with, of `old`: one that now gets a walker begins its load now (R282, R283). -/
def walkersPass (now : Nat) (old new : List Walk) : List Walk :=
  new.zipIdx.map (fun e =>
    if e.2 < 16 && !(old.take 16).any (fun o => o.ctx == e.1.ctx && o.va == e.1.va) then { e.1 with since := now } else e.1)

/-- A miss of core `c` asks for a walk of the page, or joins the one in progress (R282): its bundle waits, or the engine of job
`eng`. -/
def askWalk (s : State) (c : Nat) (eng : Option Nat) (va : Nat) : State :=
  let ctx := (coreAt s c).csr.ctxid
  let p := va / 2 ^ 18 * 2 ^ 18
  let join (w : Walk) : Walk := match eng with
    | none => { w with waiters := if w.waiters.contains c then w.waiters else w.waiters ++ [c] }
    | some j => { w with eng := if w.eng.contains (c, j) then w.eng else w.eng ++ [(c, j)] }
  setCluster s (Config.clusterOf c) (fun u =>
    if u.walks.any (fun w => w.ctx == ctx && w.va == p) then
      { u with walks := u.walks.map (fun w => if w.ctx == ctx && w.va == p then join w else w) }
    else { u with walks := u.walks ++ [join ⟨ctx, p, [], [], 0, 0, s.now⟩] })

/-- The bundle waits: a core cycle passes, and the walks it needs are asked for (R107, R282). -/
def stallBundle (s : State) (c : Nat) (va : List Nat) : State := va.foldl (fun s v => askWalk s c none v) (onCore s c (bump 1))

/-- The first fault of the slots, in slot order (R381); BSWAP looks at the bundle's own writes too (R105, R271). -/
def slotFault (s : State) (f : Frame) : Option (Nat × Nat × Nat) :=
  let c := s.cur
  let pub := if f.pre.rh then f.now.isA else f.now.isB
  let lo := if f.pre.rh then 0 else 2 ^ 14
  let hits (p : Piece) : Bool := match p.pl with
    | .ist d o => d == c && decide (o < lo + 2 ^ 14) && decide (lo < o + p.len)
    | _ => false
  let mine := f.late.any (fun l => match l with
      | .own p _ _ => hits p
      | _ => false) ||
    (f.now.mem.drop f.pre.mem.length).any (fun e => match e.op with
      | .store p _ _ => hits p
      | _ => false)
  let bs := match f.ctl with
    | .bswap _ => if !pub || mine then [(0, 0x30, 1)] else []
    | _ => []
  let all := f.faults ++ bs
  ((List.range 6).filterMap (fun k => all.find? (fun e => e.1 == k))).head?

/-- The resolving branch takes the shadow's commit (R113). -/
def resolves (f : Frame) : Bool := f.resolve == some true

/-- Slots that issued deferred records: the L slot (R113). -/
def recMask : BitVec 6 := slotBit 3

/-- A bundle that a system atomic holds makes its reads before the atomic performs, and its fence orders the atomic: loads, fabric reads
and a FENCE of slot L enter the memory list now, and what its other reads gave is kept for the commit (R54, R243, R247, R412). -/
def issueEarly (s : State) (f : Frame) (p : Park) : State :=
  let c := s.cur
  let fence := f.slots.any (fun e => match e.2 with
    | .fence _ => true
    | _ => false)
  let now := (f.now.mem.drop f.pre.mem.length).filter (fun e => match e.op with
    | .load .. => true
    | .fab rd wr _ _ _ => rd && !wr
    | op => fence && op.isFence)
  let slot (e : MemEnt) : Nat := ((e.op.dst).map (·.slot)).getD 3
  let l := f.reads.map (fun r => Early.mk r.1 f.now.memNext (some r.2)) ++
    now.map (fun e => Early.mk (slot e) e.id (if e.op.isFence then some ([], false) else none))
  if !p.atomic || l.isEmpty then s
  else
    f.late.foldl (fun s a => match a with
        | .touch _ => doLate s c (hdrColour f.hdr) a
        | .fabric r => (match r.kind with
          | .fld _ => doLate s c (hdrColour f.hdr) a
          | _ => s)
        | _ => s)
      (onCore s c (fun k => { k with mem := k.mem ++ now, memNext := f.now.memNext + 1, early := k.early ++ l }))

/-- The last word on a bundle that has no illegal slot and whose resolved shadow is `redone`: the first fault, an enabled
flag, a stop, a wait, or the commit (R381). (DEDUCED, log entry 21.) -/
def finishBundle (s : State) (f : Frame) (redone : Core) : State :=
  let c := s.cur
  match slotFault s f with
  | some (k, cause, info) => takeTrap s c cause f.pre.pc (trec (slotBit k) info false)
  | none =>
    match flagTrap f with
    | some (cause, m) =>
      takeTrap (onCore s c (fun k => { k with csr := { k.csr with fps := k.csr.fps ||| allFlags f } })) c cause f.pre.pc
        (trec m 0 false)
    | none =>
      match f.chkfail with
      | some cause => stopNode (onCore s c (bump 1)) c cause
      | none =>
        match f.park with
        | some p => issueEarly (onCore s c (fun k => bump 1 { k with park := some p, xlFault := none })) f p
        | none => commit s c f redone

/-- A load of the shadow has not delivered its value yet. (DEDUCED, log entry 24.) -/
def boostOut (f : Frame) : Bool :=
  f.pre.mem.any (fun e => match e.op with
    | .load _ d _ _ => d.boost
    | _ => false)

/-- A register that the commit of the shadow writes is still owed the result of an earlier bundle, which it must not follow (R113,
R193). (DEDUCED, log entry 24.) -/
def commitOwed (f : Frame) : Bool :=
  let sh := f.pre.shadow
  let ofFile (file : RFile) : List Nat := sh.recs.flatMap (fun r => if r.dst.file == file then r.dst.regs else [])
  resolves f && ((sh.s.map (·.1) ++ ofFile .s).any f.pre.pendS.contains || (sh.v.map (·.1) ++ ofFile .v).any f.pre.pendV.contains)

/-- A resolving branch as predicted performs the deferred records again, the second time (R113). (DEDUCED, log entry 23.) -/
def redone (s : State) (f : Frame) : Redo :=
  let sh := f.pre.shadow
  if resolves f && !sh.recs.isEmpty then
    (if sh.retry then redo s.cur sh.recs s f.pre
     else .fault ((sh.recs.head?.map (·.cause)).getD 0) 0)
  else .done s f.pre

/-- An acquire among the bundle's own operations holds its writes back until the loads before it have read (R250): a write that
would perform at the bundle, or a system atomic that holds it, then holds the bundle. -/
def acquireHolds (f : Frame) : Bool :=
  (f.late.any (fun l => match l with
    | .own .. => true
    | _ => false) || f.park.any (·.atomic)) &&
  (f.now.mem.drop f.pre.mem.length).any (fun e => match e.op with
    | .acq _ => true
    | _ => false) &&
  f.pre.mem.any (·.reads)

/-- Close the bundle in frame `f` of core `s.cur`: R381's order, then commit. (DEDUCED, log entry 24.) -/
def closeBundle (s : State) (f : Frame) : State :=
  let c := s.cur
  match illegal f with
  | some (code, m) =>
    if targetOpen f && 0x0B < code then stallBundle s c [] else takeTrap s c code f.pre.pc (trec m 0 false)
  | none =>
    if loopMark f then takeTrap s c 0x3D f.pre.pc 0
    else if f.stall || !f.walk.isEmpty || (f.resolve.isSome && boostOut f) || commitOwed f || acquireHolds f then stallBundle s c (f.walk.map (·.1))
    else
      match redone s f with
      | .miss va => stallBundle s c (va.map (·.1))
      | .fault cause info =>
        takeTrap (onCore s c (fun k => onShadow k (fun x => { x with retry := x.retry || landed k }))) c cause f.pre.pc
          (trec recMask info true)
      | .done s k => finishBundle s f k

/-- Run one slot instruction: in the open bundle, or as a bundle of its own with the header staged in `s.hdr`. -/
def runSlot (i : Instr) (g : State → Frame → Frame) (s : State) : Out :=
  if !s.host.power then .fault .unpowered
  else
    match s.frame with
    | some f => .next { s with frame := some (slotIn i (g s) f) }
    | none =>
      match openBundle s with
      | .stop t => .next t
      | .run t f => .next (closeBundle t (slotIn i (g t) f))

/-- A slot instruction that reads and writes only the core. -/
def runCore (i : Instr) (g : Frame → Frame) (s : State) : Out := runSlot i (fun _ => g) s

/-- An event of the table: it occurs where its guard holds, on a powered module (R420). -/
def event (name : String) (ok : Bool) (s : State) (t : State) : Out :=
  if !s.host.power then .fault .unpowered else if ok then .next t else .refused (.notEnabled name)

end Sys2Proof.Machine
end

