-- ==== Sys2Proof/Machine/LoadStore.lean ====
section
/-! DEFINITION. LoadStore.lean: loads, stores and arrival loads of slot L (R192-R199). -/

namespace Sys2Proof.Machine
open Sys2Proof

/-- A fence is still open: the bundle's writes wait in the store queue (R247, R248). -/
def fencePending (k : Core) : Bool := k.mem.any (fun e => e.op.isFence)

/-- A load or job of the bundle: it stalls behind an open ACQ or FULL (R248). -/
def gateLoad (f : Frame) (g : Frame) : Frame := if acqHolds f.pre (hdrColour f.hdr) false then { f with stall := true } else g

/-- A write of the bundle: it stalls behind an open FULL, or an open ACQ that names its colour (R248). -/
def gateWrite (f : Frame) (g : Frame) : Frame := if acqHolds f.pre (hdrColour f.hdr) true then { f with stall := true } else g

/-- The address check of an access (R195), then what it does with the pieces; a commit in progress stalls it (R278). (DEDUCED, log entry 27.) -/
def withPieces (s : State) (f : Frame) (acc : Acc) (align : Nat) (els : List (Nat × Nat))
    (fault : Nat → Nat → Frame) (g : List Piece → Frame) : Frame :=
  match resolve s s.cur f.pre acc align els with
  | .ok ps => if ps.any (fun p => remapped s f.pre.node p.pl) then { f with stall := true } else g ps
  | .fault cause info => fault cause info
  | .miss va => { f with walk := f.walk ++ [(va, acc.writes)] }

/-- A load of the bundle in execution has still to read: none of its writes performs before (R54, R243). -/
def readsOpen (f : Frame) : Bool := (f.now.mem.drop f.pre.mem.length).any (·.pureRead)

/-- Does the access perform at its own bundle: all of it in the core's own slice and instruction store, nothing earlier
there left to perform (R243)? -/
def atOnce (s : State) (f : Frame) (ps : List Piece) : Bool := ps.all (fun p => isOwn s.cur p.pl) && !ownPending s.cur f.pre

/-- Does a write perform at its own bundle (R54, R243, R247)? -/
def writeNow (s : State) (f : Frame) (ps : List Piece) : Bool := atOnce s f ps && !fencePending f.now && !readsOpen f

/-! ### Addresses (R192, R195) -/

def lsEa (f : Frame) (x : LF) : Word :=
  if x.ix then rdS f 3 x.a + rdS f 3 x.b else rdS f 3 x.a + x.disp.signExtend 64
def lvEa (f : Frame) (x : LF) : Word :=
  if x.vix then rdS f 3 x.a + rdS f 3 x.b else rdS f 3 x.a + (x.b.signExtend 64 <<< 5)
/-- The base of VLDR (R194). -/
def vldrEa (f : Frame) (x : LF) : Word := rdS f 3 x.a + ((x.b.extractLsb' 0 6).signExtend 64 <<< 5)

def lw (x : LF) : Nat := (ty? x.ty).w
def lcount (f : Frame) (x : LF) : Nat := active (rdP f 3 x.pr.toNat) (lw x) (grp x.gs)
/-- Consecutive elements from a base: their bytes (R195). (DEDUCED, log entry 27.) -/
def spanEl (f : Frame) (x : LF) (base : Word) : List (Nat × Nat) := [(va48 base, (lcount f x * lw x + 7) / 8)]
def strideEl (f : Frame) (x : LF) : List (Nat × Nat) :=
  (List.range (lcount f x)).map (fun i => (va48 (rdS f 3 x.a + rdS f 3 x.b * BitVec.ofNat 64 i), lw x / 8))
/-- The index group as elements (R195). -/
def indexEl (f : Frame) (x : LF) : List (Nat × Nat) :=
  let ix := elems (lw x) (grp x.gs) (rdV f 3 x.b (grp x.gs))
  (List.range (lcount f x)).map (fun i => (va48 (rdS f 3 x.a + BitVec.ofNat 64 (nth 0 ix i * (lw x / 8))), lw x / 8))

/-- What a read of slot `k` gave, of `ok` bytes, where a system atomic has held the bundle meanwhile (R243, R412). -/
def heldRead (f : Frame) (k : Nat) (ok : Nat → Bool) : Option (List Byte × Bool) :=
  f.pre.early.findSome? (fun e => if e.slot == k then e.got.filter (fun r => ok r.1.length) else none)

/-- The bundle makes a read of its own. -/
def noteRead (k : Nat) (r : List Byte × Bool) (f : Frame) : Frame := { f with reads := f.reads ++ [(k, r)] }

/-! ### Loads -/

/-- Where a scalar or a vector load of slot `k` goes. A suppressed write names register 64, which takes nothing. -/
def sDst (f : Frame) (k : Nat) (d : BitVec 7) (t : ETy) : LateDst := ⟨.s, [d.toNat], t.w, 1, t.isI, k, boosted f k⟩
def vRegs (f : Frame) (d : BitVec 7) (G : Nat) : List Nat :=
  if d.toNat < 64 then (List.range G).map (fun i => rotV f.pre.rb (d.toNat + i)) else []
def vDst (f : Frame) (k : Nat) (x : LF) : LateDst := ⟨.v, vRegs f x.d (grp x.gs), lw x, lcount f x, false, k, boosted f k⟩

/-- A result that arrives later owns its registers and its latch until then (R57, R193). -/
def owe (f : Frame) (id : Nat) (d : LateDst) : Frame :=
  let own (r : Nat) : Bool := decide (r < 64) && !(d.file == .s && r == 0)
  { f with now := { f.now with
      pendS := if d.file == .s then f.now.pendS ++ d.regs.filter own else f.now.pendS,
      pendV := if d.file == .v then f.now.pendV ++ d.regs.filter own else f.now.pendV,
      latWait := f.now.latWait ++ [(d.slot, id)] } }

/-- An access whose result memory returns later. -/
def pushLate (f : Frame) (op : MemOp) (d : LateDst) : Frame := owe (pushMem f op) f.now.memNext d

/-- The result of a load at its own bundle: registers, latch, poison (R35, R57, R193). -/
def loadNow (f : Frame) (k : Nat) (x : LF) (d : LateDst) (r : List Byte × Bool) : Frame :=
  let f := if d.boost then { f with now := consumeAt d r.2 f.now } else eat f r.2
  if d.file == .v then wrE f k x.d d.w (grp x.gs) (firstN d.cnt (bytesEl d.w d.cnt r.1))
  else wrS f k x.d (extend d.sext d.w (leNat r.1))

/-- The operands a deferred record keeps (R121). -/
structure Saved where
  insn : BitVec 48
  va : Word
  vb : Word
  pred : BitVec 16
  vidx : List Vec
deriving Repr

/-- A fault of a load: at once, or in a deferred record when boosted (R112). With no destination register there is no
shadow entry to hold one. (DESIGN CHOICE, log entry 8; DEDUCED, log entry 25.) -/
def loadFault (f : Frame) (k : Nat) (d : LateDst) (r : Saved) (cause info : Nat) : Frame :=
  if !d.boost then faultAt f k cause info
  else
    let f := setLat f k (Config.deferLatch r.va.toNat)
    if d.regs.all (fun e => e == 0 && d.file == .s || decide (64 ≤ e)) then f
    else
      let seq := (f.pre.shadow.recs.map (·.seq)).foldl max 0 + 1
      { f with now := onShadow f.now (fun sh =>
          { sh with recs := sh.recs ++ [⟨d.regs.headD 64, r.insn, cause, seq, r.va, r.vb, r.pred, d, r.vidx⟩] }) }

/-- A load of slot L into register file `d.file` (R193, R195, R196). -/
def loadAt (x : LF) (s : State) (f : Frame) (d : LateDst) (align : Nat) (els : List (Nat × Nat)) (r : Saved) : Frame :=
  match heldRead f 3 (fun _ => true) with
  | some v => loadNow f 3 x d v
  | none =>
    gateLoad f (withPieces s f .rd align els (loadFault f 3 d r) (fun ps =>
      if atOnce s f ps then
        let v := readPieces s f.pre.node ps
        noteRead 3 v (loadNow f 3 x d v)
      else pushLate f (.load ps d [] false) d))

def issueLd (x : LF) (s : State) (f : Frame) : Frame :=
  let t := ty? x.ty
  loadAt x s f (sDst f 3 x.d t) (t.w / 8) [(va48 (lsEa f x), t.w / 8)]
    ⟨encLF 1 x, rdS f 3 x.a, if x.ix then rdS f 3 x.b else 0, 0, []⟩

def issueVld (x : LF) (s : State) (f : Frame) : Frame :=
  loadAt x s f (vDst f 3 x) 32 (spanEl f x (lvEa f x))
    ⟨encLF 8 x, rdS f 3 x.a, if x.vix then rdS f 3 x.b else 0, rdP f 3 x.pr.toNat, []⟩

def issueVlds (x : LF) (s : State) (f : Frame) : Frame :=
  loadAt x s f (vDst f 3 x) (lw x / 8) (strideEl f x) ⟨encLF 10 x, rdS f 3 x.a, rdS f 3 x.b, rdP f 3 x.pr.toNat, []⟩

def issueVgld (x : LF) (s : State) (f : Frame) : Frame :=
  loadAt x s f (vDst f 3 x) (lw x / 8) (indexEl f x)
    ⟨encLF 11 x, rdS f 3 x.a, 0, rdP f 3 x.pr.toNat, rdV f 3 x.b (grp x.gs)⟩

/-! ### Arrival loads (R197, R198) -/

/-- An exposed result of kind `kind`, read now or by a memory-list entry of its own. -/
def expose (s : State) (f : Frame) (kind : ExpKind) (d : LateDst) (off : Nat) (ps : List Piece) : Frame :=
  let k := f.now
  let known (r : List Byte × Bool) : Frame :=
    { f with now := { k with exposed := k.exposed ++ [⟨kind, d, off, k.memNext, some r.1, r.2, d.boost⟩] } }
  match heldRead f d.slot (fun _ => true) with
  | some r => known r
  | none =>
  if atOnce s f ps then
    let r := readPieces s f.pre.node ps
    noteRead d.slot r (known r)
  else
    pushMem { f with now := { k with exposed := k.exposed ++ [⟨kind, d, off, k.memNext, none, false, d.boost⟩] } }
      (.load ps { d with file := .none, regs := [] } [] false)

/-- With its write suppressed an arrival load only checks its address (R197). Then the landing slots (R198): an address fault comes
first. (DESIGN CHOICE, log entry 109.) -/
def arriveAt (s : State) (f : Frame) (d : LateDst) (nwb : Bool) (n G align : Nat) (els : List (Nat × Nat)) : Frame :=
  if (heldRead f 3 (fun _ => true)).isSome then expose s f .ldr d n [] else
  gateLoad f (withPieces s f .rd align els (faultAt f 3) (fun ps =>
    if nwb then f
    else if 16 < landingUse f.pre + G then faultAt f 3 0x12 0
    else expose s f .ldr d n ps))

def issueLdr (x : LF) (s : State) (f : Frame) : Frame :=
  let t := ty? x.ty
  arriveAt s f (sDst f 3 x.d t) (decide (64 ≤ x.d.toNat)) x.aux.toNat 1 (t.w / 8) [(va48 (lsEa f x), t.w / 8)]
def issueVldr (x : LF) (s : State) (f : Frame) : Frame :=
  arriveAt s f (vDst f 3 x) (decide (64 ≤ x.d.toNat)) x.arr.toNat (grp x.gs) 32 (spanEl f x (vldrEa f x))

/-! ### Stores -/

def Place.off : Place → Nat
  | .slice _ o => o
  | .ist _ o => o
  | .dmem a => a
  | .sys a _ => a

/-- Bytes over pieces, cut at atoms: each part is one access (R190, R195). -/
def storeParts : List Piece → List Byte → List (Piece × List Byte)
  | [], _ => []
  | p :: ps, bs =>
    (cutAtoms p.pl.off (bs.take p.len)).map (fun e => (⟨p.pl.add (e.1 - p.pl.off), e.2.length, p.disc⟩, e.2)) ++
      storeParts ps (bs.drop p.len)

/-- Mark the last part: its last byte takes the low nibble only (R195). -/
def lastNib (nib : Bool) : List (Piece × List Byte) → List (Piece × List Byte × Bool)
  | [] => []
  | [(p, bs)] => [(p, bs, nib)]
  | (p, bs) :: t => (p, bs, false) :: lastNib nib t

/-- Parts of a store: at once when all of it is the core's own, else in the store queue, which holds 64 (R243, R244). -/
def storeAll (s : State) (f : Frame) (ps : List Piece) (parts : List (Piece × List Byte × Bool)) : Frame :=
  if writeNow s f ps then
    { f with late := f.late ++ parts.map (fun e => .own e.1 e.2.1 e.2.2) }
  else if parts.isEmpty then f
  else if 64 ≤ writesOut f.pre then { f with stall := true }
  else parts.foldl (fun f e => pushMem f (.store e.1 e.2.1 e.2.2)) f

def storeAt (s : State) (f : Frame) (align : Nat) (els : List (Nat × Nat)) (bs : List Byte) (nib : Bool) : Frame :=
  gateWrite f (withPieces s f .wr align els (faultAt f 3) (fun ps =>
    storeAll s f ps (lastNib nib (storeParts ps bs))))

def issueSt (x : LF) (s : State) (f : Frame) : Frame :=
  let n := lw x / 8
  storeAt s f n [(va48 (lsEa f x), n)] (natLe n (rdS f 3 (x.aux.extractLsb' 0 7)).toNat) false

/-- The first `n` elements of the data group as bytes. -/
def dataBytes (f : Frame) (x : LF) (n : Nat) : List Byte :=
  natLe ((n * lw x + 7) / 8) (joinV (rdV f 3 x.c (grp x.gs)))

def issueVst (x : LF) (s : State) (f : Frame) : Frame :=
  let n := lcount f x
  storeAt s f 32 (spanEl f x (lvEa f x)) (dataBytes f x n) (n * lw x % 8 != 0)

def issueVsct (x : LF) (s : State) (f : Frame) : Frame :=
  storeAt s f (lw x / 8) (indexEl f x) (dataBytes f x (lcount f x)) false

/-! ### The meanings -/

def execLd (x : LF) (s : State) : Out := runSlot (.ld x) (issueLd x) s
def execSt (x : LF) (s : State) : Out := runSlot (.st x) (issueSt x) s
def execLdr (x : LF) (s : State) : Out := runSlot (.ldr x) (issueLdr x) s
def execVld (x : LF) (s : State) : Out := runSlot (.vld x) (issueVld x) s
def execVst (x : LF) (s : State) : Out := runSlot (.vst x) (issueVst x) s
def execVlds (x : LF) (s : State) : Out := runSlot (.vlds x) (issueVlds x) s
def execVgld (x : LF) (s : State) : Out := runSlot (.vgld x) (issueVgld x) s
def execVsct (x : LF) (s : State) : Out := runSlot (.vsct x) (issueVsct x) s
def execVldr (x : LF) (s : State) : Out := runSlot (.vldr x) (issueVldr x) s

end Sys2Proof.Machine
end

