-- ==== Sys2Proof/Machine/Atomics.lean ====
section
/-! DEFINITION. Atomics.lean: atomics, barrier words, fences and drains of slot L (R200-R204, R246-R249), and the atomic
operations that other units share. -/

namespace Sys2Proof.Machine
open Sys2Proof

/-! ### The operations (R201) -/

/-- The new word of ATOM: operation code, type, old word, operand. -/
def atomOp (op : Nat) (t : ETy) (old v : Nat) : Nat :=
  let so : Int := (BitVec.ofNat t.w old).toInt
  let sv : Int := (BitVec.ofNat t.w v).toInt
  match op with
  | 0 => (old + v) % 2 ^ t.w
  | 1 => old &&& v
  | 2 => old ||| v
  | 3 => old ^^^ v
  | 4 => if sv < so then v else old
  | 5 => if so < sv then v else old
  | 6 => min old v
  | 7 => max old v
  | 8 => v
  | _ => (fAdd t .rne old v).1

/-- What an atomic writes: `none` where a comparison fails. -/
def atomNew (k : AtomKind) (t : ETy) (old x y : Nat) : Option Nat :=
  match k with
  | .op n => some (atomOp n t old x)
  | _ => if old = x then some y else none

/-- The width an atomic's result is extended from. -/
def atomW (k : AtomKind) (t : ETy) : Nat := if k == .cas128 then 128 else t.w

/-- Perform an atomic at its owner: the old word's bytes, whether they were poisoned, and the state after (R36, R201). -/
def performAtom (s : State) (w : Writer) (node : Option Nat) (k : AtomKind) (t : ETy) (p : Piece) (x y : Nat) :
    List Byte × Bool × State :=
  let r := readPiece s node p
  match atomNew k t (leNat r.1) x y with
  | some v => (r.1, r.2, writePlace s w node p.pl (natLe p.len v) false)
  | none => (r.1, r.2, s)

/-! ### System pages (R411, R412) -/

/-- Can the path to a system page carry the atomic (R412)? -/
def pathOk (s : State) (k : AtomKind) (t : ETy) (ha mt : Nat) : Bool :=
  let h := mget 0 s.host.hpath (hostPortOf s ha)
  let wide := if t.w == 64 then 1 else 0
  if mt = 0 ∨ mt = 3 then true
  else if mt = 2 then false
  else
    match k with
    | .op 0 => h.getLsbD wide
    | .op 8 => h.getLsbD (2 + wide)
    | .op _ => false
    | .cas => h.getLsbD (4 + wide)
    | .cas128 => h.getLsbD 6

/-! ### Issue -/

/-- The result of an atomic at its own bundle: one register, or a pair with the low half first (R60). -/
def atomOut (f : Frame) (slot : Nat) (d : BitVec 7) (dst : LateDst) (bs : List Byte) : Frame :=
  if dst.w = 128 then
    let f := wrS f slot d (BitVec.ofNat 64 (leNat (bs.take 8)))
    if d.toNat < 64 then
      { f with now := putS f.now (boosted f slot) (d.toNat + 1) (BitVec.ofNat 64 (leNat (bs.drop 8))) } else f
  else wrS f slot d (extend dst.sext dst.w (leNat bs))

/-- Where an atomic or a barrier word of slot `k` may not lie (R195, R200): window, alignment, instruction store, of which an atomic
that writes the running half has a cause of its own (R262, R267); a barrier word has none there (R204). The spec orders the window
check before alignment, and does not place ATOMIC_TARGET. (DESIGN CHOICE, log entry 110.) -/
def targetFault (s : State) (f : Frame) (va align : Nat) (sliceOnly wr : Bool) : Option Nat :=
  match window s f.pre.node s.cur va with
  | .refused => some 0x11
  | w =>
    if va % align ≠ 0 then some 0x10
    else
      match w with
      | .at_ (.slice _ _) => none
      | .at_ (.ist _ o) => some (if wr && decide (2 ^ 14 ≤ o) == f.pre.rh then 0x32 else 0x14)
      | .at_ _ => some 0x14
      | _ => if sliceOnly then some 0x14 else none

/-- The late destination of an atomic. -/
def atomDst (k : AtomKind) (t : ETy) (slot : Nat) (d : BitVec 7) : LateDst :=
  ⟨.s, if k == .cas128 then [d.toNat, d.toNat + 1] else [d.toNat], atomW k t, 1, t.isI, slot, false⟩

/-- The bundle's L-slot atomic to a system page has completed: the one of slot A was sent with it, on a path checked then (R412).
(DEDUCED, log entry 111.) -/
def atomDone (f : Frame) : Bool :=
  (waitRes f 3).isSome && f.slots.any (fun e => match e.2 with
    | .atom _ | .acas _ | .acas128 _ => true
    | _ => false)

/-- Issue an atomic of slot `slot`. To a system page it holds its bundle until its completion returns (R412); in the
core's own slice it performs at once; elsewhere it goes to the owner (R200). -/
def issueAtomic (s : State) (f : Frame) (slot : Nat) (k : AtomKind) (t : ETy) (ea : Word) (x y : Nat) (d : BitVec 7)
    (ev : Option Nat) : Frame :=
  let n := atomW k t / 8
  let va := va48 ea
  match waitRes f slot with
  | some r =>
    if r.ok then
      let f := atomOut f slot d (atomDst k t slot d) (natLe n r.val)
      { f with late := f.late ++ ev.toList.map .ev } else faultAt f slot 0xB0 0
  | none =>
  match targetFault s f va n false true with
  | some cause => faultAt f slot cause 0
  | none =>
    gateLoad f (withPieces s f .rw n [(va, n)] (faultAt f slot) (fun ps =>
      match ps with
      | [p] =>
        (match p.pl with
         | .sys ha mt =>
           if !pathOk s k t ha mt && !atomDone f then faultAt f slot 0xB0 0
           else parkOn s f slot (.sysAtom k t p x y) none
         | _ =>
           if writeNow s f ps && f.late.all (fun l => match l with
               | .own .. => false
               | _ => true) then
             let r := readPiece s f.pre.node p
             let f := atomOut (eat f r.2) slot d (atomDst k t slot d) r.1
             (match atomNew k t (leNat r.1) x y with
              | some v => { f with late := f.late ++ .own p (natLe n v) false :: ev.toList.map .ev }
              | none => f)
           else if slot = 3 ∧ 64 ≤ writesOut f.pre then { f with stall := true }
           else pushLate f (.atom k t p x y (atomDst k t slot d) ev) (atomDst k t slot d))
      | _ => f))

def low (f : Frame) (a : BitVec 7) (w : Nat) : Nat := (rdS f 3 a).toNat % 2 ^ w
/-- A scalar pair as one number (R60). -/
def rdPair (f : Frame) (a : BitVec 7) : Nat := (rdS f 3 a).toNat + 2 ^ 64 * (rdS f 3 (a + 1)).toNat

def issueAtom (x : LF) (s : State) (f : Frame) : Frame :=
  let t := ty? x.ty
  issueAtomic s f 3 (.op x.op.toNat) t (rdS f 3 x.a) (low f x.c t.w) 0 x.d none
def issueAcas (x : LF) (s : State) (f : Frame) : Frame :=
  let t := ty? x.ty
  issueAtomic s f 3 .cas t (rdS f 3 x.a) (low f x.c t.w) (low f x.b t.w) x.d none
def issueAcas128 (x : LF) (s : State) (f : Frame) : Frame :=
  issueAtomic s f 3 .cas128 .n64 (rdS f 3 x.a) (rdPair f x.c) (rdPair f x.b) x.d none

/-! ### Barrier words (R203, R204) -/

/-- The word after one arrival: `none` where BARV refuses it. -/
def barNext (old : Word) : Option Word :=
  let e := old.extractLsb' 16 16
  let p := old.extractLsb' 0 16
  if e = 0 ∨ old.extractLsb' 32 31 ≠ 0 ∨ p = 0 then none
  else if p = 1 then some ((old ^^^ (1 <<< 63)) &&& ~~~(0xFFFF : Word) ||| e.setWidth 64)
  else some (old - 1)

/-- Nothing issued earlier is still to be performed at the place (R243). -/
def syncClear (s : State) (f : Frame) (p : Piece) : Bool :=
  !f.pre.mem.any (fun e => !e.acc && e.op.pieces.any (fun q => overlaps q p)) &&
    !(isOwn s.cur p.pl && ownPending s.cur f.pre) && !leased s p.pl

/-- The release at DEVICE that an operation carries has been satisfied (R247, R250), and every earlier fence too. (DEDUCED, log entry 38.) -/
def released (s : State) (f : Frame) (scope : Nat) : Bool :=
  !fencePending f.pre && fenceOk s s.cur f.pre.mem (.rel scope 0xFF s.dram.wqNext)

/-- A scale load of the same bundle reads before the operation's write (R54, R243, R247): at the bundle, or the bundle waits. -/
def scldFirst (s : State) (f : Frame) : Option Frame :=
  (f.now.mem.drop f.pre.mem.length).foldl (fun o e => o.bind (fun f => match e.op with
    | .load ps .. =>
      if loadMay s.cur f.pre ps && (readGate s f.pre.node ps).isSome then
        let r := readPieces s f.pre.node ps
        some { f with now := fillExposed f.now e.id r.1 r.2, late := .touch ps :: f.late }
      else none
    | _ => some f)) (some f)

/-- BARV holds its bundle until the owning bank has answered (R204). -/
def issueBarv (x : LF) (s : State) (f : Frame) : Frame :=
  let va := va48 (rdS f 3 x.a)
  match targetFault s f va 8 true false with
  | some cause => faultAt f 3 cause 0
  | none =>
    withPieces s f .rw 8 [(va, 8)] (faultAt f 3) (fun ps =>
      match ps with
      | [p] =>
        (match (if released s f 3 && syncClear s f p then scldFirst s f else none) with
         | none => { f with stall := true }
         | some f =>
           let r := readPiece s f.pre.node p
           let old : Word := BitVec.ofNat 64 (leNat r.1)
           (match barNext old with
            | none => faultAt f 3 0x90 0
            | some new =>
              let f := wrS (eat f r.2) 3 x.d old
              { f with late := f.late ++ [.own p (natLe 8 new.toNat) false] }))
      | _ => f)

/-- BARW (R204): an acquire where it returns 1 (R250). -/
def issueBarw (x : LF) (s : State) (f : Frame) : Frame :=
  let va := va48 (rdS f 3 x.a)
  match targetFault s f va 8 true false with
  | some cause => faultAt f 3 cause 0
  | none =>
    gateLoad f (withPieces s f .rd 8 [(va, 8)] (faultAt f 3) (fun ps =>
      match ps with
      | [p] =>
        if !syncClear s f p then { f with stall := true }
        else
          let r := readPiece s f.pre.node p
          let f' := eat f r.2
          let par := (rdS f 3 x.b).getLsbD 0
          let met := (BitVec.ofNat 64 (leNat r.1) : Word).getLsbD 63 == par
          if met then acquire (wrS f' 3 x.d 1)
          else if rdS f 3 x.c = 0 then wrS f' 3 x.d 0
          else
            (match waitRes f 3 with
             | some w => if w.ok then acquire (wrS f' 3 x.d 1) else wrS f' 3 x.d 0
             | none => parkOn s f 3 (.barw p.pl par) (deadlineOf s (rdS f 3 x.c)))
      | _ => f))

/-! ### Fences (R246-R249) -/

def issueDrain (x : LF) (f : Frame) : Frame := pushMem f (.drain x.mask)

/-- A fence at CORE has no further effect (R247); one whose bundle a system atomic has held has been issued. -/
def issueFence (x : LF) (s : State) (f : Frame) : Frame :=
  if x.scope = 0 ∨ (heldRead f 3 (fun _ => true)).isSome then f
  else if x.kind = 0 then pushMem f (.rel x.scope x.mask s.dram.wqNext)
  else if x.kind = 1 then pushMem f (.acq x.mask)
  else pushMem f (.full x.scope x.mask s.dram.wqNext)

/-! ### The meanings -/

def execAtom (x : LF) (s : State) : Out := runSlot (.atom x) (issueAtom x) s
def execAcas (x : LF) (s : State) : Out := runSlot (.acas x) (issueAcas x) s
def execAcas128 (x : LF) (s : State) : Out := runSlot (.acas128 x) (issueAcas128 x) s
def execBarv (x : LF) (s : State) : Out := runSlot (.barv x) (issueBarv x) s
def execBarw (x : LF) (s : State) : Out := runSlot (.barw x) (issueBarw x) s
def execDrain (x : LF) (s : State) : Out := runCore (.drain x) (issueDrain x) s
def execFence (x : LF) (s : State) : Out := runSlot (.fence x) (issueFence x) s

end Sys2Proof.Machine
end

