-- ==== Sys2Proof/Machine/Jobs.lean ====
section
/-! DEFINITION. Jobs.lean: the cards of a core's engines and what they touch: Porter cards (R206), matrix job cards (R218,
R219), drain descriptors (R227), footprints and the edges between jobs (R209, R221). -/

namespace Sys2Proof.Machine
open Sys2Proof

/-- A signed field of `n` bytes. -/
def dI (d : List Byte) (i n : Nat) : Int := (BitVec.ofNat (8 * n) (dN d i n)).toInt
def zeros (d : List Byte) (i n : Nat) : Bool := dN d i n == 0

/-! ### The Porter's card (R206) -/

def pRun (d : List Byte) : Nat := dN d 0x10 4
def pCount1 (d : List Byte) : Nat := dN d 0x14 2
def pCount2 (d : List Byte) : Nat := dN d 0x16 2
def pFill (d : List Byte) : Bool := dB d 0x30 == 1
def pArrive (d : List Byte) : Nat := d64 d 0x28
def pOk (d : List Byte) : Bool := decide (pRun d ≤ 2 ^ 24) && decide (dB d 0x30 ≤ 1) && zeros d 0x31 15
/-- Runs of the job. -/
def pRuns (d : List Byte) : Nat := if pRun d = 0 then 0 else pCount1 d * pCount2 d

/-- An address with wrapping 64-bit arithmetic, as 48 bits (R187). -/
def addrI (base : Nat) (off : Int) : Nat := va48 (BitVec.ofNat 64 base + BitVec.ofInt 64 off)

/-- Source and destination of run `i` in loop order (R207). -/
def pSrc (d : List Byte) (i : Nat) : Nat :=
  addrI (d64 d 0) ((i / pCount1 d : Nat) * dI d 0x1C 4 + (i % pCount1 d : Nat) * dI d 0x18 4)
def pDst (d : List Byte) (i : Nat) : Nat :=
  addrI (d64 d 8) ((i / pCount1 d : Nat) * dI d 0x24 4 + (i % pCount1 d : Nat) * dI d 0x20 4)

/-! ### The matrix job card (R218, R219) -/

def cKext (d : List Byte) : Nat := dN d 0x38 4
def cNk0 (d : List Byte) : Nat := dN d 0x3C 2
def cNk1 (d : List Byte) : Nat := dN d 0x3E 2
def cNk2 (d : List Byte) : Nat := dN d 0x40 2
def cT0 (d : List Byte) : Nat := dB d 0x42
def cTm (d : List Byte) : Nat := dB d 0x43
def cTn (d : List Byte) : Nat := dB d 0x44
def cA (d : List Byte) : ETy := ty? (BitVec.ofNat 5 (dB d 0x45))
def cB (d : List Byte) : ETy := ty? (BitVec.ofNat 5 (dB d 0x46))
def cZero (d : List Byte) : Bool := dB d 0x47 == 1
def cAscl (d : List Byte) : Nat := d64 d 0x48
def cBscl (d : List Byte) : Nat := d64 d 0x50
def cAg (d : List Byte) : Nat := dB d 0x58
def cBg (d : List Byte) : Nat := dB d 0x59
def cResumed (d : List Byte) : Bool := dB d 0x68 == 1
def cF64 (d : List Byte) : Bool := dB d 0x45 == 0x0A
/-- Slabs of one output tile, and of the job. -/
def cPer (d : List Byte) : Nat := cNk0 d * cNk1 d * cNk2 d
def cSlabs (d : List Byte) : Nat := cPer d * cTm d * cTn d

/-- The ordinal of the first slab to run (R223). -/
def cStart (d : List Byte) : Nat :=
  if cResumed d then
    (((dB d 0x60 * cTm d + dB d 0x61) * cNk2 d + dN d 0x62 2) * cNk1 d + dN d 0x64 2) * cNk0 d + dN d 0x66 2
  else 0

/-- The 16 progress bytes at slab ordinal `i` (R225). -/
def cProgress (d : List Byte) (i cause : Nat) : List Byte :=
  let r := i % cPer d
  let t := i / cPer d
  natLe 1 (t / cTm d) ++ natLe 1 (t % cTm d) ++ natLe 2 (r / (cNk0 d * cNk1 d)) ++ natLe 2 (r / cNk0 d % cNk1 d) ++
    natLe 2 (r % cNk0 d) ++ natLe 1 1 ++ natLe 1 cause ++ natLe 6 0

/-- The narrow class of formats (R219). -/
def narrowFmt (c : Nat) : Bool := [0x0C, 0x0D, 0x0E, 0x0F, 0x10, 0x01].contains c

/-- The checks of a card at issue (R218, R219, R222). -/
def cardOk (d : List Byte) : Bool :=
  let a := dB d 0x45
  let b := dB d 0x46
  let n := cTm d * cTn d
  let fmt := if a = 0x0A ∧ b = 0x0A then cT0 d % 2 == 0 && decide (n ≤ 8) && decide (cT0 d + 2 * n ≤ 16)
    else (a == 0x0B && b == 0x0B || narrowFmt a && narrowFmt b) && decide (cT0 d + n ≤ 16)
  zeros d 0x5A 6 && zeros d 0x6A 22 && decide (dB d 0x47 ≤ 1) && decide (1 ≤ cKext d) && decide (cKext d ≤ 16 * cPer d) &&
    decide (cT0 d ≤ 15) && decide (1 ≤ cTm d) && decide (cTm d ≤ 4) && decide (1 ≤ cTn d) && decide (cTn d ≤ 4) && fmt &&
    decide (cAg d ≤ 8) && decide (cBg d ≤ 8) && cAscl d % 2 == 0 && cBscl d % 2 == 0 && decide (dB d 0x68 ≤ 1) &&
    decide (dB d 0x60 < cTn d) && decide (dB d 0x61 < cTm d) && decide (dN d 0x62 2 < cNk2 d) &&
    decide (dN d 0x64 2 < cNk1 d) && decide (dN d 0x66 2 < cNk0 d)

/-- The output tiles of a card (R219): tile pairs in FP64 mode. -/
def cTiles (d : List Byte) : List Nat :=
  (List.range ((if cF64 d then 2 else 1) * cTm d * cTn d)).map (fun i => cT0 d + i)

/-- Bytes of one slab row (R220). -/
def slabBytes (t : ETy) : Nat := if t.isB then t.blk else 16 * t.w / 8

/-! ### Fabric addresses (R364) -/

def myDev (s : State) : Nat := (s.fab.fabcfg.extractLsb' 0 6).toNat
def devOf (a : Word) : Nat := (a.extractLsb' 56 6).toNat
def offOf (a : Word) : Nat := a.toNat % 2 ^ 48

/-- Is a fabric address well formed (R364)? -/
def faddrOk (s : State) (a : Word) : Bool :=
  a.extractLsb' 62 2 == 0 && a.extractLsb' 48 8 == 0 && decide (devOf a / 8 ≤ (s.fab.fabcfg.extractLsb' 21 3).toNat) &&
    decide (devOf a % 8 ≤ (s.fab.fabcfg.extractLsb' 18 3).toNat)

/-! ### The drain descriptor (R227) -/

def dDst (d : List Byte) : Nat := d64 d 0
def dStride (d : List Byte) : Int := dI d 8 4
def dFmt (d : List Byte) : ETy := ty? (BitVec.ofNat 5 (dB d 0x0C))
def dOpt (d : List Byte) (i : Nat) : Bool := dB d 0x0E / 2 ^ i % 2 == 1
def dAcc (d : List Byte) : Bool := dOpt d 0
def dSrc64 (d : List Byte) : Bool := dOpt d 4
def drainOk (d : List Byte) (tile : Nat) : Bool :=
  let f := dB d 0x0C
  (if dSrc64 d then (f == 0x0A || f == 0x0B) && tile % 2 == 0 else [0x0A, 0x0B, 0x0C, 0x0D].contains f) &&
    decide (dB d 0x0D ≤ 3) && decide (dB d 0x0E < 64) && zeros d 0x0F 17
def dTiles (d : List Byte) (tile : Nat) : List Nat := if dSrc64 d then [tile, tile + 1] else [tile]
def dRowBytes (d : List Byte) : Nat := 64 * ((dFmt d).w / 8)
def dRow (d : List Byte) (r : Nat) : Nat := addrI (dDst d) (r * dStride d)

/-! ### Footprints (R209, R221) -/

/-- A byte range [lo, hi) that a job reads or writes. -/
structure Foot where
  lo : Int
  hi : Int
  wr : Bool
deriving DecidableEq, Repr

/-- The range of a linear pattern: strides with trip counts, bytes at each place. (DEDUCED, log entry 33.) -/
def span (base : Nat) (ps : List (Int × Nat)) (len : Nat) (wr : Bool) : Foot :=
  let lo := (ps.map (fun p => min 0 (p.1 * ((p.2 - 1 : Nat) : Int)))).sum
  let hi := (ps.map (fun p => max 0 (p.1 * ((p.2 - 1 : Nat) : Int)))).sum
  let b : Int := (base % 2 ^ 48 : Nat)
  ⟨b + lo, b + hi + len, wr⟩

/-- DEDUCED, log entry 33. -/
def portFoot (d : List Byte) : List Foot :=
  let arr := if pArrive d = 0 then [] else [span (pArrive d) [] 8 true]
  if !pOk d then []
  else if pRuns d = 0 then arr
  else
    (if pFill d then [] else [span (d64 d 0) [(dI d 0x1C 4, pCount2 d), (dI d 0x18 4, pCount1 d)] (pRun d) false]) ++
      span (d64 d 8) [(dI d 0x24 4, pCount2 d), (dI d 0x20 4, pCount1 d)] (pRun d) true :: arr

/-- The destination range of a Porter job alone. -/
def portDst (d : List Byte) : List Foot := (portFoot d).filter (·.wr)

def cardFoot (d : List Byte) (addr : Nat) : List Foot :=
  let ks (o : Nat) : List (Int × Nat) := [(dI d o 4, cNk0 d), (dI d (o + 4) 4, cNk1 d), (dI d (o + 8) 4, cNk2 d)]
  (if cAg d = 0 then [span (d64 d 0) ((dI d 0x1C 4, cTm d) :: (dI d 0x20 4, 64) :: ks 0x10) (slabBytes (cA d)) false] else []) ++
  (if cBg d = 0 then [span (d64 d 8) ((dI d 0x30 4, cTn d) :: (dI d 0x34 4, 64) :: ks 0x24) (slabBytes (cB d)) false] else []) ++
  (if cAscl d = 0 then [] else [span (cAscl d) [] (128 * cTm d) false]) ++
  (if cBscl d = 0 then [] else [span (cBscl d) [] (128 * cTn d) false]) ++ [span (addr + 0x60) [] 16 true]

def drainFoot (d : List Byte) : List Foot := [span (dDst d) [(dStride d, 64)] (dRowBytes d) true]

def mxFoot (o : MxOp) : List Foot :=
  match o.kind with
  | .mjob => cardFoot o.card o.addr.toNat
  | .mdrn => drainFoot o.card
  | .mkat => []

def footsClash (a b : List Foot) : Bool :=
  a.any (fun x => b.any (fun y => decide (x.lo < y.hi) && decide (y.lo < x.hi) && (x.wr || y.wr)))

/-- Jobs of core `c`: order of issue and footprint. -/
def jobsOf (s : State) (c : Nat) : List (Nat × List Foot) :=
  (((cluster s (Config.clusterOf c)).jobs.filter (fun j => j.core == c)).map (fun j => (j.after, portFoot j.card))) ++
    (coreAt s c).mxq.map (fun o => (o.after, mxFoot o))

/-- A job is held by a footprint edge to an earlier one of its core (R209). -/
def edgeHeld (s : State) (c after : Nat) (foot : List Foot) : Bool :=
  (jobsOf s c).any (fun j => decide (j.1 < after) && footsClash j.2 foot)

/-- Own-slice accesses of earlier bundles are still to be performed: the job's come after them (R190, R209). -/
def ownBefore (s : State) (c after : Nat) : Bool :=
  (coreAt s c).mem.any (fun e => decide (e.id < after) && !e.acc && e.op.pieces.any (fun p => isOwn c p.pl))

/-! ### Reading a card or descriptor as a load of the bundle (R54) -/

/-- Pieces that the bundle itself reads: it waits until every earlier access to them has performed and their banks serve them, and
leaves the banks as the read does (R287, R288). -/
def readSync (s : State) (f : Frame) (ps : List Piece) (g : State → Frame) : Frame :=
  match (if ps.all (syncClear s f) then readGate s f.pre.node ps else none) with
  | some t => let f' := g t; { f' with late := .touch ps :: f'.late }
  | none => { f with stall := true }

/-- Read `n` bytes at an address aligned to `align`, as a load of slot `k`. (DEDUCED, log entry 31.) -/
def readCard (s : State) (f : Frame) (k : Nat) (ea : Word) (align n : Nat) (g : List Byte × Bool → Frame) : Frame :=
  match heldRead f k (· == n) with
  | some r => g r
  | none =>
    gateLoad f (withPieces s f .rd align [(va48 ea, n)] (faultAt f k) (fun ps =>
      readSync s f ps (fun t =>
        let r := readPieces t f.pre.node ps
        noteRead k r (g r))))

/-- A token register and a place in the order of issue for a job (R205). -/
def oweToken (f : Frame) (d : BitVec 7) : Frame :=
  { f with now := { f.now with pendS := f.now.pendS ++ [d.toNat], memNext := f.now.memNext + 1 } }

end Sys2Proof.Machine
end

