-- ==== Sys2Proof/Machine/Async.lean ====
section
/-! DEFINITION. Async.lean: the instructions of slot A outside the fabric: PORT (R205), CPUB and IPUB (R269, R271), LAUNCH
(R345), SSIG and SWAIT (R346-R348), GBAR (R349), CHKERR (R388), CKPT (R401). -/

namespace Sys2Proof.Machine
open Sys2Proof

/-- PORT: the card is read now, the job joins the cluster's queue, which holds 64, 16 of them of one core (R205, R209). -/
def issuePort (x : RF) (s : State) (f : Frame) : Frame :=
  let jobs := (cluster s (Config.clusterOf s.cur)).jobs
  readCard s f 4 (rdS f 4 x.a) 64 64 (fun r =>
    if 64 ≤ jobs.length ∨ 16 ≤ (jobs.filter (fun j => j.core == s.cur)).length then { f with stall := true }
    else
      let j : PJob := { core := s.cur, tok := x.d.toNat, colour := hdrColour f.hdr, card := r.1, after := f.now.memNext,
                        started := false, run := 0, bytes := 0, cause := none, handler := f.pre.level, since := s.now }
      oweToken { f with late := f.late ++ [.porter j] } x.d)

/-! ### Publishing code -/

/-- Translation of a CPUB's address: only a handler-level page may refuse it (R269). -/
def xlPub (s : State) (c : Nat) (k : Core) (va : Nat) : Xl :=
  match (match k.xlFault with
    | some (v, cause, level) => if v = va / 2 ^ 18 then some (cause, level) else none
    | none => none) with
  | some (cause, level) => .fault cause (xlInfo cause level .rd)
  | none =>
    match (tlbFind k.tlb k.csr.ctxid va).orElse (fun _ => tlbFind (cluster s (Config.clusterOf c)).tlb k.csr.ctxid va) with
    | none => .miss
    | some e =>
      if e.leaf.getLsbD 5 && !k.level then .fault 0x19 (xlInfo 0x19 5 .rd) else .ok (leafPlace e va) false (some e)

/-- Earlier writes of the core, of a masked colour, to a byte of the range, not yet performed (R269); a fabric write may come back to
the range through a window, and a store that a combining buffer holds may be one to it. (DEDUCED, log entry 32.) -/
def cpubWaits (k : Core) (p : Piece) (mask : BitVec 8) : List Nat :=
  (k.mem.filter (fun e => e.writes && !e.acc && mask.getLsbD e.colour.toNat && (match e.op with
    | .fab .. => true
    | .gathered => (match p.pl with
      | .sys _ _ => true
      | _ => false)
    | op => op.pieces.any (fun q => overlaps p q)))).map
    (·.id)

/-- CPUB (R269): the checks in their order, then the begin of its effect. -/
def issueCpub (x : RF) (s : State) (f : Frame) : Frame :=
  let a := va48 (rdS f 4 x.a)
  let n := (rdS f 4 x.b).toNat
  let hits (base : Nat) : Bool := decide (a < base + 2 ^ 32) && decide (base < a + n)
  if a % 64 ≠ 0 ∨ n % 64 ≠ 0 then faultAt f 4 0x10 0
  else if n = 0 ∨ hits sliceWin ∨ hits istWin then faultAt f 4 0x34 0
  else
    match xlPub s s.cur f.pre a with
    | .fault cause info => faultAt f 4 cause info
    | .miss => { f with walk := f.walk ++ [(a, false)] }
    | .ok _ _ none => f
    | .ok p _ (some e) =>
      if a / 2 ^ pageBits e.level ≠ (a + n - 1) / 2 ^ pageBits e.level then faultAt f 4 0x34 0
      else if !x.cpubW && !e.leaf.getLsbD 4 then faultAt f 4 0x36 0
      else
        let j : Cpub := ⟨if x.cpubW then [] else cpubWaits f.pre ⟨p, n, false⟩ x.cpubMask, a, p, n, e.level, x.cpubMask,
          x.cpubScope, []⟩
        { f with late := f.late ++ [if x.cpubW then .cpubW j else .cpubX j] }

/-- The address range of the idle half (R267). -/
def idleFoot (k : Core) : Foot :=
  let lo : Int := ((istWin + if k.rh then 0 else 2 ^ 14 : Nat) : Int)
  ⟨lo, lo + 2 ^ 14, false⟩

/-- An engine job that may write the idle half has not written its token (R271). -/
def ipubHeld (s : State) (c : Nat) (k : Core) : Bool :=
  let idle := [idleFoot k]
  (cluster s (Config.clusterOf c)).jobs.any (fun j => j.core == c && footsClash (portDst j.card) idle) ||
    k.mxq.any (fun o => match o.kind with
      | .mjob => footsClash [span o.addr.toNat [] 128 true] idle
      | .mdrn => footsClash (drainFoot o.card) idle
      | .mkat => false)

/-- IPUB sets the idle half to PUB at its bundle (R271). (DEDUCED, log entry 51.) -/
def issueIpub (_ : RF) (s : State) (f : Frame) : Frame :=
  if ipubHeld s s.cur f.pre || ownPending s.cur f.pre then { f with stall := true }
  else if f.pre.rh then { f with now := { f.now with isA := true } } else { f with now := { f.now with isB := true } }

/-! ### Launching, checkpointing -/

/-- An operation that reads a descriptor as a load and is answered later, after a release at DEVICE (R345, R401). (DEDUCED, log entry 31.) -/
def issueDesc (s : State) (f : Frame) (x : RF) (n : Nat) (op : List Byte → LateDst → MemOp) : Frame :=
  readCard s f 4 (rdS f 4 x.a) 64 n (fun r =>
    let d : LateDst := ⟨.s, [x.d.toNat], 64, 1, false, 4, false⟩
    pushLate (pushMem (eat f r.2) (.rel 3 0xFF s.dram.wqNext)) (op r.1 d) d)

def issueLaunch (x : RF) (s : State) (f : Frame) : Frame :=
  issueDesc s f x 256 (.launch (rdS f 4 x.b).toNat f.pre.level)
def issueCkpt (x : RF) (s : State) (f : Frame) : Frame := issueDesc s f x 64 .ckpt

/-! ### Semaphores and gang barriers -/

/-- SSIG is an atomic add whose event follows it (R347). -/
def issueSsig (x : RF) (s : State) (f : Frame) : Frame :=
  let n := (rdS f 4 x.c).toNat
  let ev := if x.f = 1 ∧ n < (bandOf s f.pre.node).length then some n else none
  issueAtomic s f 4 (.op 0) .n64 (rdS f 4 x.a) (rdS f 4 x.b).toNat 0 x.d ev

/-- SWAIT (R348): an acquire where its condition ends it (R250). With INH the next word names the lock's holder (R350). (DEDUCED, log entry 52.) -/
def issueSwait (x : RF) (s : State) (f : Frame) : Frame :=
  let va := va48 (rdS f 4 x.a)
  let inh := x.f == 1
  match targetFault s f va 8 false false with
  | some cause => faultAt f 4 cause 0
  | none =>
    gateLoad f (withPieces s f .rd 8 ((va, 8) :: if inh then [(va + 8, 8)] else []) (faultAt f 4) (fun ps =>
      match ps with
      | [] => f
      | p :: t =>
        readSync s f (p :: t) (fun u =>
          let r := readPiece u f.pre.node p
          let thr := rdS f 4 x.b
          if thr.toNat ≤ leNat r.1 then acquire (wrS (eat f r.2) 4 x.d 1)
          else if rdS f 4 x.c = 0 then wrS (eat f r.2) 4 x.d 0
          else
            (match waitRes f 4 with
             | some w =>
               let f := eat f (w.val != 0)
               if w.ok then acquire (wrS f 4 x.d 1) else wrS f 4 x.d 0
             | none =>
               let owner : Option Word := if inh then some (BitVec.ofNat 64 (leNat (readPieces u f.pre.node t).1)) else none
               parkOn s f 4 (.swait va p.pl thr owner) (deadlineOf s (rdS f 4 x.c))))))

/-- GBAR holds its bundle until its release is satisfied; then it arrives, and the core waits for the phase (R349). -/
def issueGbar (x : RF) (s : State) (f : Frame) : Frame :=
  let n := match f.pre.node.bind (nodeOf s) with
    | some m => nGbarn m
    | none => 0
  if n ≤ x.gbarK then faultAt f 4 0x97 0
  else if !released s f x.gbarScope then { f with stall := true }
  else { f with late := f.late ++ [.gbar x.gbarK] }

/-! ### Check intervals -/

/-- An access of an earlier bundle that can consume poison, or record a mismatch, is still open (R388). -/
def checkOpen (s : State) (c : Nat) (k : Core) : Bool :=
  let arrival (id : Nat) : Bool := k.exposed.any (fun x => x.id == id && x.kind == .ldr && x.data.isNone)
  k.mem.any (fun e => !e.acc && !arrival e.id && (match e.op with
    | .load .. => true
    | .atom .. => true
    | .launch .. => true
    | .ckpt .. => true
    | _ => false)) ||
  !k.mxq.isEmpty ||
  s.fab.reqs.any (fun r => r.core == c && (match r.kind with
    | .fld _ => true
    | .fatom .. => true
    | .carav .. => true
    | _ => false))

/-- CHKERR (R388). -/
def issueChkerr (x : RF) (s : State) (f : Frame) : Frame :=
  if checkOpen s s.cur f.pre then { f with stall := true }
  else
    let c := f.pre.csr.cir
    let hit : BitVec 2 := c.extractLsb' 0 2 &&& x.chkMask
    if x.chkMode = 1 ∧ hit ≠ 0 then faultAt f 4 0xA1 (c.extractLsb' 0 16).toNat
    else if x.chkMode = 2 ∧ hit ≠ 0 then { f with chkfail := some (if hit.getLsbD 0 then 0xA0 else 0x53) }
    else wrS f 4 x.d c

/-! ### The meanings -/

def execPort (x : RF) (s : State) : Out := runSlot (.port x) (issuePort x) s
def execCpub (x : RF) (s : State) : Out := runSlot (.cpub x) (issueCpub x) s
def execIpub (x : RF) (s : State) : Out := runSlot (.ipub x) (issueIpub x) s
def execLaunch (x : RF) (s : State) : Out := runSlot (.launch x) (issueLaunch x) s
def execSsig (x : RF) (s : State) : Out := runSlot (.ssig x) (issueSsig x) s
def execSwait (x : RF) (s : State) : Out := runSlot (.swait x) (issueSwait x) s
def execGbar (x : RF) (s : State) : Out := runSlot (.gbar x) (issueGbar x) s
def execChkerr (x : RF) (s : State) : Out := runSlot (.chkerr x) (issueChkerr x) s
def execCkpt (x : RF) (s : State) : Out := runSlot (.ckpt x) (issueCkpt x) s

end Sys2Proof.Machine
end

