-- ==== Sys2Proof/Machine/Cmac.lean ====
section
/-! DEFINITION. Cmac.lean: AES-128 and CMAC (R360), and SHA-256 for measurements (R417), as functions on byte lists. -/

namespace Sys2Proof.Machine
open Sys2Proof

/-! ### AES-128 -/

def xtime (b : Byte) : Byte := (b <<< 1) ^^^ (if b.getLsbD 7 then 0x1B else 0)

/-- The S-box: sixteen rows of sixteen entries, the lowest entry lowest. (PRESUMED, log entry 15.) -/
def sboxRows : List Nat :=
  [0x76abd7fe2b670130c56f6bf27b777c63, 0xc072a49cafa2d4adf04759fa7dc982ca,
   0x1531d871f1e5a534ccf73f362693fdb7, 0x75b227ebe28012079a059618c323c704,
   0x842fe329b3d63b52a05a6e1b1a2c8309, 0xcf584c4a39becb6a5bb1fc20ed00d153,
   0xa89f3c507f02f94585334d43fbaaefd0, 0xd2f3ff1021dab6bcf5389d928f40a351,
   0x73195d643d7ea7c41744975fec130ccd, 0xdb0b5ede14b8ee4688902a22dc4f8160,
   0x79e4959162acd3c25c2406490a3a32e0, 0x08ae7a65eaf4566ca94ed58d6d37c8e7,
   0x8a8bbd4b1f74dde8c6b4a61c2e2578ba, 0x9e1dc186b95735610ef6034866b53e70,
   0xdf2855cee9871e9b948ed9691198f8e1, 0x16bb54b00f2d99416842e6bf0d89a18c]
def sbox (x : Byte) : Byte := BitVec.ofNat 8 (nth 0 sboxRows (x.toNat / 16) / 2 ^ (8 * (x.toNat % 16)))

def xorB (a b : List Byte) : List Byte := List.zipWith (· ^^^ ·) a b

/-- The next round key. -/
def nextKey (k : List Byte) (rcon : Byte) : List Byte :=
  let w (i : Nat) : List Byte := (k.drop (4 * i)).take 4
  let t := ((w 3).drop 1 ++ (w 3).take 1).map sbox
  let t := xorB t [rcon, 0, 0, 0]
  let a := xorB (w 0) t
  let b := xorB (w 1) a
  let c := xorB (w 2) b
  a ++ b ++ c ++ xorB (w 3) c

def shiftRows (s : List Byte) : List Byte := (List.range 16).map (fun i => nth 0 s ((i + 4 * (i % 4)) % 16))

def mixColumn (a : List Byte) : List Byte :=
  let g (i : Nat) : Byte := nth 0 a (i % 4)
  (List.range 4).map (fun i => xtime (g i) ^^^ xtime (g (i + 1)) ^^^ g (i + 1) ^^^ g (i + 2) ^^^ g (i + 3))
def mixColumns (s : List Byte) : List Byte := (List.range 4).flatMap (fun c => mixColumn ((s.drop (4 * c)).take 4))

def aesGo : Nat → List Byte → Byte → List Byte → List Byte
  | 0, k, rcon, s => xorB (shiftRows (s.map sbox)) (nextKey k rcon)
  | n + 1, k, rcon, s =>
    let k' := nextKey k rcon
    aesGo n k' (xtime rcon) (xorB (mixColumns (shiftRows (s.map sbox))) k')

/-- PRESUMED, log entry 15. -/
def aes128 (key block : List Byte) : List Byte := aesGo 9 key 1 (xorB block key)

/-! ### CMAC of a message shorter than a block -/

/-- Doubling of a block in GF(2^128), highest byte first. -/
def dblBlock (b : List Byte) : List Byte :=
  let n := leNat b.reverse
  (natLe 16 (Nat.xor (2 * n % 2 ^ 128) (if 2 ^ 127 ≤ n then 0x87 else 0))).reverse

/-- PRESUMED, log entry 15. -/
def cmacShort (key msg : List Byte) : List Byte :=
  let k2 := dblBlock (dblBlock (aes128 key (List.replicate 16 0)))
  aes128 key (xorB (msg ++ [0x80] ++ List.replicate (15 - msg.length) 0) k2)

/-! ### SHA-256 -/

def isPrime (n : Nat) : Bool := decide (2 ≤ n) && (List.range (n - 2)).all (fun d => n % (d + 2) != 0)
def primes (k : Nat) : List Nat := ((List.range 312).filter isPrime).take k

/-- The greatest r with r^3 at most n, by bits from 2^k down. -/
def icbrtGo (n : Nat) : Nat → Nat → Nat
  | 0, r => r
  | k + 1, r => icbrtGo n k (if (r + 2 ^ k) ^ 3 ≤ n then r + 2 ^ k else r)
def isqrtBits (n : Nat) : Nat → Nat → Nat
  | 0, r => r
  | k + 1, r => isqrtBits n k (if (r + 2 ^ k) ^ 2 ≤ n then r + 2 ^ k else r)

/-- Round constants and initial words: fractional bits of roots of the first primes. -/
def shaK : List (BitVec 32) := (primes 64).map (fun p => BitVec.ofNat 32 (icbrtGo (p * 2 ^ 96) 36 0))
def shaH : List (BitVec 32) := (primes 8).map (fun p => BitVec.ofNat 32 (isqrtBits (p * 2 ^ 64) 38 0))

def rotr (x : BitVec 32) (n : Nat) : BitVec 32 := x.rotateRight n

/-- The message schedule, newest word last. -/
def shaSchedule : Nat → List (BitVec 32) → List (BitVec 32)
  | 0, w => w
  | n + 1, w =>
    let g (i : Nat) : BitVec 32 := nth 0 w (w.length - i)
    let s0 := rotr (g 15) 7 ^^^ rotr (g 15) 18 ^^^ (g 15 >>> 3)
    let s1 := rotr (g 2) 17 ^^^ rotr (g 2) 19 ^^^ (g 2 >>> 10)
    shaSchedule n (w ++ [g 16 + s0 + g 7 + s1])

def shaRound (v : List (BitVec 32)) (kw : BitVec 32) : List (BitVec 32) :=
  match v with
  | [a, b, c, d, e, f, g, h] =>
    let t1 := h + (rotr e 6 ^^^ rotr e 11 ^^^ rotr e 25) + ((e &&& f) ^^^ (~~~e &&& g)) + kw
    let t2 := (rotr a 2 ^^^ rotr a 13 ^^^ rotr a 22) + ((a &&& b) ^^^ (a &&& c) ^^^ (b &&& c))
    [t1 + t2, a, b, c, d + t1, e, f, g]
  | v => v

def beWord (b : List Byte) : BitVec 32 := BitVec.ofNat 32 (leNat b.reverse)

def shaBlock (h : List (BitVec 32)) (b : List Byte) : List (BitVec 32) :=
  let w := shaSchedule 48 ((List.range 16).map (fun i => beWord ((b.drop (4 * i)).take 4)))
  List.zipWith (· + ·) h ((List.zipWith (· + ·) shaK w).foldl shaRound h)

def shaBlocks : Nat → List (BitVec 32) → List Byte → List (BitVec 32)
  | 0, h, _ => h
  | n + 1, h, m => shaBlocks n (shaBlock h (m.take 64)) (m.drop 64)

/-- The digest, highest byte first as SHA-256 gives it. -/
def sha256 (m : List Byte) : List Byte :=
  let z := (119 - m.length % 64) % 64
  let p := m ++ [0x80] ++ List.replicate z 0 ++ (natLe 8 (8 * m.length)).reverse
  (shaBlocks (p.length / 64) shaH p).flatMap (fun w => (natLe 4 w.toNat).reverse)

end Sys2Proof.Machine
end

