-- ==== Sys2Proof/Machine/Gate.lean ====
section
/-! DEFINITION. Gate.lean: what an access to memory must wait for before it performs: leases (R290), shadow granules
(R391-R396), refresh blocks that are not live (R296), a checkpoint (R404), write-combining buffers (R258); and performing a
write that no longer waits. -/

namespace Sys2Proof.Machine
open Sys2Proof

/-- A place as the node's accesses reach it (R391, R394). -/
def Place.via (s : State) (node : Option Nat) (p : Place) : Place :=
  match p with
  | .dmem pa => .dmem (redirect s node pa)
  | p => p

/-- A write goes on, or waits in the state given: what it asked for is under way. -/
inductive Gate where
  | go
  | wait (s : State)
deriving DecidableEq, Repr

/-- Does the node run with shadow granules now (R391, R392, R395)? -/
def shadowed (s : State) (node : Option Nat) : Option Nat :=
  match node.bind (nodeOf s) with
  | some n => if n.shdw && !n.fell then some n.id else none
  | none => none

/-- A wait begins; one that goes on for another reason begins again (R395, R396). (DEDUCED, log entry 67.) -/
def awaitGranule (s : State) (id gran : Nat) (held : Bool) : State :=
  onSched s (fun h =>
    if h.shwait.any (fun w => w.node == id && w.gran == gran && w.held == held) then h
    else { h with shwait := h.shwait.filter (fun w => !(w.node == id && w.gran == gran)) ++ [⟨id, gran, held, s.now⟩] })

/-- The write of a job that has timed out waits no more (R208, R225, R395). -/
def endWaits (s : State) (node : Option Nat) (ps : List Piece) : State :=
  let hit (w : ShadowWait) : Bool := some w.node == node && ps.any (fun p => match p.pl with
    | .dmem pa => pa / 2 ^ 18 == w.gran
    | _ => false)
  let stores (w : ShadowWait) : Bool := s.cores.any (fun e => e.2.node == node && e.2.mem.any (fun m => !m.acc && (match m.op with
    | .store ⟨.dmem pa, _, _⟩ _ _ => pa / 2 ^ 18 == w.gran
    | _ => false)))
  onSched s (fun h => { h with shwait := h.shwait.filter (fun w => !hit w || stores w) })

/-- A shadowed write of node `id` to a granule (R393, R395, R396): its copy stands, is under way, is asked for now, or waits
for room or for another node. -/
def shadowGate (s : State) (id gran : Nat) : Gate :=
  let h := s.sched
  match h.redir.find? (fun r => r.gran == gran) with
  | some r =>
    if r.node = id && !r.global then (if r.ready then .go else .wait s) else .wait (awaitGranule s id gran true)
  | none =>
    match h.shfree with
    | [] => .wait (awaitGranule s id gran false)
    | p :: t =>
      if 4096 ≤ h.redir.length then .wait (awaitGranule s id gran false)
      else .wait (onSched s (fun h => { h with
        shfree := t, redir := h.redir ++ [⟨id, gran, p, false, false⟩],
        shwait := h.shwait.filter (fun w => !(w.node == id && w.gran == gran)) }))

/-- A write waits for a granule: the engine copies it ahead of its turn (R404). -/
def noteAhead (s : State) (pa : Nat) : State :=
  onSched s (fun h => { h with ckpt := h.ckpt.map (fun k =>
    if k.ahead.contains (pa / 2 ^ 18) then k else { k with ahead := k.ahead ++ [pa / 2 ^ 18] }) })

/-- The copy of a granule that the node has begun to shadow is under way: its other writes wait behind it (R393). -/
def copyPending (s : State) (node : Option Nat) (pa : Nat) : Bool :=
  s.sched.redir.any (fun r => r.gran == pa / 2 ^ 18 && some r.node == node && !r.ready)

/-- Where the dirty bit of a write stands, and whether its bank or a checkpoint keeps it from being set (R285, R290, R404). -/
def dirtyPlace (s : State) (pa : Nat) : Nat := (s.host.dirtybase.extractLsb' 18 21).toNat * 2 ^ 18 + pa / 2 ^ 18 / 8
def dirtyHeld (s : State) (pa : Nat) : Bool :=
  s.host.dirtybase.getLsbD 0 && (leased s (.dmem (dirtyPlace s pa)) || ckptHolds s (dirtyPlace s pa) || remapped s none (.dmem (dirtyPlace s pa)))

/-- A write to a place: `sh` where it is one that R391 shadows. -/
def writeGate (s : State) (node : Option Nat) (sh : Bool) (p : Place) : Gate :=
  match p with
  | .dmem pa =>
    let g := match (if sh then shadowed s node else none) with
      | some id => shadowGate s id (pa / 2 ^ 18)
      | none => if copyPending s node pa then .wait s else .go
    (match g with
     | .wait t => .wait t
     | .go =>
       let q := redirect s node pa
       if leased s (.dmem q) then .wait s
       else if ckptHolds s q then .wait (noteAhead s q)
       else if dirtyHeld s q then .wait (if ckptHolds s (dirtyPlace s q) then noteAhead s (dirtyPlace s q) else s)
       else
         match needsRevival s node p with
         | some b => .wait (onDram s (fun d => if d.reviving.contains b then d else { d with reviving := d.reviving ++ [b] }))
         | none => .go)
  | _ => .go

/-- The first piece of a write that starts now and must wait decides; a commit in progress stalls it (R278). -/
def writeGates (s : State) (node : Option Nat) (sh : Bool) : List Piece → Gate
  | [] => .go
  | p :: t =>
    if remapped s node p.pl then .wait s
    else
      match writeGate s node sh p.pl with
      | .wait u => .wait u
      | .go => writeGates s node sh t

/-! ### Write combining (R258, R411) -/

/-- Put bytes into a port's write-combining buffer. -/
def combine (s : State) (w : Writer) (ha : Nat) (bs : List Byte) (col : BitVec 3) : State :=
  let ent : List (Nat × Nat) := match w with
    | .core c id _ => [(c, id)]
    | _ => []
  let port := hostPortOf s ha
  let line := ha / 64
  let cells := (List.range bs.length).map (fun i => ((ha + i) % 64, nth 0 bs i))
  let bit : BitVec 8 := BitVec.ofNat 8 (2 ^ col.toNat)
  onHost s (fun h =>
    if h.wcb.any (fun b => b.port == port && b.line == line) then
      { h with wcb := h.wcb.map (fun b => if b.port == port && b.line == line then
          { b with bytes := cells.foldl (fun l e => mins l e.1 e.2) b.bytes, colours := b.colours ||| bit, ents := b.ents ++ ent } else b) }
    else { h with wcb := h.wcb ++ [⟨port, line, cells.foldl (fun l e => mins l e.1 e.2) [], bit, s.now, ent⟩] })

/-- Emit buffer `k` of the write-combining buffers: its stores have performed (R249, R258). (DEDUCED, log entry 37.) -/
def emitBuf (s : State) (k : Nat) : State :=
  match s.host.wcb[k]? with
  | some b =>
    let s := b.ents.foldl (fun s e => dropMem s e.1 e.2) s
    onHost s (fun h => { h with sys := b.bytes.foldl (fun m e => mput 0 m (64 * b.line + e.1) e.2) h.sys,
                                wcb := h.wcb.eraseIdx k, posted := markPosted h.posted b.port b.colours })
  | none => s

/-- A release or drain at a core, or a retiring core, needs a buffer of these colours out (R247, R249, R258, R259). -/
def bufNeeded (s : State) (cols : BitVec 8) : Bool :=
  s.cores.any (fun e => e.2.retiring || e.2.mem.any (fun m => match m.op with
    | .rel 5 mask _ => mask &&& cols != 0
    | .full 5 mask _ => mask &&& cols != 0
    | .drain mask => mask &&& cols != 0
    | _ => false))

/-- A store performs at its destination (R241, R258). (DEDUCED, log entry 37.) -/
def performStore (s : State) (w : Writer) (node : Option Nat) (col : BitVec 3) (p : Piece) (bs : List Byte) (nib : Bool)
    (carry : Bool) : State :=
  match p.pl with
  | .sys ha 2 => combine (flushFor s w ha) w ha (storeBytes s node p bs nib) col
  | _ => writePlace s w node p.pl (storeBytes s node p bs nib) (carry || nibKeeps s node p nib)

/-- Drop an entry of a core's memory list, or keep it until it is banked (R241) or emitted (R249). -/
def settle (s : State) (c id : Nat) (p : Piece) : State :=
  match p.pl with
  | .dmem _ => onCore s c (fun k => { k with mem := k.mem.map (fun e => if e.id == id then { e with acc := true } else e) })
  | .sys _ 2 => onCore s c (fun k => { k with mem := k.mem.map (fun e => if e.id == id then { e with op := .gathered } else e) })
  | _ => onCore s c (fun k => { k with mem := k.mem.filter (fun e => e.id != id) })

end Sys2Proof.Machine
end

