-- ==== Sys2Proof/Machine/QueueOps.lean ====
section
/-! DEFINITION. QueueOps.lean: hardware queues and their rings (R332), the queue unit's part of LAUNCH (R345), and the cut
of a checkpoint (R402, R403). -/

namespace Sys2Proof.Machine
open Sys2Proof

/-- Entries of a ring: LOGN outside 4-12 acts as 4 (R332). -/
def ringSize (q : Queue) : Nat := if 4 ≤ q.logn.toNat ∧ q.logn.toNat ≤ 12 then 2 ^ q.logn.toNat else 16
/-- The physical address of entry `i`. -/
def entryPa (q : Queue) (i : BitVec 32) : Nat := (q.base.extractLsb' 8 31).toNat * 256 + 256 * (i.toNat % ringSize q)

/-- The ring entry that a LAUNCH writes. -/
def launchPiece (s : State) (q : Nat) : Piece := ⟨.dmem (entryPa (queueAt s q) (queueAt s q).tail), 256, true⟩

/-- A status in the top of a result (R345, R401). -/
def statusWord (st : Nat) : Word := BitVec.ofNat 64 (st * 2 ^ 48)

/-- The status with which the queue unit refuses a LAUNCH (R345). -/
def launchRefused (s : State) (c q : Nat) (handler : Bool) : Option Nat :=
  let u := queueAt s q
  if 256 ≤ q ∨ !u.en ∨ !u.dev ∨ (!handler ∧ u.ctx ≠ (coreAt s c).csr.ctxid) then some 0x91
  else if (u.tail - u.head).toNat = ringSize u then some 0x92
  else none

/-- The queue unit takes a LAUNCH (R345): the descriptor into the ring, the tail on; or the status that refuses it. -/
def performLaunch (s : State) (c q : Nat) (handler : Bool) (desc : List Byte) : Word × State :=
  let k := coreAt s c
  let u := queueAt s q
  match launchRefused s c q handler with
  | some st => (statusWord st, s)
  | none =>
    let s := writePlace s .device none (.dmem (entryPa u u.tail)) desc false
    let s := setQueue s q (fun u => { u with
      tail := u.tail + 1,
      from_ := match k.node with
        | some id => u.from_.filter (fun e => e.1 != u.tail.toNat) ++ [(u.tail.toNat, id, k.num)]
        | none => u.from_ })
    (BitVec.ofNat 64 (2 ^ 63 + q * 2 ^ 32 + u.tail.toNat), s)

/-! ### Checkpoints -/

def kSrc (d : List Byte) : Nat := d64 d 0
def kLen (d : List Byte) : Nat := d64 d 8
def kDest (d : List Byte) : Nat := d64 d 0x10
def kMan (d : List Byte) : Nat := d64 d 0x18
def kDone (d : List Byte) : Nat := d64 d 0x20
def kIncr (d : List Byte) : Bool := dB d 0x28 == 1

/-- The checks of a checkpoint descriptor at the bundle (R402). -/
def ckptOk (s : State) (d : List Byte) : Bool :=
  kSrc d % 2 ^ 18 == 0 && decide (0 < kLen d) && kLen d % 2 ^ 18 == 0 && decide (kLen d ≤ 2 ^ 39) &&
    kDest d % 2 ^ 18 == 0 && kMan d % 8 == 0 && kDone d % 32 == 0 && decide (dB d 0x28 ≤ 1) && zeros d 0x29 23 &&
    (!kIncr d || s.host.dirtybase.getLsbD 0)

/-- The location of a granule's dirty bit: byte and bit (R285). -/
def dirtyAt (s : State) (n : Nat) : Nat × Nat :=
  (locOf s ((s.host.dirtybase.extractLsb' 18 21).toNat * 2 ^ 18 + n / 8), n % 8)
def dirtyBit (s : State) (n : Nat) : Bool :=
  ((dRead s none ((s.host.dirtybase.extractLsb' 18 21).toNat * 2 ^ 18 + n / 8) 1 true).1.headD 0).getLsbD (n % 8)
def clearDirty (s : State) (n : Nat) : State :=
  if !s.host.dirtybase.getLsbD 0 then s
  else
    let (l, i) := dirtyAt s n
    acceptByte (reviveRange s ((s.host.dirtybase.extractLsb' 18 21).toNat * 2 ^ 18 + n / 8) 1) l (fun b => b &&& ~~~(BitVec.ofNat 8 (2 ^ i)))

/-- The physical granule of a region granule: none where it does not translate to device memory. -/
def granuleOf (s : State) (ctx : BitVec 16) (va : Nat) : Option Nat :=
  match xlCtx s [] ctx (va % 2 ^ 48) .rd with
  | .ok (.dmem pa, _, _) => some (pa / 2 ^ 18)
  | _ => none

/-- What a checkpoint's cut reads: the walks of its region, and the dirty byte of each granule, which it clears (R285, R403). -/
def cutBytes (s : State) (ctx : BitVec 16) (d : List Byte) : List Piece :=
  ctxReads s ctx (kSrc d) (kLen d) ++ (if !s.host.dirtybase.getLsbD 0 then []
  else
    (((List.range (kLen d / 2 ^ 18)).filterMap (fun g => granuleOf s ctx (kSrc d + g * 2 ^ 18))).map (fun n =>
      (s.host.dirtybase.extractLsb' 18 21).toNat * 2 ^ 18 + n / 8)).eraseDups.map (fun a => ⟨.dmem a, 1, true⟩))

/-- Every dirty filter empties (R285, R403). -/
def emptyFilters (s : State) : State :=
  onDram { s with clusters := s.clusters.filterMap (fun e =>
      let c := { e.2 with filter := [] }
      if c = Cluster.empty then none else some (e.1, c)) } (fun d => { d with filters := [] })

/-- The cut: dirty bits of the region read and cleared, filters emptied, granules chosen (R403). A granule whose commit is past
and whose copy is not back is held by its pool copy (R394). (DEDUCED, log entry 101.) -/
def takeCut (s : State) (ctx : BitVec 16) (d : List Byte) : State :=
  let gs := (List.range (kLen d / 2 ^ 18)).map (fun g => (g, granuleOf s ctx (kSrc d + g * 2 ^ 18)))
  let hit (g : Nat × Option Nat) : Bool := !kIncr d || (match g.2 with
    | some n => dirtyBit s n
    | none => true)
  let kept (g : Nat × Option Nat) : Nat × Option Nat := (g.1, g.2.map (fun n => redirect s none (n * 2 ^ 18) / 2 ^ 18))
  let s' := gs.foldl (fun s g => match g.2 with
    | some n => clearDirty s n
    | none => s) s
  onSched (emptyFilters s') (fun h => { h with
    ckptSeq := h.ckptSeq + 1,
    ckpt := some { ctx := ctx, desc := d, seq := h.ckptSeq + 1, chosen := (gs.filter hit).map kept, ahead := [], streamed := 0, man := [],
                   cause := none, start := s.now } })

/-- CKPT's answer (R401). (DEDUCED, log entry 101.) -/
def performCkpt (s : State) (c : Nat) (d : List Byte) : Word × State :=
  if s.sched.ckpt.isSome then (statusWord 0xA6, s)
  else if !ckptOk s d then (statusWord 0xA7, s)
  else
    let s := takeCut s (coreAt s c).csr.ctxid d
    (BitVec.ofNat 64 (2 ^ 63 + s.sched.ckptSeq % 2 ^ 32), s)

end Sys2Proof.Machine
end

