-- ==== Sys2Proof/Machine/MemEvents.lean ====
section
/-! DEFINITION. MemEvents.lean: what memory returns to a core, and how its waits end: load data (R196-R198, R234, R235),
WAITE, BARW and SWAIT (R108, R204, R348), system atomics (R412), publishing (R264, R269), instruction fetch (R265), walks
(R282). -/

namespace Sys2Proof.Machine
open Sys2Proof

/-- What an event finds: the state after it, or none where it cannot occur. -/
def eventO (name : String) (s : State) (o : Option State) : Out := event name o.isSome s (o.getD s)

def memEnt (k : Core) (id : Nat) : Option MemEnt := k.mem.find? (fun e => e.id == id)

/-! ### Data of arrival loads -/

/-- An exposed result of a kind still waits for entry `id`. -/
def awaits (k : Core) (kind : Option ExpKind) (id : Nat) : Bool :=
  (k.exposed ++ k.held).any (fun x => x.id == id && x.data.isNone && (kind == none || kind == some x.kind))

/-- The first atom of the pieces, and the rest (R287). -/
def nextAtom : List Piece → Option (Piece × List Piece)
  | [] => none
  | p :: t =>
    let n := min p.len (32 - p.pl.off % 32)
    some (⟨p.pl, n, p.disc⟩, if n < p.len then ⟨p.pl.add n, p.len - n, p.disc⟩ :: t else t)

/-- Memory reads the next atom of load `id` of core `c`, in position order (R287); with the last one the load is done: `fin` takes the
bytes and whether an atom was poisoned. (DESIGN CHOICE, log entry 28.) -/
def readNext (s : State) (c id : Nat) (ps : List Piece) (d : LateDst) (got : List Byte) (poi : Bool)
    (fin : List Byte → Bool → Core → Core) : Option State :=
  match nextAtom ps with
  | none => some (onCore s c (fin got poi))
  | some (p, rest) =>
    (gateAged (((memEnt (coreAt s c) id).map (ageOf (coreAt s c))).getD 0) s (coreAt s c).node [p]).map (fun t =>
      let r := readPiece t (coreAt t c).node p
      let got := got ++ r.1
      let poi := poi || r.2
      onCore t c (fun k =>
        if rest.isEmpty then fin got poi k
        else { k with mem := k.mem.map (fun e => if e.id == id then { e with op := .load rest d got poi } else e) }))

/-- Data reaches a landing slot or the scale path (R198, R234). -/
def arrivalData (s : State) (c id : Nat) (kind : ExpKind) : Option State :=
  let k := coreAt s c
  match memEnt k id with
  | some ⟨_, _, .load ps d got poi, _, _⟩ =>
    if awaits k (some kind) id && mayPerform s c id then readNext s c id ps d got poi (fun bs b k => fillExposed k id bs b) else none
  | _ => none

def execLandingDataArrival (c id : Nat) (s : State) : Out := eventO "LANDING_DATA_ARRIVAL" s (arrivalData s c id .ldr)
def execScldArrival (c id : Nat) (s : State) : Out := eventO "SCLD_ARRIVAL" s (arrivalData s c id .scld)

/-- A freeze of 2^20 cycles: late values are discarded, and the trap is taken at the boundary (R198). -/
def execLandingTimeout (c : Nat) (s : State) : Out :=
  let k := coreAt s c
  let late := k.exposed.filter (fun x => x.off == 1 && x.data.isNone)
  let gone (id : Nat) : Bool := late.any (fun x => x.id == id)
  event "LANDING_TIMEOUT" (frozen k && decide (Config.accessTimeout ≤ k.freeze)) s
    (setCore s c { k with exposed := k.exposed.filter (fun x => !(x.off == 1 && x.data.isNone)),
                          mem := k.mem.filter (fun e => !gone e.id), freeze := 0,
                          postTrap := k.postTrap ++ [(k.level, 0x13, trec 0 0 false)] })

/-- The boundary of core `c` is open for landings. (DEDUCED, log entry 44.) -/
def landable (s : State) (c : Nat) : Bool :=
  match openBundle { s with cur := c } with
  | .run .. => true
  | .stop _ => false

/-- XSEL's code is written at the boundary before the second bundle on (R235). (DEDUCED, log entry 44.) -/
def execXselLanding (c id : Nat) (s : State) : Out :=
  let k := coreAt s c
  let due := k.exposed.filter (fun x => x.off == 1 && x.dst.file == .x)
  eventO "XSEL_LANDING" s (match due with
    | x :: _ =>
      if x.kind == .xsel && x.id == id && landable s c then
        some (setCore s c (landOne k { k with exposed := k.exposed.erase x } x))
      else none
    | [] => none)

/-! ### Responses -/

/-- An atomic performs at its owner (R200, R201): the value returns, an SSIG's event follows (R347). -/
def respondAtom (s : State) (c : Nat) (e : MemEnt) (a : AtomKind) (ty : ETy) (p : Piece) (x y : Nat) (d : LateDst)
    (ev : Option Nat) : Option State :=
  let k := coreAt s c
  match gateAged (ageOf k e) s k.node [p] with
  | none => none
  | some t =>
    match writeGate t k.node false p.pl with
    | .wait u => some u
    | .go =>
      let wrote := (atomNew a ty (leNat (readPiece t k.node p).1) x y).isSome
      let r := performAtom t (.core c e.id e.colour) k.node a ty p x y
      let t := onCore r.2.2 c (fun k => arrive k e.id d r.1 r.2.1)
      let t := if wrote then settle t c e.id p else dropMem t c e.id
      some (match ev with
        | some n => setEvent t k.node n 4
        | none => t)

/-- The answer to entry `id` reaches the core: it goes where `fill` takes it, or is kept for a bundle that a system atomic holds (R412). -/
def answered (k : Core) (id : Nat) (fill : Core → Core) (bs : List Byte) (poi : Bool) : Core :=
  let k := { k with mem := k.mem.filter (fun e => e.id != id) }
  if k.early.any (fun e => e.id == id && e.got.isNone) then
    { k with early := k.early.map (fun e => if e.id == id then { e with got := some (bs, poi) } else e) }
  else fill k

/-- Memory answers entry `id` of core `c` (R196, R200, R345, R401). -/
def respond (s : State) (c id : Nat) : Option State :=
  let k := coreAt s c
  match memEnt k id with
  | none => none
  | some e =>
    if !mayPerform s c id || awaits k none id then none
    else
      match e.op with
      | .load ps d got poi => readNext s c id ps d got poi (fun bs b k => answered k id (arrive · id d bs b) bs b)
      | .atom a ty p x y d ev => respondAtom s c e a ty p x y d ev
      | .launch q h desc d =>
        (match (if (launchRefused s c q h).isSome then .go else writeGate s none false (launchPiece s q).pl) with
         | .wait u => if u = s then none else some u
         | .go =>
           let r := performLaunch s c q h desc
           some (dropMem (onCore r.2 c (fun k => arrive k id d (natLe 8 r.1.toNat) false)) c id))
      | .ckpt desc d =>
        let s := ctxLoad s k.csr.ctxid
        (if s.sched.ckpt.isSome ∨ !ckptOk s desc then some s else newGate s none (cutBytes s k.csr.ctxid desc)).map (fun s =>
        let r := performCkpt s c desc
        dropMem (onCore r.2 c (fun k => arrive k id d (natLe 8 r.1.toNat) false)) c id)
      | _ => none

/-- DESIGN CHOICE, log entry 28. -/
def execLoadResponse (c id : Nat) (s : State) : Out := eventO "LOAD_RESPONSE" s (respond s c id)

/-! ### The ends of waits -/

/-- A park that no result has ended. -/
def parkOf (s : State) (c : Nat) : Option Park := (coreAt s c).park.filter (fun p => p.res.isNone)

def endPark (s : State) (c : Nat) (p : Park) (ok : Bool) (v : Nat) : State :=
  onCore s c (fun k => { k with park := some { p with res := some ⟨p.slot, ok, v⟩ } })

/-- Core cycles of a time-out have passed. -/
def expired (s : State) (p : Park) : Bool := p.deadline.any (fun t => decide (t ≤ s.now))

def execWaiteWake (c : Nat) (s : State) : Out :=
  eventO "WAITE_WAKE" s ((parkOf s c).bind (fun p => match p.kind with
    | .waite m => if (coreAt s c).evl &&& m ≠ 0 then some (endPark s c p true 0) else none
    | _ => none))

def execWaiteTimeout (c : Nat) (s : State) : Out :=
  eventO "WAITE_TIMEOUT" s ((parkOf s c).bind (fun p => match p.kind with
    | .waite _ => if expired s p then some (endPark s c p false 0) else none
    | _ => none))

/-- Is the page of an address that a wait reads discardable (R296)? -/
def waitDisc (s : State) (ctx : BitVec 16) (va : Nat) (pl : Place) : Bool :=
  match pl with
  | .dmem _ => (match walk s ctx (va % 2 ^ 48) with
    | .ok (_, leaf) => leaf.getLsbD 6
    | .error _ => false)
  | _ => false

/-- A parked wait reads its word: the word, and whether it was poisoned. (DEDUCED, log entry 71.) -/
def waitWord (s : State) (c va : Nat) (pl : Place) : Option (Word × Bool × State) :=
  let node := (coreAt s c).node
  let d := waitDisc s (coreAt s c).csr.ctxid va pl
  (newGate s node [⟨pl, 8, d⟩]).map (fun t =>
    let r := readPlace t node pl 8 d
    (BitVec.ofNat 64 (leNat r.1), r.2, t))

/-- The read that decides a parked BARW (R204). -/
def barwMet (s : State) (c : Nat) (pl : Place) (par : Bool) : Bool :=
  ((BitVec.ofNat 64 (leNat (readPlace s (coreAt s c).node pl 8 false).1) : Word).getLsbD 63) == par

def execBarwWake (c : Nat) (s : State) : Out :=
  eventO "BARW_WAKE" s ((parkOf s c).bind (fun p => match p.kind with
    | .barw pl par => if barwMet s c pl par then some (endPark s c p true 0) else none
    | _ => none))

/-- At the time-out the phase decides once more (R204). -/
def execBarwTimeout (c : Nat) (s : State) : Out :=
  eventO "BARW_TIMEOUT" s ((parkOf s c).bind (fun p => match p.kind with
    | .barw pl par => if expired s p then some (endPark s c p (barwMet s c pl par) 0) else none
    | _ => none))

/-- A parked SWAIT reads its word again, and ends where the condition holds (R348); a result of 1 marks poison. -/
def execSwaitReread (c : Nat) (s : State) : Out :=
  eventO "SWAIT_REREAD" s ((parkOf s c).bind (fun p => match p.kind with
    | .swait va pl thr _ => (waitWord s c va pl).map (fun r =>
        if thr.toNat ≤ r.1.toNat then endPark r.2.2 c p true (if r.2.1 then 1 else 0) else r.2.2)
    | _ => none))

def execSwaitTimeout (c : Nat) (s : State) : Out :=
  eventO "SWAIT_TIMEOUT" s ((parkOf s c).bind (fun p => match p.kind with
    | .swait va pl thr _ =>
      if expired s p then
        (waitWord s c va pl).map (fun r => endPark r.2.2 c p (decide (thr.toNat ≤ r.1.toNat)) (if r.2.1 then 1 else 0))
      else none
    | _ => none))

/-! ### System pages (R258, R412) -/

/-- The completion of a system atomic returns (R412); its bundle then runs again with the result. One that follows a performed atomic
of its bundle does not fail: a failure leaves host memory unchanged. -/
def execSystemAtomicCompletion (c : Nat) (ok : Bool) (s : State) : Out :=
  eventO "SYSTEM_ATOMIC_COMPLETION" s ((parkOf s c).bind (fun p => match p.kind with
    | .sysAtom a ty ⟨.sys ha mt, len, disc⟩ x y =>
      let s := setCore s c (pruned s c (coreAt s c))
      let k := coreAt s c
      let q : Piece := ⟨.sys ha mt, len, disc⟩
      let coherent := mt == 0 || mt == 3
      if k.mem.any (fun e => !e.acc && (e.op.isFence || e.op.pieces.any (fun o => overlaps o q))) || combining s q ||
          (!ok && (coherent || p.prev.any (·.ok))) || k.early.any (fun e => e.got.isNone) then none
      else if !ok then some (endPark s c p false 0)
      else
        let r := performAtom s (.core c 0 0) k.node a ty q x y
        let t := if coherent then onHost r.2.2 (fun h => { h with owned := (h.owned ++ [ha / 64]).eraseDups }) else r.2.2
        some (endPark t c p true (leNat r.1))
    | _ => none))

/-- A snoop takes a line back: it has been written back before (R412). -/
def execHomeAgentSnoop (line : Nat) (s : State) : Out :=
  event "HOME_AGENT_SNOOP" (s.host.owned.contains line) s
    (onHost s (fun h => { h with owned := h.owned.filter (· != line) }))

/-- A write-combining buffer is emitted after 2,048 core cycles (R258). -/
def execWriteCombineTimeout (port k : Nat) (s : State) : Out :=
  event "WRITE_COMBINE_TIMEOUT"
    ((s.host.wcb[k]?).any (fun b => b.port == port && decide (b.since + 2048 ≤ s.now))) s (emitBuf s k)

/-! ### Publishing (R264, R269) -/

/-- The physical address of a table entry that maps `va` at its level: the leaf's. -/
def leafAddrGo (s : State) (va : Nat) : List (Nat × Nat × Nat) → Nat → Option Nat
  | [], _ => none
  | (_, sh, bits) :: rest, base =>
    let a := base + 8 * (va / 2 ^ sh % 2 ^ bits)
    let e := (phys64 s a).1
    if !e.getLsbD 0 then none
    else if e.getLsbD 1 then some a
    else leafAddrGo s va rest ((e.extractLsb' 12 27).toNat * 2 ^ 12)
def leafAddr (s : State) (ctx : BitVec 16) (va : Nat) : Option Nat :=
  leafAddrGo s va levels (((ctxEntry s ctx).1.extractLsb' 12 27).toNat * 2 ^ 12)

/-- A leaf with its XS bit set as given (R263, R281). -/
def withXs (leaf : Word) (x : Bool) : Word := (leaf &&& ~~~(0x400 : Word)) ||| (if x then 0x400 else 0)

/-- Every translation of the same page that the part holds follows the page's state (R263, R269). (DEDUCED, log entry 34.) -/
def refreshTlbs (s : State) (leaf : Word) (level : Nat) (x : Bool) : State :=
  let same (e : TlbEnt) : Bool := e.level == level && e.leaf.extractLsb' 18 34 == leaf.extractLsb' 18 34 &&
    e.leaf.getLsbD 7 == leaf.getLsbD 7
  let up (l : List TlbEnt) : List TlbEnt := l.map (fun e => if same e then { e with leaf := withXs e.leaf x } else e)
  let s := { s with cores := mmap Core.idle s.cores (fun _ k => { k with tlb := up k.tlb }),
                    clusters := mmap Cluster.empty s.clusters (fun _ k => { k with tlb := up k.tlb }) }
  onFab s (fun h => { h with itlb := up h.itlb })

/-- Set the state of the page that core `c`'s CPUB names: an atomic read-modify-write of its leaf (R282). (DEDUCED, log entry 34.) -/
def setPage (s : State) (c : Nat) (j : Cpub) (x : Bool) : State :=
  let ctx := (coreAt s c).csr.ctxid
  match leafAddr s ctx j.va with
  | none => s
  | some a =>
    let leaf := (phys64 s a).1
    refreshTlbs (writePlace (reviveRange s a 8) .device none (.dmem a) (natLe 8 (withXs leaf x).toNat) false) leaf j.level x

/-- The leaf that a CPUB writes stands where a lease, a commit in progress or a checkpoint holds the write back (R278, R290, R404). -/
def leafHeld (s : State) (c : Nat) (j : Cpub) : Bool :=
  (leafAddr s (coreAt s c).csr.ctxid j.va).any (fun a =>
    let q := redirect s none a
    leased s (.dmem q) || remapped s none (.dmem a) || ckptHolds s q || dirtyHeld s q)

/-- Lines of a CPUB's range that no CPUB.W has withdrawn, as the owner keeps them. -/
def cpubLines (s : State) (node : Option Nat) (j : Cpub) : List Nat := (List.range (j.len / 64)).filterMap (cpubLine s node j)

/-- Is core `d` within a CPUB's scope of core `c` (R240)? -/
def inScope (c d scope : Nat) : Bool :=
  d == c || (scope == 1 && Config.clusterOf c == Config.clusterOf d) || (scope == 2 && coreDie c == coreDie d) || scope == 3

/-- Instruction-cache lines of the range leave the cores in scope (R266). -/
def dropLines (s : State) (c : Nat) (j : Cpub) : State :=
  { s with cores := mmap Core.idle s.cores (fun d k =>
      if inScope c d j.scope then { k with ic := k.ic.filter (fun l => !placesMeet l.pl 64 j.pl j.len) } else k) }

/-- Other CPUB.X in progress that cover a line. -/
def othersOn (s : State) (c : Nat) (key : Nat) : Bool :=
  s.cores.any (fun e => e.1 != c && (match e.2.cpub with
    | some i => i.mask != 0 && cpubCovers s e.2.node i key
    | none => false))

/-- A CPUB completes (R264, R269); a CPUB.X one of whose lines has been withdrawn leaves the page, and those lines, as they are. -/
def cpubEnd (s : State) (c : Nat) (j : Cpub) : State :=
  let node := (coreAt s c).node
  let s := dropLines s c j
  let keys := cpubLines s node j
  let s :=
    if j.mask ≠ 0 then
      let s := if j.gone.isEmpty then setPage s c j true else s
      onDram s (fun d => { d with pub := keys.foldl (fun m k =>
        if mget 0 m k == 1 && !othersOn s c k then mput 0 m k 2 else m) d.pub })
    else
      let s := setPage s c j false
      let s := onDram s (fun d => { d with pub := keys.foldl (fun m k => mput 0 m k 0) d.pub })
      { s with cores := mmap Core.idle s.cores (fun _ k => { k with cpub := k.cpub.map (fun i =>
          if i.mask != 0 && placesMeet i.pl i.len j.pl j.len then { i with gone := i.gone ++ [(j.pl, j.len)] } else i) }) }
  onCore s c (fun k => { k with cpub := none })

/-! ### Fetching (R265, R266) -/

/-- The line, or the cause that refuses it (R265). -/
def fetchLine (s : State) (node : Option Nat) (e : TlbEnt) (va : Nat) : Except Nat (Place × List Byte) :=
  let pl := leafPlace e va
  let xs := e.leaf.getLsbD 10
  let st : BitVec 2 := match pl with
    | .dmem pa => lineState s (redirect s node pa)
    | _ => if xs then 2 else 0
  let r := readPlace s node pl 64 (e.leaf.getLsbD 6)
  if st = 1 then .error 0x31
  else if !xs then .error 0x36
  else if st = 0 then .error 0x30
  else if r.2 then .error 0x35
  else .ok (pl, r.1)

/-- A miss is answered: a walk first where no translation is held (R98, R265). (PRESUMED, log entry 35.) -/
def icacheFill (s : State) (c : Nat) : Option State :=
  let k := coreAt s c
  k.fetchMiss.bind (fun va =>
    match xlCore s c k va .ex with
    | .fault cause info => some (setCore s c { k with fetchMiss := none, fetchFault := some (cause, info), xlFault := none })
    | .miss => some (stallBundle s c [va])
    | .ok _ _ none => none
    | .ok pl disc (some e) =>
      (newGate s k.node [Piece.mk pl 64 disc]).map (fun t =>
        match fetchLine t k.node e va with
        | .error cause => setCore t c { k with fetchMiss := none, fetchFault := some (cause, 0) }
        | .ok (p, bs) =>
          setCore t c { k with fetchMiss := none, ic := (k.ic ++ [IcLine.mk va p bs]).drop (k.ic.length + 1 - 512) }))

def execIcacheFill (c : Nat) (s : State) : Out := eventO "ICACHE_FILL" s (icacheFill s c)

/-! ### Walks (R282, R283) -/

/-- A walk ends for every waiter: a translation in the TLBs, or a fault; the walker goes to the first walk that has none (R282).
(PRESUMED, log entry 35.) -/
def walkEnd (s : State) (cl : Nat) (w : Walk) (r : Except (Nat × Nat) (Nat × Word)) : State :=
  let s := setCluster s cl (fun u => { u with walks := walkersPass s.now u.walks (u.walks.erase w) })
  match r with
  | .ok (l, leaf) =>
    let e := tlbEnt w.ctx w.va l leaf
    let add (n : Nat) (t : List TlbEnt) : List TlbEnt := (t.filter (fun o => o != e) ++ [e]).drop ((t.filter (fun o => o != e)).length + 1 - n)
    let s := setCluster s cl (fun u => { u with tlb := add 4096 u.tlb })
    w.waiters.foldl (fun s c => onCore s c (fun k => { k with tlb := add 128 k.tlb })) s
  | .error (cause, level) =>
    let s := w.waiters.foldl (fun s c => onCore s c (fun k => { k with xlFault := some (w.va / 2 ^ 18, cause, level) })) s
    w.eng.foldl (fun s e => onCore s e.1 (fun k => { k with engFault := k.engFault ++ [(e.2, w.va / 2 ^ 18, cause)] })) s

/-- The next load of a walk: the context's entry where the device does not hold it (R330), then one entry of each level (R280, R282),
each an access of its own to device memory. -/
def walkNext (s : State) (cl : Nat) (w : Walk) : Option State :=
  if !ctxHeld s w.ctx then (newGate s none [⟨.dmem (ctxAddr s w.ctx), 64, true⟩]).map (fun t =>
    setCluster (ctxLoad t w.ctx) cl (fun u => { u with walks := u.walks.map (fun o => if o == w then { w with since := t.now } else o) }))
  else
    let root := (ctxEntry s w.ctx).1
    if !root.getLsbD 0 then some (walkEnd s cl w (.error (0x18, 0)))
    else
      let base := if w.lev = 0 then (root.extractLsb' 12 27).toNat * 2 ^ 12 else w.base
      (levels[w.lev]?).bind (fun lev =>
        (newGate s none [⟨.dmem (walkAt w.va base lev), 8, true⟩]).map (fun t =>
          match walkLoad t w.va base lev with
          | .stop cause => walkEnd t cl w (.error (cause, lev.1))
          | .leaf e => walkEnd t cl w (.ok (lev.1, e))
          | .down b => setCluster t cl (fun u => { u with walks := u.walks.map (fun o =>
              if o == w then { w with lev := w.lev + 1, base := b, since := t.now } else o) })))

/-- One of a cluster's 16 walkers makes its next load (R280, R282). -/
def execPageWalk (cl i : Nat) (s : State) : Out :=
  eventO "PAGE_WALK" s (if 16 ≤ i then none else ((cluster s cl).walks[i]?).bind (walkNext s cl))

/-- A walk load did not complete within 2^20 cycles (R283): the memory below gave no answer. Under number 24 stand the walks of the
scheduler and the ingress: with `i` 0 memory answers them no more, with another `i` it does again. (DEDUCED, log entry 9; DESIGN CHOICE, log entry 121.) -/
def execWalkTimeout (cl i : Nat) (s : State) : Out :=
  eventO "WALK_TIMEOUT" s (
    if cl = 24 then some (onSched s (fun h => { h with walkHang := i == 0 }))
    else if 16 ≤ i then none
    else ((cluster s cl).walks[i]?).bind (fun w =>
      if w.since + Config.accessTimeout ≤ s.now then some (walkEnd s cl w (.error (0x1C, w.lev))) else none))

end Sys2Proof.Machine
end

