-- ==== Sys2Proof/Machine/PorterEvents.lean ====
section
/-! DEFINITION. PorterEvents.lean: what the engines of a core share: translation, bytes with their poison, tokens
(R35, R36, R208, R366); and the Porter's jobs (R205-R209). -/

namespace Sys2Proof.Machine
open Sys2Proof

/-! ### Shared by the engines -/

/-- A status word (R208, R366). -/
def tokenWord (cause : Option Nat) (kind low : Nat) : Word :=
  BitVec.ofNat 64 ((if cause.isSome then 2 else 1) * 2 ^ 56 + cause.getD 0 % 256 * 2 ^ 48 + kind * 2 ^ 40 + low % 2 ^ 40)

/-- Write a token register: the scoreboard frees it, and an event-latch bit is set (R108, R208, R224). A status word whose register a
landing has taken sets the bit alone (R197). -/
def writeToken (s : State) (c reg bit : Nat) (w : Word) : State :=
  onCore s c (fun k =>
    let k := { k with evl := k.evl ||| BitVec.ofNat 8 (2 ^ bit) }
    if 64 ≤ reg then k
    else { k with regs := k.regs.wS reg w, pendS := k.pendS.erase reg, toks := k.toks.filter (· != reg) ++ [reg] })

/-- A write to the running half of the instruction store (R267). -/
def runningHalf (s : State) (c : Nat) (p : Place) (acc : Acc) : Bool :=
  match p with
  | .ist _ o => acc.writes && (decide (2 ^ 14 ≤ o) == (coreAt s c).rh)
  | _ => false

/-- How a range translates for a job: the pieces before the first fault, with its cause; or the address that misses. -/
inductive EngParts where
  | hit (ps : List Piece) (cause : Option Nat)
  | miss (va : Nat)
deriving DecidableEq, Repr

/-- Translate parts in order for job `j` of core `c`. -/
def engParts (s : State) (c j : Nat) (h : Bool) (acc : Acc) : List (Nat × Nat) → EngParts
  | [] => .hit [] none
  | (va, n) :: t =>
    match xlEngine s c j h (va % 2 ^ 48) acc with
    | .fault x _ => .hit [] (some x)
    | .miss => .miss (va % 2 ^ 48)
    | .ok p d _ =>
      if runningHalf s c p acc then .hit [] (some 0x32)
      else match engParts s c j h acc t with
        | .hit ps x => .hit (⟨p, n, d⟩ :: ps) x
        | .miss v => .miss v

/-- The walk that an engine asks for (R282), unless it waits for it already. -/
def engWalk (s : State) (c j va : Nat) : Option State :=
  let t := askWalk s c (some j) va
  if t = s then none else some t

/-- A fault that stops a job has been delivered to it. -/
def engTold (s : State) (c j : Nat) : State := onCore s c (fun k => { k with engFault := k.engFault.filter (fun e => e.1 != j) })

/-- Bytes of pieces, each with its atom's poison. -/
def cellsOf (s : State) (node : Option Nat) (ps : List Piece) : List (Byte × Bool) :=
  ps.flatMap (fun p => (List.range p.len).map (fun i =>
    let r := readPlace s node (p.pl.add i) 1 p.disc
    (r.1.headD 0, r.2)))

/-- Write cells over a piece: an atom written from a poisoned one is poisoned (R36). -/
def putCells (s : State) (w : Writer) (node : Option Nat) (p : Piece) (cells : List (Byte × Bool)) : State :=
  (cutAtoms p.pl.off (cells.map (·.1))).foldl (fun s e =>
    let i := e.1 - p.pl.off
    writePlace s w node (p.pl.add i) e.2 (((cells.drop i).take e.2.length).any (·.2))) s

def putAll (w : Writer) (node : Option Nat) : List Piece → List (Byte × Bool) → State → State
  | [], _, s => s
  | p :: ps, cs, s => putAll w node ps (cs.drop p.len) (putCells s w node p (cs.take p.len))

/-- Writes of a job that the controllers have not banked (R241). (DEDUCED, log entry 32; DEDUCED, log entry 40.) -/
def unbanked (s : State) (w : Writer) : Bool := s.dram.wq.any (fun e => e.by_ == w)

/-! ### The Porter -/

def setJob (s : State) (cl i : Nat) (f : PJob → PJob) : State :=
  setCluster s cl (fun u => { u with jobs := u.jobs.modify i f })
def PJob.writer (j : PJob) : Writer := .job j.core j.colour j.after

def jobHeld (s : State) (j : PJob) : Bool := edgeHeld s j.core j.after (portFoot j.card)

/-- A queued job starts: four at once, in the order of acceptance but for jobs that an edge holds (R209). -/
def porterStart (s : State) (cl i : Nat) : Option State :=
  let jobs := (cluster s cl).jobs
  (jobs[i]?).bind (fun j =>
    if j.started || decide (4 ≤ (jobs.filter (·.started)).length) || jobHeld s j || ownBefore s j.core j.after ||
        (jobs.take i).any (fun o => !o.started && !jobHeld s o) then none
    else some (setJob s cl i (fun j => { j with started := true, since := s.now,
                                                cause := if pOk j.card then none else some 0x70 })))

def execPorterJobStart (cl j : Nat) (s : State) : Out := eventO "PORTER_JOB_START" s (porterStart s cl j)

/-- The fill value's bytes, repeated (R207). -/
def fillCells (d : List Byte) : List (Byte × Bool) :=
  let l := natLe 8 (d64 d 0)
  (List.range (pRun d)).map (fun i => (nth 0 l (i % 8), false))

/-- The next run of a job: read whole, then written (R207). (DESIGN CHOICE, log entry 29.) -/
def porterRun (s : State) (cl i : Nat) : Option State :=
  ((cluster s cl).jobs[i]?).bind (fun j =>
    let c := j.core
    let node := (coreAt s c).node
    let n := pRun j.card
    if !j.started || j.cause.isSome || decide (pRuns j.card ≤ j.run) || !jobMay s c j.after j.colour true ||
        !jobMay s c j.after j.colour false then none
    else
      match (if pFill j.card then .hit [] none else engParts s c j.after j.handler .rd (chunks (pSrc j.card j.run) n)) with
      | .miss va => engWalk s c j.after va
      | .hit _ (some x) => some (setJob (engTold s c j.after) cl i (fun j => { j with cause := some x }))
      | .hit src none =>
        match newGate s node src with
        | none => none
        | some t =>
          let cells := if pFill j.card then fillCells j.card else cellsOf t node src
          match engParts t c j.after j.handler .wr (chunks (pDst j.card j.run) n) with
          | .miss va => engWalk s c j.after va
          | .hit dst x =>
            match writeGates t node true dst with
            | .wait u => some u
            | .go =>
              let done := (dst.map (·.len)).sum
              some (setJob (putAll j.writer node dst cells (if x.isSome then engTold t c j.after else t)) cl i (fun j =>
                { j with run := if x.isSome then j.run else j.run + 1, bytes := j.bytes + done, cause := x, since := t.now })))

/-- The arrival at a barrier word: its cause where it fails (R208). -/
def porterArrive (s : State) (j : PJob) : Option Nat × State :=
  let node := (coreAt s j.core).node
  let a := pArrive j.card % 2 ^ 48
  if a % 8 ≠ 0 then (some 0x72, s)
  else
    match window s node j.core a with
    | .at_ (.slice d o) =>
      (match barNext (BitVec.ofNat 64 (leNat (readPlace s node (.slice d o) 8 false).1)) with
       | none => (some 0x72, s)
       | some new => (none, writePlace s j.writer node (.slice d o) (natLe 8 new.toNat) false))
    | _ => (some 0x72, s)

/-- A job ends: its writes banked, the arrival, then the token (R207, R208, R250). -/
def porterEnd (s : State) (cl i : Nat) : Option State :=
  ((cluster s cl).jobs[i]?).bind (fun j =>
    if !j.started || (j.cause.isNone && decide (j.run < pRuns j.card)) || unbanked s j.writer ||
        !jobMay s j.core j.after j.colour true then none
    else
      let r := if j.cause.isNone && pArrive j.card != 0 then porterArrive s j else (j.cause, s)
      let t := setCluster r.2 cl (fun u => { u with jobs := u.jobs.eraseIdx i })
      some (writeToken t j.core j.tok 2 (tokenWord r.1 1 j.bytes)))

/-- DEDUCED, log entry 40. -/
def execPorterJobEnd (cl j : Nat) (s : State) : Out := eventO "PORTER_JOB_END" s (porterEnd s cl j)

/-- One access has not completed within 2^20 cycles (R208). -/
def execPortTimeout (cl i : Nat) (s : State) : Out :=
  eventO "PORT_TIMEOUT" s (((cluster s cl).jobs[i]?).bind (fun j =>
    if j.started && j.cause.isNone && decide (j.run < pRuns j.card) && decide (j.since + Config.accessTimeout ≤ s.now) then
      let ps := (pages (pDst j.card j.run) (pRun j.card)).filterMap (fun e =>
        match xlEngine s j.core j.after j.handler (e.1 % 2 ^ 48) .wr with
        | .ok p d _ => some (Piece.mk p e.2 d)
        | _ => none)
      some (endWaits (setJob s cl i (fun j => { j with cause := some 0x71 })) (coreAt s j.core).node ps) else none))

end Sys2Proof.Machine
end

