-- ==== Sys2Proof/Machine/Ingress.lean ====
section
/-! DEFINITION. Ingress.lean: grants, windows and the checks of the ingress (R359-R361), fabric addresses (R364) and links
(R353). -/

namespace Sys2Proof.Machine
open Sys2Proof

/-! ### Grants (R359, R360) -/

/-- A window entry as memory holds it, and as the ingress sees it through its cache. (DEDUCED, log entry 50.) -/
def winAt (s : State) (w : Nat) : Nat := (s.fab.winbase.extractLsb' 17 22).toNat * 2 ^ 17 + 32 * w
def winMem (s : State) (w : Nat) : List Byte := (dRead s none (winAt s w) 32 true).1
def winEntry (s : State) (w : Nat) : List Byte := ((s.fab.wcache.find? (fun e => e.1 == w)).map (·.2)).getD (winMem s w)
def winLoad (s : State) (w : Nat) : State :=
  if s.fab.wcache.any (fun e => e.1 == w) then s
  else onFab s (fun h => { h with wcache := (h.wcache ++ [(w, winMem s w)]).drop (h.wcache.length + 1 - 256) })

def eBase (e : List Byte) : Nat := d64 e 0
def eSize (e : List Byte) : Nat := d64 e 8
def eCtx (e : List Byte) : BitVec 16 := BitVec.ofNat 16 (dN e 0x10 2)
def eGen (e : List Byte) : Nat := dN e 0x12 2 % 1024
def eValid (e : List Byte) : Bool := decide (2 ^ 15 ≤ dN e 0x12 2)
def eRmax (e : List Byte) : Nat := dB e 0x14 % 16
/-- The form of an entry (R359). (DEDUCED, log entry 50.) -/
def eOk (e : List Byte) : Bool :=
  eBase e % 8 == 0 && decide (eBase e < 2 ^ 48) && !(decide (sliceWin ≤ eBase e) && decide (eBase e < sliceWin + 2 ^ 32)) &&
    !(decide (istWin ≤ eBase e) && decide (eBase e < istWin + 2 ^ 32)) && decide (1 ≤ eSize e) && decide (eSize e ≤ 2 ^ 48) &&
    dN e 0x12 2 / 1024 % 32 == 0 && decide (dB e 0x14 < 16) && zeros e 0x15 11

def gTag (g : Word) : Nat := g.toNat / 2 ^ 40
def gRights (g : Word) : Nat := g.toNat / 2 ^ 36 % 16
def gKey (g : Word) : Nat := g.toNat / 2 ^ 34 % 4
def gExp (g : Word) : Nat := g.toNat / 2 ^ 22 % 4096
def gWin (g : Word) : Nat := g.toNat / 2 ^ 10 % 4096
def gGen (g : Word) : Nat := g.toNat % 1024

/-- The tag of a grant for a requester: the first three CMAC bytes, first byte highest (R360). -/
def macTag (s : State) (key low40 dev : Nat) : Nat :=
  let k := natLe 8 (mget 0 s.fab.keys (2 * key)).toNat ++ natLe 8 (mget 0 s.fab.keys (2 * key + 1)).toNat
  leNat ((cmacShort k (natLe 5 low40 ++ natLe 1 dev)).take 3).reverse

def keyValid (s : State) (key : Nat) : Bool := s.fab.keyctl.getLsbD key

/-- Is an expiry live (R360)? -/
def liveGrant (s : State) (exp : Nat) : Bool :=
  let d := (exp + 4096 - s.fab.ftime.toNat / 2 ^ 22 % 4096) % 4096
  decide (1 ≤ d) && decide (d ≤ 2047)

/-- How the ingress translates for a right. -/
def accOf (right : Nat) : Acc := if right = 1 then .wr else if right = 2 then .rw else .rd

/-- The checks of a grant itself, from device `dev` (R361, steps 1 and 2). -/
def grantFault (s : State) (dev : Nat) (g : Word) : Option Nat :=
  if !keyValid s (gKey g) || gTag g != macTag s (gKey g) (g.toNat % 2 ^ 40) dev then some 0x82
  else if !liveGrant s (gExp g) then some 0x83 else none

/-- The checks against its window entry (R361, steps 3 to 5). -/
def windowFault (s : State) (g : Word) (off len right : Nat) : Option Nat :=
  let e := winEntry s (gWin g)
  if !s.fab.winbase.getLsbD 0 || !eValid e || eGen e != gGen g || !eOk e then some 0x84
  else if !(gRights g / 2 ^ right % 2 == 1 && eRmax e / 2 ^ right % 2 == 1) then some 0x85
  else if eSize e < off + len then some 0x86 else none

/-- The checks of R361 for a request of device `dev` that needs a right: 0 read, 1 write, 2 atomic, 3 Caravan step. -/
def ingressCheck (s : State) (dev : Nat) (g : Word) (off len right : Nat) : Except Nat (List Piece) :=
  let e := winEntry s (gWin g)
  match (grantFault s dev g).orElse (fun _ => windowFault s g off len right) with
  | some x => .error x
  | none =>
    (pages (eBase e + off) len).mapM (fun p =>
      match xlCtx s s.fab.itlb (eCtx e) (p.1 % 2 ^ 48) (accOf right) with
      | .error x => .error x
      | .ok (.sys _ _, _, _) => .error 0x19
      | .ok (pl, d, _) => .ok ⟨pl, p.2, d⟩)

/-- The banks as the checks leave them, which read the window entry and the tables where the ingress holds neither; none while they do
not serve it (R278, R290, R359, R361). -/
def ingressGate (s : State) (dev : Nat) (g : Word) (off len right : Nat) : Option State :=
  if (grantFault s dev g).isSome || !s.fab.winbase.getLsbD 0 then some s
  else
    let e := winEntry s (gWin g)
    newGate s none ((if s.fab.wcache.any (fun e => e.1 == gWin g) then [] else [⟨.dmem (winAt s (gWin g)), 32, true⟩]) ++
      (if (windowFault s g off len right).isSome then [] else
        (pages (eBase e + off) len).flatMap (fun p => xlReads s s.fab.itlb (eCtx e) (p.1 % 2 ^ 48))))

/-- The ingress keeps what it used: the window entry, and the translations in its 512-entry TLB (R359, R361). -/
def ingressNote (s : State) (g : Word) (off len right : Nat) : State :=
  let s := winLoad s (gWin g)
  let e := winEntry s (gWin g)
  let s := ctxLoad s (eCtx e)
  (pages (eBase e + off) len).foldl (fun s p =>
    match xlCtx s s.fab.itlb (eCtx e) (p.1 % 2 ^ 48) (accOf right) with
    | .ok (_, _, t) =>
      onFab s (fun h => if h.itlb.contains t then h else { h with itlb := (h.itlb ++ [t]).drop (h.itlb.length + 1 - 512) })
    | .error _ => s) s

/-- What an access at the ingress gives: its cause, bytes and poison. -/
structure Answer where
  cause : Nat
  bytes : List Byte
  poison : Bool
deriving DecidableEq, Repr, Inhabited

def refusal (cause : Nat) : Answer := ⟨cause, [], false⟩

def rightOf : IngressOp → Nat
  | .read _ => 0 | .write .. => 1 | .atom .. => 2 | .step => 3

def lenOf : IngressOp → Nat
  | .read n => n
  | .write bs _ => bs.length
  | .atom _ ty _ => (ty? ty).w / 8
  | .step => 8

/-- Perform a checked request at its owner (R361), for a node of this module or for another module; none while it must wait. A node
reaches the granules that it shadows (R391). (DEDUCED, log entry 53.) -/
def ingressDo (s : State) (w : Writer) (node : Option Nat) (op : IngressOp) (ps : List Piece) : Option (Answer × State) :=
  match op with
  | .read _ | .step =>
    (newGate s node ps).map (fun t =>
      let r := readPieces t node ps
      (⟨0, r.1, r.2⟩, t))
  | .write bs poi =>
    match writeGates s node false ps with
    | .wait _ => none
    | .go => some (⟨0, [], false⟩, putAll w node ps (bs.zip (poi ++ List.replicate bs.length false)) s)
  | .atom o ty v =>
    match ps with
    | [p] =>
      (newGate s node ps).bind (fun t =>
        match writeGates t node false ps with
        | .wait _ => none
        | .go =>
          let r := performAtom t w node (.op o.toNat) (ty? ty) p (v.toNat % 2 ^ (ty? ty).w) 0
          some (⟨0, r.1, r.2.1⟩, r.2.2))
    | _ => none

/-- A waiting write still asks for the revival of its blocks (R296). -/
def ingressWait (s : State) (node : Option Nat) (op : IngressOp) (ps : List Piece) : Option State :=
  match op with
  | .read _ | .step => none
  | _ =>
    match writeGates s node false ps with
    | .wait u => if u = s then none else some u
    | .go => none

/-! ### Links and routes (R353, R354) -/

def lpEn (w : Word) : Bool := w.getLsbD 14
def lpRole (w : Word) : Nat := (w.extractLsb' 12 2).toNat
def lpPeer (w : Word) : Nat := (w.extractLsb' 0 6).toNat
def portOn (s : State) (p : Nat) : Bool := s.fab.up.getLsbD p && lpEn (mget 0 s.fab.lpcfg p)

/-- Ports in use to a neighbour, redundant ones last; a port to a host-side fabric leads to its PEER as any other (R352, R406). -/
def portsTo (s : State) (dev : Nat) : List Nat :=
  let l := (List.range 16).filter (fun p => portOn s p && lpPeer (mget 0 s.fab.lpcfg p) == dev)
  l.filter (fun p => lpRole (mget 0 s.fab.lpcfg p) != 2) ++ l.filter (fun p => lpRole (mget 0 s.fab.lpcfg p) == 2)

/-- A host-side fabric attached to this module has the device number (R406). -/
def attached (s : State) (dev : Nat) : Bool :=
  (List.range 16).any (fun p => portOn s p && lpPeer (mget 0 s.fab.lpcfg p) == dev && lpRole (mget 0 s.fab.lpcfg p) == 3)

/-- Has a hop between two neighbours a link that is up, direct or redundant? (DESIGN CHOICE, log entry 119, for links between other
modules.) -/
def linkUp (s : State) (a b : Nat) : Bool :=
  if a = myDev s then !(portsTo s b).isEmpty
  else if b = myDev s then !(portsTo s a).isEmpty
  else !s.fab.farDown.contains (min a b, max a b)

/-- The other modules of the row, or column, that two neighbours share, lowest number first. -/
def thirds (s : State) (a b : Nat) : List Nat :=
  ((List.range 64).filter (fun d => (if a / 8 = b / 8 then d / 8 == a / 8 else d % 8 == a % 8) &&
    decide (d / 8 ≤ (s.fab.fabcfg.extractLsb' 21 3).toNat) && decide (d % 8 ≤ (s.fab.fabcfg.extractLsb' 18 3).toNat))).filter
    (fun d => d != a && d != b)

/-- A detour between neighbours: through the lowest third module whose two links are up. -/
def detourHop (s : State) (a b : Nat) : Option (List Nat) :=
  ((thirds s a b).find? (fun d => linkUp s a d && linkUp s d b)).map (fun d => [d, b])

/-- The modules that a packet passes from one neighbour to the other, the last included. -/
def hop (s : State) (a b : Nat) : Option (List Nat) := if linkUp s a b then some [b] else detourHop s a b

/-- The first module on the minimal route. -/
def nextDev (src dst : Nat) : Nat := if src / 8 = dst / 8 ∨ src % 8 = dst % 8 then dst else src / 8 * 8 + dst % 8

/-- A route between modules by its first hop: the modules passed, the last included, each a link hop. -/
def routeBy (s : State) (first : Nat → Nat → Option (List Nat)) (src dst : Nat) : Option (List Nat) :=
  if src = dst then some []
  else
    let n := if src = myDev s ∧ attached s dst then dst else nextDev src dst
    (first src n).bind (fun a => if n = dst then some a else (hop s n dst).map (a ++ ·))

/-- The route that exists now. -/
def pickRoute (s : State) (src dst : Nat) : Option (List Nat) := routeBy s (hop s) src dst

def flowKey (dev prio : Nat) : Nat := 4 * dev + prio

/-- Are all links of a route of this module up? -/
def routeWhole (s : State) (r : List Nat) : Bool := ((myDev s :: r).zip r).all (fun h => linkUp s h.1 h.2)

/-- The route of a flow of this module: the one its packets in flight take while its links are up, else a detour once one is taken,
else the one that exists now (R354). -/
def flowRoute (s : State) (dev prio : Nat) : Option (List Nat) :=
  let kept := mget [] s.fab.routes (flowKey dev prio)
  if !kept.isEmpty && routeWhole s kept then some kept
  else
    ((if mget false s.fab.detour (flowKey dev prio) then routeBy s (detourHop s) (myDev s) dev else none).orElse
      (fun _ => pickRoute s (myDev s) dev))

/-- The port of a route's first hop. -/
def portOf (s : State) (route : List Nat) : Option Nat := route.head?.bind (fun d => (portsTo s d).head?)
def routePort (s : State) (dev prio : Nat) : Option Nat := (flowRoute s dev prio).bind (portOf s)

/-- Link hops of a flow's route. -/
def hopsTo (s : State) (dev prio : Nat) : Nat := ((flowRoute s dev prio).getD []).length

/-- A route to the module has existed since the cycle given (R356). -/
def routedSince (s : State) (dev at_ : Nat) : Bool :=
  dev == myDev s || (pickRoute s (myDev s) dev).isSome || decide (at_ < mget 0 s.fab.lost dev)

/-- The cause of a link time-out for a request to a module, issued at the cycle given: one whose packet has left its router has been
routed (R356). -/
def linkCause (s : State) (sent : Bool) (dev at_ : Nat) : Nat := if sent || routedSince s dev at_ then 0x80 else 0x81

/-- After a change of links: the routes of flows that ran over a lost link are chosen anew, and the modules that no route reaches any
more are noted (R354, R356). -/
def reroute (s : State) (t : State) : State :=
  let t := onFab t (fun h => { h with routes := h.routes.filterMap (fun e =>
    if routeWhole t e.2 then some e else (pickRoute t (myDev t) (e.1 / 4)).map (fun r => (e.1, r))) })
  let lost := (List.range 64).filter (fun d => d != myDev s && (pickRoute s (myDev s) d).isSome && (pickRoute t (myDev t) d).isNone)
  onFab t (fun h => { h with lost := lost.foldl (fun m d => mput 0 m d (s.now + 1)) h.lost })

end Sys2Proof.Machine
end

