-- ==== Sys2Proof/Machine/Fabric.lean ====
section
/-! DEFINITION. Fabric.lean: the fabric instructions: FLD, FST, FATOM (R363-R365), GSET and GSET.MINT (R362), MCST (R370),
CARAV (R372, R373). -/

namespace Sys2Proof.Machine
open Sys2Proof

/-- The link priority of a core's accesses: the node's base priority divided by 16 (R355). -/
def linkPrio (s : State) (node : Option Nat) : Nat := ((node.bind (nodeOf s)).map (·.prio)).getD 0 / 16

/-- A request of the bundle, whose memory-list entry is the next (R243). -/
def fabReq (s : State) (f : Frame) (kind : FabKind) (tok : Nat) (fa : Word) (g : Option Word) : FabReq :=
  { id := 0, core := s.cur, mid := f.now.memNext, tok := tok, kind := kind, faddr := fa, grant := g,
    prio := linkPrio s f.pre.node, at_ := s.now, colour := hdrColour f.hdr, after := f.now.memNext,
    handler := f.pre.level, resp := none, sent := [], order := 0 }

/-- Where an access that loops back to this module leads, for its order among the core's own accesses to one atom (R243, R369). (DEDUCED,
log entry 46.) -/
def loopPieces (s : State) (r : FabReq) (len right : Nat) : List Piece :=
  if devOf r.faddr = myDev s then
    match ingressCheck s (myDev s) (r.grant.getD 0) (offOf r.faddr) len right with
    | .ok ps => ps
    | .error _ => []
  else []

/-- Send a request once the bundle commits; it takes its place among the core's accesses. -/
def sendFab (f : Frame) (r : FabReq) (rd wr : Bool) (ps : List Piece) (d : LateDst) : Frame :=
  pushMem { f with late := f.late ++ [.fabric r] } (.fab rd wr false ps d)

/-- The checks of a fabric address (R364). -/
def fabCheck (s : State) (f : Frame) (k : Nat) (fa : Word) (n : Nat) (g : Frame) : Frame :=
  if !faddrOk s fa then faultAt f k 0x87 0 else if offOf fa % n ≠ 0 then faultAt f k 0x10 0 else g

/-- A value and a status word that arrive together (R365). -/
def fabPair (d : BitVec 7) : LateDst := ⟨.s, [d.toNat, d.toNat + 1], 128, 1, false, 3, false⟩
/-- A status word alone. -/
def fabWord (d : BitVec 7) : LateDst := ⟨.s, [d.toNat], 64, 1, false, 3, false⟩
/-- Both registers of a Caravan (R373). -/
def carPair (d : BitVec 7) : LateDst := ⟨.s, [d.toNat, d.toNat + 1], 128, 1, false, 4, false⟩

def issueFld (x : LF) (s : State) (f : Frame) : Frame :=
  let t := ty? x.ty
  let fa := rdS f 3 x.a
  match heldRead f 3 (fun _ => true) with
  | some v => atomOut (eat { f with now := { f.now with evl := f.now.evl ||| 4 } } v.2) 3 x.d (fabPair x.d) v.1
  | none =>
  gateLoad f (fabCheck s f 3 fa (t.w / 8)
    (let r := fabReq s f (.fld t) x.d.toNat fa (some (rdG f x.grant.toNat))
     owe (sendFab f r true false (loopPieces s r (t.w / 8) 0) (fabPair x.d)) f.now.memNext (fabPair x.d)))

def issueFst (x : LF) (s : State) (f : Frame) : Frame :=
  let t := ty? x.ty
  let fa := rdS f 3 x.a
  gateWrite f (fabCheck s f 3 fa (t.w / 8)
    (if 64 ≤ writesOut f.pre then { f with stall := true }
     else
       let r := fabReq s f (.fst (rdS f 3 x.c) (t.w / 8)) x.d.toNat fa (some (rdG f x.grant.toNat))
       let f := sendFab f r false true (loopPieces s r (t.w / 8) 1) (fabWord x.d)
       { f with now := { f.now with pendS := f.now.pendS ++ [x.d.toNat] } }))

def issueFatom (x : LF) (s : State) (f : Frame) : Frame :=
  let t := ty? x.ty
  let fa := rdS f 3 x.a
  gateLoad f (fabCheck s f 3 fa (t.w / 8)
    (if 64 ≤ writesOut f.pre then { f with stall := true }
     else
       let r := fabReq s f (.fatom x.op.toNat t (rdS f 3 x.c)) x.d.toNat fa (some (rdG f x.grant.toNat))
       owe (sendFab f r true true (loopPieces s r (t.w / 8) 2) (fabPair x.d)) f.now.memNext (fabPair x.d)))

/-! ### Grants (R362) -/

/-- GSET writes its grant register. A grant is none of the results that R57 gives a latch for: the latch is zero. (DESIGN CHOICE, log
entry 106.) -/
def issueGset (x : RF) (f : Frame) : Frame :=
  { f with now := onRegs f.now (·.wG (x.d.toNat % 8) (rdS f 4 x.a)) }

/-- The refusal of a draft, in the order of R362. -/
def mintFault (s : State) (k : Core) (g dev : Word) : Option Nat :=
  let e := winMem s (gWin g)
  if !eValid e || eGen e != gGen g || !keyValid s (gKey g) then some 0x84
  else if (List.range 4).any (fun i => gRights g / 2 ^ i % 2 == 1 && eRmax e / 2 ^ i % 2 == 0) then some 0x85
  else if !k.level && eCtx e != k.csr.ctxid then some 0x85
  else if 63 < dev.toNat || gTag g != 0 then some 0x87 else none

def issueGsetMint (x : RF) (s : State) (f : Frame) : Frame :=
  let g := rdS f 4 x.a
  let dev := rdS f 4 x.b
  match mintFault s f.pre g dev with
  | some cause => faultAt f 4 cause 0
  | none => wrS f 4 x.d (BitVec.ofNat 64 (macTag s (gKey g) (g.toNat % 2 ^ 40) dev.toNat * 2 ^ 40) ||| g)

/-! ### Multicast (R370) -/

def mSrc (d : List Byte) : Nat := d64 d 0
def mLen (d : List Byte) : Nat := dN d 8 4
def mNum (d : List Byte) : Nat := dB d 0x0C
def mGrant (d : List Byte) (m : Nat) : Word := BitVec.ofNat 64 (d64 d (0x20 + 16 * m))
def mFaddr (d : List Byte) (m : Nat) : Word := BitVec.ofNat 64 (d64 d (0x28 + 16 * m))
/-- The fields before the members. -/
def mHead (d : List Byte) : Bool :=
  mSrc d % 8 == 0 && mLen d % 8 == 0 && decide (8 ≤ mLen d) && decide (mLen d ≤ 4096) && decide (1 ≤ mNum d) &&
    decide (mNum d ≤ 16) && zeros d 0x0D 19

def issueMcst (x : RF) (s : State) (f : Frame) : Frame :=
  let ea := rdS f 4 x.a
  readCard s f 4 ea 64 32 (fun h =>
    if !mHead h.1 then faultAt f 4 0x87 0
    else
      readCard s f 4 ea 64 (32 + 16 * mNum h.1) (fun r =>
        if !(List.range (mNum r.1)).all (fun m => faddrOk s (mFaddr r.1 m)) then faultAt f 4 0x87 0
        else
          let q := fabReq s f (.mcst r.1 none (List.replicate (mNum r.1) none) (List.replicate (mNum r.1) none)) x.d.toNat 0 none
          oweToken { f with late := f.late ++ [.fabric q] } x.d))

/-! ### Caravans (R372-R374) -/

/-- A Caravan pointer (R374). -/
def carOk (p : Word) : Bool := p.extractLsb' 62 2 == 0 && p.extractLsb' 48 8 == 0

def cOffs (d : List Byte) : List (BitVec 16) := (List.range 8).map (fun k => BitVec.ofNat 16 (dN d (8 + 2 * k) 2))

def issueCarav (x : RF) (s : State) (f : Frame) : Frame :=
  let n := (x.c.extractLsb' 3 3).toNat + 1
  readCard s f 4 (rdS f 4 x.a) 32 32 (fun r =>
    let p : Word := BitVec.ofNat 64 (d64 r.1 0)
    if !carOk p || ((cOffs r.1).drop n).any (· != 0) then faultAt f 4 0x75 0
    else
      let g := if x.c.getLsbD 6 then some (rdG f (x.c.extractLsb' 0 3).toNat) else none
      let f := sendFab f (fabReq s f
        (.carav p (cOffs r.1) (BitVec.ofNat 64 (d64 r.1 0x18)) n 0 24 false none .core) x.d.toNat p g) true false [] (carPair x.d)
      { f with now := { f.now with pendS := f.now.pendS ++ [x.d.toNat, x.d.toNat + 1] } })

/-! ### The meanings -/

def execFld (x : LF) (s : State) : Out := runSlot (.fld x) (issueFld x) s
def execFst (x : LF) (s : State) : Out := runSlot (.fst x) (issueFst x) s
def execFatom (x : LF) (s : State) : Out := runSlot (.fatom x) (issueFatom x) s
def execGset (x : RF) (s : State) : Out := runCore (.gset x) (issueGset x) s
def execGsetMint (x : RF) (s : State) : Out := runSlot (.gsetMint x) (issueGsetMint x) s
def execMcst (x : RF) (s : State) : Out := runSlot (.mcst x) (issueMcst x) s
def execCarav (x : RF) (s : State) : Out := runSlot (.carav x) (issueCarav x) s

end Sys2Proof.Machine
end

