-- ==== Sys2Proof/Machine/Matrix.lean ====
section
/-! DEFINITION. Matrix.lean: accumulator tiles (R211-R213) and the instructions of slot M (R214-R236). -/

namespace Sys2Proof.Machine
open Sys2Proof

/-! ### Tiles -/

/-- The word index of a value, and of a count, in a core's tiles: row r, column n of tile t (R211). -/
def tIx (t r n : Nat) : Nat := 4096 * t + 64 * r + n

/-- FP64 element (r, n) of the pair from tile t: index of its low value word, and of its count (R212). -/
def pIx (t r n : Nat) : Nat := 4096 * (t + r / 32) + 128 * (r % 32) + 2 * n
def pCx (t r n : Nat) : Nat := tIx (t + r / 32) (r % 32) n

def tileV (k : Core) (i : Nat) : Nat := (mget 0 k.tval i).toNat
def tileC (k : Core) (i : Nat) : Nat := (mget 0 k.tcnt i).toNat
def putTileV (k : Core) (i v : Nat) : Core := { k with tval := mput 0 k.tval i (BitVec.ofNat 32 v) }
def putTileC (k : Core) (i v : Nat) : Core := { k with tcnt := mput 0 k.tcnt i (BitVec.ofNat 16 v) }
def pairV (k : Core) (i : Nat) : Nat := tileV k i + 2 ^ 32 * tileV k (i + 1)
def putPairV (k : Core) (i v : Nat) : Core := putTileV (putTileV k i (v % 2 ^ 32)) (i + 1) (v / 2 ^ 32)

/-- Set tiles to value +0 and count 0 (R230). -/
def clearTiles (k : Core) (t n : Nat) : Core :=
  { k with tval := mclear k.tval (4096 * t) (4096 * n), tcnt := mclear k.tcnt (4096 * t) (4096 * n) }

def tileMask (ts : List Nat) : BitVec 16 := ts.foldl (fun m t => m ||| BitVec.ofNat 16 (2 ^ t)) 0
def tilesBusy (k : Core) (ts : List Nat) : Bool := k.busy &&& tileMask ts != 0

/-- A tile the bundle names is busy: it stalls (R214). -/
def withTiles (f : Frame) (ts : List Nat) (g : Frame) : Frame := if tilesBusy f.pre ts then { f with stall := true } else g

/-! ### Jobs -/

/-- An entry of the operation queue as it issues. -/
def mxNew (f : Frame) (kind : MxKind) (tok : Nat) (card : List Byte) (addr : Word) : MxOp :=
  { kind := kind, tok := tok, colour := hdrColour f.hdr, card := card, addr := addr, grA := 0, grB := 0, tile := 0, scale := 0,
    rm := 0, sig := 0, started := false, after := f.now.memNext, at_ := f.pre.csr.cycle.toNat, prog := 0, slabs := 0, rows := 0, bytes := 0, flags := 0,
    cause := none, buf := [], handler := f.pre.level, since := 0 }

def mxPush (f : Frame) (o : MxOp) : Frame :=
  { f with now := { f.now with mxq := f.now.mxq ++ [o], memNext := f.now.memNext + 1 } }

def setBusy (f : Frame) (ts : List Nat) : Frame := { f with now := { f.now with busy := f.now.busy ||| tileMask ts } }

/-- The queue of eight entries is full: the bundle stalls (R216). -/
def mxRoom (f : Frame) (g : Frame) : Frame := if 8 ≤ f.pre.mxq.length then { f with stall := true } else g

def grantOf (f : Frame) (g : Nat) : Word := if g = 0 then 0 else rdG f (g - 1)

/-- MJOB (R215, R218). A malformed fabric address of a card traps here (R364, R377). (DEDUCED, log entry 43.) -/
def issueMjob (x : MF) (s : State) (f : Frame) : Frame :=
  mxRoom f (readCard s f 2 (rdS f 2 x.a) 64 128 (fun r =>
    if !cardOk r.1 then faultAt f 2 0x50 0
    else if (cAg r.1 != 0 && !faddrOk s (BitVec.ofNat 64 (d64 r.1 0))) || (cBg r.1 != 0 && !faddrOk s (BitVec.ofNat 64 (d64 r.1 8))) then
      faultAt f 2 0x87 0
    else
      withTiles f (cTiles r.1)
        (oweToken (setBusy (mxPush f { mxNew f .mjob x.d.toNat r.1 (rdS f 2 x.a) with
          grA := grantOf f (cAg r.1), grB := grantOf f (cBg r.1), prog := cStart r.1 }) (cTiles r.1)) x.d)))

def mdrnK (x : MF) : Nat := (x.hi.extractLsb' 4 4).toNat
def mxTile (x : MF) : Nat := (x.hi.extractLsb' 0 4).toNat

def issueMdrn (x : MF) (s : State) (f : Frame) : Frame :=
  mxRoom f (readCard s f 2 (rdS f 2 x.a) 32 32 (fun r =>
    if !drainOk r.1 (mxTile x) then faultAt f 2 0x51 0
    else
      let ts := dTiles r.1 (mxTile x)
      let rm : BitVec 2 := BitVec.ofNat 2 (dB r.1 0x0D)
      withTiles f ts
        (oweToken (setBusy (mxPush f { mxNew f .mdrn x.d.toNat r.1 (rdS f 2 x.a) with
          tile := mxTile x, scale := rdX f 2 (mdrnK x), rm := if rm = 3 then fpcRm f else rm }) ts) x.d)))

/-- MKAT takes one queue entry and sets no busy bit (R236). -/
def issueMkat (x : MF) (f : Frame) : Frame :=
  mxRoom f (mxPush f { mxNew f .mkat 0 [] 0 with sig := x.hi ++ x.a ++ x.d })

/-! ### Direct access -/

def issueMzero (x : MF) (f : Frame) : Frame :=
  let t := (x.d.extractLsb' 0 4).toNat
  let n := (x.a.extractLsb' 0 1 ++ x.d.extractLsb' 4 3).toNat + 1
  withTiles f ((List.range n).map (t + ·)) { f with now := clearTiles f.now t n }

def mxMode (x : MF) : Nat := (x.hi.extractLsb' 4 2).toNat
def mxTiles (x : MF) : List Nat := if mxMode x = 2 then [mxTile x, mxTile x + 1] else [mxTile x]
def mxRow (x : MF) (f : Frame) : Nat := (rdS f 2 x.a).toNat % 64

/-- MRD (R231). -/
def issueMrd (x : MF) (f : Frame) : Frame :=
  let k := f.pre
  let t := mxTile x
  let r := mxRow x f
  let cols (g : Nat → Nat) : List Nat := (List.range 64).map g
  let row : Nat :=
    match mxMode x with
    | 0 => pack 32 (cols (fun n => tileV k (tIx t r n)))
    | 1 => pack 32 (cols (fun n => tileC k (tIx t r n)))
    | 2 => pack 64 (cols (fun n => pairV k (pIx t r n)))
    | _ => pack 32 (cols (fun n => if tileC k (tIx t r n) = 0 then fill .f32 else tileV k (tIx t r n)))
  withTiles f (mxTiles x) (wrV f 2 x.d (splitV (if mxMode x = 2 then 2 else 1) row))

/-- A value written by MWR: an absent code writes +0 with count 0 (R231). -/
def mwrPut (t : ETy) (put : Core → Nat → Nat → Core) (k : Core) (vi ci v : Nat) : Core :=
  if isAbsent t v then putTileC (put k vi 0) ci 0 else putTileC (put k vi v) ci 1

/-- MWR (R231). -/
def issueMwr (x : MF) (f : Frame) : Frame :=
  let t := mxTile x
  let r := mxRow x f
  let f64 := mxMode x == 2
  let es := elems (if f64 then 64 else 32) (if f64 then 2 else 1) (rdV f 2 x.d (if f64 then 2 else 1))
  let ies := (List.range 64).zip es
  withTiles f (mxTiles x)
    (match mxMode x with
     | 0 => { f with now := ies.foldl (fun k e => mwrPut .f32 putTileV k (tIx t r e.1) (tIx t r e.1) e.2) f.now }
     | 1 =>
       let f := { f with now := ies.foldl (fun k e => putTileC k (tIx t r e.1) (min e.2 65535)) f.now }
       raise f 2 (if ies.any (fun e => decide (65535 < e.2)) then fCSAT else 0) false
     | _ => { f with now := ies.foldl (fun k e => mwrPut .f64 putPairV k (pIx t r e.1) (pCx t r e.1) e.2) f.now })

/-- MWAIT (R232). -/
def issueMwait (x : MF) (f : Frame) : Frame :=
  let m : BitVec 16 := x.hi.extractLsb' 0 2 ++ x.a ++ x.d
  if (if m = 0 then !f.pre.mxq.isEmpty else f.pre.busy &&& m != 0) then { f with stall := true } else f

/-! ### The meanings -/

def execMjob (x : MF) (s : State) : Out := runSlot (.mjob x) (issueMjob x) s
def execMzero (x : MF) (s : State) : Out := runCore (.mzero x) (issueMzero x) s
def execMdrn (x : MF) (s : State) : Out := runSlot (.mdrn x) (issueMdrn x) s
def execMkat (x : MF) (s : State) : Out := runCore (.mkat x) (issueMkat x) s
def execMrd (x : MF) (s : State) : Out := runCore (.mrd x) (issueMrd x) s
def execMwr (x : MF) (s : State) : Out := runCore (.mwr x) (issueMwr x) s
def execMwait (x : MF) (s : State) : Out := runCore (.mwait x) (issueMwait x) s

end Sys2Proof.Machine
end

