-- ==== Sys2Proof/Machine/FabricEvents.lean ====
section
/-! DEFINITION. FabricEvents.lean: links and flow control (R352-R358), requests at the ingress and their answers (R361, R365),
multicast (R371), Caravans (R374-R376), fabric time. -/

namespace Sys2Proof.Machine
open Sys2Proof

def reqOf (s : State) (id : Nat) : Option FabReq := s.fab.reqs.find? (fun r => r.id == id)
def setReq (s : State) (id : Nat) (f : FabReq → FabReq) : State :=
  onFab s (fun h => { h with reqs := h.reqs.map (fun r => if r.id == id then f r else r) })

/-- The request names this module: loopback (R353). -/
def isLoop (s : State) (r : FabReq) : Bool := devOf r.faddr == myDev s

/-- The step that takes a Caravan's packet from this module to another, and that module (R374, R376). -/
def carAway (s : State) (r : FabReq) : Option (Nat × Nat) :=
  match r.kind with
  | .carav p offs _ n k budget _ none pos =>
    let a := p + (nth 0 offs k).signExtend 64 * 8
    (match pos with
     | .far _ => none
     | _ => if n ≤ k ∨ budget = 0 ∨ devOf a = myDev s ∨ !carOk a ∨ offOf a % 8 ≠ 0 then none else some (k, devOf a))
  | _ => none

/-- The matrix job whose slab rows a request reads still fetches them (R225, R367). -/
def rowsWanted (s : State) (r : FabReq) : Bool :=
  (coreAt s r.core).mxq.any (fun o => o.kind == .mjob && o.after == r.mid && o.started && o.cause.isNone)

/-- The packets of a request to other modules that no answer has reached, by member and module. -/
def openPackets (s : State) (r : FabReq) : List (Nat × Nat) :=
  match r.kind with
  | .mcst d (some _) st _ => ((List.range st.length).filter (fun m => (nth none st m).isNone)).filterMap (fun m =>
      if devOf (mFaddr d m) = myDev s then none else some (m, devOf (mFaddr d m)))
  | .mcst _ none _ _ => []
  | .carav .. => (carAway s r).toList
  | .rows a b =>
    if !rowsWanted s r then []
    else (a.toList.flatMap (fun d => (List.range 64).map (fun i => (i, d)))) ++
      (b.toList.flatMap (fun d => (List.range 64).map (fun i => (64 + i, d))))
  | _ => if isLoop s r ∨ r.resp.isSome then [] else [(0, devOf r.faddr)]

/-- The modules that hold a packet of the request, sent and not answered; a Caravan's packet on another module counts. -/
def outDevs (s : State) (r : FabReq) : List Nat :=
  ((openPackets s r).filter (fun m => r.sent.contains m.1)).map (·.2) ++ (match r.kind with
    | .carav _ _ _ _ _ _ _ _ (.far d) => [d]
    | _ => [])

/-- Has a flow a packet in flight (R354)? -/
def inFlight (s : State) (key : Nat) : Bool := s.fab.reqs.any (fun r => (outDevs s r).any (fun d => flowKey d r.prio == key))

/-- A flow without a packet in flight chooses its route anew (R354). -/
def tidyRoutes (s : State) : State := onFab s (fun h => { h with routes := h.routes.filter (fun e => inFlight s e.1) })

def dropReq (s : State) (id : Nat) : State :=
  tidyRoutes (onFab s (fun h => { h with reqs := h.reqs.filter (fun r => r.id != id),
                                         starved := h.starved.filter (fun e => !(e.2.any (fun x => x.1 == id))) }))

/-- Causes that another module answers with (R361). (DESIGN CHOICE, log entry 47.) -/
def farCauses : List Nat := [0x18, 0x19, 0x1A, 0x1B, 0x1C, 0x37, 0x82, 0x83, 0x84, 0x85, 0x86]

/-- The link time-out of a request has passed (R356). -/
def linkLate (s : State) (r : FabReq) : Bool := decide (r.at_ + Config.linkTimeout ≤ s.now)

/-! ### FLD, FST, FATOM -/

def fabWidth : FabKind → Nat
  | .fld ty => ty.w / 8
  | .fst _ w => w
  | .fatom _ ty _ => ty.w / 8
  | _ => 0

/-- Where the results of a request go now: a register that a landing has taken since takes nothing (R197). -/
def fabDst (s : State) (r : FabReq) (d : LateDst) : LateDst := ((memEnt (coreAt s r.core) r.mid).bind (·.op.dst)).getD d

/-- The answer reaches the core (R365). (DEDUCED, log entry 45.) -/
def fabAnswer (s : State) (r : FabReq) (cause : Nat) (v : Word) (poi : Bool) : State :=
  let c := r.core
  let d := fabDst s r (fabPair (BitVec.ofNat 7 r.tok))
  let bad := if cause = 0 then none else some cause
  let n := if cause = 0 then fabWidth r.kind else 0
  let pair (s : State) (ty : ETy) (kind : Nat) : State :=
    let val : Word := if cause = 0 then extend ty.isI ty.w (v.toNat % 2 ^ ty.w) else 0
    let bs := natLe 8 val.toNat ++ natLe 8 (tokenWord bad kind n).toNat
    onCore s c (fun k => answered k r.mid (fun k =>
      let k := arrive k r.mid d bs (poi && cause == 0)
      { k with evl := k.evl ||| 4 }) bs (poi && cause == 0))
  let s := dropReq s r.id
  match r.kind with
  | .fst .. => writeToken (dropMem s c r.mid) c (nth 64 d.regs 0) 2 (tokenWord bad 4 n)
  | .fld ty => pair s ty 6
  | .fatom _ ty _ => pair s ty 7
  | _ => s

/-- What FLD, FST or FATOM asks of an ingress. -/
def fabOp : FabKind → Option IngressOp
  | .fld ty => some (.read (ty.w / 8))
  | .fst v w => some (.write (natLe w v.toNat) [])
  | .fatom op ty v => some (.atom (BitVec.ofNat 4 op) (tyCode ty) v)
  | _ => none
where
  tyCode (t : ETy) : BitVec 5 := BitVec.ofNat 5 (((List.range 32).find? (fun i => ty? (BitVec.ofNat 5 i) == t)).getD 0)

/-- Has a request a loopback packet in its flow that has been issued and has not performed? -/
def loopOpen (s : State) (o : FabReq) : Bool :=
  match o.kind with
  | .mcst d (some _) st _ => (List.range st.length).any (fun m => (nth none st m).isNone && devOf (mFaddr d m) == myDev s)
  | .mcst _ none _ _ | .carav .. | .rows .. => false
  | _ => isLoop s o && o.resp.isNone

/-- The packets of the loopback flow of one priority perform in the order of issue: those of the same core, and those of others that
nothing of their own core holds back (R354). (DEDUCED, log entry 46.) -/
def flowFirst (s : State) (r : FabReq) : Bool :=
  !s.fab.reqs.any (fun o => decide (o.order < r.order) && o.prio == r.prio && loopOpen s o &&
    (o.core == r.core || (match o.kind with
      | .mcst .. => jobMay s o.core o.after o.colour true
      | _ => mayPerform s o.core o.mid)))

/-- A loopback request at this module's own ingress (R353, R361). (DEDUCED, log entry 46.) -/
def loopRequest (s : State) (id : Nat) : Option State :=
  (reqOf s id).bind (fun r =>
    match fabOp r.kind with
    | none => none
    | some op =>
      if !isLoop s r || r.resp.isSome || !mayPerform s r.core r.mid || !flowFirst s r then none
      else
        let g := r.grant.getD 0
        let node := (coreAt s r.core).node
        (ingressGate s (myDev s) g (offOf r.faddr) (lenOf op) (rightOf op)).bind (fun s' =>
          match ingressCheck s' (myDev s) g (offOf r.faddr) (lenOf op) (rightOf op) with
          | .error x => some (setReq s' id (fun r => { r with resp := some (x, 0, false) }))
          | .ok ps =>
            match ingressDo s' (.fabric r.core r.colour id) node op ps with
            | some (a, t) =>
              some (setReq (ingressNote t g (offOf r.faddr) (lenOf op) (rightOf op)) id (fun r =>
                { r with resp := some (0, BitVec.ofNat 64 (leNat a.bytes), a.poison) }))
            | none => ingressWait s node op ps))

/-- Flits enter or leave a receive buffer: OFF is sent above 768, ON below 512 (R357). -/
def rxSet (s : State) (key n : Nat) : State :=
  onFab s (fun h => { h with rx := mput 0 h.rx key n,
                             rxOff := mput false h.rxOff key (if 768 < n then true else if n < 512 then false else mget false h.rxOff key) })

/-- The receive buffer of a port, priority and class; as a key of `Fabric.off`, that at the other end. -/
def offKey (port prio : Nat) (resp : Bool) : Nat := 8 * port + 2 * prio + if resp then 1 else 0

def rxArrive (s : State) (port prio : Nat) (resp : Bool) (n : Nat) : Option State :=
  let k := offKey port prio resp
  if portOn s port && decide (prio < 4) && decide (0 < n) && decide (mget 0 s.fab.rx k + n ≤ 2560) then
    some (rxSet s k (mget 0 s.fab.rx k + n)) else none

def rxLeave (s : State) (port prio : Nat) (resp : Bool) (n : Nat) : Option State :=
  let k := offKey port prio resp
  if decide (prio < 4) && decide (0 < n) && decide (n ≤ mget 0 s.fab.rx k) then some (rxSet s k (mget 0 s.fab.rx k - n)) else none

/-- Flits of the response that a request reserves room for (R358). (DESIGN CHOICE, log entry 120.) -/
def respFlits (r : FabReq) : Nat := match r.kind with
  | .fld _ | .fatom .. | .carav .. => 2
  | .rows .. => 3
  | _ => 1

/-- A response that has arrived leaves the response buffer of a port: the lowest port that holds it (R357). (DESIGN CHOICE, log entry
120.) -/
def rxTake (s : State) (prio n : Nat) : Option State := (List.range 16).findSome? (fun p => rxLeave s p prio true n)

/-- DESIGN CHOICE, log entry 47. -/
def execFabricResponse (id cause : Nat) (v : Word) (poison : Bool) (s : State) : Out :=
  eventO "FABRIC_RESPONSE" s ((reqOf s id).bind (fun r =>
    if (fabOp r.kind).isNone || linkLate s r then none
    else if isLoop s r then
      r.resp.bind (fun a => if unbanked s (.fabric r.core r.colour id) then none else some (fabAnswer s r a.1 a.2.1 a.2.2))
    else if r.sent.contains 0 && (cause == 0 || farCauses.contains cause) then
      (rxTake s r.prio (respFlits r)).map (fun s => fabAnswer s r cause v poison)
    else none))

/-! ### Requests of other modules -/

/-- Well-formed requests of the link (R363, R371, R374). -/
def farOpOk : IngressOp → Bool
  | .read n => decide (1 ≤ n) && decide (n ≤ 128)
  | .write bs poi => decide (1 ≤ bs.length) && decide (bs.length ≤ 4096) && decide (poi.length ≤ bs.length)
  | .atom op ty _ => decide (op.toNat ≤ 9) && (ty? ty).w % 32 == 0
  | .step => true

/-- The flits of a request in a receive buffer: one, and those of its data. (DESIGN CHOICE, log entry 120.) -/
def reqFlits (op : IngressOp) : Nat := 1 + (match op with
  | .write bs _ => (bs.length + 63) / 64
  | _ => 0)

/-- Pieces cut at atoms, in ascending order. -/
def atomPieces (ps : List Piece) : List Piece :=
  ps.flatMap (fun p => (cutAtoms p.pl.off (List.replicate p.len 0)).map (fun e => ⟨p.pl.add (e.1 - p.pl.off), e.2.length, p.disc⟩))

/-- An answer to another module stands at the router (R357, R365). -/
def ingressAnswer (s : State) (dev prio seq : Nat) (a : Answer) : State :=
  onFab s (fun h => { h with answers := h.answers ++ [⟨dev, prio, seq, a.cause, a.bytes, a.poison, s.now⟩] })

/-- The port that an answer leaves by, while its response buffer at the other end is ON (R357). -/
def ansPort (s : State) (a : FarAns) : Option Nat :=
  ((pickRoute s (myDev s) a.dev).bind (portOf s)).filter (fun p => mget 0 s.fab.off (offKey p a.prio true) == 0)

/-- Answer `i` leaves its router: the first of its flow, behind no answer of a higher priority at its port, unless it has stood there
2,048 cycles (R354, R357, R358). -/
def ansLeaves (s : State) (i : Nat) : Option State :=
  (s.fab.answers[i]?).bind (fun a =>
    (ansPort s a).bind (fun p =>
      let old (e : FarAns) : Bool := decide (e.at_ + 2048 ≤ s.now)
      if (s.fab.answers.take i).any (fun e => e.dev == a.dev && e.prio == a.prio) then none
      else if s.fab.answers.any (fun e => ansPort s e == some p &&
          (if old a then old e && decide (e.at_ < a.at_) else old e || decide (a.prio < e.prio))) then none
      else some (onFab s (fun h => { h with answers := h.answers.eraseIdx i,
                                            ingress := h.ingress ++ [(a.dev, a.seq, a.cause, a.bytes, a.poison)] }))))

/-- A request of another module leaves its receive buffer: duplicates are discarded; a refused one performs nothing; a write or atomic
is admitted, to perform and be acknowledged; the next of its flow follows once its last atom has been handed on (R354, R361,
R365). (DEDUCED, log entry 53.) -/
def farRequest (s : State) (port dev prio seq : Nat) (g : Word) (off : Nat) (op : IngressOp) : Option State :=
  let key := flowKey dev prio
  let want := mget 0 s.fab.seqs key
  if 64 ≤ dev ∨ dev = myDev s ∨ 4 ≤ prio ∨ 2 ^ 48 ≤ off ∨ !farOpOk op ∨ want < seq ∨ !portOn s port ∨
      s.fab.far.any (fun q => flowKey q.dev q.prio == key && !q.todo.isEmpty) then none
  else
    (rxLeave s port prio false (reqFlits op)).bind (fun s =>
      if seq < want then some s
      else
        let next (t : State) : State := onFab t (fun h => { h with seqs := mput 0 h.seqs key (want + 1) })
        let admitted (t : State) (ps : List Piece) (cells : List (Byte × Bool)) (a : Answer) : State :=
          onFab (ingressNote (next t) g off (lenOf op) (rightOf op)) (fun h => { h with
            far := h.far ++ [⟨h.farNext, dev, prio, seq, gWin g, eCtx (winEntry s (gWin g)), ps, cells, a.bytes, a.poison⟩],
            farNext := h.farNext + 1 })
        (ingressGate s dev g off (lenOf op) (rightOf op)).bind (fun s' =>
          match ingressCheck s' dev g off (lenOf op) (rightOf op) with
          | .error x => some (ingressAnswer (next s') dev prio seq (refusal x))
          | .ok ps =>
            match op with
            | .write bs poi => some (admitted s' (atomPieces ps) (bs.zip (poi ++ List.replicate bs.length false)) (refusal 0))
            | .atom .. =>
              (match ingressDo s' (.ingress (2 ^ 32 + s.fab.farNext)) none op ps with
               | some (a, t) => some (admitted t [] [] a)
               | none => ingressWait s none op ps)
            | _ => (ingressDo s' (.ingress (2 ^ 32)) none op ps).map (fun r =>
                ingressAnswer (ingressNote (next r.2) g off (lenOf op) (rightOf op)) dev prio seq r.1)))

/-- The next atom of an admitted write performs (R371). -/
def farAtom (s : State) (tag : Nat) : Option State :=
  (s.fab.far.find? (fun q => q.tag == tag)).bind (fun q =>
    match q.todo with
    | [] => none
    | p :: ps =>
      match writeGates s none false [p] with
      | .wait u => if u = s then none else some u
      | .go => some (onFab (putCells s (.ingress (2 ^ 32 + tag)) none p (q.cells.take p.len)) (fun h => { h with
          far := h.far.map (fun e => if e.tag == tag then { e with todo := ps, cells := e.cells.drop p.len } else e) })))

/-- An admitted write has performed at DEVICE: its answer leaves (R241, R365). -/
def farAck (s : State) (tag : Nat) : Option State :=
  (s.fab.far.find? (fun q => q.tag == tag)).bind (fun q =>
    if !q.todo.isEmpty || unbanked s (.ingress (2 ^ 32 + tag)) then none
    else some (ingressAnswer (onFab s (fun h => { h with far := h.far.filter (fun e => e.tag != tag) })) q.dev q.prio q.seq
      ⟨0, q.bytes, q.poison⟩))

def execIngressRequest (rq : IngressSource) (s : State) : Out :=
  eventO "INGRESS_REQUEST" s (match rq with
    | .remote port dev prio seq g off op => farRequest s port dev prio seq g off op
    | .loopback id => loopRequest s id
    | .atom tag => farAtom s tag
    | .acknowledge tag => farAck s tag
    | .answer i => ansLeaves s i
    | .arrive port prio resp n => rxArrive s port prio resp n
    | .leave port prio resp n => rxLeave s port prio resp n)

/-! ### Caravans -/

/-- A Caravan's packet with its fields changed. -/
def setCar (s : State) (r : FabReq) (p : Word) (k budget : Nat) (poi : Bool) (res : Option Nat) (pos : CarPos) : State :=
  setReq s r.id (fun q => match q.kind with
    | .carav _ offs mask n _ _ _ _ _ => { q with kind := .carav p offs mask n k budget poi res pos }
    | _ => q)

/-- Transfers needed to be home again from where the packet is: to the link router, then the link hops (R376). (DEDUCED, log entry
49.) -/
def homeCost (s : State) : CarPos → Nat
  | .far d => 1 + ((pickRoute s d (myDev s)).getD []).length
  | _ => 0

/-- The route of the packet to another module: from here the flow's, from a third module the one that exists. -/
def carRoute (s : State) (prio : Nat) (pos : CarPos) (dev : Nat) : Option (List Nat) :=
  match pos with
  | .far d => pickRoute s d dev
  | _ => flowRoute s dev prio

/-- The Steward that owns a physical address. -/
def ownerOf (s : State) (node : Option Nat) (pa : Nat) : Nat := gHc (atomOf s (redirect s node pa))

/-- The outcome of one step: transfers made, then a failure, or the value and where the packet is. -/
inductive CarStep where
  | fail (cost cause : Nat)
  | ok (cost : Nat) (v : Word) (poi : Bool) (pos : CarPos) (s : State)
  | wait (s : State)
deriving DecidableEq, Repr

/-- A step served on this module (R374); none while it must wait. (DEDUCED, log entry 49.) -/
def carHere (s : State) (r : FabReq) (pos : CarPos) (a : Nat) : Option CarStep :=
  let k := coreAt s r.core
  let h := homeCost s pos
  let load (cost : Nat) (pl : Place) (disc : Bool) (pos : CarPos) : Option CarStep :=
    (newGate s k.node [Piece.mk pl 8 disc]).map (fun t =>
      let v := readPlace t k.node pl 8 disc
      .ok cost (BitVec.ofNat 64 (leNat v.1)) v.2 pos t)
  if istWin ≤ a ∧ a < istWin + 2 ^ 15 then some (.fail 0 0x74)
  else
    match window s k.node r.core a with
    | .refused => some (.fail 0 0x11)
    | .at_ (.slice c o) => load (h + if pos = .slice c then 0 else 1) (.slice c o) false (.slice c)
    | .at_ _ => some (.fail 0 0x74)
    | .virt =>
      match xlEngine s r.core r.mid r.handler a .rd with
      | .fault x _ => some (.fail (h + 1) x)
      | .miss => (engWalk s r.core r.mid a).map .wait
      | .ok (.dmem pa) d _ => load (h + 2) (.dmem pa) d (.steward (ownerOf s k.node pa))
      | .ok .. => some (.fail (h + 1) 0x74)

/-- A step that another module answers, once the packet has left this one: a transfer to the link router, the link hops, and one from
the ingress to the owner (R376). (DEDUCED, log entry 49.) -/
def carFar (s : State) (r : FabReq) (pos : CarPos) (dev : Nat) (remote : CaravanRemote) : Option CarStep :=
  match carRoute s r.prio pos dev with
  | none => none
  | some route =>
    let out := 1 + route.length
    if (carAway s r).any (fun e => !r.sent.contains e.1) then none
    else
      match remote with
      | .here => none
      | .answer v poi => if r.grant.isNone then none else some (.ok (out + 1) v poi (.far dev) s)
      | .refused cause =>
        if r.grant.isNone then some (.fail out 0x85) else if farCauses.contains cause then some (.fail out cause) else none

def carStep (s : State) (id : Nat) (remote : CaravanRemote) : Option State :=
  (reqOf s id).bind (fun r =>
    match r.kind with
    | .carav p offs mask n k budget poi none pos =>
      if n ≤ k ∨ !mayPerform s r.core r.mid ∨ linkLate s r then none
      else
        let a := p + (nth 0 offs k).signExtend 64 * 8
        let here := devOf a == myDev s
        let stop (cost cause : Nat) (s : State) : State :=
          let at_ := if here || cost == 0 then pos else .far (devOf a)
          if budget < cost then setCar s r p k 0 poi (some 0x73) at_ else setCar s r p k (budget - cost) poi (some cause) at_
        if !carOk a then some (stop 0 0x74 s)
        else if offOf a % 8 ≠ 0 then some (stop 0 0x10 s)
        else
          match (if here then (if remote == .here then carHere s r pos (offOf a) else none)
                 else if budget = 0 then (if remote == .here then some (.fail 0 0x73) else none)
                 else carFar s r pos (devOf a) remote) with
          | none => none
          | some (.wait t) => some t
          | some (.fail cost cause) => some (stop cost cause (engTold s r.core r.mid))
          | some (.ok cost v pz pos' t) =>
            if budget < cost then some (stop cost 0x73 s)
            else
              let q := v &&& mask
              let res := if !carOk q && decide (k + 1 < n) then some 0x74 else none
              some (tidyRoutes (setCar t r q (k + 1) (budget - cost) (poi || pz) res pos'))
    | _ => none)

def execCaravanStep (id : Nat) (remote : CaravanRemote) (s : State) : Out := eventO "CARAVAN_STEP" s (carStep s id remote)

/-- The packet is back: status word and result (R375, R376). -/
def carDeliver (s : State) (r : FabReq) (p : Word) (k budget : Nat) (poi : Bool) (res : Option Nat) : State :=
  let d := fabDst s r (carPair (BitVec.ofNat 7 r.tok))
  let low := nth 64 d.regs 1
  let s := dropMem (dropReq s r.id) r.core r.mid
  let s := onCore s r.core (fun c => consumeIf poi (if 64 ≤ low then c else { c with regs := c.regs.wS low p, pendS := c.pendS.erase low }))
  writeToken s r.core (nth 64 d.regs 0) 2 (tokenWord res 5 (k * 2 ^ 32 + budget * 2 ^ 24))

def execCaravanReturn (id : Nat) (s : State) : Out :=
  eventO "CARAVAN_RETURN" s ((reqOf s id).bind (fun r => match r.kind with
    | .carav p _ _ n k budget poi res pos =>
      if (res.isSome || k == n) && !linkLate s r then
        (match pos with
         | .far _ => (rxTake s r.prio (respFlits r)).map (fun s => carDeliver s r p k budget poi res)
         | _ => some (carDeliver s r p k budget poi res))
      else none
    | _ => none))

/-! ### Link time-outs (R356, R376) -/

/-- Is a Caravan's packet held at this module's router, no route to its next module having appeared (R356)? -/
def carHeld (s : State) (r : FabReq) : Bool :=
  (carAway s r).any (fun e => linkCause s (r.sent.contains e.1) e.2 r.at_ == 0x81)

/-- A request fails at the link time-out, by the cause that its route decides (R356, R376). (DEDUCED, log entry 48.) -/
def linkFail (s : State) (id cause : Nat) : Option State :=
  (reqOf s id).bind (fun r =>
    if !linkLate s r then none
    else
      match r.kind with
      | .carav p _ _ _ k budget poi _ _ =>
        if cause ≠ (if carHeld s r then 0x81 else 0x80) then none
        else if cause = 0x80 then some (carDeliver s r r.faddr k budget poi (some 0x80))
        else some (carDeliver s r p k budget poi (some 0x81))
      | .mcst .. | .rows .. => none
      | _ => if cause ≠ linkCause s (r.sent.contains 0) (devOf r.faddr) r.at_ then none else some (fabAnswer s r cause 0 false))

def execLinkNoRoute (id : Nat) (s : State) : Out := eventO "LINK_NO_ROUTE" s (linkFail s id 0x81)
/-- DEDUCED, log entry 48. -/
def execLinkTimeout (id : Nat) (s : State) : Out := eventO "LINK_TIMEOUT" s (linkFail s id 0x80)

/-! ### Multicast (R371) -/

/-- A member's status as kept: 256 x status + cause. -/
def memberCode (cause : Nat) : Nat :=
  if cause = 0 then 0
  else (if cause = 0x80 ∨ cause = 0x81 then 2 else if 0x18 ≤ cause ∧ cause ≤ 0x1C then 3 else 1) * 256 + cause

def insertMem (k : Core) (e : MemEnt) : Core :=
  { k with mem := k.mem.filter (fun o => decide (o.id < e.id)) ++ [e] ++ k.mem.filter (fun o => decide (e.id < o.id)) }

/-- The token of a multicast is written at its end, and is no answer of the entry that stands for its writes. -/
def tokenDst : LateDst := ⟨.none, [], 64, 0, false, 4, false⟩

/-- The payload is read once, before any member is written. -/
def mcstRead (s : State) (r : FabReq) (d : List Byte) (st : List (Option Nat)) : Option State :=
  let c := r.core
  let node := (coreAt s c).node
  if edgeHeld s c r.after [span (mSrc d) [] (mLen d) false] || ownBefore s c r.after || !jobMay s c r.after r.colour false then
    none
  else
    match engParts s c r.mid r.handler .rd (chunks (va48 (BitVec.ofNat 64 (mSrc d))) (mLen d)) with
    | .miss va => engWalk s c r.mid va
    | .hit _ (some x) =>
      some (setReq (engTold s c r.mid) r.id (fun q => { q with kind := .mcst d (some ([], [])) (st.map (fun _ => some (256 + x))) (st.map (fun _ => none)) }))
    | .hit src none =>
      (newGate s node src).map (fun t =>
        let l := cellsOf t node src
        let t := onFab t (fun h => { h with reqNext := h.reqNext + 1, reqs := h.reqs.filter (fun q => q.id != r.id) ++ [{ r with
          kind := .mcst d (some (l.map (·.1), l.map (·.2))) st (st.map (fun _ => none)), order := h.reqNext }] })
        onCore t c (fun k => insertMem k ⟨r.mid, r.colour, .fab false true true [] tokenDst, false, k.csr.cycle.toNat⟩))

/-- Member `m` moves on: at the own ingress it is checked, then its atoms perform one by one; another module answers it; or it fails
at the link time-out. (DEDUCED, log entry 48.) -/
def memberWrite (s : State) (r : FabReq) (d : List Byte) (pay : List Byte × List Bool) (st : List (Option Nat))
    (todo : List (Option (List Piece))) (m cause : Nat) : Option State :=
  let fa := mFaddr d m
  let note (s : State) (x : Nat) : State :=
    tidyRoutes (setReq s r.id (fun q => { q with kind := .mcst d (some pay) (st.set m (some (memberCode x))) (todo.set m none) }))
  let go (s : State) (ps : List Piece) : State :=
    setReq s r.id (fun q => { q with kind := .mcst d (some pay) st (todo.set m (some ps)) })
  if !(st[m]? == some none) || !jobMay s r.core r.after r.colour true then none
  else if linkLate s r then (if cause = linkCause s (r.sent.contains m) (devOf fa) r.at_ then some (note s cause) else none)
  else if devOf fa = myDev s then
    match nth none todo m with
    | none =>
      if !flowFirst s r then none
      else
        (ingressGate s (myDev s) (mGrant d m) (offOf fa) (mLen d) 1).map (fun s =>
          match ingressCheck s (myDev s) (mGrant d m) (offOf fa) (mLen d) 1 with
          | .error x => note s x
          | .ok ps => go (ingressNote s (mGrant d m) (offOf fa) (mLen d) 1) (atomPieces ps))
    | some [] => some (note s 0)
    | some (p :: ps) =>
      let i := mLen d - ((p :: ps).map (·.len)).sum
      (match writeGates s (coreAt s r.core).node false [p] with
       | .wait u => if u = s then none else some u
       | .go => some (go (putCells s (.fabric r.core r.colour r.id) (coreAt s r.core).node p (((pay.1.zip pay.2).drop i).take p.len)) ps))
  else if r.sent.contains m && (cause == 0 || farCauses.contains cause) then (rxTake s r.prio (respFlits r)).map (fun s => note s cause)
  else none

def execMcstMemberWrite (id m cause : Nat) (s : State) : Out :=
  eventO "MCST_MEMBER_WRITE" s ((reqOf s id).bind (fun r => match r.kind with
    | .mcst d none st _ => mcstRead s r d st
    | .mcst d (some pay) st todo => memberWrite s r d pay st todo m cause
    | _ => none))

/-- Every member has performed or failed: the token, then the trap where all failed. -/
def mcstDone (s : State) (r : FabReq) (st : List Nat) : State :=
  let bad := (st.filter (· != 0)).head?
  let low := mNum (match r.kind with
    | .mcst d _ _ _ => d
    | _ => []) * 2 ^ 32 + ((List.range st.length).map (fun i => nth 0 st i / 256 * 4 ^ i)).sum
  let s := writeToken (dropMem (dropReq s r.id) r.core r.mid) r.core r.tok 2 (tokenWord (bad.map (· % 256)) 8 low)
  if st.all (· != 0) then
    onCore s r.core (fun k => { k with postTrap := k.postTrap ++ [(k.level, 0x88, trec 0 r.tok false)] })
  else s

def execMcstEnd (id : Nat) (s : State) : Out :=
  eventO "MCST_END" s ((reqOf s id).bind (fun r => match r.kind with
    | .mcst _ (some _) st _ =>
      if st.all (·.isSome) && !unbanked s (.fabric r.core r.colour id) then some (mcstDone s r (st.filterMap (fun o => o))) else none
    | _ => none))

/-! ### The end of a CPUB (R269, R270) -/

/-- A virtual range that job `t` of core `c` writes meets the range of a CPUB, by the tables where its TLB does not hold the page. -/
def writesInto (s : State) (c t : Nat) (h : Bool) (j : Cpub) (va n : Nat) : Bool :=
  (pages (va % 2 ^ 48) n).any (fun e => match xlEngine s c t h (e.1 % 2 ^ 48) .wr with
    | .ok p _ _ => placesMeet p e.2 j.pl j.len
    | .miss => (match walk s (coreAt s c).csr.ctxid (e.1 % 2 ^ 48) with
      | .ok (l, leaf) => placesMeet (leafPlace (tlbEnt (coreAt s c).csr.ctxid (e.1 % 2 ^ 48) l leaf) (e.1 % 2 ^ 48)) e.2 j.pl j.len
      | .error _ => false)
    | .fault .. => false)

/-- A matrix job has still to write its progress: it may stop, has stopped, or clears what a resumed card holds (R223, R225). -/
def progressOwed (o : MxOp) : Bool :=
  o.rows == 0 && (o.cause.isSome || decide (o.prog < cSlabs o.card) || cResumed o.card)

/-- An engine job of the core, in a colour of the mask, has still to hand over a byte of the range (R269, R270): the core issues no
bundle behind its CPUB, so every such job stands before it. (DEDUCED, log entry 32.) -/
def jobsInto (s : State) (c : Nat) (j : Cpub) : Bool :=
  (cluster s (Config.clusterOf c)).jobs.any (fun p => p.core == c && p.cause.isNone && j.mask.getLsbD p.colour.toNat &&
    anyBelow (pRuns p.card - p.run) (fun i => writesInto s c p.after p.handler j (pDst p.card (p.run + i)) (pRun p.card))) ||
  (coreAt s c).mxq.any (fun o => j.mask.getLsbD o.colour.toNat && (match o.kind with
    | .mdrn => o.cause.isNone &&
        anyBelow (64 - o.rows) (fun i => writesInto s c o.after o.handler j (dRow o.card (o.rows + i)) (dRowBytes o.card))
    | .mjob => progressOwed o && writesInto s c o.after o.handler j (va48 (o.addr + 0x60)) 16
    | .mkat => false))

/-- A multicast of the core, in a colour of the mask, has still to write a member on this module that lies in the range (R269, R371). -/
def castsInto (s : State) (c : Nat) (j : Cpub) : Bool :=
  let meet (ps : List Piece) : Bool := ps.any (fun p => placesMeet p.pl p.len j.pl j.len)
  s.fab.reqs.any (fun r => r.core == c && j.mask.getLsbD r.colour.toNat && (match r.kind with
    | .mcst d _ st todo => (List.range (mNum d)).any (fun m => (nth none st m).isNone && devOf (mFaddr d m) == myDev s &&
        (match nth none todo m with
         | some ps => meet ps
         | none => (match ingressCheck s (myDev s) (mGrant d m) (offOf (mFaddr d m)) (mLen d) 1 with
           | .ok ps => meet ps
           | .error _ => false)))
    | _ => false))

/-- The writes a CPUB.X waits for have performed, those of the core's engine jobs and multicasts among them (R269, R270). -/
def execCpubEnd (c : Nat) (s : State) : Out :=
  let k := coreAt s c
  eventO "CPUB_END" s (k.cpub.bind (fun j =>
    if j.waits.any (fun w => k.mem.any (fun e => e.id == w && !e.acc)) || jobsInto s c j || castsInto s c j || leafHeld s c j then none
    else some (cpubEnd s c j)))

/-! ### Links and flow control (R352-R358) -/

/-- Two other modules of one row or column. -/
def farPair (s : State) (a b : Nat) : Bool :=
  decide (a < b) && decide (b < 64) && a != myDev s && b != myDev s && (a / 8 == b / 8 || a % 8 == b % 8)

/-- A link comes up: one of this module's in step 4 of a start or later (R416), or one between other modules. -/
def execFabricLinkUp (l : FabLink) (s : State) : Out :=
  match l with
  | .port port =>
    event "FABRIC_LINK_UP" (decide (port < 16) && !s.fab.up.getLsbD port &&
        (s.host.state == 2 || (s.host.state == 1 && decide (4 ≤ s.host.step)))) s
      (onFab s (fun h => { h with up := h.up ||| BitVec.ofNat 16 (2 ^ port) }))
  | .between a b =>
    event "FABRIC_LINK_UP" (farPair s a b && s.fab.farDown.contains (a, b)) s
      (onFab s (fun h => { h with farDown := h.farDown.filter (· != (a, b)) }))

/-- A link goes down: its buffers and routes with it; packets are replayed over the new route (R354). -/
def execFabricLinkDown (l : FabLink) (s : State) : Out :=
  match l with
  | .port port =>
    event "FABRIC_LINK_DOWN" (decide (port < 16) && s.fab.up.getLsbD port) s
      (reroute s (onFab s (fun h => { h with up := h.up &&& ~~~(BitVec.ofNat 16 (2 ^ port)), off := mclear h.off (8 * port) 8,
                                             rx := mclear h.rx (8 * port) 8, rxOff := mclear h.rxOff (8 * port) 8,
                                             starved := mput none h.starved port none })))
  | .between a b =>
    event "FABRIC_LINK_DOWN" (farPair s a b && !s.fab.farDown.contains (a, b)) s
      (reroute s (onFab s (fun h => { h with farDown := (a, b) :: h.farDown })))

def execFlowOff (port prio : Nat) (resp : Bool) (s : State) : Out :=
  event "FLOW_OFF" (portOn s port && decide (prio < 4) && mget 0 s.fab.off (offKey port prio resp) == 0) s
    (onFab s (fun h => { h with off := mput 0 h.off (offKey port prio resp) (s.now + 1) }))

/-- The port of the first hop without a detour for OFF. -/
def firstPort (s : State) (dev : Nat) : Option Nat := (pickRoute s (myDev s) dev).bind (portOf s)

/-- The buffer is ON again, and flows whose first hop it is choose their own route next. -/
def execFlowOn (port prio : Nat) (resp : Bool) (s : State) : Out :=
  event "FLOW_ON" (decide (prio < 4) && mget 0 s.fab.off (offKey port prio resp) != 0) s
    (onFab s (fun h => { h with
      off := mput 0 h.off (offKey port prio resp) 0,
      onAt := if resp then h.onAt else mput 0 h.onAt (flowKey port prio) s.now,
      detour := if resp then h.detour else h.detour.filter (fun e => !(e.1 % 4 == prio && firstPort s (e.1 / 4) == some port)) }))

/-- The fences of its core let a request leave: a member write, the fetch of slab rows, or the access itself (R247, R248). -/
def mayLeave (s : State) (r : FabReq) : Bool :=
  match r.kind with
  | .mcst .. => jobMay s r.core r.after r.colour true
  | .rows .. => (coreAt s r.core).mxq.any (fun o => o.kind == .mjob && o.after == r.mid && mxMay s r.core o.after o.at_ o.colour false)
  | _ => mayPerform s r.core r.mid

/-- Packets to other modules that stand at their routers, in the order of issue: request, member, module. One that its core still
holds back holds back the later ones of that core in its flow (R354, R369). -/
def waiting (s : State) : List (FabReq × Nat × Nat) :=
  let l := s.fab.reqs.flatMap (fun r =>
    ((openPackets s r).filter (fun m => !r.sent.contains m.1 && !linkLate s r)).map (fun m => (r, m)))
  let held := l.filter (fun w => !mayLeave s w.1)
  l.filter (fun w => mayLeave s w.1 && !held.any (fun o => decide (o.1.order < w.1.order) && o.1.core == w.1.core && o.1.prio == w.1.prio &&
    o.2.2 == w.2.2))

/-- The queue of a port at a priority. -/
def portQueue (s : State) (port prio : Nat) : List (FabReq × Nat × Nat) :=
  (waiting s).filter (fun w => w.1.prio == prio && routePort s w.2.2 prio == some port)

/-- A priority whose buffer is ON has a packet to send at the port. -/
def canSend (s : State) (port prio : Nat) : Bool :=
  mget 0 s.fab.off (offKey port prio false) == 0 && !(portQueue s port prio).isEmpty

/-- The starved packet that goes next at a port, while its buffer is ON (R358). -/
def starvedHead (s : State) (port : Nat) : Option (Nat × Nat) :=
  (mget none s.fab.starved port).filter (fun x => (waiting s).any (fun w => w.1.id == x.1 && w.2.1 == x.2 &&
    routePort s w.2.2 w.1.prio == some port && mget 0 s.fab.off (offKey port w.1.prio false) == 0))

/-- Room reserved for the responses of the packets in flight over a port. -/
def reserved (s : State) (port prio : Nat) : Nat :=
  (s.fab.reqs.map (fun r => ((outDevs s r).filter (fun d => r.prio == prio && routePort s d prio == some port)).length *
    respFlits r)).sum

/-- The head of the queue of some priority at the port has stood 2,048 cycles with its buffer ON (R358). -/
def starving (s : State) (port : Nat) : Option (Nat × Nat) :=
  (List.range 4).findSome? (fun prio =>
    match (portQueue s port prio).head? with
    | some (r, m, _) =>
      let since := max r.at_ (max (mget 0 s.fab.lastSend (flowKey port prio)) (mget 0 s.fab.onAt (flowKey port prio)))
      if mget 0 s.fab.off (offKey port prio false) = 0 ∧ since + 2048 ≤ s.now then some (r.id, m) else none
    | none => none)

/-- A packet leaves its router: the head of its queue, ahead of which no higher priority with its buffer ON stands, unless a head has
starved; room for its response is reserved, and the flow keeps its route (R354, R357, R358). -/
def sendPacket (s : State) (id m : Nat) : State :=
  match (waiting s).find? (fun w => w.1.id == id && w.2.1 == m) with
  | none => s
  | some (r, _, dev) =>
    match flowRoute s dev r.prio, routePort s dev r.prio with
    | some route, some port =>
      let first := match (starvedHead s port).orElse (fun _ => starving s port) with
        | some x => x == (id, m)
        | none => !(List.range 4).any (fun q => decide (r.prio < q) && canSend s port q)
      let head := ((portQueue s port r.prio).head?).any (fun w => w.1.id == id && w.2.1 == m)
      if first && head && canSend s port r.prio && decide (reserved s port r.prio + respFlits r ≤ 2560) then
        onFab (setReq s id (fun q => { q with sent := q.sent ++ [m] })) (fun h => { h with
          routes := mput [] h.routes (flowKey dev r.prio) route,
          lastSend := mput 0 h.lastSend (flowKey port r.prio) s.now,
          starved := mput none h.starved port none })
      else s
    | _, _ => s

/-- It goes next at the port. (DESIGN CHOICE, log entry 120.) -/
def execFlitStarvation (port : Nat) (s : State) : Out :=
  eventO "FLIT_STARVATION" s (if portOn s port && (starvedHead s port).isNone then
    (starving s port).map (fun x => onFab s (fun h => { h with starved := mput none h.starved port (some x) })) else none)

/-- A flow with no packet in flight, its first hop OFF for 1,024 cycles, takes a detour (R354). -/
def execFlowDetour (dev prio : Nat) (s : State) : Out :=
  let t := mget 0 s.fab.off (offKey ((firstPort s dev).getD 16) prio false)
  event "FLOW_DETOUR"
    (decide (dev < 64) && decide (prio < 4) && dev != myDev s && decide (t ≠ 0) && decide (t + 1023 ≤ s.now) &&
      !mget false s.fab.detour (flowKey dev prio) && !inFlight s (flowKey dev prio) && (routeBy s (detourHop s) (myDev s) dev).isSome) s
    (onFab s (fun h => { h with detour := mput false h.detour (flowKey dev prio) true }))

/-- Booked cores count the cycles that the owning context runs and those they stand idle (R342, R343). -/
def countBookings (s : State) : State :=
  s.sched.bookings.foldl (fun s e =>
    if !e.2.en then s
    else
      let cs := ((List.range 24).filter (fun cl => e.2.clus.getLsbD cl)).flatMap (usableCores s)
      let own (c : Nat) : Bool := match (coreAt s c).node.bind (nodeOf s) with
        | some n => n.ctx == e.2.ctx
        | none => false
      setBooking s e.1 (fun b => { b with use := (b.use + 2 * (cs.filter own).length) % 2 ^ 64,
                                          idle := (b.idle + 2 * (cs.filter (fun c => (coreAt s c).node.isNone)).length) % 2 ^ 64 })) s

/-- One ns passes: two core cycles (R5, R352). (DESIGN CHOICE, log entry 3.) -/
def execFtimeTick (s : State) : Out :=
  event "FTIME_TICK" true s (onFab { countBookings s with now := s.now + 2 } (fun h => { h with ftime := h.ftime + 1 }))

end Sys2Proof.Machine
end

