-- ==== Sys2Proof/Machine/MatrixEvents.lean ====
section
/-! DEFINITION. MatrixEvents.lean: the array's jobs slab by slab (R216, R220, R223-R225), drains (R214, R228, R229), known-answer
tiles (R236), and writes as they perform (R241). -/

namespace Sys2Proof.Machine
open Sys2Proof

def MxOp.writer (o : MxOp) (c : Nat) : Writer := .job c o.colour o.after

/-- The operation at the head of the array, and of the drain unit (R216). -/
def arrayHead (k : Core) : Option MxOp := k.mxq.find? (fun o => o.kind != .mdrn)
def drainHead (k : Core) : Option MxOp := k.mxq.find? (fun o => o.kind == .mdrn)

/-- Change an operation of the queue, named by its place in the order of issue. -/
def setMx (s : State) (c : Nat) (o : MxOp) (f : MxOp → MxOp) : State :=
  onCore s c (fun k => { k with mxq := k.mxq.map (fun e => if e.after == o.after && e.kind == o.kind then f e else e) })
def dropMx (s : State) (c : Nat) (o : MxOp) : State :=
  onCore s c (fun k => { k with mxq := k.mxq.filter (fun e => !(e.after == o.after && e.kind == o.kind)) })

def clearBusy (k : Core) (ts : List Nat) : Core := { k with busy := k.busy &&& ~~~(tileMask ts) }
def orFps (k : Core) (fl : Fl) : Core := { k with csr := { k.csr with fps := k.csr.fps ||| fl } }

/-! ### Operands of a slab (R220, R223) -/

/-- Indices of slab ordinal `i`: j, i, k2, k1, k0, and the ordinal in K order. -/
structure SlabIx where
  j : Nat
  i : Nat
  k2 : Nat
  k1 : Nat
  k0 : Nat
  s : Nat
deriving DecidableEq, Repr

def slabIx (d : List Byte) (n : Nat) : SlabIx :=
  let r := n % cPer d
  let t := n / cPer d
  ⟨t / cTm d, t % cTm d, r / (cNk0 d * cNk1 d), r / cNk0 d % cNk1 d, r % cNk0 d, r⟩

/-- 64-bit address of slab row r of A, and of slab column n of B. -/
def aAddr (d : List Byte) (x : SlabIx) (r : Nat) : Word :=
  BitVec.ofNat 64 (d64 d 0) + BitVec.ofInt 64 ((x.i : Int) * dI d 0x1C 4 + (x.k2 : Int) * dI d 0x18 4 +
    (x.k1 : Int) * dI d 0x14 4 + (x.k0 : Int) * dI d 0x10 4 + (r : Int) * dI d 0x20 4)
def bAddr (d : List Byte) (x : SlabIx) (n : Nat) : Word :=
  BitVec.ofNat 64 (d64 d 8) + BitVec.ofInt 64 ((x.j : Int) * dI d 0x30 4 + (x.k2 : Int) * dI d 0x2C 4 +
    (x.k1 : Int) * dI d 0x28 4 + (x.k0 : Int) * dI d 0x24 4 + (n : Int) * dI d 0x34 4)

/-- Alignment of an operand: an IEEE or integer element to its width, a block to a byte (R220). -/
def slabAlign (t : ETy) : Nat := if t.isB then 1 else t.w / 8

/-- What one operand fetch gives: rows with their poison, a cause, or nothing while it must wait. -/
inductive Fetch where
  | rows (l : List (List Byte × Bool)) (s : State)
  | fault (cause : Nat)
  | miss (va : Nat)
  | wait
deriving DecidableEq, Repr

/-- Local rows: alignment, translation, then the reads, row by row (R220, R225). A row both misaligned and refused is misaligned.
(DEDUCED, log entry 41; DESIGN CHOICE, log entry 126.) -/
def localRows (s : State) (c j : Nat) (h : Bool) (align len : Nat) : List Word → Fetch
  | [] => .rows [] s
  | a :: t =>
    if a.toNat % align ≠ 0 then .fault 0x10
    else
      match engParts s c j h .rd (chunks (va48 a) len) with
      | .miss va => .miss va
      | .hit _ (some x) => .fault x
      | .hit ps none =>
        match newGate s (coreAt s c).node ps with
        | none => .wait
        | some u =>
          match localRows u c j h align len t with
          | .rows l v => .rows (readPieces u (coreAt u c).node ps :: l) v
          | r => r

/-- The request that reads the slab rows of job `j` of core `c` from other modules (R367). -/
def rowsReq (s : State) (c j : Nat) : Option FabReq :=
  s.fab.reqs.find? (fun r => r.core == c && r.mid == j && (match r.kind with
    | .rows .. => true
    | _ => false))

/-- Rows read through a grant of module `dev` (R367): at this module's own ingress, or as another module answers once the 64 packets
from `base` of the job's request have been sent. An offset beyond 48 bits lies in no window (R361). (DEDUCED, log entry 43.) -/
def grantRows (s : State) (c j base dev : Nat) (g : Word) (align len : Nat) (far : List Byte) (poi : List Bool) (as : List Word) : Fetch :=
  match as with
  | [] => .rows [] s
  | a :: t =>
    let off := (a - BitVec.ofNat 64 (dev * 2 ^ 56)).toNat
    if off % align ≠ 0 then .fault 0x10
    else if dev ≠ myDev s then
      if far.length ≠ 64 * len || poi.length ≠ 64 || decide (2 ^ 48 < off + len) ||
          !(rowsReq s c j).any (fun r => (List.range 64).all (fun i => r.sent.contains (base + i))) then .wait
      else
        match grantRows s c j base dev g align len far poi t with
        | .rows l v => .rows ((((far.drop ((63 - t.length) * len)).take len), nth false poi (63 - t.length)) :: l) v
        | r => r
    else
      match ingressGate s (myDev s) g off len 0 with
      | none => .wait
      | some s =>
        match ingressCheck s (myDev s) g off len 0 with
        | .error x => .fault x
        | .ok ps =>
          match newGate s (coreAt s c).node ps with
          | none => .wait
          | some u =>
            match grantRows (ingressNote u g off len 0) c j base dev g align len far poi t with
            | .rows l v => .rows (readPieces u (coreAt u c).node ps :: l) v
            | r => r

/-- One operand's 64 rows, from the base of the card. -/
def operand (s : State) (c : Nat) (o : MxOp) (g : Nat) (gr base : Word) (t : ETy) (first : Nat) (far : List Byte) (poi : List Bool)
    (as : List Word) : Fetch :=
  if g = 0 then localRows s c o.after o.handler (slabAlign t) (slabBytes t) as
  else grantRows s c o.after first (devOf base) gr (slabAlign t) (slabBytes t) far poi as

/-- The bases of the operands of a card. -/
def aBase (d : List Byte) : Word := BitVec.ofNat 64 (d64 d 0)
def bBase (d : List Byte) : Word := BitVec.ofNat 64 (d64 d 8)

/-- The other modules that hold the operands of a job (R367). -/
def rowDevs (s : State) (d : List Byte) : Option Nat × Option Nat :=
  let dev (g : Nat) (base : Word) : Option Nat := if g = 0 ∨ devOf base = myDev s then none else some (devOf base)
  (dev (cAg d) (aBase d), dev (cBg d) (bBase d))

/-- The reads of slab rows of job `j` are over. -/
def dropRows (s : State) (c j : Nat) : State := match rowsReq s c j with
  | some r => dropReq s r.id
  | none => s

/-- The operand fetcher asks other modules for the rows of the slab that comes next: one packet for each row (R355, R367). -/
def askRows (s : State) (c : Nat) (o : MxOp) : State :=
  let s := dropRows s c o.after
  let w := rowDevs s o.card
  if cSlabs o.card ≤ o.prog ∨ w = (none, none) then s
  else onFab s (fun h => { h with reqNext := h.reqNext + 1, reqs := h.reqs ++ [
    { id := h.reqNext, core := c, mid := o.after, tok := 64, kind := .rows w.1 w.2, faddr := 0, grant := none,
      prio := linkPrio s (coreAt s c).node, at_ := s.now, colour := o.colour, after := o.after, handler := o.handler, resp := none,
      sent := [], order := h.reqNext }] })

/-- The 16 factors of a slab row (R24, R27, R223). -/
def factors (t : ETy) (bs : List Byte) : List FVal :=
  let n := leNat bs
  (List.range 16).map (fun i =>
    if t.isB then (blkElem t n i).getD .absent
    else
      let e := n / 2 ^ (t.w * i) % 2 ^ t.w
      if t == .i8 then (if isAbsent .i8 e then .absent else
        let v := ival .i8 e
        .fin (decide (v < 0)) v.natAbs 0)
      else fval t e)

/-- A scale code as a factor (R20). -/
def scaleV (bs : List Byte) : FVal :=
  match s12 (leNat bs % 4096) with
  | none => .absent
  | some (m, e) => .fin false m e

/-- The operands of a slab: factors of 64 rows and 64 columns, their scales, the consumptions, and the state after the reads. -/
structure Slab where
  a : List (List FVal)
  b : List (List FVal)
  sa : List (List FVal)
  sb : List (List FVal)
  poi : Nat
  st : State
deriving Repr

inductive SlabRes where
  | ok (x : Slab)
  | fault (cause : Nat)
  | miss (va : Nat)
  | wait
deriving Repr

def scaleRows (n : Nat) (l : List (List Byte × Bool)) : List (List FVal) :=
  match l with
  | [] => List.replicate 64 []
  | r :: _ => (List.range n).map (fun i => [scaleV ((r.1.drop (2 * i)).take 2)])

/-- Fetch the operands of the head job's next slab. (DEDUCED, log entry 41; DEDUCED, log entry 42; DEDUCED, log entry 43.) -/
def fetchSlab (s : State) (c : Nat) (o : MxOp) (far : FarOperands) : SlabRes :=
  let d := o.card
  let x := slabIx d o.prog
  let sc (s : State) (base idx : Nat) : Fetch :=
    if base = 0 then .rows [] s else localRows s c o.after o.handler 2 128 [BitVec.ofNat 64 (base + 128 * idx)]
  match operand s c o (cAg d) o.grA (aBase d) (cA d) 0 far.a far.pa ((List.range 64).map (aAddr d x)) with
  | .fault e => .fault e
  | .miss v => .miss v
  | .wait => .wait
  | .rows la s =>
    match operand s c o (cBg d) o.grB (bBase d) (cB d) 64 far.b far.pb ((List.range 64).map (bAddr d x)) with
    | .fault e => .fault e
    | .miss v => .miss v
    | .wait => .wait
    | .rows lb s =>
      match sc s (cAscl d) x.i with
      | .fault e => .fault e
      | .miss v => .miss v
      | .wait => .wait
      | .rows lsa s =>
        match sc s (cBscl d) x.j with
        | .fault e => .fault e
        | .miss v => .miss v
        | .wait => .wait
        | .rows lsb s =>
          .ok ⟨la.map (fun r => factors (cA d) r.1), lb.map (fun r => factors (cB d) r.1), scaleRows 64 lsa, scaleRows 64 lsb,
            ((la ++ lb ++ lsa ++ lsb).filter (·.2)).length, s⟩

/-! ### Adding a slab -/

/-- The products of positions [lo, hi) of element (r, n). -/
def products (x : Slab) (r n lo hi : Nat) : List FVal :=
  (List.range (hi - lo)).map (fun t =>
    prodV ([nth .absent (nth [] x.a r) (lo + t), nth .absent (nth [] x.b n) (lo + t)] ++ nth [] x.sa r ++ nth [] x.sb n))

/-- Add chunks to one element: value, count, flags. -/
def addChunks (t : ETy) (v n : Nat) (cs : List (List FVal)) : Nat × Nat × Fl :=
  cs.foldl (fun a ps =>
    let r := accChunk t a.1 a.2.1 ps
    (r.1, r.2.1, a.2.2 ||| r.2.2)) (v, n, 0)

/-- Add a slab to its output tile (R44, R45, R223). -/
def addSlab (k : Core) (d : List Byte) (ix : SlabIx) (x : Slab) : Core × Fl :=
  let hi := min 16 (cKext d - 16 * ix.s)
  let f64 := cF64 d
  let t := cT0 d + (if f64 then 2 else 1) * (ix.i * cTn d + ix.j)
  let chunk (r n : Nat) : List (List FVal) :=
    if f64 then (List.range 4).map (fun q => products x r n (min hi (4 * q)) (min hi (4 * q + 4))) else [products x r n 0 hi]
  (List.range 64).foldl (fun a r =>
    (List.range 64).foldl (fun (a : Core × Fl) n =>
      if f64 then
        let y := addChunks .f64 (pairV a.1 (pIx t r n)) (tileC a.1 (pCx t r n)) (chunk r n)
        (putTileC (putPairV a.1 (pIx t r n) y.1) (pCx t r n) y.2.1, a.2 ||| y.2.2)
      else
        let y := addChunks .f32 (tileV a.1 (tIx t r n)) (tileC a.1 (tIx t r n)) (chunk r n)
        (putTileC (putTileV a.1 (tIx t r n) y.1) (tIx t r n) y.2.1, a.2 ||| y.2.2)) a) (k, 0)

/-! ### The array -/

/-- The head job starts: no edge, no own-slice store before it still to perform; ZERO clears its tiles (R209, R216, R223). -/
def mjobStart (s : State) (c : Nat) : Option State :=
  (arrayHead (coreAt s c)).bind (fun o =>
    if o.kind != .mjob || o.started || edgeHeld s c o.after (mxFoot o) || ownBefore s c o.after then none
    else
      let t := setMx s c o (fun e => { e with started := true, since := s.now })
      some (askRows (if cZero o.card && !cResumed o.card then
        onCore t c (fun k => (cTiles o.card).foldl (fun k n => clearTiles k n 1) k) else t) c o))

def execMjobStart (c : Nat) (s : State) : Out := eventO "MJOB_START" s (mjobStart s c)

/-- The running job and its next slab. -/
def runningJob (s : State) (c : Nat) : Option MxOp :=
  (arrayHead (coreAt s c)).filter (fun o => o.kind == .mjob && o.started)

/-- DESIGN CHOICE, log entry 29. -/
def slabEnd (s : State) (c : Nat) (far : FarOperands) : Option State :=
  (runningJob s c).bind (fun o =>
    if cSlabs o.card ≤ o.prog ∨ o.cause.isSome ∨ !mxMay s c o.after o.at_ o.colour false then none
    else
      match fetchSlab s c o far with
      | .ok x =>
        let r := addSlab (coreAt x.st c) o.card (slabIx o.card o.prog) x
        let k := (List.range x.poi).foldl (fun k _ => consume k) r.1
        let w := rowDevs s o.card
        let took := (w.1.toList ++ w.2.toList).foldl (fun u _ => u.bind (fun u => rxTake u (linkPrio s (coreAt s c).node) 192))
          (some (setCore x.st c k))
        took.map (fun u => askRows (setMx u c o (fun e =>
          { e with prog := e.prog + 1, slabs := e.slabs + 1, flags := e.flags ||| r.2, since := s.now })) c { o with prog := o.prog + 1 })
      | .miss va => engWalk s c o.after va
      | _ => none)

def execSlabEnd (c : Nat) (far : FarOperands) (s : State) : Out := eventO "SLAB_END" s (slabEnd s c far)

/-- Write the 16 progress bytes of a job's card (R223, R225): the state, or the cause that refuses it. -/
def progressWrite (s : State) (c : Nat) (o : MxOp) (bs : List Byte) : Except Nat Gate × State :=
  let node := (coreAt s c).node
  match engParts s c o.after o.handler .wr (chunks (va48 (o.addr + 0x60)) 16) with
  | .miss va => (.ok (.wait (askWalk s c (some o.after) va)), s)
  | .hit _ (some x) => (.error x, engTold s c o.after)
  | .hit ps none =>
    match writeGates s node true ps with
    | .wait u => (.ok (.wait u), s)
    | .go => (.ok .go, putAll (o.writer c) node ps (bs.map (fun b => (b, false))) s)

/-- A matrix job ends: busy bits, flags, then the token (R223-R225). -/
def mjobToken (s : State) (c : Nat) (o : MxOp) (cause : Option Nat) : State :=
  let s := onCore (dropMx (engTold (dropRows s c o.after) c o.after) c o) c (fun k => orFps (clearBusy k (cTiles o.card)) o.flags)
  writeToken s c o.tok 3 (tokenWord cause 2 o.slabs)

/-- The card write that ends a job, once; then its token, when the write has performed at DEVICE (R252). -/
def mjobFinish (s : State) (c : Nat) (o : MxOp) (cause : Option Nat) (bs : Option (List Byte)) : Option State :=
  if o.rows = 0 then
    match bs with
    | none => some (mjobToken s c o cause)
    | some bs =>
      if !mxMay s c o.after o.at_ o.colour true then none
      else
        match progressWrite s c o bs with
        | (.error x, t) => some (setMx t c o (fun e => { e with rows := 1, cause := some x }))
        | (.ok (.wait u), _) => some u
        | (.ok .go, t) => some (setMx t c o (fun e => { e with rows := 1, cause := cause }))
  else if unbanked s (o.writer c) then none else some (mjobToken s c o o.cause)

def execMjobEnd (c : Nat) (s : State) : Out :=
  eventO "MJOB_END" s ((runningJob s c).bind (fun o =>
    if cSlabs o.card ≤ o.prog then mjobFinish s c o none (if cResumed o.card then some (List.replicate 16 0) else none) else none))

/-- A fault in fetching an operand stops the job before its slab (R225): its own, or a remote module's (R367). -/
def mjobStop (s : State) (c : Nat) (far : Option Nat) : Option State :=
  (runningJob s c).bind (fun o =>
    if cSlabs o.card ≤ o.prog then none
    else if o.rows ≠ 0 then mjobFinish s c o o.cause none
    else
      let go (x : Nat) : Option State := mjobFinish s c o (some x) (some (cProgress o.card o.prog x))
      match o.cause with
      | some x => go x
      | none =>
        let d := o.card
        match far, rowsReq s c o.after with
        | some x, some q =>
          let sent (dev : Nat) : Bool := (openPackets s q).any (fun m => m.2 == dev && q.sent.contains m.1)
          let devs := (openPackets s q).map (·.2)
          if farCauses.contains x && devs.any sent then
            (rxTake s q.prio 1).bind (fun s => mjobFinish s c o (some x) (some (cProgress o.card o.prog x)))
          else if devs.any (fun dev => x == linkCause s (sent dev) dev q.at_ && linkLate s q) then go x
          else none
        | some _, none => none
        | none, _ =>
          match fetchSlab s c o ⟨List.replicate (64 * slabBytes (cA d)) 0, List.replicate (64 * slabBytes (cB d)) 0,
              List.replicate 64 false, List.replicate 64 false⟩ with
          | .fault x => go x
          | _ => none)

def execMjobFaultStop (c : Nat) (far : Option Nat) (s : State) : Out := eventO "MJOB_FAULT_STOP" s (mjobStop s c far)

/-! ### Known-answer tiles (R236) -/

/-- The signature of a correct array: sums by column first, since (r + 1) C[r][n] adds over n. -/
def katSig : BitVec 24 :=
  let a (r k : Nat) : Int := ((r + k) % 8 : Nat) - 3
  let bs (k : Nat) : Int := ((List.range 64).map (fun n => (((n + 2 * k) % 4 : Nat) : Int) - 1)).sum
  BitVec.ofInt 24 ((List.range 64).map (fun (r : Nat) => ((r : Int) + 1) * ((List.range 16).map (fun (k : Nat) => a r k * bs k)).sum)).sum

/-- A known-answer product ends; `fault` is what a defective array adds to the signature. -/
def execMkatEnd (c : Nat) (fault : BitVec 24) (s : State) : Out :=
  eventO "MKAT_END" s ((arrayHead (coreAt s c)).bind (fun o =>
    if o.kind != .mkat then none
    else
      let t := dropMx s c o
      if katSig ^^^ fault = o.sig then some t
      else
        let t := onSched (rasLog (onCore t c katMark) 0x53 1 c) (fun h => { h with coreTest := (h.coreTest ++ [c]).eraseDups })
        some (match (coreAt t c).node with
          | some id => onNode t id (fun n => { n with testWait := (n.testWait ++ [TestKey.core c]).eraseDups })
          | none => t)))

/-! ### Drains (R214, R228, R229) -/

/-- The drain unit reads the tile or pair, row by row: elements with their counts. -/
def drainElems (k : Core) (o : MxOp) : List (BitVec 64 × Nat) :=
  (List.range 4096).map (fun i =>
    let r := i / 64
    let n := i % 64
    if dSrc64 o.card then (BitVec.ofNat 64 (pairV k (pIx o.tile r n)), tileC k (pCx o.tile r n))
    else (BitVec.ofNat 64 (tileV k (tIx o.tile r n)), tileC k (tIx o.tile r n)))

/-- The tile has been read: it is free, and zeroed with ZERO. Own-slice accesses issued before come first (R190, R238). -/
def drainRead (s : State) (c : Nat) : Option State :=
  (drainHead (coreAt s c)).bind (fun o =>
    if o.started || edgeHeld s c o.after (mxFoot o) || ownBefore s c o.after then none
    else
      let ts := dTiles o.card o.tile
      let t := setMx s c o (fun e => { e with started := true, since := s.now, buf := drainElems (coreAt s c) o })
      some (onCore t c (fun k =>
        clearBusy (if dOpt o.card 5 then clearTiles k o.tile ts.length else k) ts)))

def execDrainReadEnd (c : Nat) (s : State) : Out := eventO "DRAIN_READ_END" s (drainRead s c)

/-- A finite exact value: sign, numerator, denominator, exponent. -/
structure ExactQ where
  neg : Bool
  num : Nat
  den : Nat
  e : Int
deriving DecidableEq, Repr

/-- Exact sum of a quotient and a dyadic; the sign of a zero sum by R39. -/
def sumQ (rm : Rm) (x : ExactQ) (neg : Bool) (m : Nat) (e : Int) : ExactQ :=
  let lo := min x.e e
  let a := signedM x.neg (x.num * 2 ^ (x.e - lo).toNat)
  let b := signedM neg (m * x.den * 2 ^ (e - lo).toNat)
  if a + b = 0 then ⟨zeroSign rm (x.num == 0 && m == 0) x.neg neg, 0, 1, 0⟩
  else ⟨decide (a + b < 0), (a + b).natAbs, x.den, lo⟩

/-- One rounding of the exact value, with the clamp of R228. -/
def drainRound (t : ETy) (rm : Rm) (clamp : Bool) (x : ExactQ) : Nat × Fl :=
  if x.num = 0 then (signBit t x.neg, 0)
  else
    let r := roundQ t rm x.neg x.num x.den x.e
    if clamp && r.1 == infBits t x.neg then (maxFin t x.neg, (r.2 &&& ~~~fOF) ||| fNX) else r

/-- One element (R228): none leaves the destination word unchanged. `dv` is the destination word with ACC. A tile word with a count
whose bits are the absent code gives absent. (DESIGN CHOICE, log entry 129.) -/
def drainElem (o : MxOp) (v : BitVec 64) (n : Nat) (dv : Option Nat) : Option Nat × Fl :=
  let d := o.card
  let t := dFmt d
  let rm := rmOf o.rm
  let sc := if dOpt d 3 then s12 o.scale.toNat else some (1, 0)
  match (if n = 0 then none else sc) with
  | none => (if dv.isSome then none else some (fill t), 0)
  | some (sm, se) =>
    let zeroSc := dOpt d 3 && sm == 0
    let w := match dv with
      | some b => fval t b
      | none => .fin false 0 0
    let acc := dv.isSome
    if acc && w == .absent then (some (fill t), 0)
    else
      match fval (if dSrc64 d then .f64 else .f32) v.toNat with
      | .absent => (if acc then none else some (fill t), 0)
      | .snan => (some (dnan t), fNV)
      | .qnan => (some (dnan t), if w == .snan then fNV else 0)
      | .inf s =>
        if zeroSc then (some (dnan t), fNV)
        else
          (match w with
           | .snan => (some (dnan t), fNV)
           | .qnan => (some (dnan t), 0)
           | .inf s' => if s == s' then (some (infBits t s), 0) else (some (dnan t), fNV)
           | _ => (some (infBits t s), 0))
      | .fin s m e =>
        let q : ExactQ := ⟨s, m * sm, if dOpt d 1 then n else 1, e + se⟩
        (match w with
         | .snan => (some (dnan t), fNV)
         | .qnan => (some (dnan t), 0)
         | .inf s' => (some (infBits t s'), 0)
         | .fin s' m' e' =>
           let r := drainRound t rm (dOpt d 2) (if acc then sumQ rm q s' m' e' else q)
           (some r.1, r.2)
         | .absent => (some (fill t), 0))

/-- A row of a drain with ACC that reaches the instruction store, its running half too (R229). -/
def accInStore (s : State) (c : Nat) (d : List Byte) (a : Nat) : Bool :=
  dAcc d && (chunks a (dRowBytes d)).any (fun p => match window s (coreAt s c).node c (p.1 % 2 ^ 48) with
    | .at_ (.ist ..) => true
    | _ => false)

/-- The pieces of destination row r, or the cause that stops the drain (R229). A row both misaligned and refused is misaligned. (DESIGN
CHOICE, log entry 126.) -/
def drainPieces (s : State) (c : Nat) (o : MxOp) (r : Nat) : EngParts :=
  let d := o.card
  let a := dRow d r
  if a % ((dFmt d).w / 8) ≠ 0 then .hit [] (some 0x10)
  else if accInStore s c d a then .hit [] (some 0x14)
  else engParts s c o.after o.handler (if dAcc d then .rw else .wr) (chunks a (dRowBytes d))

/-- The place of each byte of pieces. -/
def placesOf (ps : List Piece) : List (Place × Bool) :=
  ps.flatMap (fun p => (List.range p.len).map (fun i => (p.pl.add i, p.disc)))

/-- The next row of the running drain (R229). The read half of a row is one operation: it counts one consumption however many of its
atoms are poisoned. (DESIGN CHOICE, log entry 112.) ACC on a system page reads and writes host memory on every memory type. (DESIGN CHOICE,
log entry 127.) -/
def drainRow (s : State) (c : Nat) : Option State :=
  (drainHead (coreAt s c)).bind (fun o =>
    if !o.started || o.cause.isSome || decide (64 ≤ o.rows) || !mxMay s c o.after o.at_ o.colour true ||
        (dAcc o.card && !mxMay s c o.after o.at_ o.colour false) then none
    else
      let node := (coreAt s c).node
      match drainPieces s c o o.rows with
      | .miss va => engWalk s c o.after va
      | .hit _ (some x) => some (setMx (engTold s c o.after) c o (fun e => { e with cause := some x }))
      | .hit ps none =>
        match (if dAcc o.card then newGate s node ps else some s) with
        | none => none
        | some t =>
          match writeGates t node true ps with
          | .wait u => some u
          | .go =>
            let b := (dFmt o.card).w / 8
            let row := (o.buf.drop (64 * o.rows)).take 64
            let pls := placesOf ps
            let old (i : Nat) : List Byte × Bool :=
              let p := nth (Place.dmem 0, false) pls (b * i)
              readPlace t node p.1 b p.2
            let es := (List.range 64).map (fun i =>
              let x := nth (0, 0) row i
              drainElem o x.1 x.2 (if dAcc o.card then some (leNat (old i).1) else none))
            let poi := dAcc o.card && (List.range 64).any (fun i => (old i).2)
            let put (u : State) (i : Nat) : State :=
              match (nth (none, 0) es i).1 with
              | some v => writePlace u (o.writer c) node (nth (Place.dmem 0, false) pls (b * i)).1 (natLe b v) (dAcc o.card && (old i).2)
              | none => u
            let u := if dAcc o.card then (List.range 64).foldl put t
              else writePieces t (o.writer c) node ps (es.flatMap (fun e => natLe b (e.1.getD 0))) false
            some (setMx (onCore u c (consumeIf poi)) c o (fun e =>
              { e with rows := e.rows + 1, bytes := e.bytes + dRowBytes o.card, since := s.now,
                       flags := e.flags ||| es.foldl (fun a x => a ||| x.2) 0 })))

/-- A drain ends: every write banked, the flags, the token (R228, R229, R250). -/
def mdrnEnd (s : State) (c : Nat) : Option State :=
  (drainHead (coreAt s c)).bind (fun o =>
    if !o.started || (o.cause.isNone && decide (o.rows < 64)) || unbanked s (o.writer c) then none
    else
      some (writeToken (onCore (dropMx s c o) c (fun k => orFps k o.flags)) c o.tok 3 (tokenWord o.cause 3 o.bytes)))

def execMdrnEnd (c : Nat) (s : State) : Out := eventO "MDRN_END" s (mdrnEnd s c)

/-- One access has not completed within 2^20 cycles (R225, R229): the job or drain stops with MATRIX_TIMEOUT. -/
def execMatrixTimeout (c : Nat) (drain : Bool) (s : State) : Out :=
  let k := coreAt s c
  eventO "MATRIX_TIMEOUT" s ((if drain then drainHead k else runningJob s c).bind (fun o =>
    let busy := if drain then decide (o.rows < 64) else decide (o.prog < cSlabs o.card) && o.rows == 0
    if o.started && o.cause.isNone && busy && decide (o.since + Config.accessTimeout ≤ s.now) then
      let ps := if drain then (match drainPieces s c o o.rows with
        | .hit ps _ => ps
        | .miss _ => []) else []
      some (endWaits (setMx (dropRows s c o.after) c o (fun e => { e with cause := some 0x52 })) (coreAt s c).node ps) else none))

/-! ### Writes perform (R241, R244) -/

/-- A store of core `c` performs at its destination, or asks for what it waits for. -/
def storePerform (s : State) (c id : Nat) : Option State :=
  let k := coreAt s c
  (memEnt k id).bind (fun e =>
    match e.op with
    | .store p bs nib =>
      if !mayPerform s c id then none
      else
        match writeGate s k.node true p.pl with
        | .wait u => if u = s then none else some u
        | .go => some (settle (performStore s (.core c id e.colour) k.node e.colour p bs nib false) c id p)
    | .spill p bs =>
      if mayPerform s c id then some (settle (writePlace s (.core c id e.colour) k.node p.pl bs false) c id p) else none
    | _ => none)

/-- Entry `i` of the write queues is banked: its row stands open for the hosts (R241, R288). -/
def queueBank (s : State) (i : Nat) : Option State :=
  (s.dram.wq[i]?).bind (fun e =>
    if bankable s.dram i then (hostOpen s (e.loc / 32)).map (fun t => bankEntry t i) else none)

/-- A write-combining buffer leaves when it is full or needed (R258). -/
def bufferOut (s : State) (port i : Nat) : Option State :=
  (s.host.wcb[i]?).bind (fun b =>
    if b.port == port && (b.bytes.length == 64 || bufNeeded s b.colours) then some (emitBuf s i) else none)

def execWritePerformed (src : WriteSource) (s : State) : Out :=
  eventO "WRITE_PERFORMED" s (match src with
    | .core c id => storePerform s c id
    | .bank i => queueBank s i
    | .porter cl j => porterRun s cl j
    | .drain c => drainRow s c
    | .combine port i => bufferOut s port i)

end Sys2Proof.Machine
end

