-- ==== Sys2Proof/Machine/StewardOps.lean ====
section
/-! DEFINITION. StewardOps.lean: how a Steward bundle executes (R76-R78, R302-R305): ports, guards, stalls, halts, and the
frame a move runs in. -/

namespace Sys2Proof.Machine
open Sys2Proof

/-- DESIGN CHOICE, log entry 6. -/
def port (t : Steward) (p : Nat) : Word := mget 0 t.ports p
def setPort (t : Steward) (p : Nat) (v : Word) : Steward := { t with ports := mput 0 t.ports p v }
def eng (t : Steward) (e : Nat) : Engine := t.eng.getD e Engine.idle
def setEng (t : Steward) (e : Nat) (f : Engine → Engine) : Steward := { t with eng := t.eng.modify e f }
def engPort (e k : Nat) : Nat := 0x100 + 0x20 * e + k

/-- Flags of every engine in the low five bits (R303). -/
def statOf (t : Steward) : Word := t.stat.setWidth 64

/-- log.cnt (R327). -/
def logCnt (t : Steward) : Word := BitVec.ofNat 64 (t.lost * 2 ^ 16 + t.log.length)

/-- row.res (R311): the banks whose lease is granted now. -/
def rowRes (t : Steward) : Word := (t.leases.filter (·.held)).foldl (fun m l => m ||| BitVec.ofNat 64 (2 ^ l.bank)) 0

/-- What a source port reads (R302). -/
def readPort (s : State) (f : SFrame) (p : Nat) : Word :=
  let t := f.pre
  if p = 1 then (if t.g then 1 else 0)
  else if p = 2 then BitVec.ofNat 64 f.n
  else if p = 3 then BitVec.ofNat 64 (baseNow s - t.clk.getD (baseNow s))
  else if p = 4 then t.arg
  else if p = 5 then statOf t
  else if 0x10 ≤ p ∧ p < 0x30 then mget 0 t.q (p - 0x10)
  else if p = 0x4F ∨ p = 0x6F ∨ p = 0x7F ∨ p = 0x1AF then port t p
  else if p = 0x8F then rowRes t
  else if p = 0x1A1 then logCnt t
  else if 0x100 ≤ p ∧ p < 0x180 then
    if p % 0x20 = 0x1E then BitVec.ofNat 64 (eng t ((p - 0x100) / 0x20)).q.length
    else if p % 0x20 = 0x1F then port t p else 0
  else 0

/-- Does a source port wait for an operation in flight (R304)? The second is true for a pending sem.wait. -/
def portWait (t : Steward) (p : Nat) : Bool × Bool :=
  if p = 0x6F then (t.lsu.isSome, false)
  else if p = 0x7F then
    (match t.sem with
     | some o => (!o.wait, o.wait)
     | none => (false, false))
  else if p = 0x1AF then (t.logop.isSome, false)
  else if 0x100 ≤ p ∧ p < 0x180 ∧ p % 0x20 = 0x1F then
    ((eng t ((p - 0x100) / 0x20)).q.any (fun o => o.trig == 17), false)
  else (false, false)

/-- The source of a move: a port, or an immediate (R76). -/
def srcOf (s : State) (f : SFrame) (src : BitVec 11) : Word :=
  if src.getLsbD 10 then (src.extractLsb' 0 10).signExtend 64 else readPort s f src.toNat

def isOperand (p : Nat) : Bool :=
  [0x40, 0x60, 0x70, 0x71, 0x80].contains p || (decide (0x100 ≤ p) && decide (p < 0x180) && decide (p % 0x20 ≤ 2))

/-- Write a destination port that is no trigger (R302). -/
def writePort (t : Steward) (p : Nat) (v : Word) : Steward :=
  if p = 1 then { t with g := v.getLsbD 0 }
  else if 0x10 ≤ p ∧ p < 0x30 then { t with q := mput 0 t.q (p - 0x10) v }
  else if isOperand p then setPort t p v else t

/-- Does the guard of a move hold (R75, R304)? -/
def guardOk (t : Steward) (g : BitVec 2) : Bool :=
  if g = 0 then true else if g = 1 then t.g else if g = 2 then !t.g else false

/-- A read of sem.res (R310). -/
def semRead (src : BitVec 11) (f : SFrame) : SFrame :=
  if src = 0x7F then { f with now := { f.now with waited := false } } else f

/-- One move of the open bundle: guard, source, effect. -/
def moveIn (s : State) (x : MV) (eff : Word → SFrame → SFrame) (f : SFrame) : SFrame :=
  if !guardOk f.pre x.g then f
  else
    let w := if x.src.getLsbD 10 then (false, false) else portWait f.pre x.src.toNat
    if w.1 || w.2 then { f with stall := f.stall || w.1, semStall := f.semStall || w.2 }
    else semRead x.src (eff (srcOf s f x.src) f)

/-- A cause marked "halt" (R305), with its place: no move of the bundle commits. Of two that halt one bundle the first in the order in
which the model runs its moves is logged. (DEDUCED, log entry 54; DESIGN CHOICE, log entry 133.) -/
def haltAt (cause info : Nat) (a : At) (f : SFrame) : SFrame := { f with halt := some (f.halt.getD (cause, info, a)) }
def haltWith (cause info : Nat) (f : SFrame) : SFrame := haltAt cause info nowhere f

/-- Operations already triggered run on; the Steward completes with status 0xFF (R305, R324). -/
def haltSteward (s : State) (n cause info : Nat) (a : At) : State :=
  let pc := (stewardAt s n).pc
  setSteward (stewardLog s n cause info pc a) n (fun t =>
    { t with running := false, done := some (t.done.getD (0xFF, some cause)), stallSince := none })

/-- The first bundle of a node begins: the clk of every Steward of it counts from here (R302). (DEDUCED, log entry 118.) -/
def startClk (s : State) (n : Nat) : State :=
  let t := stewardAt s n
  if t.clk.isSome then s
  else
    let now := some (baseNow s)
    setSteward { s with stewards := s.stewards.map (fun e =>
      if e.2.node.isSome && e.2.node == t.node then (e.1, { e.2 with clk := now }) else e) } n (fun t => { t with clk := now })

/-- The image of a committed bundle: one that first reads the result of a completed sem.wait is an acquire for the operations
triggered after it (R250, R310). -/
def acquired (f : SFrame) : Steward := if f.pre.waited && !f.now.waited then { f.now with acqSeq := f.now.opNext } else f.now

/-- Close a Steward bundle (R304, R305, R308): a stall comes first, then a halt. (DEDUCED, log entry 54.) -/
def closeSteward (s : State) (f : SFrame) : State :=
  let s := startClk s f.n
  let clk := (stewardAt s f.n).clk
  if f.semStall then setSteward s f.n (fun t => { t with stallSince := none })
  else if f.stall then
    setSteward s f.n (fun t => { t with stallSince := some (t.stallSince.getD (baseNow s)) })
  else
    match f.halt with
    | some (cause, info, a) => haltSteward s f.n cause info a
    | none =>
      let s := setSteward s f.n (fun _ => { acquired f with pc := f.branch.getD (f.pre.pc + 1), stallSince := none, clk := clk })
      match f.now.done with
      | some (st, none) => if st = 0 then s else stewardLog s f.n 0x69 st f.pre.pc nowhere
      | _ => s

def openSteward (s : State) : Option SFrame :=
  let t := stewardAt s s.cur
  if t.running then some ⟨s.cur, t, t, false, false, none, none⟩ else none

/-- A move runs in the open Steward bundle, or as a bundle of its own of Steward `s.cur`. -/
def runMove (x : MV) (eff : Word → SFrame → SFrame) (s : State) : Out :=
  if !s.host.power then .fault .unpowered
  else
    match s.sframe with
    | some f => .next { s with sframe := some (moveIn s x eff f) }
    | none =>
      match openSteward s with
      | none => .next s
      | some f => .next (closeSteward s (moveIn s x eff f))

end Sys2Proof.Machine
end

