-- ==== Sys2Proof/Machine/StewardMoves.lean ====
section
/-! DEFINITION. StewardMoves.lean: the moves of a Steward: plain moves, the ALU, branches, the lsu, semaphores, leases, the
triggers of the bank engines, the log and the end of a node (R302-R320, R324, R327). -/

namespace Sys2Proof.Machine
open Sys2Proof

/-- A plain move, or one to a port that discards (R302). -/
def execStewardMove (x : MV) (dst : BitVec 11) (s : State) : Out :=
  runMove x (fun v f => { f with now := writePort f.now dst.toNat v }) s

/-! ### ALU (R307) -/

def aluRes (r : Word → Word → Word) (v : Word) (f : SFrame) : SFrame :=
  { f with now := setPort f.now 0x4F (r v (port f.now 0x40)) }

/-- A comparison gives the g-flag too. -/
def aluCmp (r : Word → Word → Bool) (v : Word) (f : SFrame) : SFrame :=
  let b := r v (port f.now 0x40)
  { f with now := { setPort f.now 0x4F (if b then 1 else 0) with g := b } }

def execAluAdd (x : MV) (s : State) : Out := runMove x (aluRes (· + ·)) s
def execAluSub (x : MV) (s : State) : Out := runMove x (aluRes (· - ·)) s
def execAluAnd (x : MV) (s : State) : Out := runMove x (aluRes (· &&& ·)) s
def execAluOr (x : MV) (s : State) : Out := runMove x (aluRes (· ||| ·)) s
def execAluXor (x : MV) (s : State) : Out := runMove x (aluRes (· ^^^ ·)) s
def execAluShl (x : MV) (s : State) : Out := runMove x (aluRes (fun t o => t <<< (o.toNat % 64))) s
def execAluShr (x : MV) (s : State) : Out := runMove x (aluRes (fun t o => t >>> (o.toNat % 64))) s
def execAluEq (x : MV) (s : State) : Out := runMove x (aluCmp (fun t o => t == o)) s
def execAluLt (x : MV) (s : State) : Out := runMove x (aluCmp (fun t o => t.slt o)) s
def execAluLtn (x : MV) (s : State) : Out := runMove x (aluCmp (fun t o => t.ult o)) s

/-! ### Branches (R308) -/

def brTo (v : Word) (f : SFrame) : SFrame :=
  if 682 ≤ v.toNat then haltWith 0x61 0 f else { f with branch := some v.toNat }

def execBrJump (x : MV) (s : State) : Out := runMove x brTo s
def execBrIf (x : MV) (s : State) : Out := runMove x (fun v f => if f.pre.g then brTo v f else f) s
def execBrCall (x : MV) (s : State) : Out :=
  runMove x (fun v f =>
    if 8 ≤ f.pre.calls.length then haltWith 0x61 0 f
    else brTo v { f with now := { f.now with calls := f.pre.calls ++ [f.pre.pc + 1] } }) s
def execBrRet (x : MV) (s : State) : Out :=
  runMove x (fun _ f =>
    match f.pre.calls.getLast? with
    | some b => { f with now := { f.now with calls := f.pre.calls.dropLast }, branch := some b }
    | none => haltWith 0x61 0 f) s

/-! ### The lsu and the sem unit (R306, R309, R310) -/

/-- A Steward address: true for device memory. -/
def stewardAddr (a : Word) : Option (Bool × Nat) :=
  if a.toNat % 8 ≠ 0 then none
  else if a.getLsbD 63 then (if (a.extractLsb' 39 24).toNat = 0 then some (true, a.toNat % 2 ^ 39) else none)
  else if a.toNat ≤ 0x1FF8 then some (false, a.toNat) else none

/-- An operation of a unit that runs one at a time: busy, the bundle stalls (R304). -/
def trigger (busy : Bool) (f : SFrame) (g : SFrame) : SFrame := if busy then { f with stall := true } else g

/-- The lsu takes an operation, with its place in the Steward's trigger order (R323). -/
def lsuOp (st : Bool) (v : Word) (f : SFrame) : SFrame :=
  trigger f.pre.lsu.isSome f
    (match stewardAddr v with
     | none => haltWith 0x60 0 f
     | some _ => { f with now := { f.now with lsu := some ⟨st, v, port f.now 0x60, f.now.opNext⟩, opNext := f.now.opNext + 1 } })

def execLsuLd (x : MV) (s : State) : Out := runMove x (lsuOp false) s
def execLsuSt (x : MV) (s : State) : Out := runMove x (lsuOp true) s

/-- The sem unit takes an operation; sem.to base-die cycles after `now` bound a sem.wait, all ones do not (R310). -/
def semOp (wait : Bool) (now : Nat) (v : Word) (f : SFrame) : SFrame :=
  let lim := port f.now 0x71
  trigger f.pre.sem.isSome f
    (match stewardAddr v with
     | some (true, _) => { f with now := { f.now with
         sem := some ⟨wait, v, port f.now 0x70,
           if wait && lim != BitVec.allOnes 64 then some (now + lim.toNat) else none, f.now.opNext⟩,
         opNext := f.now.opNext + 1 } }
     | _ => haltWith 0x60 0 f)

def execSemSig (x : MV) (s : State) : Out := runMove x (semOp false (baseNow s)) s
def execSemWait (x : MV) (s : State) : Out := runMove x (semOp true (baseNow s)) s

/-! ### Leases (R311) -/

def bitsOf (w : Word) : List Nat := (List.range 64).filter (fun i => w.getLsbD i)

/-- The newest request of a bank that no release has ended. -/
def newestLease (t : Steward) (bank : Nat) : Option Lease := (t.leases.filter (fun l => l.bank == bank && !l.released)).getLast?

def execRowLease (x : MV) (s : State) : Out :=
  runMove x (fun v f =>
    if 2 ^ 14 ≤ v.toNat then haltWith 0x64 0 f
    else
      let bs := bitsOf (port f.now 0x80)
      let add (t : Steward) (b : Nat) : Steward :=
        { t with leases := t.leases ++ [Lease.mk t.leaseNext b v.toNat (decide (1 < bs.length)) false 0 false (baseNow s) true],
                 leaseNext := t.leaseNext + 1 }
      { f with now := bs.foldl add f.now }) s

/-- DEDUCED, log entry 59. -/
def execRowRelease (x : MV) (s : State) : Out :=
  runMove x (fun v f =>
    let rel (t : Steward) (b : Nat) : Steward :=
      match newestLease t b with
      | some l => { t with leases := t.leases.map (fun e => if e.id == l.id then { e with released := true } else e) }
      | none => t
    { f with now := (bitsOf v).foldl rel f.now }) s

/-! ### Engine triggers (R315-R320) -/

/-- Bytes of an output format: FP32, BF16, FP16. -/
def fmtBytes (c : Nat) : Nat := if c = 0 then 4 else 2
def fmtTy (c : Nat) : ETy := if c = 0 then .f32 else if c = 1 then .bf16 else .f16

/-- Bits [lo, lo + n) of a trigger value. -/
def tf (t : Word) (lo n : Nat) : Nat := t.toNat / 2 ^ lo % 2 ^ n

/-- `len` bytes at `o`, a multiple of `al`, lie in the 16 KiB buffer (R320). -/
def inBuf (o len al : Nat) : Bool := o % al == 0 && decide (o + len ≤ 2 ^ 14)

/-- Does the trigger break a limit, and which bank of the half-channel does it name (R315-R320)? Columns past the 16th of a row, and output
format 3 of deq.col, break one. (DEDUCED, log entry 55; DESIGN CHOICE, log entry 134.) -/
def engineCheck (trig e : Nat) (t o0 o1 o2 : Word) : Bool × Option Nat :=
  let hi (n : Nat) : Bool := decide (2 ^ n ≤ t.toNat)
  if trig = 8 ∨ trig = 9 then
    let n := tf t 4 4 + 1
    (hi 12 || decide (16 < tf t 0 4 + n) || !inBuf o0.toNat (64 * n) 64, some (16 * tf t 10 2 + 4 * e + tf t 8 2))
  else if trig = 10 ∨ trig = 11 ∨ trig = 12 then
    let p := tf t 0 4
    let g := tf t 8 4 + 1
    let okP : Bool := if trig = 12 then p == 1 else decide (2 ≤ p) && decide (p ≤ 8)
    (hi 17 || !okP || decide (16 < tf t 4 4 + g * p) || !inBuf o0.toNat (if trig = 11 then 2 * g else 4 * g) 1,
      some (16 * tf t 14 2 + 4 * e + tf t 12 2))
  else if trig = 13 then
    let n := tf t 0 13
    let wi := fmtBytes (tf t 13 2)
    let wo := fmtBytes (tf t 20 2)
    (hi 22 || n == 0 || tf t 13 2 == 3 || tf t 15 2 == 3 || tf t 20 2 == 3 || (t.getLsbD 19 && tf t 15 2 != 0) ||
      !inBuf o0.toNat (n * wi) wi || (t.getLsbD 18 && !inBuf o1.toNat wo wo), none)
  else if trig = 14 then (hi 3, none)
  else if trig = 16 then
    let m := tf t 2 7 + 1
    let n0 := tf t 9 7
    let w := fmtBytes (tf t 0 2)
    (hi 16 || tf t 0 2 == 3 || decide (128 < n0 + m) || !inBuf o0.toNat (m * w) w ||
      !inBuf o1.toNat (2 * ((n0 + m - 1) / 4 + 1)) 2 || !inBuf o2.toNat 2 2, none)
  else (hi 9, none)

/-- An engine takes an operation: a full queue stalls the bundle; a breach and then a missing lease request halt (R304,
R320). The operation binds to the newest request of its bank (R311). -/
def engineOp (trig e : Nat) (v : Word) (f : SFrame) : SFrame :=
  let o (k : Nat) : Word := port f.now (engPort e k)
  trigger (decide (4 ≤ (eng f.pre e).q.length)) f
    (let c := engineCheck trig e v (o 0) (o 1) (o 2)
     let rq := c.2.bind (newestLease f.pre)
     if c.1 then haltWith 0x64 e f
     else if c.2.isSome && rq.isNone then haltAt 0x63 e ⟨c.2.getD 0, 0, 0⟩ f
     else { f with now := { setEng f.now e (fun g => { g with
              q := g.q ++ [EngOp.mk trig v (o 0) (o 1) (o 2) (rq.map (·.id)) f.now.opNext 0] }) with opNext := f.now.opNext + 1 } })

def execBkeLd (x : MV) (n : BitVec 2) (s : State) : Out := runMove x (engineOp 8 n.toNat) s
def execBkeSt (x : MV) (n : BitVec 2) (s : State) : Out := runMove x (engineOp 9 n.toNat) s
def execBkeMv8 (x : MV) (n : BitVec 2) (s : State) : Out := runMove x (engineOp 10 n.toNat) s
def execBkeMv4 (x : MV) (n : BitVec 2) (s : State) : Out := runMove x (engineOp 11 n.toNat) s
def execBkeMvb (x : MV) (n : BitVec 2) (s : State) : Out := runMove x (engineOp 12 n.toNat) s
def execBkeRed (x : MV) (n : BitVec 2) (s : State) : Out := runMove x (engineOp 13 n.toNat) s
def execBkeClr (x : MV) (n : BitVec 2) (s : State) : Out := runMove x (engineOp 14 n.toNat) s
def execDeqCol (x : MV) (n : BitVec 2) (s : State) : Out := runMove x (engineOp 16 n.toNat) s
def execAccRd (x : MV) (n : BitVec 2) (s : State) : Out := runMove x (engineOp 17 n.toNat) s

/-! ### The log and the end (R324, R327) -/

def execLogRd (x : MV) (s : State) : Out :=
  runMove x (fun v f =>
    trigger f.pre.logop.isSome f
      (if 31 < v.toNat then haltWith 0x64 0 f else { f with now := { f.now with logop := some v } })) s

def execNmkDone (x : MV) (s : State) : Out :=
  runMove x (fun v f =>
    if 256 ≤ v.toNat then haltWith 0x64 0 f
    else { f with now := { f.now with running := false, done := some (v.toNat, none) } }) s

end Sys2Proof.Machine
end

