-- ==== Sys2Proof/Machine/StewardEvents.lean ====
section
/-! DEFINITION. StewardEvents.lean: how Steward and engine operations end (R309-R323), and the time-outs of a Steward (R304,
R310). -/

namespace Sys2Proof.Machine
open Sys2Proof

/-! ### The lsu and the sem unit -/

/-- The bank and row of this Steward that a device address lies in. -/
def ownRow (s : State) (n pa : Nat) : Option (Nat × Nat) :=
  let g := geom s.dram pa
  if gHc g = n then some (gBank g, gRow g) else none

/-- Engine operations before place `seq` of the trigger order that are bound to a lease of the row (R309, R323). -/
def enginesBefore (s : State) (n seq : Nat) (at_ : Nat × Nat) : Bool :=
  let t := stewardAt s n
  t.eng.any (fun e => e.q.any (fun o => decide (o.seq < seq) && (match o.lease.bind (leaseOf t) with
    | some l => (64 * n + l.bank, l.row) == at_
    | none => false)))

/-- Does the Steward hold a lease of the row now? -/
def ownLease (t : Steward) (n : Nat) (at_ : Nat × Nat) : Bool :=
  t.leases.any (fun l => l.held && (64 * n + l.bank, l.row) == at_)

/-- A write of a Steward or its engines within an open lease: it performs banked (R241, R290). -/
def rowWrite (s : State) (n pa : Nat) (bs : List Byte) (carry : Bool) : State :=
  let s := acceptAtom s (.steward n) pa bs carry
  bankEntry s (s.dram.wq.length - 1)

/-- A word read of device memory by a Steward: bits, poison; a block that is not live reads as zeros and is logged (R309). -/
def stewardRead (s : State) (n pa : Nat) : List Byte × State :=
  let r := dRead s none pa 8 true
  let g := atomOf s (redirect s none pa)
  let s := if live s.dram g then s else stewardLog s n 0x66 0 0 (atomPlace g)
  (r.1, if r.2 then taint s n (atomPlace g) else s)

/-- The operation at place `seq` comes after an acquire with an earlier load still to read (R250, R310). (DEDUCED, log entry 118.) -/
def acqBlocks (t : Steward) (seq : Nat) : Bool :=
  decide (t.acqSeq ≤ seq) &&
    (t.eng.any (fun e => e.q.any (fun o => decide (o.seq < t.acqSeq) && [8, 10, 11, 12].contains o.trig)) ||
      t.lsu.any (fun o => !o.st && decide (o.seq < t.acqSeq)) ||
      t.sem.any (fun o => !o.wait && decide (o.seq < t.acqSeq)))

/-- The lsu operation in flight ends, or waits in the state given (R309). -/
def lsuEnd (s : State) (n : Nat) : Option State :=
  let t := stewardAt s n
  match t.lsu with
  | none => none
  | some o =>
    let fin (f : Steward → Steward) (s : State) : State := setSteward s n (fun t => { f t with lsu := none })
    let load (s : State) (pa : Nat) : State :=
      let (bs, s) := stewardRead s n pa
      fin (fun t => setPort t 0x6F (BitVec.ofNat 64 (leNat bs))) s
    if acqBlocks t o.seq then none
    else match stewardAddr o.addr with
    | none => none
    | some (false, a) =>
      if o.st then some (fin (fun t => { t with dmem := putBytes t.dmem a (natLe 8 o.data.toNat) }) s)
      else some (fin (fun t => setPort t 0x6F (BitVec.ofNat 64 (leNat (bytesAt t.dmem a 8)))) s)
    | some (true, pa) =>
      let row := ownRow s n pa
      if row.any (fun r => enginesBefore s n o.seq r) then none
      else if row.any (fun r => ownLease t n r) then
        if o.st then
          (if ckptHolds s pa then none
           else match needsRevival s none (.dmem pa) with
             | some b => if s.dram.reviving.contains b then none else some (onDram s (fun d => { d with reviving := d.reviving ++ [b] }))
             | none => some (fin id (rowWrite s n pa (natLe 8 o.data.toNat) false)))
        else if beingRevived s none (.dmem pa) then none
        else some (load s pa)
      else if o.st then
        match writeGates s none false [⟨.dmem pa, 8, false⟩] with
        | .wait u => some u
        | .go => (hostOpenAll s none [Piece.mk (.dmem pa) 8 false]).map (fun s =>
            fin id (writePlace s (.steward n) none (.dmem pa) (natLe 8 o.data.toNat) false))
      else (newGate s none [Piece.mk (.dmem pa) 8 false]).map (fun s => load s pa)

/-- sem.sig: a release at DEVICE, then the add at the controller (R250, R310). -/
def sigEnd (s : State) (n : Nat) : Option State :=
  let t := stewardAt s n
  match t.sem with
  | some ⟨false, a, x, _, seq⟩ =>
    (match stewardAddr a with
     | some (true, pa) =>
       let busy := t.eng.any (fun e => e.q.any (fun o => decide (o.seq < seq))) ||
         s.dram.wq.any (fun e => e.by_ == .steward n) ||
         t.lsu.any (fun l => decide (l.seq < seq))
       if busy then none
       else
         match writeGates s none false [⟨.dmem pa, 8, false⟩] with
         | .wait u => some u
         | .go => (newGate s none [Piece.mk (.dmem pa) 8 false]).map (fun s =>
             let (bs, s) := stewardRead s n pa
             let old := leNat bs
             let s := writePlace s (.steward n) none (.dmem pa) (natLe 8 (old + x.toNat)) false
             setSteward s n (fun t => { setPort t 0x7F (BitVec.ofNat 64 old) with sem := none, waited := false }))
     | _ => none)
  | _ => none

def logEnd (s : State) (n : Nat) : Option State :=
  (stewardAt s n).logop.map (fun v =>
    setSteward s n (fun t => { setPort t 0x1AF (nth 0 t.log v.toNat) with logop := none }))

/-- An operation of a one-at-a-time unit ends (R304, R322). (DESIGN CHOICE, log entry 17.) -/
def execStewardOperationEnd (n : Nat) (u : StewardUnit) (s : State) : Out :=
  eventO "STEWARD_OPERATION_END" s (match u with
    | .lsu => lsuEnd s n
    | .sem => sigEnd s n
    | .log => logEnd s n)

/-- The pending sem.wait: the banked word it tests (R253, R310), its value to reach and its deadline. -/
def semPending (s : State) (n : Nat) : Option (Nat × Nat × Option Nat) :=
  match (stewardAt s n).sem with
  | some ⟨true, a, x, d, seq⟩ =>
    (match stewardAddr a, acqBlocks (stewardAt s n) seq with
     | some (true, pa), false =>
       let l := locOf s (redirect s none pa)
       some (if live s.dram (l / 32) then leNat (bytesAt s.dram.mem l 8) else 0, x.toNat, d)
     | _, _ => none)
  | _ => none

/-- DEDUCED, log entry 99. -/
def endWait (s : State) (n : Nat) (ok : Bool) : State :=
  setSteward s n (fun t => { setPort t 0x7F (if ok then 1 else 0) with sem := none, waited := ok })

def execSemWaitSatisfied (n : Nat) (s : State) : Out :=
  eventO "SEM_WAIT_SATISFIED" s (match semPending s n with
    | some (v, x, _) => if x ≤ v then some (endWait s n true) else none
    | none => none)

/-- The time-out; the word is tested a last time (R310). -/
def execSemWaitExpiry (n : Nat) (s : State) : Out :=
  eventO "SEM_WAIT_EXPIRY" s (match semPending s n with
    | some (v, x, some d) => if d ≤ baseNow s then some (endWait s n (decide (x ≤ v))) else none
    | _ => none)

/-- A stall of 2^20 base-die cycles halts the Steward (R304). (DEDUCED, log entry 57.) -/
def execStewardTimeout (n : Nat) (s : State) : Out :=
  let t := stewardAt s n
  eventO "STEWARD_TIMEOUT" s (match t.stallSince with
    | some a => if t.running && decide (a + Config.accessTimeout ≤ baseNow s) then some (haltSteward s n 0x62 0 nowhere) else none
    | none => none)

/-! ### Engine operations -/

/-- The pieces an operation is done in, columns or weight groups, and the bursts each takes (R312, R315, R316). (DEDUCED, log entry 58.) -/
def engineUnits (o : EngOp) : Nat × Nat :=
  if o.trig = 8 ∨ o.trig = 9 then (tf o.t 4 4 + 1, 1)
  else if o.trig = 10 ∨ o.trig = 11 ∨ o.trig = 12 then (tf o.t 8 4 + 1, tf o.t 0 4)
  else (1, 0)

/-- The columns of pieces [k, k + m) of an operation. -/
def engineCols (o : EngOp) (k m : Nat) : List Nat :=
  let c0 := if o.trig = 8 ∨ o.trig = 9 then tf o.t 0 4 else tf o.t 4 4
  let p := (engineUnits o).2
  (List.range (m * p)).map (fun i => c0 + k * p + i)

/-- The atom of a row. -/
def rowAtom (b row a : Nat) : Nat := b * 2 ^ 19 + row * 32 + a

/-- A column of the leased row: its 64 bytes, the poison of its atoms (R321); a block that is not live gives zeros. -/
def colRead (s : State) (b row c : Nat) : List (List Byte × Bool) :=
  [2 * c, 2 * c + 1].map (fun a =>
    let g := served s (rowAtom b row a)
    if live s.dram g then (bytesAt s.dram.mem (32 * g) 32, mget false s.dram.poi g) else (List.replicate 32 0, false))

/-- Write `bs` into a buffer at `o`; `carry i` marks byte i as taken from poisoned data (R36). -/
def bufWrite (e : Engine) (o : Nat) (bs : List Byte) (carry : Nat → Bool) : Engine :=
  let atoms := ((List.range bs.length).map (fun i => (o + i) / 32)).eraseDups
  let mark (m : SMap Bool) (a : Nat) : SMap Bool :=
    let is := (List.range bs.length).filter (fun i => (o + i) / 32 == a)
    mput false m a (poiAfter (mget false m a) (is.any carry) is.length)
  { e with buf := putBytes e.buf o bs, bpoi := atoms.foldl mark e.bpoi }

def onEng (s : State) (n e : Nat) (f : Engine → Engine) : State := setSteward s n (fun t => setEng t e f)

/-- Flags of an engine operation go to the engine and to stat (R303). -/
def engFlags (s : State) (n e : Nat) (fl : Fl) : State :=
  setSteward s n (fun t =>
    { setEng t e (fun g => { g with flags := g.flags ||| fl.setWidth 5 }) with stat := t.stat ||| (fl &&& 31).setWidth 8 })

def setStat (s : State) (n : Nat) (b : BitVec 8) : State := setSteward s n (fun t => { t with stat := t.stat ||| b })

/-- bke.ld: a column into the buffer (R315). -/
def ldCol (s : State) (n e b row : Nat) (o : EngOp) (k : Nat) : State :=
  let at_ := o.o0.toNat + 64 * k
  match colRead s b row (tf o.t 0 4 + k) with
  | [x, y] => onEng s n e (fun g => bufWrite (bufWrite g at_ x.1 (fun _ => x.2)) (at_ + 32) y.1 (fun _ => y.2))
  | _ => s

/-- bke.st: a column from the buffer, atom by atom (R315, R321). -/
def stCol (s : State) (n e b row : Nat) (o : EngOp) (k : Nat) : State :=
  [0, 1].foldl (fun s i =>
    let g := eng (stewardAt s n) e
    let at_ := o.o0.toNat + 64 * k + 32 * i
    rowWrite s n (unGeom s.dram (rowAtom b row (2 * (tf o.t 0 4 + k) + i))) (bytesAt g.buf at_ 32)
      (mget false g.bpoi (at_ / 32))) s

/-- A two's-complement element of w bits; the most negative code is absent (R19, R314). -/
def elemW (w v : Nat) : Option Int := if v = 2 ^ (w - 1) then none else some (if 2 ^ (w - 1) ≤ v then (v : Int) - 2 ^ w else v)

/-- W[t][n] of planes (R314): a lone plane stands for +1 and -1 in bke.mvb. -/
def weight (mvb : Bool) (planes : List Nat) (i : Nat) : Option Int :=
  let bit (p : Nat) : Nat := p / 2 ^ i % 2
  if mvb then some (if planes.any (fun p => bit p == 1) then 1 else -1)
  else elemW planes.length (((List.range planes.length).map (fun q => bit (nth 0 planes q) * 2 ^ q)).sum)

/-- Activation k: an INT8 byte, or an INT4 element with the even one in the low nibble (R18, R316), and its buffer atom. -/
def activation (g : Engine) (mv4 : Bool) (o k : Nat) : Option Int × Nat :=
  if mv4 then
    let b := (byteAt g.buf (o + k / 2)).toNat
    (elemW 4 (if k % 2 = 0 then b % 16 else b / 16), (o + k / 2) / 32)
  else (elemW 8 (byteAt g.buf (o + k)).toNat, (o + k) / 32)

/-- Accumulate (R317): the new accumulator, and whether it clamped. -/
def accAdd (sat : Bool) (a : BitVec 32) (x : Int) : BitVec 32 × Bool :=
  let v := a.toInt + x
  if sat && decide (2 ^ 31 ≤ v) then (0x7FFFFFFF, true)
  else if sat && decide (v ≤ -(2 ^ 31)) then (0x80000001, true)
  else (BitVec.ofInt 32 v, false)

/-- One weight group (R316). -/
def mvGroup (s : State) (n e b row : Nat) (o : EngOp) (j : Nat) : State :=
  let g := eng (stewardAt s n) e
  let cols := (engineCols o j 1).map (colRead s b row)
  let planes := cols.map (fun c => leNat (c.flatMap (·.1)))
  let acts := (List.range 4).map (fun t => activation g (o.trig == 11) o.o0.toNat (4 * j + t))
  let poi := cols.any (fun c => c.any (·.2)) || acts.any (fun a => mget false g.bpoi a.2)
  let sum (k : Nat) : Int := ((List.range 4).map (fun t =>
    match weight (o.trig == 12) planes (128 * t + k), (nth (none, 0) acts t).1 with
    | some w, some x => w * x
    | _, _ => 0)).foldl (· + ·) 0
  let rs := (List.range 128).map (fun k => (k, accAdd (o.t.getLsbD 16) (mget 0 g.acc k) (sum k)))
  let s := onEng s n e (fun g => { g with
    acc := rs.foldl (fun m r => mput 0 m r.1 r.2.1) g.acc,
    taint := if poi then rs.foldl (fun m r => mput false m r.1 true) g.taint else g.taint })
  if !rs.any (fun r => r.2.2) then s
  else
    let s := setStat s n 0x40
    if g.satLogged then s
    else onEng (stewardLog s n 0x68 e (stewardAt s n).pc ⟨b % 64, row, 2 * ((engineCols o j 1).headD 0)⟩) n e (fun g => { g with satLogged := true })

/-- deq.col (R318). -/
def deqCol (s : State) (n e : Nat) (o : EngOp) : State :=
  let g := eng (stewardAt s n) e
  let ty := fmtTy (tf o.t 0 2)
  let w := fmtBytes (tf o.t 0 2)
  let m := tf o.t 2 7 + 1
  let n0 := tf o.t 9 7
  let word (a : Nat) : Nat := leNat (bytesAt g.buf a 2) % 4096
  let colAt (k : Nat) : Nat := o.o1.toNat + 2 * (k / 4)
  let one (k : Nat) : Nat × Fl :=
    let a := mget 0 g.acc k
    match s12 (word (colAt k)), s12 (word o.o2.toNat) with
    | some (m1, e1), some (m2, e2) =>
      if a = 0x80000000 then (fill ty, 0) else roundD ty .rne (decide (a.toInt < 0)) (a.toInt.natAbs * m1 * m2) (e1 + e2)
    | _, _ => (fill ty, 0)
  let rs := (List.range m).map (fun i => one (n0 + i))
  let dirty (i : Nat) : Bool :=
    let k := n0 + i / w
    mget false g.taint k || mget false g.bpoi (colAt k / 32) || mget false g.bpoi (o.o2.toNat / 32)
  engFlags (onEng s n e (fun g => bufWrite g o.o0.toNat (rs.flatMap (fun r => natLe w r.1)) dirty)) n e
    (rs.foldl (fun f r => f ||| r.2) 0)

/-- The reduction register after the beats (R48, R319): value, count, flags, saturated. -/
def redBeats (af : ETy) (op : Nat) (v c : Nat) (fl : Fl) (sat : Bool) : List (List Nat) → Nat × Nat × Fl × Bool
  | [] => (v, c, fl, sat)
  | b :: t =>
    let k := (b.filter (fun x => !isAbsent af x)).length
    let (r, f) := tree (redOp af op .rne) 5 (b ++ List.replicate (32 - b.length) (fill af)) 0
    let (v', f') := redOp af op .rne v r
    redBeats af op v' (min (c + k) 65535) (fl ||| f ||| f') (sat || decide (65535 < c + k)) t

/-- A list cut into pieces of 32, by fuel. -/
def beats : Nat → List Nat → List (List Nat)
  | 0, _ => []
  | f + 1, l => if l.isEmpty then [] else l.take 32 :: beats f (l.drop 32)

/-- The result of bke.red with WR (R33, R319). -/
def redResult (out af : ETy) (norm : Bool) (v c : Nat) : Nat × Fl :=
  if c = 0 ∨ isAbsent af v then (fill out, 0)
  else
    match norm, fval af v with
    | true, .fin s m e => if m = 0 then (signBit out s, 0) else roundQ out .rne s m c e
    | _, _ => cvt out af .rne v

/-- The running value as the operation's accumulation format reads it: what another format held is a free value. (DESIGN CHOICE, log entry 10.) -/
def redOld (g : Engine) (af : Nat) : Nat :=
  let v := g.redv.toNat
  if isAbsent (fmtTy g.redf.toNat) v then fill (fmtTy af)
  else if g.redf.toNat = af then v else Config.redMix g.redf.toNat v af % 2 ^ (8 * fmtBytes af)

/-- bke.red (R319). -/
def bkeRed (s : State) (n e : Nat) (o : EngOp) : State :=
  let g := eng (stewardAt s n) e
  let inf := fmtTy (tf o.t 13 2)
  let wi := fmtBytes (tf o.t 13 2)
  let afc := if o.t.getLsbD 17 then tf o.t 13 2 else 0
  let af := fmtTy afc
  let op := if tf o.t 15 2 = 0 then 0 else if tf o.t 15 2 = 1 then 2 else 1
  let cs := (List.range (tf o.t 0 13)).map (fun i =>
    let v := leNat (bytesAt g.buf (o.o0.toNat + i * wi) wi)
    (if isAbsent inf v then (fill af, 0) else if af == inf then (v, 0) else cvt af inf .rne v,
      mget false g.bpoi ((o.o0.toNat + i * wi) / 32)))
  let f0 := cs.foldl (fun f x => f ||| x.1.2) (0 : Fl)
  let (v, c, fl, sat) := redBeats af op (redOld g afc) g.redc.toNat f0 false (beats cs.length (cs.map (fun x => x.1.1)))
  let poi := g.redp || cs.any (·.2)
  let s := onEng s n e (fun g => { g with redv := BitVec.ofNat 32 v, redf := BitVec.ofNat 2 afc, redc := BitVec.ofNat 16 c, redp := poi })
  let s := if sat then setStat s n 0x20 else s
  if !o.t.getLsbD 18 then engFlags s n e fl
  else
    let oc := tf o.t 20 2
    let (r, f) := redResult (fmtTy oc) af (o.t.getLsbD 19) v c
    engFlags (onEng s n e (fun g => bufWrite g o.o1.toNat (natLe (fmtBytes oc) r) (fun _ => poi))) n e (fl ||| f)

/-- bke.clr (R320). -/
def bkeClr (s : State) (n e : Nat) (o : EngOp) : State :=
  onEng s n e (fun g =>
    let g := if o.t.getLsbD 0 then { g with acc := [], taint := [] } else g
    let g := if o.t.getLsbD 1 then { g with redv := 0xFFC00001, redf := 0, redc := 0, redp := false } else g
    if o.t.getLsbD 2 then { g with flags := 0 } else g)

/-- acc.rd (R320). -/
def accRd (s : State) (n e : Nat) (o : EngOp) : State :=
  let g := eng (stewardAt s n) e
  let i := tf o.t 0 7
  let sel := tf o.t 7 2
  let v : Word :=
    if sel = 0 then (mget 0 g.acc i).signExtend 64
    else if sel = 1 then g.redv.setWidth 64
    else if sel = 2 then g.redc.setWidth 64
    else g.flags.setWidth 64 ||| (if g.taint.isEmpty then 0 else 32)
  let s := setSteward s n (fun t => setPort t (engPort e 0x1F) v)
  if (sel = 0 && mget false g.taint i) || (sel = 1 && g.redp) then taint s n nowhere else s

/-- Pieces [k, k + m) of an operation at its row. (DEDUCED, log entry 58.) -/
def runUnits (s : State) (n e b row : Nat) (o : EngOp) (k m : Nat) : State :=
  (List.range m).foldl (fun s i =>
    if o.trig = 8 then ldCol s n e b row o (k + i)
    else if o.trig = 9 then stCol s n e b row o (k + i)
    else if o.trig = 13 then bkeRed s n e o
    else if o.trig = 14 then bkeClr s n e o
    else if o.trig = 16 then deqCol s n e o
    else if o.trig = 17 then accRd s n e o
    else mvGroup s n e b row o (k + i)) s

/-- An atom read by pieces [k, k + m) of the operation had the error (R291, R321): its controller's part, and the Steward's
log. -/
def engineErr (s : State) (n e b row : Nat) (o : EngOp) (k m : Nat) (err : Option CellFault) : Option State :=
  let mine (g : Nat) : Bool := o.trig != 9 && (engineCols o k m).any (fun c => g == rowAtom b row (2 * c) || g == rowAtom b row (2 * c + 1)) &&
    live s.dram (served s g)
  match err with
  | none => some s
  | some (.corrected g) => if mine g then some (cellFault s err) else none
  | some (.uncorrectable g _) =>
    if mine g then some (stewardLog (cellFault s err) n 0x65 e 0 ⟨b % 64, row, g % 32⟩) else none
  | some (.badParity _) => none

/-- What a bke.st waits for at its row (R296, R404): a block to be revived, a granule to be streamed. -/
def storeGate (s : State) (b row : Nat) : Gate :=
  let g := served s (rowAtom b row 0)
  let pa (i : Nat) : Nat := unGeom s.dram (rowAtom b row i)
  if !live s.dram g then
    .wait (onDram s (fun d => if d.reviving.contains (gBlock g) then d else { d with reviving := d.reviving ++ [gBlock g] }))
  else if anyBelow 32 (fun i => ckptHolds s (pa i)) then .wait s
  else .go

/-- An earlier lsu access to the row is still in flight (R323). -/
def lsuBefore (s : State) (n seq : Nat) (at_ : Nat × Nat) : Bool :=
  match (stewardAt s n).lsu with
  | some l => decide (l.seq < seq) && (match stewardAddr l.addr with
    | some (true, pa) => ownRow s n pa == some at_
    | _ => false)
  | none => false

/-- At most `m` of the remaining pieces of the engine's first operation run within its lease; `bursts` are spent. -/
def engineRun (s : State) (n e m : Nat) (err : Option CellFault) : Option State :=
  let t := stewardAt s n
  match (eng t e).q with
  | [] => none
  | o :: _ =>
    let (units, per) := engineUnits o
    let left := units - o.prog
    let k := min m left
    if acqBlocks t o.seq then none else
    let done (s : State) : State := onEng s n e (fun g => { g with
      q := if k = left then g.q.drop 1 else { o with prog := o.prog + k } :: g.q.drop 1 })
    match o.lease with
    | none => if err.isNone then some (done (runUnits s n e 0 0 o o.prog k)) else none
    | some rq =>
      match leaseOf t rq with
      | none => none
      | some l =>
        let b := 64 * n + l.bank
        if !l.held || decide (l.budget < k * per) || lsuBefore s n o.seq (b, l.row) then none
        else
          match (if o.trig = 9 then storeGate s b l.row
              else if s.dram.reviving.contains (gBlock (served s (rowAtom b l.row 0))) then .wait s else .go) with
          | .wait u => if u = s then none else some u
          | .go =>
            (engineErr s n e b l.row o o.prog k err).map (fun s =>
              let stale := o.trig != 9 && !live s.dram (served s (rowAtom b l.row 0)) && decide (0 < k)
              let s := runUnits s n e b l.row o o.prog k
              let s := if stale then stewardLog s n 0x66 e 0 ⟨l.bank, l.row, 2 * ((engineCols o o.prog k).headD 0)⟩ else s
              done (setSteward s n (fun t => onLease t rq (fun l => { l with budget := l.budget - k * per }))))

/-- The first operation of an engine ends (R322): its remaining pieces run. (DESIGN CHOICE, log entry 17.) -/
def execEngineOperationEnd (n e : Nat) (err : Option CellFault) (s : State) : Out :=
  eventO "ENGINE_OPERATION_END" s (engineRun s n e 16 err)

end Sys2Proof.Machine
end

