-- ==== Sys2Proof/Machine/DramEvents.lean ====
section
/-! DEFINITION. DramEvents.lean: what the channel controllers do on their own: arbitration, leases and waves (R288-R290, R297,
R312), refresh and activation guarding (R287, R292-R294), scrub (R291), revival (R296), spare dies (R298), bank tests (R398,
R399) and core self-tests (R398). -/

namespace Sys2Proof.Machine
open Sys2Proof

/-! ### Arbitration (R288-R290, R312) -/

/-- The unit of a migrating stack that is copied next (R298): its bank and row. -/
def migrating (s : State) (stack : Nat) : Option (Nat × Nat) :=
  match mget none s.dram.spare stack with
  | none => none
  | some d =>
    let u := mget 0 s.dram.mark stack
    if 8 * 2 * 16 * 2 ^ 14 ≤ u then none
    else
      let ch := 8 * (d % 4) + u / 2 ^ 19
      let hc := u / 2 ^ 18 % 2
      some (64 * (64 * stack + 2 * ch + hc) + 16 * (d / 4) + u / 2 ^ 14 % 16, u % 2 ^ 14)

/-- A granule of the row is being copied back (R394). -/
def copyingBack (s : State) (b row : Nat) : Bool :=
  s.sched.redir.any (fun r => r.global && anyBelow 32 (fun a => unGeom s.dram (rowAtom b row a) / 2 ^ 18 == r.gran))

/-- May a lease request be granted now (R288, R289, R293, R297, R394, R399)? Requests of one bank go in their order; a bank of
a wave opens in its window, after the lower banks of the wave. -/
def grantable (s : State) (n : Nat) (l : Lease) : Bool :=
  let t := stewardAt s n
  let b := 64 * n + l.bank
  let k := bank s.dram b
  let older := t.leases.any (fun o => o.bank == l.bank && decide (o.id < l.id) && (o.asked || o.held))
  let w := mget (0, 64) s.dram.window n
  let waveOk := !l.wave || (decide (w.2 ≤ actmaxOf s n) && decide (baseNow s < w.1 + 64) &&
    !t.leases.any (fun o => o.wave && o.asked && decide (o.id < l.id)))
  l.asked && !l.held && !older && waveOk && !k.testing && !refreshDue s b && !agedWrite s b && !agedRead s b && !copyingBack s b l.row

/-- A waiting lease outranks other main-die accesses once it has waited 2,000 cycles (R312). -/
def urgent (s : State) (l : Lease) : Bool := decide (l.since + 2000 ≤ baseNow s)
def writesWait (s : State) (b : Nat) : Bool := s.dram.wq.any (fun e => gBank (e.loc / 32) == b)

def leaseGranted (s : State) (n rq : Nat) : Option State :=
  match leaseOf (stewardAt s n) rq with
  | none => none
  | some l =>
    if grantable s n l && (urgent s l || !(writesWait s (64 * n + l.bank) || readWaits s (64 * n + l.bank) none)) then grantLease s n rq
    else none

def execLeaseGrant (n rq : Nat) (s : State) : Out := eventO "LEASE_GRANT" s (leaseGranted s n rq)

/-- A lost lease with operations bound to it is asked for again (R312). -/
def execLeaseRenewal (n rq : Nat) (s : State) : Out :=
  let t := stewardAt s n
  eventO "LEASE_RENEWAL" s (match leaseOf t rq with
    | some l =>
      if !l.held && !l.asked && boundOps t rq then
        some (setSteward s n (fun t => onLease t rq (fun l => { l with asked := true, since := baseNow s })))
      else none
    | none => none)

/-- The first operation of the lease's engine, when it is bound to this request: the bursts it still needs. -/
def headNeed (t : Steward) (l : Lease) : Option Nat :=
  match (eng t (l.bank / 4 % 4)).q with
  | o :: _ => if o.lease = some l.id then some (((engineUnits o).1 - o.prog) * (engineUnits o).2) else none
  | [] => none

/-- A lease ends (R288, R311, R312): released with nothing bound to it, its budget or its 256 cycles spent, too little left for
the next operation, which does what fits first, or an obligation of level 1 or 2. (DEDUCED, log entry 59.) -/
def execLeaseEnd (n rq : Nat) (s : State) : Out :=
  let t := stewardAt s n
  eventO "LEASE_END" s (match leaseOf t rq with
    | none => none
    | some l =>
      let b := 64 * n + l.bank
      if l.released && !boundOps t rq then some (endLease s n rq)
      else if !l.held then none
      else if l.budget = 0 ∨ l.since + 256 ≤ baseNow s ∨ refreshDue s b ∨ agedWrite s b ∨ agedRead s b then some (endLease s n rq)
      else
        match headNeed t l, (eng t (l.bank / 4 % 4)).q with
        | some need, o :: _ =>
          if need ≤ l.budget then none
          else
            let m := l.budget / max 1 (engineUnits o).2
            if m = 0 then some (endLease s n rq)
            else (engineRun s n (l.bank / 4 % 4) m none).bind (fun s =>
              if leaseOf (stewardAt s n) rq = some l then none else some (endLease s n rq))
        | _, _ => none)

/-- A wave window opens; it admits the waiting banks of waves in ascending order, as far as the limit and the arbitration let
it (R297, R313). -/
def execWaveWindow (hc : Nat) (s : State) : Out :=
  let w := mget (0, 64) s.dram.window hc
  let s1 := onDram s (fun d => { d with window := mput (0, 64) d.window hc (baseNow s, actmaxOf s hc) })
  let ids := ((stewardAt s hc).leases.filter (fun l => l.wave && l.asked)).map (·.id)
  event "WAVE_WINDOW" (decide (hc < 512) && decide (w.1 + 64 ≤ baseNow s)) s
    (ids.foldl (fun s rq => (leaseGranted s hc rq).getD s) s1)

/-- The oldest queued write of a bank is served (R241, R289): its row is opened, then it is banked. -/
def serveWrite (s : State) (b : Nat) : Option State :=
  match s.dram.wq.findIdx? (fun e => gBank (e.loc / 32) == b) with
  | none => none
  | some k =>
    match s.dram.wq[k]? with
    | some e => (hostOpen s (e.loc / 32)).map (fun s => bankEntry s k)
    | none => none

/-- The oldest waiting lease request of a bank. -/
def nextLease (s : State) (b : Nat) : Option Lease :=
  (stewardAt s (b / 64)).leases.find? (fun l => l.bank == b % 64 && l.asked && !l.held)

/-- The oldest queued write of a bank, which the queue serves first, is older than every access of a core that waits there (R289). -/
def writeOldest (s : State) (b : Nat) : Bool :=
  (s.dram.wq.find? (fun e => gBank (e.loc / 32) == b)).any (fun w => !s.cores.any (fun e => e.2.mem.any (fun m =>
    decide (w.age s < ageOf e.2 m) && (readsNext s e.1 e.2 m).any (fun g => gBank g == b && (hostOpen s g).isSome))))

/-- The levels of R289, the oldest first within each. Level 1 has events of its own. -/
def arbitrate (s : State) (b : Nat) : Option State :=
  let lease : Option State := (nextLease s b).bind (fun l => if grantable s (b / 64) l then grantLease s (b / 64) l.id else none)
  if refreshDue s b then none
  else if agedWrite s b || agedRead s b then (if writeOldest s b then serveWrite s b else none)
  else if (nextLease s b).any (urgent s) && lease.isSome then lease
  else if writesWait s b && writeOldest s b then serveWrite s b
  else if writesWait s b || readWaits s b none then none
  else match lease, (bank s.dram b).row with
    | some t, _ => some t
    | none, .ended r => some (precharge s b r)
    | none, _ => none

/-- A free bank chooses its next user; a row whose lease has ended and that nobody takes is closed (R288). What the bank's checks find
comes first: an error of an atom of the bank (R291), or a counter whose parity has gone bad, which the row's next PRE finds (R292,
R294). -/
def execBankArbitration (b : Nat) (err : Option CellFault) (s : State) : Out :=
  let k := bank s.dram b
  let free : Bool := match k.row with
    | .engine _ => false
    | _ => true
  eventO "BANK_ARBITRATION" s (
    if !free || k.testing then none
    else
      match err with
      | none => arbitrate s b
      | some (.badParity row) =>
        if row < 2 ^ 14 ∧ ¬ k.badPar.contains row then some (onBank s b (fun k => { k with badPar := k.badPar ++ [row] })) else none
      | some (.corrected g) => if gBank g = b ∧ live s.dram g then arbitrate (cellFault s err) b else none
      | some (.uncorrectable g _) => if gBank g = b ∧ live s.dram g then arbitrate (cellFault s err) b else none)

/-! ### Rows: idle, spacing, refresh (R287, R288, R292-R294) -/

/-- An open row nobody asks for within 64 cycles is closed (R288). -/
def execOpenHostIdle (b : Nat) (s : State) : Out :=
  let k := bank s.dram b
  eventO "OPEN_HOST_IDLE" s (match k.row with
    | .host r =>
      if k.lastUse + 64 ≤ baseNow s ∧ ¬ s.dram.wq.any (fun e => gBank (e.loc / 32) == b && gRow (e.loc / 32) == r) ∧
          ¬ readWaits s b (some r) then some (precharge s b r)
      else none
    | _ => none)

/-- 126 µs after its last activation a watched row may be activated again: the activation no longer counts against it (R293). -/
def execWatchedRowSpacing (b row : Nat) (s : State) : Out :=
  let k := bank s.dram b
  event "WATCHED_ROW_SPACING" (k.watch.any (fun e => e.1 == row && decide (0 < e.2) && decide (e.2 + 126000 ≤ baseNow s))) s
    (onBank s b (fun k => { k with watch := k.watch.map (fun e => if e.1 == row then (row, 0) else e) }))

/-- The refresh command of a bank: the open row is closed, then the next eight rows are refreshed, but those of an elided block
(R287, R292, R295). -/
def execPerBankRefresh (b : Nat) (s : State) : Out :=
  let k := bank s.dram b
  let closed : Option State := match k.row with
    | .engine _ => none
    | .host r | .ended r => some (precharge s b r)
    | .closed => some s
  let rows := (List.range 8).map (fun i => 8 * k.refresh + i)
  eventO "PER_BANK_REFRESH" s (
    if 2 ^ 15 ≤ b ∨ !refreshDue s b then none
    else closed.map (fun s => onBank s b (fun k =>
      { (if live s.dram (rowAtom b (8 * k.refresh) 0) then rows.foldl refreshRow k else k) with
        refresh := (k.refresh + 1) % 2048, refAt := baseNow s })))

/-- The patrol scrub reads an atom through the checks of R291. (DESIGN CHOICE, log entry 62.) -/
def execPatrolScrub (g : Nat) (err : Option CellFault) (s : State) : Out :=
  let ok : Bool := match err with
    | none => true
    | some (.corrected a) => a == g
    | some (.uncorrectable a _) => a == g
    | some (.badParity _) => false
  eventO "PATROL_SCRUB" s (
    if !ok || decide (2 ^ 34 ≤ g) || !live s.dram g || writesWait s (gBank g) then none
    else (hostOpen s g).map (fun s => cellFault s err))

/-- A block that a write asked for is zeroed and live (R296). -/
def execBlockRevival (hc block : Nat) (s : State) : Out :=
  let k := hc * 512 + block
  event "BLOCK_REVIVAL" (decide (block < 512) && s.dram.reviving.contains k) s
    (onDram s (fun d => { zeroBlock d k with elided := mput false d.elided k false, reviving := d.reviving.filter (· != k) }))

/-- The thermal monitor sets a half-channel's limit (R297). -/
def execThermalReadout (hc limit : Nat) (s : State) : Out :=
  event "THERMAL_READOUT" (decide (hc < 512) && decide (4 ≤ limit) && decide (limit ≤ 64)) s
    (onDram s (fun d => { d with actmax := mput 64 d.actmax hc limit }))

/-- A row of a retiring die is copied to the spare: the watermark moves on; data, poison and publish states go with it (R298). -/
def execDieMigrationUnit (stack : Nat) (s : State) : Out :=
  eventO "DIE_MIGRATION_UNIT" s (match migrating s stack with
    | none => none
    | some (b, _) =>
      match (bank s.dram b).row with
      | .engine _ => none
      | _ => some (onDram s (fun d => { d with mark := mput 0 d.mark stack (mget 0 d.mark stack + 1) })))

/-! ### Bank tests (R398, R399) -/

/-- The atoms of a bank with the park location of each move to their other home, poison and publish states with them: `f` gives
the new geometry of a moved atom, `hit` the atoms that move, `gone` those they replace. -/
def moveAtoms (d : Dram) (hit gone : Nat → Bool) (f : Nat → Nat) : Dram :=
  let mv {α : Type} [DecidableEq α] (z : α) (m : SMap α) : SMap α :=
    mputs z (m.filter (fun e => !gone e.1)) ((m.filter (fun e => hit e.1)).map (fun e => (f e.1, e.2)))
  { d with
    mem := mputs 0 (d.mem.filter (fun e => !gone (e.1 / 32)))
      ((d.mem.filter (fun e => hit (e.1 / 32))).map (fun e => (32 * f (e.1 / 32) + e.1 % 32, e.2))),
    poi := mv false d.poi, pub := mv 0 d.pub }

/-- Copy a bank to its park area, or back. (DESIGN CHOICE, log entry 61.) -/
def parkCopy (s : State) (b park : Nat) (back : Bool) : State :=
  let s := bankAll s
  let inBank (g : Nat) : Bool := gBank g == b
  let inPark (g : Nat) : Bool := unGeom s.dram g / 2 ^ 24 == park / 2 ^ 24
  onDram s (fun d =>
    if back then moveAtoms d inPark inBank (fun g => b * 2 ^ 19 + unGeom d g % 2 ^ 24 / 32)
    else moveAtoms d inBank inPark (fun g => geom d (park + 32 * (g % 2 ^ 19))))

/-- Step 1 of a bank test: the atoms named now decode, take their corrected bits, and lose their poison. A byte written since the
error keeps what was written. (DESIGN CHOICE, log entry 62.) -/
def reread (s : State) (b : Nat) (decoded : List Nat) : State :=
  let fix (s : State) (e : Nat × BitVec 256 × BitVec 256) : State :=
    if decoded.contains e.1 && mget false s.dram.poi e.1 then
      let now := bytesAt s.dram.mem (32 * e.1) 32
      let old := natLe 32 e.2.1.toNat
      let red := natLe 32 e.2.2.toNat
      let bs := (List.range 32).map (fun i => if nth 0 now i = nth 0 red i then nth 0 old i else nth 0 now i)
      onDram s (fun d => { d with poi := mput false d.poi e.1 false, mem := putBytes d.mem (32 * e.1) bs })
    else s
  onBank ((bank s.dram b).bad.foldl fix s) b (fun k => { k with bad := k.bad.filter (fun e => !decoded.contains e.1) })

def bankStack (b : Nat) : Nat := b / 2 ^ 12
/-- The die that serves a bank (R298). -/
def bankDie (b : Nat) : Nat := 4 * (b / 16 % 4) + b / 2 ^ 7 % 32 / 8

/-- The fault is lasting: the die is retired when its spare is free, else the bank is held (R298, R398-R400). The second is true
when the die retires. (DESIGN CHOICE, log entry 61.) -/
def lasting (s : State) (b : Nat) : State × Bool :=
  let k := bankStack b
  match mget none s.dram.spare k with
  | none =>
    (rasLog (onDram s (fun d => { d with spare := mput none d.spare k (some (bankDie b)), mark := mput 0 d.mark k 0 })) 0xAB 3
      (17 * k + bankDie b), true)
  | some _ => (rasLog s 0xAC 2 (bankNum b), false)

/-- The self-test `k` has ended: no failed node waits for it any more (R390). -/
def testEnded (s : State) (k : TestKey) : State :=
  onSched s (fun h => { h with nodes := h.nodes.map (fun n => { n with testWait := n.testWait.filter (· != k) }) })

/-- Another bank of the stack stands in the stack's one park area. (DESIGN CHOICE, log entry 61.) -/
def parkTaken (s : State) (b : Nat) : Bool :=
  s.dram.banks.any (fun e => e.1 != b && bankStack e.1 == bankStack b && e.2.parked)

/-- A bank that nobody uses is closed by PRE (R288). -/
def closeBank (s : State) (b : Nat) : State := match (bank s.dram b).row with
  | .host r | .ended r => precharge s b r
  | _ => s

/-- A bank test starts, with no lease request on the bank (R399): atoms read again, then the bank is parked. With no park area
this step alone decides. -/
def execBankTest (b : Nat) (decoded : List Nat) (s : State) : Out :=
  let k := bank s.dram b
  let s1 := reread (bankAll s) b decoded
  let s2 := onBank s1 b (fun k => { k with testReq := false })
  let park := parkBase s (bankStack b)
  event "BANK_TEST" (k.testReq && !k.testing && !k.parked && (park.isNone || !parkTaken s b) &&
      !(stewardAt s (b / 64)).leases.any (fun l => l.bank == b % 64)) s
    (match park with
     | some p => onBank (parkCopy (closeBank s2 b) b p false) b (fun k => { k with testing := true, parked := true })
     | none => testEnded (if (bank s2.dram b).bad.isEmpty then rasLog s2 0xA9 2 (bankNum b) else (lasting s2 b).1) (.bank b))

/-- The march test ends: the contents go back, or the die retires, or the bank stays parked (R399). -/
def execBankTestEnd (b : Nat) (passed : Bool) (s : State) : Out :=
  let k := bank s.dram b
  let home (s : State) : State := match parkBase s (bankStack b) with
    | some p => onBank (parkCopy s b p true) b (fun k => { k with testing := false, parked := false })
    | none => onBank s b (fun k => { k with testing := false })
  event "BANK_TEST_END" k.testing s
    (testEnded (if passed then rasLog (home s) 0xA9 2 (bankNum b)
     else
       let r := lasting s b
       if r.2 then home r.1 else onBank r.1 b (fun k => { k with testing := false })) (.bank b))

/-! ### Core self-tests (R398) -/

/-- Hold a core for its self-test. -/
def holdCore (s : State) (c : Nat) : State := onSched s (fun h => { h with coreTest := (h.coreTest ++ [c]).eraseDups })

/-- The self-test of a core that holds no work ends: it returns to placement, or retires (R122, R398). -/
def execCoreBistEnd (c : Nat) (passed : Bool) (s : State) : Out :=
  let t := testEnded (onSched s (fun h => { h with
    coreTest := h.coreTest.filter (· != c), coreParity := h.coreParity.filter (· != c),
    coreBad := if passed then h.coreBad else (h.coreBad ++ [c]).eraseDups })) (.core c)
  event "CORE_BIST_END" (s.sched.coreTest.contains c && (coreAt s c).node.isNone) s (rasLog t (if passed then 0xA9 else 0xAA) 1 c)

/-- A contained parity error in core state, of a core that a self-test awaits too: the core is held for its self-test, and its band is
pre-empted (R398). -/
def execCoreParityError (c : Nat) (s : State) : Out :=
  event "CORE_PARITY_ERROR" (decide (c < Config.cores) && !s.sched.coreBad.contains c && !s.sched.coreParity.contains c) s
    (onSched (holdCore s c) (fun h => { h with coreParity := h.coreParity ++ [c] }))

/-- A core fault that is not contained, or a context that cannot be saved whole, fails the node (R398, R400). -/
def execCoreFaultNotContained (c : Nat) (s : State) : Out :=
  let k := coreAt s c
  let t := holdCore (rasLog (stopNode s c 0xA4) 0xA4 1 c) c
  event "CORE_FAULT_NOT_CONTAINED" (k.node.isSome && !s.sched.coreBad.contains c) s (match k.node with
    | some id => onNode t id (fun n => { n with testWait := (n.testWait ++ [TestKey.core c]).eraseDups })
    | none => t)

end Sys2Proof.Machine
end

