-- ==== Sys2Proof/Machine/Sched.lean ====
section
/-! DEFINITION. Sched.lean: the scheduler's own operations: descriptors (R335, R336), placement (R340), images (R268, R335), how
a run ends and what its end reports (R110, R115, R337, R338, R390, R397). -/

namespace Sys2Proof.Machine
open Sys2Proof

/-! ### Descriptors (R335, R336) -/

def nEntry (n : Node) : Nat := d64 n.desc 0
def nArg (n : Node) : Nat := d64 n.desc 8
def nSave (n : Node) : Nat := d64 n.desc 0x10
def nDone (n : Node) : Nat := d64 n.desc 0x18
def nImgA (n : Node) : Nat := d64 n.desc 0x20
def nImgB (n : Node) : Nat := d64 n.desc 0x28
def nSlimg (n : Node) : Nat := d64 n.desc 0x30
def nSloff (n : Node) : Nat := dN n.desc 0x38 4
def nSllen (n : Node) : Nat := dN n.desc 0x3C 4

/-- Is the descriptor one that R335 accepts? A program's table that gives no SAVE (R428) stands behind R335. (DEDUCED, log entry 136.) -/
def descOk (d : List Byte) : Bool :=
  let common := zeros d 0x49 1 && zeros d 0x60 32 && zeros d 0xC0 64 && d64 d 0x18 % 32 == 0 && decide (dB d 0x40 ≤ 1) &&
    decide (dB d 0x43 ≤ 63) && dB d 0x44 / 32 % 4 == 0 && decide (dB d 0x45 ≤ 3) && decide (dB d 0x46 ≤ 63) &&
    decide (dB d 0x47 ≤ 16) && decide (dB d 0x48 ≤ 4) && decide (dN d 0x4A 2 ≤ 2047)
  common && (if dB d 0x40 = 0 then
      d64 d 0 % 32 == 0 && decide (1 ≤ dB d 0x41) && decide (dB d 0x41 ≤ 8) && decide (1 ≤ dB d 0x42) &&
        decide (dB d 0x42 ≤ 24) && d64 d 0x10 != 0 && d64 d 0x10 % 2 ^ 21 == 0 && zeros d 0x80 64 &&
        decide (dN d 0x38 4 < 0xFF000) && decide (dN d 0x38 4 + dN d 0x3C 4 ≤ 0xFF000)
    else
      decide (d64 d 0 ≤ 681) && dB d 0x41 == 1 && dB d 0x42 == 1 && dB d 0x48 == 0 && zeros d 0x10 8 && zeros d 0x30 16 &&
        d64 d 0x28 % 24 == 0 && decide (d64 d 0x28 ≤ 16368) && !zeros d 0x80 64)

/-- A footprint entry (R336). -/
def footEntry (bs : List Byte) : Option (Nat × Nat × Nat) :=
  let k := dB bs 16
  if zeros bs 17 7 && decide (1 ≤ k) && decide (k ≤ 3) && decide (1 ≤ d64 bs 8) && decide (d64 bs 8 ≤ 2 ^ 48) then
    some (d64 bs 0, d64 bs 8, k)
  else none

/-- Read a range in a context, for the scheduler, at user level (R335): the bytes with the poison of each, or the cause. -/
def ctxRead (s : State) (ctx : BitVec 16) (va n : Nat) : Except Nat (List (Byte × Bool)) :=
  match ctxPieces s ctx va n .rd with
  | .error x => .error x
  | .ok ps => .ok (ps.flatMap (fun p => (List.range p.len).map (fun i =>
      let r := readPlace s none (p.pl.add i) 1 p.disc
      (r.1.headD 0, r.2))))

/-- The geometry at which an atom stands: its own place, or that of the parked bank that its park area serves (R399). -/
def homeOf (s : State) (g : Nat) : Nat :=
  let pa := unGeom s.dram g
  let hit := (s.dram.banks.filter (fun e => e.2.parked)).filterMap (fun e => match parkBase s (bankStack e.1) with
    | some p => if pa / 2 ^ 24 = p / 2 ^ 24 then some (e.1 * 2 ^ 19 + pa % 2 ^ 24 / 32) else none
    | none => none)
  hit.headD g

/-- The physical address of a byte location, and of an atom. (DEDUCED, log entry 88.) -/
def homePa (s : State) (g : Nat) : Nat := unGeom s.dram (homeOf s g)

/-- A bank that keeps an atom of the stretch has a lease open: it serves no main-die access (R290). -/
def leaseIn (s : State) (pa len : Nat) : Bool :=
  s.dram.banks.any (fun e => match e.2.row with
    | .engine _ => true
    | _ => false) &&
  anyBelow ((len + 31) / 32 + 1) (fun i =>
    let a := (pa / 32 + i) * 32
    decide (a < pa + len) && leased s (.dmem a))

/-- A Steward holds a lease of a row that has an atom in the stretch. -/
def rowLeased (s : State) (pa len : Nat) : Bool :=
  s.stewards.any (fun e => e.2.leases.any (fun l => l.held && anyBelow 32 (fun a =>
    let x := homePa s (rowAtom (64 * e.1 + l.bank) l.row a)
    decide (pa ≤ x) && decide (x < pa + len))))

/-- The banks as an access in a context leaves them, its walks first; none while they do not serve it (R278, R288-R293). -/
def ctxGateOf (s : State) (ctx : BitVec 16) (va n : Nat) (acc : Acc) : Option State :=
  newGate s none (ctxReads s ctx va n ++ (match ctxPieces s ctx va n acc with
    | .ok ps => if acc.writes then [] else ps
    | .error _ => []))

/-- The same of the scheduler's read of a range. -/
def ctxGate (s : State) (ctx : BitVec 16) (va n : Nat) : Option State := ctxGateOf s ctx va n .rd

/-- The footprint of a captured descriptor, or the cause that fails the node (R334, R336). -/
def footOf (s : State) (ctx : BitVec 16) (d : List Byte) : Except Nat (List (Nat × Nat × Nat)) :=
  let n := dB d 0x47
  if n = 0 then .ok []
  else
    match ctxRead s ctx (d64 d 0x58) (24 * n) with
    | .error x => .error x
    | .ok l =>
      if l.any (·.2) then .error 0x93
      else
        match (List.range n).mapM (fun k => footEntry (((l.map (·.1)).drop (24 * k)).take 24)) with
        | some es => .ok es
        | none => .error 0x93

/-! ### Readiness (R338, R339) -/

/-- Nodes that have become ready take their age and start to age. -/
def markReady (s : State) : State :=
  onSched s (fun h => { h with nodes := h.nodes.map (fun n =>
    if ready s n && n.agingFrom.isNone then { n with readyAt := some (n.readyAt.getD s.now), agingFrom := some s.now, aged := 0 }
    else n) })

/-- An event of a node's launching core (R108); a core that is pre-empted takes it at its resume. -/
def postEvent (s : State) (l : Option (Nat × Nat)) (bit : Nat) : State :=
  match l with
  | none => s
  | some (id, num) =>
    match nodeOf s id with
    | none => s
    | some n => if n.cores.isEmpty then onNode s id (fun n => { n with evs := n.evs ++ [(num, bit)] }) else
      if n.gone.contains num then s else setEvent s (some id) num bit

/-! ### The end of a node (R115, R337, R338, R397) -/

/-- The completion record (R337). -/
def recordOf (n : Node) (ok : Bool) (cause : Nat) : List Byte :=
  natLe 8 (n.index.toNat + n.queue * 2 ^ 32) ++ [if ok then 1 else 2, BitVec.ofNat 8 cause, BitVec.ofNat 8 n.tries] ++
    List.replicate 5 0 ++ natLe 8 n.ran ++ List.replicate 8 0

/-- A block that a write of the scheduler meets is live from then on, as zeros (R296). (DEDUCED, log entry 80.) -/
def reviveNow (s : State) (p : Place) : State :=
  match needsRevival s none p with
  | some b => onDram s (fun d => { zeroBlock d b with elided := mput false d.elided b false })
  | none => s

/-- May the device's own controllers write pieces now: no lease, commit in progress or checkpoint is in the way (R278, R290, R404)? -/
def writableNow (s : State) (ps : List Piece) : Bool :=
  ps.all (fun p => !remapped s none p.pl && (match p.pl with
    | .dmem pa => !leaseIn s (redirect s none pa) p.len && !ckptHolds s (redirect s none pa) && !dirtyHeld s (redirect s none pa)
    | _ => true))

/-- A release at SYSTEM before a record (R250, R259, R405): every port but the record's own completes a zero-length read. -/
def systemFlush (s : State) (ps : List Piece) : State :=
  let mine (port : Nat) : Bool := ps.any (fun p => match p.pl with
    | .sys ha _ => hostPortOf s ha == port
    | _ => false)
  onHost s (fun h => { h with posted := h.posted.filter (fun e => mine e.1) })

/-- A write by the device's own controllers to pieces. -/
def deviceWrite (s : State) (ps : List Piece) (bs : List Byte) : State :=
  writePieces (ps.foldl (fun s p => reviveNow s p.pl) s) .device none ps bs false

/-- Write a node's record; where its DONE cannot be written the record is dropped (R337). (DEDUCED, log entry 89.) -/
def writeRecord (s : State) (n : Node) (ok : Bool) (cause : Nat) : State :=
  if nDone n = 0 ∨ nDone n % 32 ≠ 0 then s
  else
    let s := ctxLoad ((ctxGateOf s n.ctx (nDone n) 32 .wr).getD s) n.ctx
    match ctxPieces s n.ctx (nDone n) 32 .wr with
    | .error _ => s
    | .ok ps => deviceWrite (systemFlush s ps) ps (recordOf n ok cause)

/-- The records of the graph's nodes can be written now (R278, R290, R404). -/
def recordsFree (s : State) (id : Nat) : Bool :=
  match nodeOf s id with
  | none => true
  | some n => s.sched.nodes.all (fun m => m.graph != n.graph || m.queue != n.queue || isDone m || nDone m == 0 ||
      ((ctxGateOf s m.ctx (nDone m) 32 .wr).isSome && (match ctxPieces s m.ctx (nDone m) 32 .wr with
       | .ok ps => writableNow s ps
       | .error _ => true)))

def onVec (s : State) (b : Bool) (v : Nat) : State := if b then raiseVec s v else s

/-- The last end of one node: record, event and interrupt (R335, R337). -/
def endOne (s : State) (n : Node) (ok : Bool) (cause : Nat) : State :=
  let s := writeRecord s n ok cause
  let s := onNode s n.id (fun n => { n with st := .done ok cause, cores := [], stewards := [], agingFrom := none, offer := false })
  let s := if nNotify n 0 then postEvent s n.launcher 0 else s
  onVec s (nNotify n 4) (nIvec n)

/-- A graph all of whose nodes have ended is complete once its GLAST node has been captured (R338); its nodes leave the window. -/
def endGraph (s : State) (q graph : Nat) : State :=
  let mine (n : Node) : Bool := n.queue == q && n.graph == graph
  match (s.sched.nodes.filter mine).getLast? with
  | none => s
  | some l =>
    if !nGlast l || !(s.sched.nodes.filter mine).all isDone then s
    else
      let s := if nNotify l 1 then postEvent s l.launcher 1 else s
      let s := onVec s (nNotify l 5) (nIvec l)
      onSched s (fun h => { h with nodes := h.nodes.filter (fun n => !mine n) })

/-- A node of the graph that this one depends on has failed for the last time (R397). -/
def lostBy (s : State) (n : Node) : Bool :=
  s.sched.nodes.any (fun m => m.graph == n.graph && dependsOn n m && (match m.st with
    | .done ok _ => !ok
    | _ => false))

/-- Undispatched nodes of the graph that depend on a failed one, directly or not, in the order of capture (R397). -/
def dependants (s : State) (n : Node) : List Node :=
  let step (l : List Node) (m : Node) : List Node :=
    if m.queue == n.queue && m.graph == n.graph && m.st == .captured && m.tries == 0 && l.any (fun o => dependsOn m o) then l ++ [m] else l
  (s.sched.nodes.foldl step [n]).drop 1

/-- A node ends for the last time, and its graph with it where it was the last (R115, R337, R338, R397). -/
def endNode (s : State) (id : Nat) (ok : Bool) (cause : Nat) : State :=
  match nodeOf s id with
  | none => s
  | some n =>
    let deps := if ok then [] else dependants s n
    let s := endOne s n ok cause
    let s := deps.foldl (fun s m => endOne s m false 0xA5) s
    markReady (endGraph s n.queue n.graph)

/-- Causes that are retried (R390). -/
def retryable (cause : Nat) : Bool := [0x53, 0x62, 0x67, 0x96, 0xA0, 0xA3, 0xA4].contains cause

/-- A run has failed, its work gone: shadows are discarded (R394), then the node waits for its retry or ends (R390, R395). Poison
that a run met was found by an error whose bank test may still be to come: the retry waits for every one that is. (DESIGN CHOICE, log
entry 116.) -/
def failRun (s : State) (id cause : Nat) : State :=
  match nodeOf s id with
  | none => s
  | some n =>
    let mine := s.sched.redir.filter (fun r => r.node == id && !r.global)
    let s := onSched s (fun h => { h with
      redir := h.redir.filter (fun r => !(r.node == id && !r.global)), shfree := h.shfree ++ mine.map (·.pool),
      shwait := h.shwait.filter (fun w => w.node != id) })
    if nRetry n && !n.final && !n.fell && decide (n.tries < 3) && retryable cause then
      let tests := if cause = 0xA0 ∨ cause = 0x67 then ((s.dram.banks.filter (fun e => e.2.testReq || e.2.testing)).map (fun e => TestKey.bank e.1)) else []
      onNode s id (fun n => { n with st := .retry, cores := [], gone := [], stewards := [], saved := [], waits := [], cause := some cause,
                                     aged := 0, agingFrom := none, evs := [], hurt := [], testWait := (n.testWait ++ tests).eraseDups })
    else endNode s id false cause

/-- The node counter has reached zero (R115, R389, R394, R395). -/
def endRun (s : State) (id : Nat) : State :=
  match nodeOf s id with
  | none => s
  | some n =>
    match n.cause with
    | some cause => failRun s id cause
    | none =>
      let s := onSched s (fun h => { h with shwait := h.shwait.filter (fun w => w.node != id) })
      if s.sched.redir.any (fun r => r.node == id && !r.global) then onNode s id (fun n => { n with st := .commit, cores := [], gone := [] })
      else endNode s id true (if n.fell then 0xA2 else 0)

/-- Mark a failure, unless one is marked; of two in one cycle the lower Steward's stands (R324). -/
def markFail (s : State) (id cause : Nat) (steward : Option Nat) : State :=
  onNode s id (fun n =>
    let k := steward.getD 512
    match n.cause with
    | none => { n with cause := some cause, causeAt := (s.now, k) }
    | some _ => if n.causeAt.1 = s.now ∧ k < n.causeAt.2 ∧ n.causeAt.2 < 512 then { n with cause := some cause, causeAt := (s.now, k) } else n)

/-! ### Cores (R110, R189) -/

/-- A physical core with no work; its TLB keeps its entries (R282). -/
def idleCore (s : State) (c : Nat) : State := onCore s c (fun k => { Core.idle with tlb := k.tlb })

/-- A core loses its work; its slice is to be cleared before the core is placed again (R189). (DEDUCED, log entry 91.) -/
def freeCore (s : State) (c : Nat) : State :=
  let cl := Config.clusterOf c
  let s := setCluster s cl (fun u => { u with
    jobs := u.jobs.filter (fun j => j.core != c),
    walks := walkersPass s.now u.walks ((u.walks.map (fun w =>
      { w with waiters := w.waiters.filter (· != c), eng := w.eng.filter (fun e => e.1 != c) })).filter
        (fun w => !(w.waiters.isEmpty && w.eng.isEmpty))) })
  let s := onFab s (fun h => { h with reqs := h.reqs.filter (fun r => r.core != c) })
  onSched (idleCore s c) (fun h => { h with coreClear := (h.coreClear ++ [c]).eraseDups })

/-- Barrier registers of a node, in every cluster, of one gang or of all (R349). -/
def freeBarriers (s : State) (id : Nat) (gang : Option Nat) : State :=
  (List.range Config.clusters).foldl (fun s cl => setCluster s cl (fun u =>
    { u with bars := u.bars.filter (fun b => !(b.node == id && (gang.isNone || gang == some b.gang))) })) s

/-- Accepted writes of a core or of its engine jobs that are not banked (R241). -/
def wqHolds (s : State) (c : Nat) : Bool :=
  s.dram.wq.any (fun e => match e.by_ with
    | .core d _ _ => d == c
    | .job d _ _ => d == c
    | .fabric d _ _ => d == c
    | _ => false)

/-- A request of the core to the fabric is under way; the fetch of slab rows belongs to its matrix job (R367, R368). -/
def fabOut (s : State) (c : Nat) : Bool := s.fab.reqs.any (fun r => r.core == c && (match r.kind with
  | .rows .. => false
  | _ => true))

/-- Nothing that the core issued is outstanding but, where `jobs` is false, its matrix jobs (R110, R210, R226, R245, R368). A job that an
MKAT or a drain stands behind runs to its end first. (DESIGN CHOICE, log entry 128.) -/
def settled (s : State) (c : Nat) (jobs : Bool) : Bool :=
  let k := pruned s c (coreAt s c)
  let free (o : MxOp) : Bool := !jobs && o.kind == .mjob && o.cause.isNone && o.rows == 0 && decide (o.prog < cSlabs o.card)
  k.mem.isEmpty && landed k && k.held.all (fun e => e.data.isSome) && k.cpub.isNone && k.mxq.all free &&
    !(cluster s (Config.clusterOf c)).jobs.any (fun j => j.core == c) && !fabOut s c && !wqHolds s c

/-! ### Placement (R340) -/

/-- Gangs of a placement: their cores. -/
def gangsOf (n : Node) (cores : List Nat) : List (List Nat) :=
  (List.range (nGangs n)).map (fun g => (cores.drop (g * nGang n)).take (nGang n))

def gangOver (n : Node) (g : Nat) : Bool := (List.range (nGang n)).all (fun i => n.gone.contains (g * nGang n + i))

/-- Barrier registers the placement takes in a cluster: none for a gang that has ended (R115). -/
def barsIn (n : Node) (cores : List Nat) (cl : Nat) : Nat :=
  (((List.range (nGangs n)).zip (gangsOf n cores)).filter (fun e => !gangOver n e.1 && e.2.any (fun c => c / 9 == cl))).length * nGbarn n

/-- Is `cores` a placement that R340 allows: whole gangs in clusters with free cores and registers, of a node with a booking in its
clusters first, then in unbooked ones; and the cores that R398 binds in their places? (DESIGN CHOICE, log entry 102.) -/
def placementOk (s : State) (n : Node) (cores : List Nat) : Bool :=
  let cls := (cores.map (· / 9)).eraseDups
  let full (cl : Nat) : Bool :=
    decide (((List.range 9).filter (fun i => coreFree s [] false (9 * cl + i) && !cores.contains (9 * cl + i))).length < nGang n) ||
      decide (freeBars s [] cl < barsIn n cores cl + nGbarn n)
  let back := bound s n
  cores.length == nGang n * nGangs n && cores.eraseDups == cores && cores.all (coreFree s [] false) && !hurtWait s n &&
    back.all (fun e => cores[e.1]? == some e.2) &&
    (gangsOf n cores).all (fun g => (g.map (· / 9)).eraseDups.length == 1) &&
    cls.all (fun cl => allowed s n cl && decide (barsIn n cores cl ≤ freeBars s [] cl)) &&
    (match nBook n with
     | none => true
     | some b =>
       let rank (cl : Nat) : Nat := if (bookingAt s b).clus.getLsbD cl then 0 else if (holders s cl).isEmpty then 1 else 2
       (cls.filter (fun cl => !back.any (fun e => e.2 / 9 == cl))).all (fun cl =>
         (List.range 24).all (fun o => decide (rank cl ≤ rank o) || full o)))

/-- A node that a dispatch would end at once (R330, R343): the cause. -/
def refusedAt (s : State) (n : Node) : Option Nat :=
  match nBook n with
  | some b => if !(bookingAt s b).en || (bookingAt s b).ctx != n.ctx then some 0x94 else ctx
  | none => ctx
where
  ctx : Option Nat := if ctxValid s n.ctx then none else some 0x98

def dispatchable (s : State) (n : Node) : Bool :=
  ready s n && ((refusedAt s n).isSome || (if nKind n = 0 then canPlace s [] false n else stewardsFree s n))

/-- No ready node that could be placed goes before this one (R340). -/
def firstToGo (s : State) (n : Node) : Bool := s.sched.nodes.all (fun m => m.id == n.id || !(dispatchable s m && before s m n))

/-! ### The start of a run (R92, R189, R268, R301, R335) -/

/-- The canonical near-memory layout (R279): row j takes this bit of the atom address. -/
def canonicalBit (j : Nat) : Nat := if 5 ≤ j ∧ j < 19 then j + 4 else if 19 ≤ j ∧ j < 23 then j - 14 else j
def canonicalRows : List (BitVec 34) := (List.range 34).map (fun j => BitVec.ofNat 34 (2 ^ canonicalBit j))

/-- A near-memory region (R286). -/
def nmRegion (s : State) (ctx : BitVec 16) (va : Nat) : Option Nat :=
  match xlCtx s [] ctx (va % 2 ^ 48) .rd with
  | .error x => some x
  | .ok (.dmem pa, _, e) =>
    if e.level = 3 ∧ (regionOf s.dram pa).any (fun r => r.rows == canonicalRows) then none else some 0x1D
  | .ok _ => some 0x1D

/-- A physical core as R92 leaves it. -/
def startCore (s : State) (n : Node) (num : Nat) (entry : Nat) (a b : Bool) : Core :=
  let w (v : Nat) : Word := BitVec.ofNat 64 v
  let regs : SMap Word := [(1, w (nArg n)), (2, w num), (3, w (num / nGang n)), (4, w (num % nGang n)), (5, w (sliceWin + num * 2 ^ 20))]
  let cir := n.tries * 2 ^ 58 + (if n.fell then 2 ^ 60 else 0) + (if n.shdw then 2 ^ 61 else 0)
  { Core.idle with
    node := some n.id, num := num, running := true, pc := BitVec.ofNat 48 entry,
    regs := ⟨regs.filter (fun e => e.2 != 0), [], [], [], []⟩,
    rh := decide (istWin + 2 ^ 14 ≤ entry % 2 ^ 48) && decide (entry % 2 ^ 48 < istWin + 2 ^ 15), isA := a, isB := b,
    csr := { Csrs.reset with tvec := s.host.tvecinit, ctxid := n.ctx, cir := w cir,
                             bookid := match nBook n with
                               | some k => BitVec.ofNat 6 (32 + k)
                               | none => 0 } }

/-- Bytes of an image, or none where the descriptor names none. -/
def image (s : State) (n : Node) (va len : Nat) : Except Nat (Option (List (Byte × Bool))) :=
  if va = 0 then .ok none else
    match ctxRead s n.ctx va len with
    | .ok l => .ok (some l)
    | .error x => .error x

/-- Allot barrier registers to the gangs of a placement (R349). -/
def allotBars (s : State) (n : Node) (cores : List Nat) (init : Nat → Nat → Bool × BitVec 8) : State :=
  ((List.range (nGangs n)).zip (gangsOf n cores)).foldl (fun s e =>
    if gangOver n e.1 then s
    else setCluster s (Config.clusterOf (e.2.headD 0)) (fun u => { u with
      bars := u.bars ++ (List.range (nGbarn n)).map (fun k => BarReg.mk n.id e.1 k (init e.1 k).1 (init e.1 k).2) })) s

/-- An array node starts on `cores`. -/
def startArray (s : State) (n : Node) (cores : List Nat) : State :=
  match image s n (nImgA n) (2 ^ 14), image s n (nImgB n) (2 ^ 14), image s n (nSlimg n) (nSllen n) with
  | .error x, _, _ => failRun s n.id x
  | _, .error x, _ => failRun s n.id x
  | _, _, .error x => failRun s n.id x
  | .ok a, .ok b, .ok sl =>
    let pool := s.sched.shsize != 0
    let n := { n with st := .running, cores := cores, gone := [], placedAt := s.now, begun := s.now, agingFrom := none,
                      cause := none, shdw := nRetry n && pool, fell := nRetry n && !pool, waits := [], offer := false,
                      victim := false, aged := 0, evs := [], saved := [], hurt := [] }
    let half (s : State) (c o : Nat) (i : Option (List (Byte × Bool))) : State :=
      match i with
      | some l => { s with ists := putBytes s.ists (c * 2 ^ 15 + o) (l.map (·.1)) }
      | none => s
    let one (s : State) (e : Nat × Nat) : State :=
      let c := e.2
      let s := { s with ists := mclear s.ists (c * 2 ^ 15) (2 ^ 15), slices := mclear s.slices (c * 2 ^ 20) (2 ^ 20),
                        spoi := mclear s.spoi (c * 2 ^ 15) (2 ^ 15) }
      let s := half (half s c 0 a) c (2 ^ 14) b
      let s := (((List.range (nSllen n)).zip (sl.getD []))).foldl (fun s x => sliceAtom s c (nSloff n + x.1) [x.2.1] x.2.2) s
      onCore s c (fun k => { startCore s n e.1 (nEntry n) a.isSome b.isSome with tlb := k.tlb })
    let s := onNode s n.id (fun _ => n)
    allotBars (((List.range cores.length).zip cores).foldl one s) n cores (fun _ _ => (false, 0))

/-- A near-memory node starts on its Stewards (R286, R301, R335). (DEDUCED, log entry 88.) -/
def startNear (s : State) (n : Node) : State :=
  let region := if d64 n.desc 0x50 = 0 then none else nmRegion s n.ctx (d64 n.desc 0x50)
  let arg : Except Nat Word := if nArg n = 0 then .ok 0 else
    match xlCtx s [] n.ctx (nArg n % 2 ^ 48) .rd with
    | .error x => .error x
    | .ok (.dmem pa, _, _) => .ok (BitVec.ofNat 64 (2 ^ 63 + pa))
    | .ok (.sys ha _, _, _) => .ok (BitVec.ofNat 64 (2 ^ 63 + ha))
    | .ok _ => .ok 0
  match region, (if nImgB n = 0 then .ok [] else ctxRead s n.ctx (nImgA n) (nImgB n)), arg with
  | some x, _, _ => failRun s n.id x
  | _, .error x, _ => failRun s n.id x
  | _, _, .error x => failRun s n.id x
  | none, .ok img, .ok arg =>
    let ids := nSmask n
    let s := onNode s n.id (fun n => { n with st := .running, stewards := ids, left := ids.length, placedAt := s.now, begun := s.now,
                                              aged := 0, agingFrom := none, cause := none })
    ids.foldl (fun s k => setSteward s k (fun t => { Steward.idle with
      node := some n.id, running := true, imem := putBytes [] 0 (img.map (·.1)), pc := nEntry n, arg := arg,
      log := t.log, lost := t.lost, alert := t.alert })) s

end Sys2Proof.Machine
end

