-- ==== Sys2Proof/Machine/SaveArea.lean ====
section
/-! DEFINITION. SaveArea.lean: the save area of a context (R119-R121, R226, R268, R349): what a pre-emption writes and what a
resume reads and checks (R384). Offsets are from the base that the node's descriptor names. -/

namespace Sys2Proof.Machine
open Sys2Proof

/-! ### A range of an area as sparse bytes -/

/-- A stretch of the area: first offset, length, its bytes that are not zero, and the atoms of poisoned data, by offset. -/
structure Seg where
  off : Nat
  len : Nat
  bytes : Bytes
  poi : List Nat
deriving DecidableEq, Repr, Inhabited

/-- Bytes from `off` on that are not zero. -/
def nonZero (off : Nat) (bs : List Byte) : Bytes :=
  (((List.range bs.length).zip bs).filter (fun e => e.2 != 0)).map (fun e => (off + e.1, e.2))

/-- What stands at `len` bytes of device memory from `pa` on, no redirect followed, by offset from `off`. -/
def rawRange (s : State) (off pa len : Nat) : Bytes × List Nat :=
  let at_ (e : Nat) : Option Nat :=
    let a := homePa s (e / 32) + e % 32
    if pa ≤ a ∧ a < pa + len ∧ live s.dram (e / 32) then some (off + (a - pa)) else none
  (mputs 0 [] (s.dram.mem.filterMap (fun e => (at_ e.1).map (fun a => (a, e.2)))), s.dram.poi.filterMap (fun e => at_ (32 * e.1)))

/-- What stands in pieces of memory, by offset from `off`. -/
def rangeGo (s : State) : Nat → List Piece → Bytes × List Nat
  | _, [] => ([], [])
  | off, p :: t =>
    let r := rangeGo s (off + p.len) t
    match p.pl with
    | .dmem pa =>
      let x := rawRange s off (redirect s none pa) p.len
      (x.1 ++ r.1, x.2 ++ r.2)
    | .sys ha _ => ((mslice s.host.sys ha p.len).map (fun e => (off + (e.1 - ha), e.2)) ++ r.1, r.2)
    | _ => r

/-- Read a stretch of the area in the node's context (R335). -/
def areaRead (s : State) (n : Node) (off len : Nat) : Except Nat (Bytes × List Nat) :=
  match ctxPieces s n.ctx (nSave n + off) len .rd with
  | .error x => .error x
  | .ok ps => .ok (rangeGo (bankAll s) off ps)

/-- Bank the accepted writes of a stretch of device memory. -/
def bankInside (s : State) (pa len : Nat) : State :=
  bankWhere s (fun e =>
    let a := homePa s (e.loc / 32) + e.loc % 32
    decide (pa < a + e.bytes.length) && decide (a < pa + len))

/-- Overwrite `len` bytes of device memory from `pa` on, no redirect followed, with the bytes of a stretch: data, poison,
publish states (R36, R264). -/
def rawFill (s : State) (off pa len : Nat) (g : Seg) : State :=
  let s := bankInside (reviveRange s pa len) pa len
  let inside (a n : Nat) : Bool := decide (pa ≤ a) && decide (a + n ≤ pa + len)
  let new := (mslice g.bytes off len).map (fun e => (locOf s (pa + (e.1 - off)), e.2))
  let poi := (g.poi.filter (fun a => decide (off ≤ a) && decide (a < off + len))).map (fun a => (atomOf s (pa + (a - off)), true))
  onDram s (fun d => { d with
    mem := mputs 0 (d.mem.filter (fun e => !inside (homePa s (e.1 / 32) + e.1 % 32) 1)) new,
    poi := mputs false (d.poi.filter (fun e => !inside (homePa s e.1) 32)) poi,
    pub := d.pub.filter (fun e => !(decide (homePa s e.1 < pa + len) && decide (pa < homePa s e.1 + 64))) })

/-- Overwrite one piece with the bytes of a stretch that starts at offset `off` of the area (R285). -/
def pieceFill (s : State) (off : Nat) (p : Piece) (g : Seg) : State :=
  match p.pl with
  | .dmem pa0 =>
    let pa := redirect s none pa0
    rawFill (setDirty s .device pa) off pa p.len g
  | .sys ha _ => onHost s (fun h => { h with
      sys := mputs 0 (mclear h.sys ha p.len) ((mslice g.bytes off p.len).map (fun e => (ha + (e.1 - off), e.2))) })
  | _ => s

def segFill (g : Seg) : State → Nat → List Piece → State
  | s, _, [] => s
  | s, off, p :: t => segFill g (pieceFill s off p g) (off + p.len) t

/-- Write stretches in their order; the first cause stops the save (R335). (DEDUCED, log entry 89.) -/
def areaWrite (n : Node) : State → List Seg → Except Nat State
  | s, [] => .ok s
  | s, g :: t =>
    match ctxPieces s n.ctx (nSave n + g.off) g.len .wr with
    | .error x => .error x
    | .ok ps => areaWrite n (segFill g s g.off ps) t

/-- The banks as a transfer to or from stretches of the area leaves them, none while a checkpoint, a lease or a commit in progress holds
it back (R278, R290-R293, R404). -/
def areaGate (s : State) (n : Node) (acc : Acc) (gs : List (Nat × Nat)) : Option State :=
  gs.foldl (fun o g => o.bind (fun s =>
    let va := nSave n + g.1
    let walks := ctxReads s n.ctx va g.2
    match ctxPieces s n.ctx va g.2 acc with
    | .ok ps => if acc.writes && !writableNow s ps then none else newGate s none (walks ++ ps)
    | .error _ => newGate s none walks)) (some s)
/-- Where a stretch lies in its area, and how long it is. -/
def Seg.span (g : Seg) : Nat × Nat := (g.off, g.len)

/-! ### A core's image -/

/-- A replay or held entry (R119): value, offset, kind, register. (DEDUCED, log entry 87.) -/
def replayEntry (v : List Byte) (off kind reg : Nat) : List Byte :=
  (v ++ List.replicate (256 - v.length) 0) ++ [BitVec.ofNat 8 off, BitVec.ofNat 8 kind, BitVec.ofNat 8 reg] ++ List.replicate 5 0

/-- Exposed results one register each: those of a group have one entry per register. (DEDUCED, log entry 87.) -/
def perReg (e : Exposed) : List Exposed :=
  if e.dst.file != .v then (if (e.dst.regs.headD 64) < 64 then [e] else [])
  else
    let m := 2048 / e.dst.w
    ((List.range e.dst.regs.length).filter (fun j => decide (nth 64 e.dst.regs j < 64))).map (fun j =>
      { e with dst := { e.dst with regs := [nth 64 e.dst.regs j], cnt := min m (e.dst.cnt - j * m) },
               data := e.data.map (fun bs => (bs.drop (256 * j)).take 256) })

def exposedEntry (e : Exposed) : List Byte :=
  let bs := e.data.getD []
  let reg := nth 0 e.dst.regs 0
  match e.dst.file with
  | .s => replayEntry (natLe 8 (extend e.dst.sext e.dst.w (leNat bs)).toNat) e.off 1 reg
  | .v => replayEntry bs e.off 2 reg
  | _ => replayEntry bs e.off 3 reg

/-- A kind-4 entry (R226): the captured card with its progress, its address, token register and place. -/
def mxEntry (pos : Nat) (o : MxOp) : List Byte :=
  let card := if o.started then o.card.take 96 ++ cProgress o.card o.prog 0 ++ o.card.drop 112 else o.card
  replayEntry (card ++ natLe 8 o.addr.toNat) o.tok 4 pos

/-- Entries of `n` bytes each, from `off`. -/
def entriesAt (off n : Nat) (l : List (List Byte)) : Bytes :=
  ((List.range l.length).zip l).flatMap (fun e => nonZero (off + n * e.1) e.2)

/-- Register files by index, `w` bytes each. -/
def regsAt {α : Type} (off w : Nat) (l : List (Nat × α)) (f : α → Nat) : Bytes :=
  l.flatMap (fun e => nonZero (off + w * e.1) (natLe w (f e.2)))

def bitsAt (ks : List Nat) : Nat := (ks.map (2 ^ ·)).sum

/-- Pending copies and deferred records, by register: s, v, p, x, g from bits 0, 64, 96, 104, 120; records as their entries (the spec
gives no places). (DESIGN CHOICE, log entry 84.) -/
def shadowBits (sh : Shadow) : Nat :=
  bitsAt (sh.s.map (·.1) ++ sh.v.map (fun e => 64 + e.1) ++ sh.p.map (fun e => 96 + e.1) ++ sh.x.map (fun e => 104 + e.1) ++
    sh.g.map (fun e => 120 + e.1))
def recBits (sh : Shadow) : Nat := bitsAt (sh.recs.map recIx)

/-- The sequencer block (R120). (DESIGN CHOICE, log entry 84.) -/
def seqBlock (k : Core) : List Byte :=
  let loopB (e : LoopEnt) : List Byte :=
    natLe 8 (e.start.toNat + (if e.rot then 2 ^ 63 else 0)) ++ natLe 8 e.stop.toNat ++ natLe 4 e.count.toNat ++ natLe 4 e.index.toNat
  let pad (n : Nat) (l : List Byte) : List Byte := l ++ List.replicate (n - l.length) 0
  let c := k.csr
  natLe 8 k.pc.toNat ++ natLe 8 (loopst k).toNat ++
    pad 32 (natLe 1 k.evl.toNat ++ natLe 16 (shadowBits k.shadow) ++ natLe 12 (recBits k.shadow)) ++
    pad 144 (k.loops.flatMap loopB) ++ pad 64 (k.calls.flatMap (fun w => natLe 8 w.toNat)) ++
    natLe 8 c.fps.toNat ++ natLe 8 c.fpc.toNat ++ natLe 8 c.cir.toNat ++ natLe 8 c.cause.toNat ++ natLe 8 c.epc.toNat ++
    natLe 8 c.tvec.toNat ++ natLe 8 c.trec.toNat ++ natLe 8 c.cycle.toNat ++ natLe 8 c.ctxid.toNat ++ natLe 8 c.bookid.toNat ++
    natLe 8 k.shadow.fps.toNat ++ [if k.level then 1 else 0, if k.tlevel then 1 else 0] ++ List.replicate 166 0

/-- An entry of the deferred-record area (R121). -/
def recBytes (r : DefRec) : List Byte :=
  natLe 6 r.insn.toNat ++ [3, BitVec.ofNat 8 r.cause] ++ natLe 8 r.seq ++ natLe 8 r.va.toNat ++ natLe 8 r.vb.toNat ++
    natLe 8 r.pred.toNat ++ natLe 8 (r.reg + (if r.dst.file == .v then 2 else 1) * 2 ^ 8 + r.dst.regs.length * 2 ^ 16) ++
    List.replicate 16 0 ++ r.vidx.flatMap (fun v => natLe 256 v.toNat)

/-- Barrier-unit state of a gang (R349). -/
def barBlock (s : State) (n : Node) (g : Nat) : List Byte :=
  let bars := s.clusters.flatMap (fun e => e.2.bars.filter (fun b => b.node == n.id && b.gang == g))
  let reg (k : Nat) : List Byte := match bars.find? (fun b => b.k == k) with
    | some b => natLe 8 (b.arr.toNat + (if b.phase then 2 ^ 63 else 0))
    | none => natLe 8 0
  let wait (j : Nat) : Byte := match n.cores[g * nGang n + j]? with
    | some c => (match (coreAt s c).gwait with
      | some (k, P, _) => if (coreAt s c).node == some n.id then BitVec.ofNat 8 (128 + (if P then 64 else 0) + k) else 0
      | none => 0)
    | none => 0
  (List.range 4).flatMap reg ++ (List.range 8).map wait

def slotCount : Nat := 6

/-- The stretches that a core's save writes. (DEDUCED, log entry 82; DEDUCED, log entry 85.) -/
def coreSegs (s : State) (n : Node) (num : Nat) : List Seg :=
  let c := nth 0 n.cores num
  let k := coreAt s c
  let a := num * 0x180000
  let slice : Seg := ⟨a, 2 ^ 20, (mslice s.slices (c * 2 ^ 20) (2 ^ 20)).map (fun e => (a + (e.1 - c * 2 ^ 20), e.2)),
    (mslice s.spoi (c * 2 ^ 15) (2 ^ 15)).map (fun e => a + 32 * (e.1 - c * 2 ^ 15))⟩
  let bar : List Seg := if num % nGang n = 0 ∧ ¬ gangOver n (num / nGang n) then
      [⟨a + 0x168E00, 0x100, nonZero (a + 0x168E00) (barBlock s n (num / nGang n)), []⟩] else []
  if n.gone.contains num then [slice] ++ bar
  else
    let sh := k.shadow
    let body := regsAt (a + 0x100000) 4 k.tval BitVec.toNat ++ regsAt (a + 0x140000) 2 k.tcnt BitVec.toNat ++
      regsAt (a + 0x160000) 256 k.regs.v BitVec.toNat ++ regsAt (a + 0x162000) 256 sh.v BitVec.toNat ++
      regsAt (a + 0x164000) 8 k.regs.s BitVec.toNat ++ regsAt (a + 0x164200) 8 sh.s BitVec.toNat ++
      regsAt (a + 0x164400) 256 k.lat BitVec.toNat ++ regsAt (a + 0x164A00) 256 k.tlat BitVec.toNat ++
      entriesAt (a + 0x165000) 264 ((k.exposed.flatMap perReg).map exposedEntry ++
        ((List.range k.mxq.length).zip k.mxq).map (fun e => mxEntry e.1 e.2)) ++
      entriesAt (a + 0x167100) 264 ((k.held.flatMap perReg).map exposedEntry)
    let small := regsAt (a + 0x168A00) 8 ((List.range 8).map (fun i => (i, k.regs.rP i))) BitVec.toNat ++
      regsAt (a + 0x168A40) 8 k.regs.x BitVec.toNat ++ regsAt (a + 0x168AC0) 8 k.regs.g BitVec.toNat ++
      regsAt (a + 0x168B00) 8 sh.p BitVec.toNat ++ regsAt (a + 0x168B40) 8 sh.x BitVec.toNat ++
      regsAt (a + 0x168BC0) 8 sh.g BitVec.toNat ++ nonZero (a + 0x168C00) (seqBlock k)
    let code := 0x12000000 + num * 0x10000
    let recs := sh.recs.map (fun r =>
      let o := 0x12C00000 + num * 0x28000 + 0x640 * recIx r
      Seg.mk o 0x640 (nonZero o (recBytes r)) [])
    [slice, ⟨a + 0x100000, 0x689C0, body, []⟩, ⟨a + 0x168A00, 0x400, small, []⟩] ++ bar ++
      [⟨code, 0x8008, (mslice s.ists (c * 2 ^ 15) (2 ^ 15)).map (fun e => (code + (e.1 - c * 2 ^ 15), e.2)) ++
        nonZero (code + 0x8000) [BitVec.ofNat 8 ((if k.isA then 1 else 0) + (if k.isB then 2 else 0))], []⟩] ++ recs

/-- What the layouts give no place. (DESIGN CHOICE, log entry 86.) -/
def residOf (k : Core) : Resid :=
  { num := k.num, memNext := k.memNext, traps := k.postTrap, poi := k.shadow.poi, retry := k.shadow.retry, fdz := k.shadow.fdz,
    latBoost := k.latBoost, tlatBoost := k.tlatBoost, exposed := k.exposed.flatMap perReg, held := k.held.flatMap perReg,
    mx := k.mxq, recs := k.shadow.recs.map (fun r => (recIx r, r.dst)) }

/-! ### Reading it back -/

/-- Little-endian fields of an area. -/
def fld (m : Bytes) (off n : Nat) : Nat := leNat (bytesAt m off n)

/-- Entries of a register file that are not zero. -/
def regsFrom {α : Type} [DecidableEq α] (m : Bytes) (off w cnt : Nat) (z : α) (f : Nat → α) : SMap α :=
  let ks := ((mslice m off (w * cnt)).map (fun e => (e.1 - off) / w)).eraseDups
  ks.foldl (fun t i => mput z t i (f (fld m (off + w * i) w))) []

/-- A replay or held entry read back: the place and marks of the result it was saved for, where they agree with it. (DESIGN CHOICE, log entry 86.) -/
def exposedFrom (m : Bytes) (off : Nat) (was : Option Exposed) : Option Exposed :=
  let kind := fld m (off + 257) 1
  let reg := fld m (off + 258) 1
  let o := fld m (off + 256) 1
  let file : RFile := if kind = 1 then .s else if kind = 2 then .v else .x
  if kind = 0 ∨ 3 < kind then none
  else
    let full : LateDst := ⟨file, [reg], if kind = 1 then 64 else if kind = 2 then 64 else 12, 32, false, 3, false⟩
    let old := was.filter (fun e => e.dst.file == file && e.dst.regs == [reg])
    let dst := match old with
      | some e => if kind = 2 then e.dst else { full with boost := e.dst.boost }
      | none => full
    some { kind := (old.map (·.kind)).getD (if kind = 3 then .scld else .ldr), dst := dst, off := o, id := 0,
           data := some (bytesAt m off (if kind = 1 then 8 else if kind = 2 then 256 else 2)),
           poi := (old.map (·.poi)).getD false, boosted := (old.map (·.boosted)).getD false }

def entriesFrom (m : Bytes) (off cnt : Nat) (was : List Exposed) : List Exposed :=
  (List.range cnt).filterMap (fun i => exposedFrom m (off + 264 * i) was[i]?)

/-- Matrix jobs of kind-4 entries, in their places (R226). -/
def mxFrom (m : Bytes) (off : Nat) (was : List MxOp) : List MxOp :=
  let es := (List.range 32).filter (fun i => fld m (off + 264 * i + 257) 1 == 4)
  let at_ (p : Nat) : Option MxOp := (es.find? (fun i => fld m (off + 264 * i + 258) 1 == p)).map (fun i =>
    let card := bytesAt m (off + 264 * i) 128
    { (was[p]?).getD default with
      kind := .mjob, card := card, addr := BitVec.ofNat 64 (fld m (off + 264 * i + 128) 8), tok := fld m (off + 264 * i + 256) 1,
      started := false, prog := cStart card, rows := 0, cause := none, buf := [] })
  (List.range 8).filterMap at_

/-- Is a tagged record one that R121 accepts? -/
def recOk (m : Bytes) (off : Nat) : Bool :=
  let d := fld m (off + 0x28) 8
  let G := d / 2 ^ 16 % 256
  let reg := d % 256
  fld m (off + 6) 1 == 3 && [1, 8, 10, 11].contains (fld m off 1) && decide (fld m (off + 7) 1 ≤ 0xBF) &&
    decide (1 ≤ G) && decide (G ≤ 6) &&
    (if d / 2 ^ 8 % 256 = 1 then decide (reg < 64) else d / 2 ^ 8 % 256 == 2 && decide (reg + G ≤ 32))

def recFrom (m : Bytes) (off : Nat) (was : List (Nat × LateDst)) : DefRec :=
  let d := fld m (off + 0x28) 8
  let G := d / 2 ^ 16 % 256
  let file : RFile := if d / 2 ^ 8 % 256 = 2 then .v else .s
  let regs := (List.range (if file == .v then G else 1)).map (fun i => d % 256 + i)
  let insn := BitVec.ofNat 48 (fld m off 6)
  let x := lfOf insn
  let t := ty? x.ty
  let pred := BitVec.ofNat 16 (fld m (off + 0x20) 8)
  { reg := d % 256, insn := insn, cause := fld m (off + 7) 1, seq := fld m (off + 8) 8, va := BitVec.ofNat 64 (fld m (off + 0x10) 8),
    vb := BitVec.ofNat 64 (fld m (off + 0x18) 8), pred := pred,
    dst := ((was.find? (fun e => e.2.file == file && e.1 == (if file == .v then 64 else 0) + d % 256 &&
        e.2.regs.length == regs.length)).map (·.2)).getD
      ⟨file, regs, t.w, if file == .v then active pred t.w (grp x.gs) else 1, t.isI, 3, true⟩,
    vidx := if fld m off 1 = 11 then (List.range G).map (fun i => BitVec.ofNat 2048 (fld m (off + 0x40 + 256 * i) 256)) else [] }

/-- The numbers of set bits. -/
def bitList (w n : Nat) : List Nat := (List.range w).filter (fun i => n / 2 ^ i % 2 == 1)

/-- A restored context passes R384. -/
def areaOk (m : Bytes) (num : Nat) : Bool :=
  let a := num * 0x180000
  let q := a + 0x168C00
  let lp := fld m (q + 8) 8
  let kinds := (List.range 32).map (fun i => fld m (a + 0x165000 + 264 * i + 257) 1) ++
    (List.range 24).map (fun i => fld m (a + 0x167100 + 264 * i + 257) 1)
  fld m q 8 % 32 == 0 && decide (lp / 2 ^ 32 % 1024 ≤ 512) && decide (lp / 2 ^ 28 % 16 ≤ 8) && decide (lp / 2 ^ 25 % 8 ≤ 6) &&
    decide (fld m (q + 0x158) 1 ≤ 1) && decide (fld m (q + 0x159) 1 ≤ 1) && kinds.all (fun k => decide (k ≤ 4)) &&
    (bitList 96 (fld m (q + 0x21) 12)).all (fun K => recOk m (0x12C00000 + num * 0x28000 + 0x640 * K))

/-- Records in issue order (R113). -/
def recInsert (r : DefRec) : List DefRec → List DefRec
  | [] => [r]
  | e :: t => if r.seq ≤ e.seq then r :: e :: t else e :: recInsert r t
def recSort (l : List DefRec) : List DefRec := l.foldr recInsert []

/-- The core that an area holds (R117, R119-R121). (DEDUCED, log entry 82.) -/
def coreFrom (m : Bytes) (n : Node) (num : Nat) (r : Resid) : Core :=
  let a := num * 0x180000
  let q := a + 0x168C00
  let code := 0x12000000 + num * 0x10000
  let lp := fld m (q + 8) 8
  let bits := fld m (q + 0x11) 16
  let b (w off n : Nat) : BitVec w := BitVec.ofNat w (fld m off n)
  let sh : Shadow := { s := (bitList 64 bits).map (fun i => (i, b 64 (a + 0x164200 + 8 * i) 8)),
                       v := (bitList 32 (bits / 2 ^ 64)).map (fun i => (i, b 2048 (a + 0x162000 + 256 * i) 256)),
                       p := (bitList 8 (bits / 2 ^ 96)).map (fun i => (i, b 16 (a + 0x168B00 + 8 * i) 8)),
                       x := (bitList 16 (bits / 2 ^ 104)).map (fun i => (i, b 12 (a + 0x168B40 + 8 * i) 8)),
                       g := (bitList 8 (bits / 2 ^ 120)).map (fun i => (i, b 64 (a + 0x168BC0 + 8 * i) 8)),
                       recs := recSort ((bitList 96 (fld m (q + 0x21) 12)).map (fun K =>
                         recFrom m (0x12C00000 + num * 0x28000 + 0x640 * K) r.recs)),
                       fps := b 6 (q + 0x150) 1, fdz := r.fdz, retry := r.retry, poi := r.poi }
  let loops := (List.range (lp / 2 ^ 25 % 8)).map (fun i =>
    let o := q + 0x30 + 24 * i
    LoopEnt.mk (b 48 o 8) (b 48 (o + 8) 8) (b 32 (o + 16) 4) (b 32 (o + 20) 4) (decide (2 ^ 63 ≤ fld m o 8)))
  let mx := mxFrom m (a + 0x165000) r.mx
  { Core.idle with
    node := some n.id, num := num, running := true, pc := b 48 q 8,
    regs := { s := (regsFrom m (a + 0x164000) 8 64 0 (BitVec.ofNat 64)).filter (fun e => e.1 != 0),
              v := regsFrom m (a + 0x160000) 256 32 0 (BitVec.ofNat 2048),
              p := (List.range 8).foldl (fun t i => mput 0xE000 t i (b 16 (a + 0x168A00 + 8 * i) 8)) [],
              x := regsFrom m (a + 0x168A40) 8 16 0 (BitVec.ofNat 12), g := regsFrom m (a + 0x168AC0) 8 8 0 (BitVec.ofNat 64) },
    lat := regsFrom m (a + 0x164400) 256 6 0 (BitVec.ofNat 2048), latBoost := r.latBoost,
    tlat := regsFrom m (a + 0x164A00) 256 6 0 (BitVec.ofNat 2048), tlatBoost := r.tlatBoost,
    loops := loops, calls := (List.range (lp / 2 ^ 28 % 16)).map (fun i => b 64 (q + 0xC0 + 8 * i) 8),
    cspl := lp / 2 ^ 32 % 1024, rb := BitVec.ofNat 3 (lp / 2 ^ 22), rh := lp / 2 ^ 21 % 2 == 1, evl := b 8 (q + 0x10) 1 &&& 31,
    shadow := sh,
    csr := { fps := b 6 (q + 0x100) 8, fpc := b 7 (q + 0x108) 8, cir := b 64 (q + 0x110) 8 &&& 0x3C00FFFF00FF0003,
             cause := b 8 (q + 0x118) 8, epc := b 48 (q + 0x120) 8 &&& 0xFFFFFFFFFFE0, tvec := b 48 (q + 0x128) 8 &&& 0xFFFFFFFFFF00,
             trec := b 64 (q + 0x130) 8 &&& trecRW, cycle := b 64 (q + 0x138) 8, ctxid := b 16 (q + 0x140) 8, bookid := b 6 (q + 0x148) 8 },
    level := fld m (q + 0x158) 1 == 1, tlevel := fld m (q + 0x159) 1 == 1,
    exposed := entriesFrom m (a + 0x165000) 32 r.exposed, held := entriesFrom m (a + 0x167100) 24 r.held,
    postTrap := r.traps, tval := regsFrom m (a + 0x100000) 4 65536 0 (BitVec.ofNat 32),
    tcnt := regsFrom m (a + 0x140000) 2 65536 0 (BitVec.ofNat 16), mxq := mx, busy := tileMask (mx.flatMap (fun o => cTiles o.card)),
    pendS := mx.map (·.tok), memNext := r.memNext,
    isA := fld m (code + 0x8000) 1 % 2 == 1, isB := fld m (code + 0x8000) 1 / 2 % 2 == 1 }

end Sys2Proof.Machine
end

