-- ==== Sys2Proof/Machine/SchedEvents.lean ====
section
/-! DEFINITION. SchedEvents.lean: what the scheduler does on its own: capture (R333, R334), dispatch (R340), aging (R339),
pre-emption and resume (R117, R341), spares (R122), locks (R350), counters (R115), nodes that stop (R383) and retries (R390). -/

namespace Sys2Proof.Machine
open Sys2Proof

/-- A Steward is halted with status 0xFF (R324, R331, R335). -/
def killSteward (s : State) (k cause : Nat) : State :=
  setSteward s k (fun t => { t with running := false, done := some (t.done.getD (0xFF, some cause)), stallSince := none })

/-- Entries made eligible by an accepted doorbell or a LAUNCH (R333, R345). (DEDUCED, log entry 73.) -/
def eligible (u : Queue) : Bool := u.head != u.tail && (u.en || u.drainTo.any (fun t => t != u.head))

/-- A context that is ending: by CTXKILL, or with every other at a start (R331, R416). -/
def dying (s : State) (x : BitVec 16) : Bool := s.sched.killing == some x || s.host.state == 1

/-- A band whose context ends stops, and is not retried. -/
def endBand (n : Node) : Node :=
  match n.st with
  | .done .. | .commit => n
  | .stopping _ => { n with final := true }
  | .running => if nKind n = 0 then { n with st := .stopping 0x98, final := true } else { n with final := true }
  | _ => { n with st := .stopping 0x98, final := true }

/-- The next step of R331 for the contexts that are ending, once those before it are over: bands stop when no undispatched node is left,
Stewards halt when no band is, bookings go when no Steward is. (DEDUCED, log entry 76.) -/
def killNext (s : State) : State :=
  let mine (n : Node) : Bool := dying s n.ctx && !isDone n
  let waits (n : Node) : Bool := mine n && (n.st == .captured || n.st == .retry || (match n.st with
    | .stopping _ => n.cores.isEmpty && n.stewards.isEmpty && n.cause == some 0x98
    | _ => false))
  if s.sched.killing.isNone && s.host.state != 1 then s
  else if s.sched.nodes.any waits || s.sched.queues.any (fun e => dying s e.2.ctx && eligible e.2) then s
  else
    let s := onSched s (fun h => { h with nodes := h.nodes.map (fun n => if mine n then endBand n else n) })
    if s.sched.nodes.any (fun n => dying s n.ctx && !isDone n && nKind n == 0 && n.st != .commit) then s
    else
      let on (t : Steward) : Bool := (t.node.bind (nodeOf s)).any (fun n => dying s n.ctx)
      let s := ((s.stewards.filter (fun e => e.2.running && on e.2)).map (·.1)).foldl (fun s k => killSteward s k 0x98) s
      if s.stewards.any (fun e => on e.2) then s
      else onSched s (fun h => { h with bookings := h.bookings.map (fun e =>
        if dying s e.2.ctx then (e.1, { e.2 with en := false, stage := e.2.stage &&& ~~~(1 : Word) }) else e) })

/-- A scheduler event: nodes that have become ready are marked, and an end of contexts goes on. -/
def schedO (name : String) (s : State) (o : Option State) : Out := eventO name s (o.map (fun t => markReady (killNext t)))

/-! ### Capture (R333, R334) -/

/-- A node as it enters the window: nothing run. -/
def newNode (s : State) (q : Nat) (u : Queue) (d : List Byte) : Node :=
  { id := s.sched.nodeNext, queue := q, index := u.head, ctx := u.ctx, desc := d, foot := [],
    launcher := (u.from_.find? (fun e => e.1 == u.head.toNat)).map (·.2), graph := u.graph,
    prio := min (dB d 0x43) u.pmax.toNat, aged := 0, st := .captured, readyAt := none, agingFrom := none, placedAt := 0, begun := 0,
    ran := 0, cores := [], gone := [], stewards := [], left := 0, tries := 0, cause := none, causeAt := (0, 0), final := false,
    shdw := false, fell := false, waits := [], offer := false, victim := false, testWait := [], evs := [], saved := [], hurt := [] }

def afterCapture (n : Node) (u : Queue) : Queue :=
  { u with head := u.head + 1, from_ := u.from_.filter (fun e => e.1 != u.head.toNat),
           graph := if nGlast n then u.graph + 1 else u.graph,
           drainTo := if u.drainTo == some (u.head + 1) then none else u.drainTo }

/-- A captured node that fails its checks ends at once, and is not retried (R334-R336, R340), and so does one that depends on a failed
node of its graph (R397), or whose context is ending (R331). (DEDUCED, log entry 74; DEDUCED, log entry 75.) -/
def checkNode (s : State) (n : Node) (poisoned : Bool) : Option State :=
  let fail (x : Nat) : Option State := if recordsFree s n.id then some (endNode s n.id false x) else none
  if dying s n.ctx then fail 0x98
  else if poisoned || !descOk n.desc then fail 0x93
  else
    match footOf s n.ctx n.desc with
    | .error x => fail x
    | .ok f =>
      let s := onNode s n.id (fun n => { n with foot := f })
      if lostBy s { n with foot := f } then (if recordsFree s n.id then some (endNode s n.id false 0xA5) else none)
      else if nKind n = 0 && !shapeOk s n then (if recordsFree s n.id then some (endNode s n.id false 0x95) else none) else some s

/-- Capture the next entry of queue `q`. (DEDUCED, log entry 74; DEDUCED, log entry 75.) -/
def captureNode (s : State) (q : Nat) : Option State :=
  let u := queueAt s q
  let pa := entryPa u u.head
  let r := dRead s none pa 256 true
  let n := newNode s q u r.1
  if 256 ≤ q || !eligible u || decide (64 ≤ (s.sched.nodes.filter (fun m => m.queue == q && !isDone m)).length) then none
  else
    ((newGate s none [⟨.dmem pa, 256, true⟩]).bind (fun s =>
      if dB r.1 0x47 = 0 ∨ 16 < dB r.1 0x47 then some s else ctxGate s u.ctx (d64 r.1 0x58) (24 * dB r.1 0x47))).bind (fun s =>
    let s := onSched (setQueue s q (afterCapture n)) (fun h => { h with nodes := h.nodes ++ [n], nodeNext := h.nodeNext + 1 })
    checkNode (if dB r.1 0x47 = 0 then s else ctxLoad s u.ctx) n r.2)

def execNodeCapture (q : Nat) (s : State) : Out := schedO "NODE_CAPTURE" s (captureNode s q)

/-! ### Dispatch (R330, R335, R340, R343) -/

/-- The banks as the reads of a node's images and the walks of its region and argument leave them, none while they do not serve them
(R290). -/
def imagesGate (s : State) (n : Node) : Option State :=
  let img (s : State) (va len : Nat) : Option State := if va = 0 then some s else ctxGate s n.ctx va len
  if nKind n = 0 then
    (img s (nImgA n) (2 ^ 14)).bind (fun s => (img s (nImgB n) (2 ^ 14)).bind (fun s => img s (nSlimg n) (nSllen n)))
  else
    let walked (s : State) (va : Nat) : Option State := if va = 0 then some s else ctxGateOf s n.ctx va 1 .wr
    (walked s (d64 n.desc 0x50)).bind (fun s => (walked s (nArg n)).bind (fun s =>
      if nImgB n = 0 then some s else ctxGate s n.ctx (nImgA n) (nImgB n)))

def dispatch (s0 : State) (id : Nat) (cores : List Nat) : Option State :=
  (nodeOf s0 id).bind (fun n =>
    let s := ctxLoad s0 n.ctx
    if n.st != .captured || !ready s n || !firstToGo s n || !recordsFree s id then none
    else
      match refusedAt s n with
      | some cause => some (failRun s id cause)
      | none =>
        (imagesGate s n).bind (fun s =>
          if nKind n = 0 then (if placementOk s n cores then some (startArray s n cores) else none)
          else if stewardsFree s n && cores.isEmpty then some (startNear s n)
          else none))

/-- DESIGN CHOICE, log entry 102. -/
def execNodeDispatch (id : Nat) (cores : List Nat) (s : State) : Out := schedO "NODE_DISPATCH" s (dispatch s id cores)

/-- After 64 (k + 1) µs of waiting a ready node stands at its priority plus k (R339). (DEDUCED, log entry 64.) -/
def execPriorityAging (id : Nat) (s : State) : Out :=
  schedO "PRIORITY_AGING" s ((nodeOf s id).bind (fun n =>
    match n.agingFrom with
    | none => none
    | some t =>
      let k := (s.now - t) / 128000 - 1
      let a := min (n.prio + k) (ceilOf s n)
      if ready s n && decide (1 ≤ k) && a != n.aged then some (onNode s id (fun n => { n with aged := a })) else none))

/-! ### Pre-emption (R117, R341) -/

/-- Does a core of the band wait, parked, in an SWAIT.INH whose owner word names the context (R350)? -/
def waitsFor (s : State) (n : Node) (ctx : BitVec 16) : Bool :=
  n.cores.any (fun c => (coreAt s c).node == some n.id && (match (coreAt s c).park with
    | some ⟨.swait _ _ _ (some w), _, _, _, none, _⟩ => w.getLsbD 63 && w.extractLsb' 0 16 == ctx
    | _ => false))

/-- Cores of a band that have not retired, with their numbers. -/
def liveOf (n : Node) : List (Nat × Nat) := ((List.range n.cores.length).zip n.cores).filter (fun e => !n.gone.contains e.1)

/-- A core has been parked for 2 µs (R350). -/
def longParked (s : State) (c : Nat) : Bool :=
  let k := coreAt s c
  match k.gwait, k.park with
  | some (_, _, t), _ => decide (t + 4000 ≤ s.now)
  | none, some p => p.res.isNone && decide (p.since + 4000 ≤ s.now) && (match p.kind with
    | .sysAtom .. => false
    | _ => true)
  | none, none => false

/-- Every core of the band is parked, and has been for 2 µs (R350). -/
def allParked (s : State) (n : Node) : Bool := !(liveOf n).isEmpty && (liveOf n).all (fun e => longParked s e.2)

/-- May node `m` take the cores of the band `n` (R341)? (DEDUCED, log entry 65.) -/
def victimOf (s : State) (m n : Node) : Bool :=
  n.st == .running && nKind n == 0 && n.id != m.id &&
    ((decide (effP s n < effP s m) && n.cores.all (fun c => allowed s m (c / 9))) ||
     (match nBook m with
      | some b => (bookingAt s b).en && (bookingAt s b).ctx == m.ctx && n.ctx != m.ctx &&
          n.cores.any (fun c => (bookingAt s b).clus.getLsbD (c / 9))
      | none => false) ||
     (n.victim && allParked s n && waitsFor s n m.ctx))

/-- The order of victims: the lowest effective priority, then the most recently placed. -/
def victimFirst (s : State) (a b : Node) : Bool :=
  decide (effP s a < effP s b) || (effP s a == effP s b && (decide (b.placedAt < a.placedAt) ||
    (a.placedAt == b.placedAt && decide (b.id < a.id))))

/-- Is `n` the next band to go for node `m`, the bands on their way out counted as gone? -/
def nextVictim (s : State) (m n : Node) : Bool :=
  let going := (s.sched.nodes.filter (fun o => o.st == .draining)).map (·.id)
  let vs := s.sched.nodes.filter (victimOf s m)
  ready s m && nKind m == 0 && !canPlace s going true m && canPlace s (going ++ vs.map (·.id)) true m && victimOf s m n &&
    vs.all (fun o => o.id == n.id || !victimFirst s o n)

/-- Is there a reason to pre-empt the band (R109, R341, R350, R398)? -/
def preemptFor (s : State) (n : Node) (why : PreemptWhy) : Bool :=
  match why with
  | .yielded => n.offer
  | .forNode m => (nodeOf s m).any (fun m => nextVictim s m n)
  | .atLock m => n.victim && allParked s n && (nodeOf s m).any (fun m => waitsFor s n m.ctx && nextVictim s m n)
  | .parity c => s.sched.coreParity.contains c && n.cores.contains c

/-- A core has stopped at a boundary with nothing of its own left to end (R116, R117, R210, R226, R245). -/
def stoppedCore (s : State) (c : Nat) : Bool :=
  let k := coreAt s c
  settled s c false && !k.retiring && !k.postTrap.any (fun e => e.1 == k.level) && !frozen k &&
    (match k.park with
     | some p => p.res.isNone && (match p.kind with
       | .sysAtom .. => false
       | _ => true)
     | none => true)

/-- Started jobs record their progress in their cards (R226); a write that must wait is asked for. -/
def recordProgress (s : State) : List (Nat × MxOp) → Gate × State
  | [] => (.go, s)
  | (c, o) :: t =>
    if !o.started then recordProgress s t
    else
      match progressWrite s c o (cProgress o.card o.prog 0) with
      | (.ok (.wait u), _) => (.wait u, s)
      | (.ok .go, s) => recordProgress (bankWhere s (fun e => e.by_ == o.writer c)) t
      | (.error _, _) => recordProgress s t

/-- The wait at which a core stopped, where it names a lock (R350). -/
def savedWait (s : State) (e : Nat × Nat) : Option (Nat × SavedWait) :=
  match (coreAt s e.2).park with
  | some ⟨.swait va pl thr (some w), _, dl, _, _, _⟩ => some (e.1, ⟨some (va, pl, thr, some w), dl⟩)
  | _ => none

/-- Every core of the band is freed, and its barrier registers (R110, R117, R349). -/
def freeBand (s : State) (n : Node) : State := freeBarriers (n.cores.foldl freeCore s) n.id none

/-- The context-save engine saves a band whose cores have all stopped (R117, R119). (DEDUCED, log entry 66.) -/
def saveBand (s0 : State) (n : Node) : Option State :=
  let s := ctxLoad s0 n.ctx
  let lives := liveOf n
  if !lives.all (fun e => stoppedCore s e.2) || !recordsFree s n.id then none
  else
    match recordProgress s (lives.flatMap (fun e => (coreAt s e.2).mxq.map (fun o => (e.2, o)))) with
    | (.wait u, _) => some u
    | (.go, s) =>
      let segs := (List.range n.cores.length).flatMap (coreSegs s n)
      (areaGate s n .wr (segs.map Seg.span)).bind (fun s =>
        let hurt := lives.filter (fun e => s.sched.coreParity.contains e.2)
        let s := onSched s (fun h => { h with coreParity := h.coreParity.filter (fun c => !hurt.any (fun e => e.2 == c)) })
        match areaWrite n s segs with
        | .error x =>
          let s := hurt.foldl (fun s e => rasLog s 0xA4 1 e.2) s
          let s := onNode (freeBand s n) n.id (fun n => { n with testWait := (n.testWait ++ hurt.map (fun e => TestKey.core e.2)).eraseDups })
          some (failRun s n.id (if hurt.isEmpty then x else 0xA4))
        | .ok t =>
          let ws := lives.filterMap (savedWait s)
          let saved := lives.map (fun e => residOf (coreAt s e.2))
          some (onNode (freeBand t n) n.id (fun n => { n with
            st := if ws.isEmpty then .preempted else .waiting, cores := [], ran := n.ran + (s.now - n.placedAt), waits := ws,
            saved := saved, offer := false, victim := false, aged := 0, agingFrom := none, hurt := hurt })))

/-- A band is told to stop, and once it has stopped it is saved. (DEDUCED, log entry 66.) -/
def preempt (s : State) (id : Nat) (why : PreemptWhy) : Option State :=
  (nodeOf s id).bind (fun n =>
    match n.st with
    | .running => if nKind n == 0 && preemptFor s n why then some (onNode s id (fun n => { n with st := .draining, offer := false })) else none
    | .draining => saveBand s n
    | _ => none)

def execPreemption (id : Nat) (why : PreemptWhy) (s : State) : Out := schedO "PREEMPTION" s (preempt s id why)

/-! ### Resume (R117, R384) -/

/-- The stretches a resume reads: the cores' own, then their code. -/
def coreParts (n : Node) : List (Nat × Nat) :=
  let nums := List.range (nGang n * nGangs n)
  nums.flatMap (fun i =>
      let a := i * 0x180000
      [(a, 2 ^ 20)] ++ (if n.gone.contains i then [] else [(a + 0x100000, 0x689C0), (a + 0x168A00, 0x400)]) ++
        (if i % nGang n = 0 ∧ ¬ gangOver n (i / nGang n) then [(a + 0x168E00, 0x100)] else [])) ++
    (nums.filter (fun i => !n.gone.contains i)).map (fun i => (0x12000000 + i * 0x10000, 0x8008))

/-- The deferred records whose tags the sequencer blocks hold. -/
def tagged (n : Node) (m : Bytes) : List (Nat × Nat) :=
  ((List.range (nGang n * nGangs n)).filter (fun i => !n.gone.contains i)).flatMap (fun i =>
    (bitList 96 (fld m (i * 0x180000 + 0x168C21) 12)).map (fun K => (0x12C00000 + i * 0x28000 + 0x640 * K, 0x640)))

/-- Read stretches of ascending offsets. -/
def readAll (s : State) (n : Node) : List (Nat × Nat) → Except Nat (Bytes × List Nat)
  | [] => .ok ([], [])
  | (o, len) :: t =>
    match areaRead s n o len, readAll s n t with
    | .ok a, .ok b => .ok (a.1 ++ b.1, a.2 ++ b.2)
    | .error x, _ => .error x
    | _, .error x => .error x

/-- The cause of a stretch that cannot be read, or the whole area. -/
def readArea (s : State) (n : Node) : Except Nat (Bytes × List Nat) :=
  match readAll s n (coreParts n) with
  | .error x => .error x
  | .ok a =>
    match readAll s n (tagged n a.1) with
    | .error x => .error x
    | .ok b => .ok (a.1 ++ b.1, a.2 ++ b.2)

/-- One core of the band back on physical core `c`. (DEDUCED, log entry 83.) -/
def restoreCore (m : Bytes) (poi : List Nat) (n : Node) (s : State) (e : Nat × Nat) : State :=
  let (i, c) := e
  let a := i * 0x180000
  let code := 0x12000000 + i * 0x10000
  let bytes := (mslice m a (2 ^ 20)).map (fun x => (c * 2 ^ 20 + (x.1 - a), x.2))
  let bad := (poi.filter (fun o => decide (a ≤ o) && decide (o < a + 2 ^ 20))).map (fun o => (c * 2 ^ 15 + (o - a) / 32, true))
  let s := { s with slices := mputs 0 (mclear s.slices (c * 2 ^ 20) (2 ^ 20)) bytes,
                    spoi := mputs false (mclear s.spoi (c * 2 ^ 15) (2 ^ 15)) bad }
  if n.gone.contains i then onSched s (fun h => { h with coreClear := (h.coreClear ++ [c]).eraseDups })
  else
    let half := (mslice m code (2 ^ 15)).map (fun x => (c * 2 ^ 15 + (x.1 - code), x.2))
    let s := { s with ists := mputs 0 (mclear s.ists (c * 2 ^ 15) (2 ^ 15)) half }
    let g := i / nGang n
    let w := fld m (g * nGang n * 0x180000 + 0x168E20 + i % nGang n) 1
    let k := coreFrom m n i ((n.saved.find? (fun r => r.num == i)).getD default)
    let hits := (poi.filter (fun o => decide (a + 2 ^ 20 ≤ o) && decide (o < a + 0x180000))).length
    let k := (List.range hits).foldl (fun k _ => consume k) k
    let owed : Option Word := (n.waits.find? (fun w => w.1 == i)).bind (fun w => w.2.swait.bind (·.2.2.2))
    onCore s c (fun o => { k with gwait := if 128 ≤ w then some (w % 4, decide (64 ≤ w % 128), s.now) else none, owed := owed, tlb := o.tlb })

def resume (s0 : State) (id : Nat) (cores : List Nat) : Option State :=
  (nodeOf s0 id).bind (fun n =>
    let s := ctxLoad s0 n.ctx
    if n.st != .preempted || !ready s n || !firstToGo s n || !recordsFree s id then none
    else if (refusedAt s n).isSome then (refusedAt s n).map (failRun s id)
    else if !placementOk s n cores then none
    else
      match readArea s n with
      | .error x => some (failRun s id x)
      | .ok (m, poi) =>
        (areaGate s n .rd (coreParts n ++ tagged n m)).bind (fun s =>
        let nums := List.range cores.length
        if nums.any (fun i => !n.gone.contains i && !areaOk m i) then some (failRun s id 0xB2)
        else
          let s := onNode s id (fun n => { n with st := .running, cores := cores, placedAt := s.now, aged := 0, agingFrom := none,
                                                  waits := [], evs := [], saved := [], hurt := [] })
          let s := (nums.zip cores).foldl (restoreCore m poi n) s
          let bar (g k : Nat) : Bool × BitVec 8 :=
            let v := fld m (g * nGang n * 0x180000 + 0x168E00 + 8 * k) 8
            (decide (2 ^ 63 ≤ v), BitVec.ofNat 8 v)
          some (n.evs.foldl (fun s e => setEvent s (some id) e.1 e.2) (allotBars s n cores bar))))

def execResume (id : Nat) (cores : List Nat) (s : State) : Out := schedO "RESUME" s (resume s id cores)

/-! ### Spares and locks (R122, R350) -/

/-- The spare takes the place of a cluster's retired core (R122). -/
def execSpareTakeover (c : Nat) (s : State) : Out :=
  let cl := c / 9
  schedO "SPARE_TAKEOVER" s (
    if s.sched.coreBad.contains c && c % 9 != 8 && (mget none s.sched.spareUsed cl).isNone && !s.sched.coreBad.contains (9 * cl + 8) then
      some (onSched s (fun h => { h with spareUsed := mput none h.spareUsed cl (some (c % 9)) }))
    else none)

/-- The scheduler reads the word of a waiting band and finds its condition met (R350). -/
def execLockWaitCheck (id : Nat) (s : State) : Out :=
  schedO "LOCK_WAIT_CHECK" s ((nodeOf s id).bind (fun n =>
    let met (w : Nat × SavedWait) : Option State := match w.2.swait with
      | some (_, pl, thr, _) => if thr.toNat ≤ leNat (readPlace s (some id) pl 8 false).1 then newGate s (some id) [Piece.mk pl 8 false] else none
      | none => none
    if n.st == .waiting then (n.waits.findSome? met).map (fun s => onNode s id (fun n => { n with st := .preempted })) else none))

def execWaitingBandTimeout (id : Nat) (s : State) : Out :=
  schedO "WAITING_BAND_TIMEOUT" s ((nodeOf s id).bind (fun n =>
    if n.st == .waiting && n.waits.any (fun w => w.2.until_.any (fun t => decide (t ≤ s.now))) then
      some (onNode s id (fun n => { n with st := .preempted }))
    else none))

/-- A band whose every core has been parked for 2 µs at a lock is a victim for nodes of the holding context (R350). -/
def execParkedBandVictim (id holder : Nat) (s : State) : Out :=
  schedO "PARKED_BAND_VICTIM" s ((nodeOf s id).bind (fun n =>
    if n.st == .running && nKind n == 0 && !n.victim && allParked s n &&
        (nodeOf s holder).any (fun h => waitsFor s n h.ctx) then
      some (onNode s id (fun n => { n with victim := true }))
    else none))

/-! ### Counters (R110, R115, R324, R389) -/

/-- The verdict of a retiring core (R382, R389). -/
def verdict (k : Core) : Option Nat :=
  match k.failed with
  | some x => some x
  | none => if k.csr.cir.getLsbD 0 then some 0xA0 else if k.csr.cir.getLsbD 1 then some 0x53 else none

/-- A core has retired: its gang's counter falls, and those above it. (DEDUCED, log entry 91.) -/
def coreRetires (s : State) (c : Nat) : Option State :=
  let k := coreAt s c
  if !k.retiring || !settled s c true || sysUnflushed s 0xFF then none
  else
    match k.node.bind (nodeOf s) with
    | none => some (idleCore s c)
    | some n =>
      if n.st != .running && n.st != .draining then none
      else
        let g := k.num / nGang n
        let m := { n with gone := n.gone ++ [k.num] }
        let gang := gangOver m g
        let band := (List.range (nGangs n)).all (gangOver m)
        if band && !recordsFree s n.id then none
        else
          let s := match verdict k with
            | some x => markFail s n.id x none
            | none => s
          let s := onSched (idleCore s c) (fun h => { h with coreClear := (h.coreClear ++ [c]).eraseDups })
          let s := onNode s n.id (fun n => { n with gone := n.gone ++ [k.num] })
          let s := barArrive s n.id g (Config.clusterOf c) (fun _ => 0)
          let s := if gang then onVec (freeBarriers s n.id (some g)) (nNotify n 2) (nIvec n) else s
          if !band then some s
          else
            let s := onVec s (nNotify n 3) (nIvec n)
            let s := onNode s n.id (fun n => { n with ran := n.ran + (s.now - n.placedAt), offer := false })
            some (endRun s n.id)

/-- The completion steps of a Steward are over (R324). (DEDUCED, log entry 63; DEDUCED, log entry 99.) -/
def stewardRetires (s : State) (k : Nat) : Option State :=
  let t := stewardAt s k
  let sig : Bool := match t.sem with
    | some o => !o.wait
    | none => false
  match t.done, t.node.bind (nodeOf s) with
  | some (st, halt), some n =>
    if t.eng.any (fun e => !e.q.isEmpty) || t.lsu.isSome || sig || s.dram.wq.any (fun e => e.by_ == .steward k) ||
        (n.left ≤ 1 && !recordsFree s n.id) then none
    else
      let cause := match halt with
        | some x => some x
        | none => if st != 0 then some 0x69 else if t.stat.getLsbD 7 then some 0x67 else none
      let s := setSteward s k (fun t => { t with leases := t.leases.map (fun l => { l with released := true }) })
      let s := (t.leases.map (·.id)).foldl (fun s rq => endLease s k rq) s
      let s := setSteward s k (fun t => { Steward.idle with log := t.log, lost := t.lost, alert := t.alert })
      let s := match cause with
        | some x => markFail s n.id x (some k)
        | none => s
      let s := onNode s n.id (fun n => { n with left := n.left - 1 })
      if 1 < n.left then some s
      else some (endRun (onNode s n.id (fun n => { n with ran := n.ran + (baseNow s - n.placedAt / 2) })) n.id)
  | some _, none => some (setSteward s k (fun t => { Steward.idle with log := t.log, lost := t.lost, alert := t.alert }))
  | none, _ => none

/-- DEDUCED, log entry 63. -/
def execCounterDecrement (who : Unit4) (s : State) : Out :=
  schedO "COUNTER_DECREMENT" s (match who with
    | .core c => coreRetires s c
    | .steward n => stewardRetires s n)

/-! ### Stops, retries, clearing (R189, R383, R390, R335) -/

/-- The younger of two nodes by age (R339, R396). -/
def younger (a b : Node) : Node :=
  let x := a.readyAt.getD 0
  let y := b.readyAt.getD 0
  if x < y ∨ (x = y ∧ a.id < b.id) then b else a

/-- Granules for which a write of the node has waited 1 ms at an older node: the wait fails the node, and with it the write (R396). -/
def lostGranules (s : State) (n : Node) : List Nat :=
  (s.sched.shwait.filter (fun w => w.node == n.id && w.held && decide (w.since + 2000000 ≤ s.now) &&
    s.sched.redir.any (fun r => r.gran == w.gran && r.node != n.id && !r.global &&
      ((nodeOf s r.node).any (fun m => (younger n m).id == n.id))))).map (·.gran)

/-- The next write of every job that the core still has is to one of the granules. -/
def jobsLost (s : State) (c : Nat) (gs : List Nat) : Bool :=
  let into (ps : List Piece) : Bool := ps.any (fun p => match p.pl with
    | .dmem pa => gs.contains (pa / 2 ^ 18)
    | _ => false)
  let parts (t : Nat) (h : Bool) (va n : Nat) : List Piece := (pages va n).filterMap (fun e =>
    match xlEngine s c t h (e.1 % 2 ^ 48) .wr with
    | .ok p d _ => some ⟨p, e.2, d⟩
    | _ => none)
  (cluster s (Config.clusterOf c)).jobs.all (fun j => j.core != c || into (parts j.after j.handler (pDst j.card j.run) (pRun j.card))) &&
    (coreAt s c).mxq.all (fun o => match o.kind with
      | .mdrn => into (parts o.after o.handler (dRow o.card o.rows) (dRowBytes o.card))
      | _ => into (parts o.after o.handler (va48 (o.addr + 0x60)) 16)) && !fabOut s c

/-- The core's other accesses are over: what its memory list holds is such a write, or waits behind it (R243, R247, R383). -/
def restLost (s : State) (c : Nat) (gs : List Nat) : Bool :=
  let k := pruned s c (coreAt s c)
  k.cpub.isNone && landed k && k.mem.all (fun e => e.op.isFence || (!e.acc && (!mayPerform s c e.id || (match e.op with
    | .store p _ _ => (match p.pl with
      | .dmem pa => gs.contains (pa / 2 ^ 18)
      | _ => false)
    | _ => false))))

/-- A stopping node's jobs have run and its writes performed: it fails (R383). A write that waits for a granule of an older node fails
after its 1 ms. (DEDUCED, log entry 67.) -/
def execNodeStop (id : Nat) (s : State) : Out :=
  schedO "NODE_STOP" s ((nodeOf s id).bind (fun n =>
    match n.st with
    | .stopping cause =>
      let lost := lostGranules s n
      let quiet (c : Nat) : Bool :=
        let k := coreAt s c
        (k.node != some id) || ((settled s c true || (!lost.isEmpty && jobsLost s c lost && restLost s c lost && !wqHolds s c)) && (match k.park with
          | some ⟨.sysAtom .., _, _, _, none, _⟩ => false
          | _ => true))
      if n.cores.all quiet && recordsFree s id then
        let s := onNode s id (fun n => { n with ran := n.ran + (if n.cores.isEmpty then 0 else s.now - n.placedAt), cause := some cause })
        some (failRun (freeBand s n) id cause)
      else none
    | _ => none))

/-- A failed node whose self-tests have ended is queued again (R390). (DEDUCED, log entry 83.) -/
def execNodeRetry (id : Nat) (s : State) : Out :=
  schedO "NODE_RETRY" s ((nodeOf s id).bind (fun n =>
    if n.st == .retry && n.testWait.isEmpty then
      some (onNode s id (fun n => { n with st := .captured, tries := n.tries + 1, cause := none, aged := 0, agingFrom := none }))
    else none))

/-- The slice of a core that no band holds is cleared (R189). -/
def execSliceClear (c : Nat) (s : State) : Out :=
  schedO "SLICE_CLEAR" s (
    if s.sched.coreClear.contains c && !s.sched.nodes.any (fun n => n.cores.contains c) then
      some (onSched { s with slices := mclear s.slices (c * 2 ^ 20) (2 ^ 20), spoi := mclear s.spoi (c * 2 ^ 15) (2 ^ 15) }
        (fun h => { h with coreClear := h.coreClear.filter (· != c) }))
    else none)

/-- WDOG has passed since the run began (R335): an array node stops, a near-memory node's running Stewards halt. (DEDUCED, log entry 90.) -/
def execNodeWatchdog (id : Nat) (s : State) : Out :=
  schedO "NODE_WATCHDOG" s ((nodeOf s id).bind (fun n =>
    let due : Bool := nWdog n != 0 && decide (n.begun + nWdog n * 2000 ≤ s.now)
    match due, n.st with
    | true, .running =>
      if nKind n = 0 then some (onNode s id (fun n => { n with st := .stopping 0x96 }))
      else
        let run := n.stewards.filter (fun k => (stewardAt s k).node == some id && (stewardAt s k).running)
        if run.isEmpty then none
        else some (run.foldl (fun s k => killSteward (stewardLog s k 0x62 0 (stewardAt s k).pc nowhere) k 0x96) s)
    | true, .draining | true, .preempted | true, .waiting => some (onNode s id (fun n => { n with st := .stopping 0x96 }))
    | _, _ => none))

end Sys2Proof.Machine
end

