-- ==== Sys2Proof/Machine/Shadows.lean ====
section
/-! DEFINITION. Shadows.lean: shadow granules: the copy, the fall-back, the conflict, the commit and the copy-back (R393-R396). -/

namespace Sys2Proof.Machine
open Sys2Proof

/-- Core cycles in 1 ms (R395, R396). -/
def oneMs : Nat := 2000000

/-- Copy a whole granule: data, poison bits, publish states (R393, R394). -/
def copyGranule (s : State) (src dst : Nat) : State :=
  let a := src * 2 ^ 18
  let b := dst * 2 ^ 18
  let r := rawRange (bankAll s) 0 a (2 ^ 18)
  let pubs := s.dram.pub.filterMap (fun e =>
    let x := homePa s e.1
    if a ≤ x ∧ x < a + 2 ^ 18 then some (b + (x - a), e.2) else none)
  let s := rawFill s 0 b (2 ^ 18) ⟨0, 2 ^ 18, r.1, r.2⟩
  onDram s (fun d => { d with pub := pubs.foldl (fun m e => mput 0 m (atomOf s e.1) e.2) d.pub })

/-- The banks as the copy of a granule leaves them, none while a lease, a commit in progress or a checkpoint holds it back (R278,
R290-R293, R404). -/
def granuleGate (s : State) (src dst : Nat) : Option State :=
  let moving (g : Nat) : Bool := s.dram.stage.any (fun e => match e.2.pend with
    | some x => inRegion x (g * 2 ^ 18) || inRegion (mget none s.dram.regions e.1) (g * 2 ^ 18)
    | none => false)
  if ckptHolds s (dst * 2 ^ 18) || dirtyHeld s (dst * 2 ^ 18) || moving src || moving dst then none
  else (rawOpen s (src * 2 ^ 18) (2 ^ 18)).bind (fun s => rawOpen s (dst * 2 ^ 18) (2 ^ 18))

/-- Nothing is in flight to a granule: no access that a core has issued, no lease of one of its rows (R278, R394). -/
def granuleQuiet (s : State) (gran : Nat) : Bool :=
  !rowLeased s (gran * 2 ^ 18) (2 ^ 18) && !s.cores.any (fun e => e.2.mem.any (fun m => !m.acc && m.op.pieces.any (fun p => match p.pl with
    | .dmem pa => pa / 2 ^ 18 == gran
    | _ => false)))

/-- The copy of a first shadowed write's granule into the pool is complete (R393). -/
def execShadowCopy (id gran : Nat) (s : State) : Out :=
  schedO "SHADOW_COPY" s ((s.sched.redir.find? (fun r => r.node == id && r.gran == gran && !r.ready)).bind (fun r =>
    (granuleGate s gran r.pool).map (fun s =>
      onSched (copyGranule s gran r.pool) (fun h => { h with
        redir := h.redir.map (fun e => if e == r then { e with ready := true } else e) }))))

/-- A first write of the node has waited 1 ms for the granule: for room, or for the other node that holds it (R395, R396). -/
def waitedLong (s : State) (id gran : Nat) (held : Bool) : Bool :=
  s.sched.shwait.any (fun w => w.node == id && w.gran == gran && w.held == held && decide (w.since + oneMs ≤ s.now))

/-- CIR of a core whose node runs on without shadows (R395). -/
def fallenCir (k : Core) : Core :=
  { k with csr := { k.csr with cir := (k.csr.cir &&& ~~~(0x2000000000000000 : Word)) ||| 0x1000000000000000 } }

/-- 1 ms without room for a granule: the node runs on as one that is not retried (R395). -/
def execShadowFallback (id gran : Nat) (s : State) : Out :=
  schedO "SHADOW_FALLBACK" s ((nodeOf s id).bind (fun n =>
    if waitedLong s id gran false && !s.sched.redir.any (fun r => r.gran == gran) &&
        (s.sched.shfree.isEmpty || decide (4096 ≤ s.sched.redir.length)) then
      let s := (liveOf n).foldl (fun s e => onCore s e.2 fallenCir) s
      some (onSched (onNode s id (fun n => { n with fell := true })) (fun h => { h with
        shwait := h.shwait.filter (fun w => w.node != id) }))
    else none))

/-- 1 ms of waiting for a granule that another node holds in shadow fails the younger of the two (R396). -/
def execShadowConflict (id gran : Nat) (s : State) : Out :=
  schedO "SHADOW_CONFLICT" s ((s.sched.redir.find? (fun r => r.gran == gran && r.node != id && !r.global)).bind (fun r =>
    match nodeOf s id, nodeOf s r.node with
    | some a, some b =>
      let y := younger a b
      (match y.st with
       | .commit | .stopping _ => none
       | _ => if waitedLong s id gran true then some (onNode s y.id (fun n => { n with st := .stopping 0xA3 })) else none)
    | _, _ => none))

/-- The redirect entries of a completed node become global at one instant, once what is in flight has performed; its completion
follows (R394). The granules count as
written from then on (R285, R403). (DEDUCED, log entry 68.) -/
def execShadowCommit (id : Nat) (s : State) : Out :=
  schedO "SHADOW_COMMIT" s ((nodeOf s id).bind (fun n =>
    let mine (r : Redirect) : Bool := r.node == id && !r.global
    if n.st == .commit && s.sched.redir.all (fun r => !mine r || (r.ready && granuleQuiet s r.gran)) && recordsFree s id then
      let s := (s.sched.redir.filter mine).foldl (fun s r => setDirty s .device (r.gran * 2 ^ 18)) s
      let s := onSched s (fun h => { h with redir := h.redir.map (fun r => if mine r then { r with global := true } else r) })
      some (endNode s id true (if n.fell then 0xA2 else 0))
    else none))

/-- A pool granule has been copied back into its original; both it and the entry are free (R394). (DEDUCED, log entry 68.) -/
def execShadowCopyBack (gran : Nat) (s : State) : Out :=
  schedO "SHADOW_COPY_BACK" s ((s.sched.redir.find? (fun r => r.gran == gran && r.global)).bind (fun r =>
    (granuleGate s r.pool gran).map (fun s =>
      onSched (copyGranule (setDirty s .device (gran * 2 ^ 18)) r.pool gran) (fun h => { h with
        redir := h.redir.filter (fun e => e != r), shfree := h.shfree ++ [r.pool] }))))

end Sys2Proof.Machine
end

