-- ==== Sys2Proof/Machine/CkptEvents.lean ====
section
/-! DEFINITION. CkptEvents.lean: the checkpoint engine: streaming the chosen granules (R404) and the end of a checkpoint
(R405). -/

namespace Sys2Proof.Machine
open Sys2Proof

def onCkpt (s : State) (f : Ckpt → Ckpt) : State := onSched s (fun h => { h with ckpt := h.ckpt.map f })

/-- The checkpoint fails: nothing more is streamed, and waiting writes go on (R402, R405). -/
def ckptFail (s : State) (cause : Nat) : State :=
  onCkpt s (fun k => { k with cause := some (k.cause.getD cause), chosen := [] })

/-- Stream one chosen granule: its bytes as stored to the system page of its destination, its poison to the manifest (R404). -/
def streamGranule (s : State) (k : Ckpt) (g : Nat × Option Nat) : Option State :=
  match g.2, ctxPieces s k.ctx (kDest k.desc + 2 ^ 18 * g.1) (2 ^ 18) .wr with
  | some n, .ok [⟨.sys ha _, _, _⟩] =>
    if !s.host.portUp.getLsbD (hostPortOf s ha) then some (ckptFail s 0xA8)
    else
      ((ctxGateOf s k.ctx (kDest k.desc + 2 ^ 18 * g.1) (2 ^ 18) .wr).bind (fun s => rawOpen s (n * 2 ^ 18) (2 ^ 18))).bind (fun s =>
      let r := rawRange (bankAll s) 0 (n * 2 ^ 18) (2 ^ 18)
      let s := onHost s (fun h => { h with sys := mputs 0 (mclear h.sys ha (2 ^ 18)) (r.1.map (fun e => (ha + e.1, e.2))) })
      some (onCkpt s (fun k => { k with chosen := k.chosen.filter (fun e => e.1 != g.1), streamed := k.streamed + 1,
                                        man := k.man ++ [(g.1, !r.2.isEmpty)] })))
  | _, _ => some (ckptFail s 0xA7)

/-- A write waits for a physical granule (R404): one that asked, a copy-back, or the record of a node that has not ended. (DEDUCED, log
entry 69.) -/
def writeWaits (s : State) (k : Ckpt) (n : Nat) : Bool :=
  k.ahead.contains n || s.sched.redir.any (fun r => r.global && r.gran == n) ||
    s.sched.nodes.any (fun m => !isDone m && nDone m != 0 && (match ctxPieces s m.ctx (nDone m) 32 .wr with
      | .ok ps => ps.any (fun p => match p.pl with
        | .dmem pa => redirect s none pa / 2 ^ 18 == n
        | _ => false)
      | .error _ => false))

/-- The engine streams the chosen granules in ascending order; one that a write waits for goes ahead of its turn (R404). -/
def execCkptGranule (i : Nat) (s : State) : Out :=
  eventO "CKPT_GRANULE" s (s.sched.ckpt.bind (fun k => (k.chosen.find? (fun g => g.1 == i)).bind (fun g =>
    if k.chosen.all (fun e => decide (g.1 ≤ e.1)) || g.2.any (writeWaits s k) then streamGranule s k g else none)))

/-- The manifest: two bits per granule of the region (R404). -/
def manifest (k : Ckpt) : List Byte :=
  let bits (g : Nat) : Nat := match k.man.find? (fun e => e.1 == g) with
    | some (_, p) => if p then 3 else 1
    | none => 0
  (List.range ((kLen k.desc / 2 ^ 18 + 3) / 4)).map (fun i =>
    BitVec.ofNat 8 (bits (4 * i) + 4 * bits (4 * i + 1) + 16 * bits (4 * i + 2) + 64 * bits (4 * i + 3)))

/-- The checkpoint record (R405). -/
def ckptRecord (s : State) (k : Ckpt) : List Byte :=
  natLe 8 k.seq ++ [if k.cause.isNone then 1 else 2, BitVec.ofNat 8 (k.cause.getD 0)] ++ List.replicate 6 0 ++ natLe 8 k.streamed ++
    natLe 8 ((s.now - k.start) / 2000)

/-- A checkpoint ends: manifest, release at SYSTEM, record (R405). Without `ok` a write failed at a host port. (DEDUCED, log entry 69.) -/
def ckptEnd (s : State) (ok : Bool) : Option State :=
  s.sched.ckpt.bind (fun k0 =>
    let k := if ok then k0 else { k0 with cause := some (k0.cause.getD 0xA8), chosen := [] }
    let s := onSched s (fun h => { h with ckpt := some k })
    let bs := manifest k
    let man := if kMan k.desc = 0 then .ok [] else ctxPieces s k.ctx (kMan k.desc) bs.length .wr
    let rec_ := ctxPieces s k.ctx (kDone k.desc) 32 .wr
    let free (p : Except Nat (List Piece)) : Bool := match p with
      | .ok ps => writableNow s ps
      | .error _ => true
    let walked (o : Option State) (va len : Nat) : Option State := o.bind (fun s => if va = 0 then some s else ctxGateOf s k.ctx va len .wr)
    if !k.chosen.isEmpty || !free man || !free rec_ then none
    else (walked (walked (some s) (kMan k.desc) bs.length) (kDone k.desc) 32).bind (fun s =>
      let r : State × Ckpt := match man with
        | .ok ps => (deviceWrite s ps bs, k)
        | .error _ => (s, { k with cause := some (k.cause.getD 0xA7) })
      let s := match rec_ with
        | .ok ps => deviceWrite (systemFlush r.1 ps) ps (ckptRecord r.1 r.2)
        | .error _ => r.1
      some (onSched s (fun h => { h with ckpt := none }))))

def execCkptEnd (ok : Bool) (s : State) : Out := eventO "CKPT_END" s (ckptEnd s ok)

end Sys2Proof.Machine
end

