-- ==== Sys2Proof/Machine/Control.lean ====
section
/-! DEFINITION. Control.lean: the control instructions of slot S (R95-R110). -/

namespace Sys2Proof.Machine
open Sys2Proof

/-- The target of a format B branch (R96). -/
def brTarget (f : Frame) (x : BF) : BitVec 48 := f.pre.pc + (x.off.signExtend 48 <<< 5)

/-- A resolving branch at user level (R113, R114). -/
def resolveBr (x : BF) (f : Frame) (asPredicted : Bool) : Frame :=
  if x.br = 1 ∧ !f.pre.level then { f with resolve := some asPredicted } else f

def issueBr (x : BF) (f : Frame) : Frame := resolveBr x { f with ctl := .goto (brTarget f x) 0 } true

/-- The conditions of BC (R96). -/
def bcCond (cc : BitVec 3) (a : Word) : Bool :=
  match cc.toNat with
  | 0 => a == 0 | 1 => a != 0 | 2 => a.toInt < 0 | 3 => 0 ≤ a.toInt | 4 => 0 < a.toInt | 5 => a.toInt ≤ 0
  | 6 => a.getLsbD 0 | _ => !a.getLsbD 0

def issueBc (x : BF) (f : Frame) : Frame :=
  let t := bcCond x.cc (rdS f 0 x.a)
  let ok := t == (x.pd == 1)
  resolveBr x { f with ctl := .goto (if t then brTarget f x else f.pre.pc + 32) (if ok then 0 else 4) } ok

/-- A return entry (R99). -/
def retEntry (f : Frame) : Word :=
  (f.pre.pc + 32).setWidth 64 ||| BitVec.ofNat 64 (4 * f.pre.loops.length)

/-- Push a return entry and go (R99); the oldest entry spills when all eight are resident (R100), as a store of the bundle (R248). -/
def pushCall (s : State) (f : Frame) (target : BitVec 48) (bubbles : Nat) : Frame :=
  let k := f.pre
  if k.calls.length + k.cspl = 520 then faultAt f 0 0x38 0
  else if k.calls.length = 8 then
    if ownPending s.cur k then { f with stall := true }
    else
      let p : Piece := ⟨.slice s.cur (0xFF000 + 8 * k.cspl), 8, false⟩
      let bs := natLe 8 (k.calls.headD 0).toNat
      let g : Frame := { f with now := { f.now with calls := k.calls.drop 1 ++ [retEntry f], cspl := k.cspl + 1 },
                                ctl := .goto target (bubbles + 1) }
      if acqHolds k (hdrColour f.hdr) false then { f with stall := true }
      else if writeNow s f [p] then { g with late := g.late ++ [.own p bs false] } else pushMem g (.spill p bs)
  else { f with now := { f.now with calls := k.calls ++ [retEntry f] }, ctl := .goto target bubbles }

def issueCall (x : BF) (s : State) (f : Frame) : Frame := pushCall s f (brTarget f x) 0

/-- A code target in a register (R97): none when bits [4:0] are not zero. -/
def codeTarget (f : Frame) (a : BitVec 7) : Option (BitVec 48) :=
  let t := (rdS f 0 a).setWidth 48
  if t.extractLsb' 0 5 = 0 then some t else none

def badTarget (f : Frame) : Frame := { f with enc := f.enc ++ [(0, 0x0B)] }

def issueCalli (x : RF) (s : State) (f : Frame) : Frame :=
  match codeTarget f x.a with
  | some t => pushCall s f t 2
  | none => badTarget f

def issueJmpi (x : RF) (f : Frame) : Frame :=
  match codeTarget f x.a with
  | some t => { f with ctl := .goto t 2 }
  | none => badTarget f

/-- Return through an entry (R99). -/
def popCall (f : Frame) (e : Word) (k : Core) (bubbles : Nat) : Frame :=
  if (e.extractLsb' 2 3).toNat ≠ f.pre.loops.length then faultAt f 0 0x3E 0
  else { f with now := k, ctl := .goto ((e.setWidth 48) &&& 0xFFFFFFFFFFE0) bubbles }

def issueRet (_ : RF) (s : State) (f : Frame) : Frame :=
  let k := f.pre
  match k.calls.getLast? with
  | some e => popCall f e { f.now with calls := k.calls.dropLast } 2
  | none =>
    if k.cspl = 0 then faultAt f 0 0x39 0
    else if ownPending s.cur k || acqHolds k (hdrColour f.hdr) false then { f with stall := true }
    else
      let r := readPlace s k.node (.slice s.cur (0xFF000 + 8 * (k.cspl - 1))) 8 false
      if r.2 then faultAt f 0 0x3A 0
      else popCall f (BitVec.ofNat 64 (leNat r.1)) { f.now with cspl := k.cspl - 1 } 6

/-- Open a loop of `n` trips (R101). (DEDUCED, log entry 98.) -/
def openLoop (f : Frame) (n e : Nat) (rot : Bool) : Frame :=
  let k := f.pre
  if 0 < n ∧ k.loops.length = 6 then faultAt f 0 0x3B 0
  else
    let f := if rot then { f with now := { f.now with rb := 0 } } else f
    let at_ (i : Nat) : BitVec 48 := k.pc + BitVec.ofNat 48 (32 * i)
    if n = 0 then { f with ctl := .goto (at_ (e + 2)) 0 }
    else { f with now := { f.now with loops := k.loops ++ [⟨at_ 1, at_ (e + 1), BitVec.ofNat 32 n, 0, rot⟩] } }

def issueLoop (x : RF) (f : Frame) : Frame :=
  let n := (rdS f 0 x.a).toNat
  if 0xFFFFFFFF < n then faultAt f 0 0x3B 0 else openLoop f n x.loopE (x.f.getLsbD 0)
def issueLoopi (x : RF) (f : Frame) : Frame := openLoop f x.loopN x.loopE (x.f.getLsbD 0)

def issueLexit (x : RF) (f : Frame) : Frame :=
  if f.pre.loops.length < x.f.toNat + 1 then faultAt f 0 0x3C 0 else { f with ctl := .lexit x.f.toNat }

def issueLidx (x : RF) (f : Frame) : Frame :=
  let n := f.pre.loops.length
  if n < x.f.toNat + 1 then faultAt f 0 0x3C 0
  else wrS f 0 x.d ((f.pre.loops.getD (n - 1 - x.f.toNat) default).index.setWidth 64)

/-- BSWAP tests the idle half when the bundle closes (R105, R271); own-store writes still queued come first (R243). -/
def issueBswap (x : RF) (s : State) (f : Frame) : Frame :=
  if ownPending s.cur f.pre then { f with stall := true } else { f with ctl := .bswap x.bswapIdx }

def issueTrap (x : RF) (f : Frame) : Frame := { f with ctl := .trap x.trapN }
def issueEret (_ : RF) (f : Frame) : Frame := { f with ctl := .eret }
def issueYield (_ : RF) (f : Frame) : Frame := { f with ctl := .yield }
def issueExit (_ : RF) (f : Frame) : Frame := { f with ctl := .exit_ }

/-- WAITE (R108). A returned token or matrix event is an acquire (R250). -/
def issueWaite (x : RF) (s : State) (f : Frame) : Frame :=
  let m : BitVec 8 := (rdS f 0 x.a).setWidth 8
  let hit := f.pre.evl &&& m
  if hit ≠ 0 then
    let f := wrS { f with now := { f.now with evl := f.now.evl &&& ~~~m } } 0 x.d (hit.setWidth 64)
    if hit &&& 0x0C ≠ 0 then acquire f else f
  else if rdS f 0 x.b = 0 then wrS f 0 x.d 0
  else
    match waitRes f 0 with
    | some _ => wrS f 0 x.d 0
    | none => parkOn s f 0 (.waite m) (deadlineOf s (rdS f 0 x.b))

/-! ### The meanings -/

def execBr (x : BF) (s : State) : Out := runCore (.br x) (issueBr x) s
def execBc (x : BF) (s : State) : Out := runCore (.bc x) (issueBc x) s
def execCall (x : BF) (s : State) : Out := runSlot (.call x) (issueCall x) s
def execCalli (x : RF) (s : State) : Out := runSlot (.calli x) (issueCalli x) s
def execRet (x : RF) (s : State) : Out := runSlot (.ret x) (issueRet x) s
def execJmpi (x : RF) (s : State) : Out := runCore (.jmpi x) (issueJmpi x) s
def execLoop (x : RF) (s : State) : Out := runCore (.loop x) (issueLoop x) s
def execLoopi (x : RF) (s : State) : Out := runCore (.loopi x) (issueLoopi x) s
def execLexit (x : RF) (s : State) : Out := runCore (.lexit x) (issueLexit x) s
def execLidx (x : RF) (s : State) : Out := runCore (.lidx x) (issueLidx x) s
def execBswap (x : RF) (s : State) : Out := runSlot (.bswap x) (issueBswap x) s
def execTrap (x : RF) (s : State) : Out := runCore (.trap x) (issueTrap x) s
def execEret (x : RF) (s : State) : Out := runCore (.eret x) (issueEret x) s
def execWaite (x : RF) (s : State) : Out := runSlot (.waite x) (issueWaite x) s
def execYield (x : RF) (s : State) : Out := runCore (.yield x) (issueYield x) s
def execExit (x : RF) (s : State) : Out := runCore (.exit x) (issueExit x) s

/-- A bundle of six NOPs (R53), or a NOP slot of the open one. -/
def execNop (s : State) : Out := runCore .nop id s

/-- A bundle with unassigned opcodes in the named slots (R68, R74). -/
def execIllegalOpcode (slots : BitVec 6) (s : State) : Out :=
  let enc := ((List.range 6).filter (fun k => slots.getLsbD k)).map (fun k => (k, 0))
  if !s.host.power then .fault .unpowered
  else
    match s.frame with
    | some f => .next { s with frame := some { f with enc := f.enc ++ enc, used := f.used ||| slots } }
    | none =>
      match openBundle s with
      | .stop t => .next t
      | .run t f => .next (closeBundle t { f with enc := enc, used := slots })

end Sys2Proof.Machine
end

