-- ==== Sys2Proof/Machine/ControlSpace.lean ====
section
/-! DEFINITION. ControlSpace.lean: the device-global control space (R407, R408): its registers, what a write to each does, and
how the operations that a write starts end (R276-R278, R284, R331-R333, R342, R343, R359, R393, R399, R409, R410, R415, R416,
R419). -/

namespace Sys2Proof.Machine
open Sys2Proof

/-- The bits of a mask as they are written (R4). -/
def keep (m v : Word) : Word := v &&& m
/-- A mask of the bits from `lo` to `hi`. -/
def field (hi lo : Nat) : Word := BitVec.ofNat 64 (2 ^ (hi + 1) - 2 ^ lo)

/-! ### Who may write (R407, R409, R410, R416) -/

def portNo (p : HostPort) : Option Nat :=
  match p with
  | .port0 => some 0
  | .port1 => some 1
  | .board => none

def hsemOwner (s : State) (k : Nat) : Option Nat := mget none s.host.hsem k

/-- The control space is open, and the port's link is up with its function in D0 (R406). (PRESUMED, log entry 135.) -/
def portOk (s : State) (p : HostPort) : Bool :=
  s.host.state == 2 && (match portNo p with
    | some n => s.host.portUp.getLsbD n && !s.host.d3hot.getLsbD n
    | none => false)

/-- A semaphore held by the other port discards the write. -/
def discards (s : State) (p : HostPort) (k : Nat) : Bool := (hsemOwner s k).any (fun o => portNo p != some o)

/-- A write of a register behind semaphore `k`. -/
def regEvent (name : String) (p : HostPort) (k : Nat) (s : State) (f : State → State) : Out :=
  event name (portOk s p) s (if discards s p k then s else f s)

/-! ### Interleave commits (R274-R278) -/

def regionRegs (s : State) (r : Nat) : RegionRegs := mget RegionRegs.reset s.dram.stage r
def setRegs (s : State) (r : Nat) (f : RegionRegs → RegionRegs) : State :=
  onDram s (fun d => { d with stage := mput RegionRegs.reset d.stage r (f (regionRegs s r)) })

def unitRow (j : Nat) : BitVec 34 := BitVec.ofNat 34 (2 ^ j)
/-- Row `j` of the staged matrix: the table lists what differs from the unit vector. -/
def mrow (g : RegionRegs) (j : Nat) : BitVec 34 := (mget 0 g.mrow j).setWidth 34 ^^^ unitRow j

/-- One column of Gauss-Jordan elimination over GF(2), on rows beside the rows of the inverse. -/
def gaussStep (m : Option (List (BitVec 34 × BitVec 34))) (j : Nat) : Option (List (BitVec 34 × BitVec 34)) :=
  m.bind (fun l =>
    ((l.drop j).findIdx? (fun r => r.1.getLsbD j)).map (fun k =>
      let p := nth (0, 0) l (j + k)
      let l := (l.set (j + k) (nth (0, 0) l j)).set j p
      ((List.range l.length).zip l).map (fun e =>
        if e.1 != j && e.2.1.getLsbD j then (e.2.1 ^^^ p.1, e.2.2 ^^^ p.2) else e.2)))

/-- The inverse of a matrix, where it has one. -/
def invert (rows : List (BitVec 34)) : Option (List (BitVec 34)) :=
  ((List.range 34).foldl gaussStep (some (rows.zip ((List.range 34).map unitRow)))).map (fun l => l.map (·.2))

/-- The checks of a commit, in their order: the refusal code, or what the commit installs (R277). -/
def checkRegion (s : State) (r : Nat) : Except Nat (Option Region) :=
  let g := regionRegs s r
  let k := (g.ircfg.extractLsb' 0 6).toNat
  let en := g.ircfg.getLsbD 8
  let base := (g.irbase.extractLsb' 30 9).toNat * 2 ^ 30
  let clash (o : Region) : Bool := decide (base < o.base + 2 ^ o.k) && decide (o.base < base + 2 ^ k)
  let rows := (List.range 34).map (mrow g)
  if k < 30 ∨ 39 < k ∨ base % 2 ^ k ≠ 0 then .error 0x22
  else if en && s.dram.regions.any (fun e => e.1 != r && e.2.any clash) then .error 0x22
  else if s.dram.stage.any (fun e => e.1 != r && e.2.pend.isSome) then .error 0x23
  else if !en then .ok none
  else if (List.range 34).any (fun j => decide (k - 5 ≤ j) && nth 0 rows j != unitRow j) then .error 0x21
  else
    match invert rows with
    | some inv => .ok (some ⟨base, k, rows, inv⟩)
    | none => .error 0x20

/-- IRCMD.COMMIT. -/
def commitRegion (s : State) (r : Nat) : State :=
  match checkRegion s r with
  | .error code => setRegs s r (fun g => { g with code := BitVec.ofNat 8 code })
  | .ok x => setRegs s r (fun g => { g with code := 0, pend := some x })

/-- An access that the ingress has checked, by its window and context, still has to perform (R359). -/
def ingressHolds (s : State) (p : Nat → BitVec 16 → Bool) : Bool :=
  s.fab.far.any (fun q => !q.todo.isEmpty && p q.win q.ctx) ||
    s.fab.reqs.any (fun r => match r.kind with
      | .mcst d _ _ todo => (List.range todo.length).any (fun m => (nth none todo m).isSome &&
          (let w := dN d (0x20 + 16 * m) 8 / 2 ^ 10 % 4096
           p w (((s.fab.wcache.find? (fun e => e.1 == w)).map (fun e => BitVec.ofNat 16 (dN e.2 0x10 2))).getD 0)))
      | _ => false)

/-- Accesses in flight perform under the old mapping, and then the new one is in force everywhere (R278). (DEDUCED, log entry 70.) -/
def execInterleaveCommitEnd (r : Nat) (s : State) : Out :=
  eventO "INTERLEAVE_COMMIT_END" s ((regionRegs s r).pend.bind (fun x =>
    let old := mget none s.dram.regions r
    let flying := s.cores.any (fun e => e.2.mem.any (fun m => !m.acc && m.op.pieces.any (fun p => match p.pl with
      | .dmem pa => inRegion x pa || inRegion old pa
      | _ => false)))
    if flying || ingressHolds s (fun _ _ => true) then none
    else some (setRegs (onDram s (fun d => { d with regions := mput none d.regions r x })) r (fun g => { g with pend := none }))))

/-- Two commits of one region are served in arrival order: the second is taken once the first is in force. -/
def execIrcmdCommit (port : HostPort) (r : Nat) (v : Word) (s : State) : Out :=
  event "IRCMD_COMMIT" (portOk s port && decide (r < 16) && (regionRegs s r).pend.isNone) s
    (if discards s port 0 || !v.getLsbD 0 then s else commitRegion s r)

/-! ### Translations and contexts (R284, R330, R331) -/

/-- Remove translations. -/
def dropTlbs (s : State) (gone : TlbEnt → Bool) : State :=
  let f (l : List TlbEnt) : List TlbEnt := l.filter (fun e => !gone e)
  onFab { s with cores := mmap Core.idle s.cores (fun _ k => { k with tlb := f k.tlb }),
                 clusters := mmap Cluster.empty s.clusters (fun _ k => { k with tlb := f k.tlb }) } (fun h => { h with itlb := f h.itlb })

/-- No access of a context's cores, a parked system atomic, a CPUB and a store that a combining buffer holds (R249) among them, nor one of another module, is between its
translation and its destination. -/
def quietCtx (s : State) (p : BitVec 16 → Bool) : Bool :=
  !ingressHolds s (fun _ x => p x) && !s.cores.any (fun e => p e.2.csr.ctxid && (e.2.cpub.isSome || (match e.2.park with
      | some ⟨.sysAtom .., _, _, _, none, _⟩ => true
      | _ => false) || e.2.mem.any (fun m => !m.acc && m.op.pieces.any (fun q => match q.pl with
    | .dmem _ | .sys _ _ => true
    | _ => false) || m.op == .gathered)))

/-- Where an address of a parked SWAIT leads through the tables as they are now; none where its bundle must find the fault. -/
def waitPlace (s : State) (ctx : BitVec 16) (handler : Bool) (va : Nat) : Option Place :=
  match walk s ctx va with
  | .error _ => none
  | .ok (l, leaf) => if (leafCheck leaf .rd handler).isSome then none else some (leafPlace (tlbEnt ctx va l leaf) va)

/-- A wait at a device-memory or system page. -/
def waitsAway (p : Place) : Bool :=
  match p with
  | .dmem _ | .sys _ _ => true
  | _ => false

/-- Waits of the contexts that `p` names read through the new translations from now on, and walks start again (R284). (DEDUCED, log
entry 71.) -/
def newTranslations (s : State) (p : BitVec 16 → Bool) : State :=
  let core (_ : Nat) (k : Core) : Core := match k.park with
    | some ⟨.swait va pl thr inh, n, dl, since, none, prev⟩ =>
      if p k.csr.ctxid && waitsAway pl then
        { k with park := (waitPlace s k.csr.ctxid k.level va).map (fun q => ⟨.swait va q thr inh, n, dl, since, none, prev⟩) }
      else k
    | _ => k
  let wait (ctx : BitVec 16) (w : Nat × SavedWait) : Nat × SavedWait := match w.2.swait with
    | some (va, pl, thr, inh) =>
      if waitsAway pl then (w.1, { w.2 with swait := (waitPlace s ctx false va).map (fun q => (va, q, thr, inh)) }) else w
    | none => w
  let node (n : Node) : Node :=
    if n.st == .waiting && p n.ctx then
      let ws := n.waits.map (wait n.ctx)
      { n with waits := ws, st := if ws.any (fun w => w.2.swait.isNone) then .preempted else .waiting }
    else n
  { onSched s (fun h => { h with nodes := h.nodes.map node }) with
    cores := mmap Core.idle s.cores core,
    clusters := mmap Cluster.empty s.clusters (fun _ c => { c with walks := c.walks.map (fun w => if p w.ctx then { w with lev := 0 } else w) }) }

def tinvBusy (s : State) : Bool := s.host.tinv.isSome

/-- A write of TINV_CTL: what it starts is taken as it stands then (R284). -/
def writeTinv (s : State) (v : Word) : State :=
  let go := v.getLsbD 16
  if tinvBusy s && go then s
  else
    let mode := (v.extractLsb' 18 2).toNat
    onHost s (fun h => { h with
      tinvCtl := keep (field 19 18 ||| field 15 0) v,
      tinv := if go && mode != 3 then some (mode, v.extractLsb' 0 16, (h.tinvAddr.extractLsb' 18 30).toNat * 2 ^ 18) else h.tinv })

def execTinvGo (port : HostPort) (v : Word) (s : State) : Out := regEvent "TINV_GO" port 1 s (fun s => writeTinv s v)

/-- The translations that an invalidation removes (R284). -/
def tinvHits (o : Nat × BitVec 16 × Nat) (e : TlbEnt) : Bool :=
  if o.1 = 0 then tlbHit o.2.1 o.2.2 e else if o.1 = 1 then e.ctx == o.2.1 else true

/-- Every matching translation is gone, and every access through one has performed (R284). -/
def execTinvEnd (s : State) : Out :=
  eventO "TINV_END" s (s.host.tinv.bind (fun o =>
    let p (x : BitVec 16) : Bool := o.1 == 2 || x == o.2.1
    if quietCtx s p then some (onHost (newTranslations (dropTlbs s (tinvHits o)) p) (fun h => { h with tinv := none })) else none))

/-- The end of the contexts that `p` names begins: their queues are disabled (what stands eligible in their rings is captured yet, for its
record), their undispatched nodes are to end, a checkpoint of theirs fails (R331, R405). `killNext` goes on. (DEDUCED, log entry 76.) -/
def endContexts (s : State) (p : BitVec 16 → Bool) : State :=
  let stop (n : Node) : Node := if p n.ctx && (n.st == .captured || n.st == .retry) then
    { n with st := .stopping 0x98, final := true, cause := some 0x98 } else n
  let s := onSched s (fun h => { h with
    queues := h.queues.map (fun e => if p e.2.ctx then
      (e.1, { e.2 with en := false, drainTo := if eligible e.2 then some (e.2.drainTo.getD e.2.tail) else none }) else e),
    nodes := h.nodes.map stop })
  if s.sched.ckpt.any (fun k => p k.ctx) then ckptFail s 0x98 else s

/-- A write of CTXKILL: ignored while BUSY; the context table is read again after it. -/
def writeCtxkill (s : State) (v : Word) : State :=
  if s.host.ctxkill.getLsbD 63 then s
  else
    let c := v.extractLsb' 0 16
    let s := onSched s (fun h => { h with ctxCache := [] })
    if v.getLsbD 16 then
      killNext (endContexts (onSched (onHost s (fun h => { h with ctxkill := 0x8000000000000000 ||| c.setWidth 64 })) (fun h => { h with
        killing := some c })) (fun x => x == c))
    else onHost s (fun h => { h with ctxkill := c.setWidth 64 })

def execCtxkillGo (port : HostPort) (v : Word) (s : State) : Out := regEvent "CTXKILL_GO" port 1 s (fun s => writeCtxkill s v)

/-- Every node of the contexts has ended, and no Steward runs one. -/
def ended (s : State) (p : BitVec 16 → Bool) : Bool :=
  s.sched.nodes.all (fun n => !p n.ctx || isDone n) && s.sched.queues.all (fun e => !p e.2.ctx || !eligible e.2) &&
    s.stewards.all (fun e => !(e.2.node.bind (nodeOf s)).any (fun n => p n.ctx)) && !s.sched.ckpt.any (fun k => p k.ctx) && quietCtx s p

/-- The context's end is complete; its translations go last (R331). (DEDUCED, log entry 76.) -/
def execCtxkillEnd (s : State) : Out :=
  eventO "CTXKILL_END" s (s.sched.killing.bind (fun c =>
    if ended s (fun x => x == c) then
      some (onHost (onSched (dropTlbs s (fun e => e.ctx == c)) (fun h => { h with
        killing := none, nodes := h.nodes.filter (fun n => n.ctx != c) }))
        (fun h => { h with ctxkill := h.ctxkill &&& ~~~(0x8000000000000000 : Word) }))
    else none))

/-! ### Queues and bookings (R332, R333, R342, R343) -/

/-- A doorbell (R333). (DEDUCED, log entry 73.) -/
def doorbell (s : State) (q : Nat) (v : Word) : State :=
  let u := queueAt s q
  let t : BitVec 32 := v.setWidth 32
  let d := (t - u.tail).toNat
  if u.en && !u.dev && decide (0 < d) && decide (d + (u.tail - u.head).toNat ≤ ringSize u) then
    setQueue s q (fun u => { u with tail := t })
  else
    setQueue s q (fun u => { u with
      code := 0x99, en := u.en && u.dev,
      drainTo := if u.en && !u.dev && u.head != u.tail then some u.tail else u.drainTo })

def execQdbDoorbell (port : HostPort) (q : Nat) (v : Word) (s : State) : Out :=
  event "QDB_DOORBELL" (portOk s port && decide (q < 256)) s (doorbell s q v)

/-- A write of QCFG (R332). -/
def writeQcfg (s : State) (q : Nat) (v : Word) : State :=
  let en := v.getLsbD 16
  setQueue s q (fun u =>
    if u.en then { u with en := en, drainTo := none }
    else
      let u := { u with ctx := v.extractLsb' 24 16, pmax := v.extractLsb' 18 6, dev := v.getLsbD 17, en := en, logn := v.extractLsb' 0 4 }
      if en then { u with head := 0, tail := 0, from_ := [], drainTo := none } else u)

def execQcfgWrite (port : HostPort) (q : Nat) (v : Word) (s : State) : Out :=
  event "QCFG_WRITE" (portOk s port && decide (q < 256)) s (if discards s port 2 then s else writeQcfg s q v)

/-- A write of BKCFG; with COMMIT the fields are installed or refused (R343). (DEDUCED, log entry 72.) -/
def writeBkcfg (s : State) (b : Nat) (v : Word) : State :=
  let s := setBooking s b (fun k => { k with stage := keep (field 55 16 ||| field 13 2 ||| field 0 0) v })
  let clus := v.extractLsb' 32 24
  let ctx := v.extractLsb' 16 16
  let en := v.getLsbD 0
  let code : BitVec 8 :=
    if !en then 0
    else if s.sched.bookings.any (fun e => e.1 != b && e.2.en && e.2.clus &&& clus != 0) then 1
    else if !ctxValid s ctx then 2
    else if clus = 0 then 3 else 0
  if !v.getLsbD 1 then s
  else if code != 0 then setBooking s b (fun k => { k with code := code })
  else setBooking s b (fun k => { k with clus := clus, ctx := ctx, ceil := v.extractLsb' 8 6, level := v.extractLsb' 2 6, en := en,
                                         code := 0, use := 0, idle := 0 })

def execBkcfgCommit (port : HostPort) (b : Nat) (v : Word) (s : State) : Out :=
  event "BKCFG_COMMIT" (portOk s port && decide (b < 32)) s (if discards s port 3 then s else writeBkcfg s b v)

/-! ### Fabric windows (R359) -/

def writeWinv (s : State) (v : Word) : State :=
  let go := v.getLsbD 16
  if s.fab.winvOn.isSome && go then s
  else onFab s (fun h => { h with winv := keep (field 11 0) v,
                                  winvOn := if go then some (v.extractLsb' 0 12).toNat else h.winvOn })

def execWinvGo (port : HostPort) (v : Word) (s : State) : Out := regEvent "WINV_GO" port 4 s (fun s => writeWinv s v)

/-- The cache holds no copy of the window's entry, and no access checked against it has still to perform. -/
def execWinvEnd (s : State) : Out :=
  eventO "WINV_END" s (s.fab.winvOn.bind (fun w =>
    if ingressHolds s (fun v _ => v == w) then none
    else some (onFab s (fun h => { h with wcache := h.wcache.filter (fun e => e.1 != w), winvOn := none }))))

/-! ### Hardware semaphores (R409) -/

def setHsem (s : State) (k : Nat) (o : Option Nat) : State := onHost s (fun h => { h with hsem := mput none h.hsem k o })

/-- Claims of one cycle: a tie for a free semaphore goes to each port in turn. -/
def claimHsem (s : State) (k : Nat) (p0 p1 : Bool) : State :=
  if (hsemOwner s k).isSome then s
  else if p0 && p1 then
    onHost (setHsem s k (some (if s.host.hsemTie then 1 else 0))) (fun h => { h with hsemTie := !h.hsemTie })
  else if p0 then setHsem s k (some 0)
  else if p1 then setHsem s k (some 1)
  else s

def releaseHsem (s : State) (p : HostPort) (k : Nat) : State :=
  if (hsemOwner s k).isSome && hsemOwner s k == portNo p then setHsem s k none else s

def execHsemClaim (k : Nat) (p0 p1 : Bool) (s : State) : Out :=
  event "HSEM_CLAIM" (decide (k < 32) && (p0 || p1) && (!p0 || portOk s .port0) && (!p1 || portOk s .port1)) s (claimHsem s k p0 p1)

def execHsemRel (port : HostPort) (k : Nat) (s : State) : Out :=
  event "HSEM_REL" (decide (k < 32) && portOk s port) s (releaseHsem s port k)

/-! ### Start-up, power, reliability (R328, R399, R408, R416, R419) -/

/-- A start begins: every core and Steward stops, every context ends (R416). The measurement registers are zero (R417). (DEDUCED, log entry 78.) -/
def beginStart (s : State) (warm : Bool) : State :=
  if s.host.state = 1 then s
  else killNext (onHost (endContexts s (fun _ => true)) (fun h => { h with state := 1, step := 1, warm := warm, meas := [], spdm := [] }))

/-- A write of STARTCTL. With both bits set the start is cold. (DEDUCED, log entry 78.) -/
def writeStartctl (s : State) (v : Word) : State :=
  if v.getLsbD 0 then beginStart s false else if v.getLsbD 1 then beginStart s true else s

def execStartctlCold (port : HostPort) (s : State) : Out :=
  event "STARTCTL_COLD" (portOk s port) s (if discards s port 8 then s else beginStart s false)
def execStartctlWarm (port : HostPort) (s : State) : Out :=
  event "STARTCTL_WARM" (portOk s port) s (if discards s port 8 then s else beginStart s true)

/-- PARKREL: the stack's held bank is no longer served from the park area (R399). -/
def parkRelease (s : State) (k : Nat) : State :=
  onDram s (fun d => { d with banks := d.banks.filterMap (fun e =>
    let b := if bankStack e.1 == k && !e.2.testing then { e.2 with parked := false } else e.2
    if b = Bank.idle then none else some (e.1, b)) })

def execParkrelGo (port : HostPort) (k : Nat) (s : State) : Out :=
  event "PARKREL_GO" (portOk s port && decide (k < 8)) s (if discards s port 5 then s else parkRelease s k)

/-- LOGCLR (R328, R408). -/
def clearLog (s : State) (n : Nat) : State :=
  onHost (setSteward s n (fun t => { t with log := [], lost := 0, alert := false })) (fun h => { h with
    unread := h.unread.filter (fun e => e.1 != n) })

def execLogclrGo (port : HostPort) (n : Nat) (s : State) : Out :=
  event "LOGCLR_GO" (portOk s port && decide (n < 512)) s (if discards s port 6 then s else clearLog s n)

/-- PWRLIM (R419). -/
def writePwrlim (s : State) (v : Word) : State :=
  let w := v.extractLsb' 0 11
  if 600 ≤ w.toNat ∧ w.toNat ≤ 1600 then onHost s (fun h => { h with pwrlim := w }) else s

def execPwrlimWrite (port : HostPort) (v : Word) (s : State) : Out :=
  event "PWRLIM_WRITE" (portOk s port) s (if discards s port 8 then s else writePwrlim s v)

/-! ### Registers with no behaviour of their own (R407) -/

/-- SHBASE and SHSIZE: ignored while pool granules are in use; a write lays the pool out anew (R393). -/
def writePool (s : State) (base : Word) (size : BitVec 16) : State :=
  if s.sched.shfree.length ≠ s.sched.shsize.toNat then s
  else
    let g := (base.extractLsb' 18 21).toNat
    onSched s (fun h => { h with shbase := base, shsize := size, shfree := (List.range size.toNat).map (fun i => g + i) })

/-- The LIVE bits of 64 blocks: a cleared bit elides its block, whose contents are lost (R295). (DEDUCED, log entry 77.) -/
def writeLive (s : State) (hc word : Nat) (v : Word) : State :=
  (List.range 64).foldl (fun s i =>
    let b := 512 * hc + 64 * word + i
    if v.getLsbD i || mget false s.dram.elided b then s
    else onDram (bankWhere s (fun e => gBlock (e.loc / 32) == b)) (fun d => { zeroBlock d b with elided := mput false d.elided b true })) s

/-- Where an offset lies: its block, its place in it. (DEDUCED, log entry 77.) -/
def writeOwn (s : State) (p : HostPort) (off : Nat) (v : Word) : State :=
  let hp (f : HostSide → HostSide) : State := if discards s p 8 then s else onHost s f
  let tr (f : HostSide → HostSide) : State := if discards s p 1 then s else onHost s f
  let fb (f : Fabric → Fabric) : State := if discards s p 4 then s else onFab s f
  let il (r : Nat) (f : RegionRegs → RegionRegs) : State := if discards s p 0 then s else setRegs s r f
  let rel (t : State) : State := if discards s p 5 then s else t
  if off = 0x10 then (if discards s p 8 then s else writeStartctl s v)
  else if off = 0x18 then (if discards s p 8 then s else writePwrlim s v)
  else if off = 0x20 then hp (fun h => { h with hpath := mput 0 h.hpath 0 (keep (field 6 0) v) })
  else if off = 0x28 then hp (fun h => { h with hpath := mput 0 h.hpath 1 (keep (field 6 0) v) })
  else if off = 0x30 then hp (fun h => { h with hp1base := keep (field 51 18) v })
  else if off = 0x38 then hp (fun h => { h with hp1limit := keep (field 51 18) v })
  else if 0x1000 ≤ off ∧ off < 0x1100 then
    let k := (off - 0x1000) / 8
    let t := if v.getLsbD 1 then releaseHsem s p k else s
    if v.getLsbD 0 && (hsemOwner s k).isNone then setHsem t k (portNo p) else t
  else if 0x20000 ≤ off ∧ off < 0x22000 then
    let r := (off - 0x20000) / 0x200
    let o := off % 0x200
    if o = 0 then il r (fun g => { g with irbase := keep (field 38 30) v })
    else if o = 8 then il r (fun g => { g with ircfg := keep (field 8 8 ||| field 5 0) v })
    else if 0x10 ≤ o ∧ o < 0x120 then
      let j := (o - 0x10) / 8
      il r (fun g => { g with mrow := mput 0 g.mrow j ((v.setWidth 34 ^^^ unitRow j).setWidth 64) })
    else if o = 0x120 ∧ v.getLsbD 0 ∧ !discards s p 0 then commitRegion s r
    else s
  else if off = 0x30000 then tr (fun h => { h with tinvAddr := keep (field 47 18) v })
  else if off = 0x30008 then (if discards s p 1 then s else writeTinv s v)
  else if off = 0x30010 then tr (fun h => { h with dirtybase := keep (field 38 18 ||| field 0 0) v })
  else if off = 0x30018 then tr (fun h => { h with ctxbase := keep (field 38 22) v })
  else if off = 0x30020 then (if discards s p 1 then s else writeCtxkill s v)
  else if off = 0x30028 then tr (fun h => { h with tvecinit := (keep (field 47 8) v).setWidth 48 })
  else if 0x40000 ≤ off ∧ off < 0x44000 then
    let q := (off - 0x40000) / 0x40
    let o := off % 0x40
    if o = 0x10 then doorbell s q v
    else if discards s p 2 then s
    else if o = 0 then setQueue s q (fun u => { u with base := keep (field 38 8) v })
    else if o = 8 then writeQcfg s q v
    else if o = 0x28 then setQueue s q (fun u => { u with code := v.setWidth 8 })
    else s
  else if 0x50000 ≤ off ∧ off < 0x50400 then
    if off % 0x20 = 0 ∧ !discards s p 3 then writeBkcfg s ((off - 0x50000) / 0x20) v else s
  else if off = 0x60000 then (if discards s p 4 then s
    else reroute s (onFab s (fun h => { h with fabcfg := keep (field 23 18 ||| field 5 0) v })))
  else if off = 0x60008 then fb (fun h => { h with ftime := v })
  else if off = 0x60010 then fb (fun h => { h with winbase := keep (field 38 17 ||| field 0 0) v })
  else if off = 0x60018 then (if discards s p 4 then s else writeWinv s v)
  else if off = 0x60020 then fb (fun h => { h with keyctl := v.setWidth 4 })
  else if 0x60040 ≤ off ∧ off < 0x60080 then fb (fun h => { h with keys := mput 0 h.keys ((off - 0x60040) / 8) v })
  else if 0x60100 ≤ off ∧ off < 0x60180 then
    (if discards s p 4 then s
     else reroute s (onFab s (fun h => { h with
       lpcfg := mput 0 h.lpcfg ((off - 0x60100) / 8) (keep (field 14 12 ||| field 5 0) v) })))
  else if off = 0x70000 then rel (writePool s (keep (field 38 18) v) s.sched.shsize)
  else if off = 0x70008 then rel (writePool s s.sched.shbase (v.setWidth 16))
  else if off = 0x70018 then rel (onSched s (fun h => { h with rasctl := keep (field 11 0) v }))
  else if 0x70100 ≤ off ∧ off < 0x70140 then
    rel (onSched s (fun h => { h with parkbase := mput 0 h.parkbase ((off - 0x70100) / 8) (keep (field 38 24 ||| field 0 0) v) }))
  else if 0x70140 ≤ off ∧ off < 0x70180 then rel (if v.getLsbD 0 then parkRelease s ((off - 0x70140) / 8) else s)
  else if 0x80000 ≤ off ∧ off < 0xC0000 then
    if off % 0x200 = 0x108 ∧ v.getLsbD 0 ∧ !discards s p 6 then clearLog s ((off - 0x80000) / 0x200) else s
  else if 0x100000 ≤ off ∧ off < 0x108000 then
    let n := (off - 0x100000) / 16
    let b := vector s.host n
    if discards s p 7 then s
    else if off % 16 = 0 then
      onHost s (fun h => setVector h n (((b >>> 64) <<< 64) ||| v.setWidth 128))
    else onHost s (fun h => setVector h n ((b.setWidth 64).setWidth 128 ||| (keep (field 33 0) v).setWidth 128 <<< 64))
  else s

/-- A commit that must wait for an earlier one of its region (R278). (DEDUCED, log entry 70.) -/
def commitWaits (s : State) (t : RegTarget) : Bool :=
  match t with
  | .bar0 off _ => decide (0x20000 ≤ off) && decide (off < 0x22000) && off % 0x200 == 0x120 &&
      (regionRegs s ((off - 0x20000) / 0x200)).pend.isSome
  | .live _ _ => false

/-- A write of the control space: aligned and 8 bytes wide, or without effect (R407). The LIVE maps have no address there: a write
names half-channel and word. (DESIGN CHOICE, log entry 132.) -/
def execRegisterWrite (port : HostPort) (t : RegTarget) (v : Word) (s : State) : Out :=
  event "REGISTER_WRITE" (portOk s port && !commitWaits s t) s (match t with
    | .bar0 off width => if width = 8 ∧ off % 8 = 0 then writeOwn s port off v else s
    | .live hc word => if hc < 512 ∧ word < 8 then writeLive s hc word v else s)

/-! ### Reading the space (R407, R408) -/

def flagBit (b : Bool) (i : Nat) : Word := if b then BitVec.ofNat 64 (2 ^ i) else 0

/-- DESIGN CHOICE, log entry 11. -/
def devid : Word := 0x4800 <<< 24 ||| Config.stepping.setWidth 64 <<< 16 ||| 0xC008
def bootstat (s : State) : Word :=
  BitVec.ofNat 64 (s.host.step * 2 ^ 16) ||| flagBit s.host.warm 2 ||| s.host.state.setWidth 64

/-- PEND: raised, and masked or without a link (R415). (DEDUCED, log entry 92.) -/
def pendBit (s : State) (v : Nat) : Bool :=
  mget false s.host.pend v && (vMasked (vector s.host v) || !s.host.portUp.getLsbD (vPort (vector s.host v)))

def readQueue (u : Queue) (o : Nat) : Word :=
  if o = 0 then u.base
  else if o = 8 then
    u.ctx.setWidth 64 <<< 24 ||| u.pmax.setWidth 64 <<< 18 ||| flagBit u.dev 17 ||| flagBit u.en 16 ||| u.logn.setWidth 64
  else if o = 0x18 then u.head.setWidth 64
  else if o = 0x20 then u.tail.setWidth 64
  else if o = 0x28 then u.code.setWidth 64
  else 0

/-- What an aligned read of the space gives; write-only bits, and offsets that no rule names, read as zero. (DESIGN CHOICE, log entry 93.) -/
def readOwn (s : State) (off : Nat) : Word :=
  let h := s.host
  if off = 0 then devid
  else if off = 8 then bootstat s
  else if off = 0x18 then h.pwrlim.setWidth 64
  else if off = 0x20 then mget 0 h.hpath 0
  else if off = 0x28 then mget 0 h.hpath 1
  else if off = 0x30 then h.hp1base
  else if off = 0x38 then h.hp1limit
  else if 0x1000 ≤ off ∧ off < 0x1100 then
    (match hsemOwner s ((off - 0x1000) / 8) with
     | some p => 0x80 ||| flagBit (p == 1) 6
     | none => 0)
  else if 0x20000 ≤ off ∧ off < 0x22000 then
    let g := regionRegs s ((off - 0x20000) / 0x200)
    let o := off % 0x200
    if o = 0 then g.irbase
    else if o = 8 then g.ircfg
    else if 0x10 ≤ o ∧ o < 0x120 then (mrow g ((o - 0x10) / 8)).setWidth 64
    else if o = 0x128 then flagBit g.pend.isSome 63 ||| g.code.setWidth 64
    else 0
  else if off = 0x30000 then h.tinvAddr
  else if off = 0x30008 then h.tinvCtl ||| flagBit h.tinv.isSome 63
  else if off = 0x30010 then h.dirtybase
  else if off = 0x30018 then h.ctxbase
  else if off = 0x30020 then h.ctxkill
  else if off = 0x30028 then h.tvecinit.setWidth 64
  else if 0x40000 ≤ off ∧ off < 0x44000 then readQueue (queueAt s ((off - 0x40000) / 0x40)) (off % 0x40)
  else if 0x50000 ≤ off ∧ off < 0x50400 then
    let b := bookingAt s ((off - 0x50000) / 0x20)
    let o := off % 0x20
    if o = 0 then b.stage else if o = 8 then b.code.setWidth 64 else if o = 0x10 then BitVec.ofNat 64 b.use else BitVec.ofNat 64 b.idle
  else if off = 0x60000 then s.fab.fabcfg
  else if off = 0x60008 then s.fab.ftime
  else if off = 0x60010 then s.fab.winbase
  else if off = 0x60018 then s.fab.winv ||| flagBit s.fab.winvOn.isSome 63
  else if off = 0x60020 then s.fab.keyctl.setWidth 64
  else if 0x60100 ≤ off ∧ off < 0x60180 then
    let n := (off - 0x60100) / 8
    mget 0 s.fab.lpcfg n ||| flagBit (s.fab.up.getLsbD n) 15
  else if off = 0x70000 then s.sched.shbase
  else if off = 0x70008 then s.sched.shsize.setWidth 64
  else if off = 0x70010 then BitVec.ofNat 64 s.sched.shfree.length
  else if off = 0x70018 then s.sched.rasctl
  else if 0x70100 ≤ off ∧ off < 0x70140 then mget 0 s.sched.parkbase ((off - 0x70100) / 8)
  else if 0x70200 ≤ off ∧ off < 0x70400 then nth 0 s.sched.raslog ((off - 0x70200) / 8)
  else if 0x80000 ≤ off ∧ off < 0xC0000 then
    let t := stewardAt s ((off - 0x80000) / 0x200)
    let o := off % 0x200
    if o < 0x100 then nth 0 t.log (o / 8) else if o = 0x100 then logCnt t else 0
  else if 0x100000 ≤ off ∧ off < 0x108000 then
    let n := (off - 0x100000) / 16
    let b := vector h n
    if off % 16 = 0 then b.setWidth 64 else (b >>> 64).setWidth 64 ||| flagBit (pendBit s n) 34
  else 0

/-- DESIGN CHOICE, log entry 93. -/
def readReg (s : State) (off width : Nat) : Word := if width = 8 ∧ off % 8 = 0 then readOwn s off else 0

end Sys2Proof.Machine
end

