-- ==== Sys2Proof/Machine/HostEvents.lean ====
section
/-! DEFINITION. HostEvents.lean: power and start-up (R416, R417, R420), the management port (R420), host links (R409, R415),
host accesses to memory (R406, R414), and interrupts (R415). -/

namespace Sys2Proof.Machine
open Sys2Proof

/-! ### Power and start-up -/

/-- What lies outside the module, and the model's own fields, stay as they are. (DEDUCED, log entry 81.) -/
def outside (s t : State) : State :=
  onHost { t with agenda := s.agenda, cur := s.cur, choice := s.choice } (fun h => { h with sys := s.host.sys, msgs := s.host.msgs })

/-- Power-on begins a cold start (R416). (DEDUCED, log entry 81.) -/
def execPowerOn (s : State) : Out :=
  if s.host.power then .refused (.notEnabled "POWER_ON")
  else .next (onHost (outside s State.reset) (fun h => { h with power := true, state := 1, step := 1 }))

/-- Without power nothing of the module is left (R420). -/
def execPowerRemoved (s : State) : Out := event "POWER_REMOVED" true s (outside s State.reset)

/-- 10 ms after main power is good the management port answers (R420). -/
def execManagementReady (s : State) : Out :=
  event "MANAGEMENT_READY" (!s.host.mgmtReady && decide (10 * Config.ms ≤ s.now)) s (onHost s (fun h => { h with mgmtReady := true }))

/-- Device memory as a start leaves it before its later steps: contents, poison, publish states, LIVE maps and spares stay, and
only the scrub of step 5 clears them; regions, counters and filters are reset (R416). A bank that its park area serves stays
so. -/
def startDram (d : Dram) : Dram :=
  { Dram.reset with mem := d.mem, poi := d.poi, pub := d.pub, elided := d.elided, spare := d.spare, mark := d.mark,
                    banks := d.banks.filterMap (fun e => if e.2.parked then some (e.1, { Bank.idle with parked := true }) else none) }

/-- Everything that has ended is gone, and every register of the control space is reset (R416). Cores that a self-test retired
stay retired (R398). Committed shadow granules are copied back first (R394), and the park area of a bank that it serves stays, so that
no contents are lost. (DEDUCED, log entry 78.) -/
def startReset (s0 : State) : State :=
  let s := (s0.sched.redir.filter (fun r => r.global && r.ready)).foldl (fun s r => copyGranule s r.pool r.gran) s0
  let t := outside s State.reset
  let t := { t with now := s.now, dram := startDram s.dram }
  let kept := s.sched.parkbase.filter (fun e => s.dram.banks.any (fun b => bankStack b.1 == e.1 && b.2.parked))
  let t := onSched t (fun h => { h with coreBad := s.sched.coreBad, spareUsed := s.sched.spareUsed, parkbase := kept })
  onHost t (fun h => { h with power := true, mgmtReady := s.host.mgmtReady, state := 1, step := 1, warm := s.host.warm, meas := [] })

/-- A stage is measured: MEASk := SHA-256(MEASk, digest) (R417). -/
def measure (s : State) (m : Nat × BitVec 256) : State :=
  let be (v : BitVec 256) : List Byte := (natLe 32 v.toNat).reverse
  if m.1 < 8 then
    onHost s (fun h =>
      let v := sha256 (be (mget 0 h.meas m.1) ++ be m.2)
      { h with meas := mput 0 h.meas m.1 (BitVec.ofNat 256 (leNat v.reverse)) })
  else s

/-- The message that a valid signature encodes (R417): RSASSA-PKCS1-v1_5 with SHA-256 in 384 bytes. (PRESUMED, log entry 122.) -/
def pkcs1 (hash : List Byte) : Nat :=
  let info : List Byte := [0x30, 0x31, 0x30, 0x0d, 0x06, 0x09, 0x60, 0x86, 0x48, 0x01, 0x65, 0x03, 0x04, 0x02, 0x01, 0x05, 0x00, 0x04, 0x20]
  leNat (([0, 1] ++ List.replicate 330 255 ++ [0] ++ info ++ hash).reverse)

/-- b^e mod n, a bit of e at a time, by fuel. -/
def powMod (n : Nat) : Nat → Nat → Nat → Nat
  | 0, _, _ => 1 % n
  | f + 1, b, e => if e = 0 then 1 % n else
    let r := powMod n f (b * b % n) (e / 2)
    if e % 2 = 1 then b * r % n else r

/-- The boot ROM accepts an image (R417): the key is the one whose digest stands in the fuses, and the signature over the image's
SHA-256 digest is valid under it. -/
def fwValid (x : FwImage) : Bool :=
  sha256 (Config.keyBytes x.modulus x.exponent) == (natLe 32 Config.keyDigest.toNat).reverse &&
    decide (2 ^ 3071 ≤ x.modulus) && decide (x.modulus < 2 ^ 3072) && decide (x.signature < x.modulus) &&
    powMod x.modulus 3072 x.signature x.exponent == pkcs1 (sha256 x.image)

/-- The stages verified, in order, are measured; the first image not accepted ends it (R417). -/
def measureAll (s : State) (images : List FwImage) : State :=
  (images.takeWhile fwValid).foldl (fun s x => measure s (x.stage, BitVec.ofNat 256 (leNat (sha256 x.image).reverse))) s

/-- A migration in progress completes in a warm start (R298, R416). -/
def endMigrations (s : State) : State :=
  onDram s (fun d => { d with mark := d.spare.foldl (fun m e => if e.2.isSome then mput 0 m e.1 (8 * 2 * 16 * 2 ^ 14) else m) d.mark })

/-- The step after one that has passed: a warm start skips the scrub. -/
def nextStep (warm : Bool) (n : Nat) : Nat := if warm && n == 4 then 6 else n + 1

/-- Has the step passed? Step 1 has not where an image is not accepted (R417). (DESIGN CHOICE, log entry 117.) -/
def stepPassed (n : Nat) (passed : Bool) (images : List FwImage) : Bool := passed && (n != 1 || images.all fwValid)

/-- The work of a step; what follows the first happens where it has passed. -/
def stepWork (s : State) (n : Nat) (images : List FwImage) : State :=
  if n = 1 then measureAll (startReset s) images
  else if n = 4 && s.host.warm then endMigrations s
  else if n = 5 then onDram s (fun _ => Dram.reset)
  else s

/-- A step ends (R416). The first waits until every context has ended, and in a warm start until every accepted write is
banked. -/
def execStartStepEnd (passed : Bool) (images : List FwImage) (s : State) : Out :=
  let h := s.host
  let ready : Bool := h.step != 1 || (ended s (fun _ => true) && (!h.warm || s.dram.wq.isEmpty))
  let t := stepWork s h.step images
  event "START_STEP_END" (h.state == 1 && ready) s
    (if !stepPassed h.step passed images then onHost (if h.step = 1 then t else s) (fun h => { h with state := 3 })
     else if h.step = 6 then onHost t (fun h => { h with state := 2 })
     else onHost t (fun h => { h with step := nextStep h.warm h.step }))

/-! ### Host links (R409, R415, R416) -/

/-- A port's link trains in step 4 or later (R416). -/
def execHostLinkUp (port : Nat) (s : State) : Out :=
  event "HOST_LINK_UP" (decide (port < 2) && !s.host.portUp.getLsbD port && (s.host.state == 2 || decide (4 ≤ s.host.step))) s
    (onHost s (fun h => { h with portUp := h.portUp ||| BitVec.ofNat 2 (2 ^ port) }))

/-- A port whose link goes down releases every semaphore it holds (R409). -/
def execHostLinkDown (port : Nat) (s : State) : Out :=
  event "HOST_LINK_DOWN" (decide (port < 2) && s.host.portUp.getLsbD port) s
    (onHost s (fun h => { h with portUp := h.portUp &&& ~~~(BitVec.ofNat 2 (2 ^ port)),
                                 hsem := h.hsem.filter (fun e => e.2 != some port) }))

/-! ### Host accesses to memory (R406, R414) -/

/-- A port whose function is in D3hot takes no memory request. (PRESUMED, log entry 135.) -/
def hostMay (s : State) (port : Nat) : Bool :=
  decide (port < 2) && s.host.state == 2 && s.host.portUp.getLsbD port && !s.host.d3hot.getLsbD port

/-- A range of device memory cut at granules. -/
def dmemPieces (pa len : Nat) : List Piece := (pages pa len).map (fun e => Piece.mk (.dmem e.1) e.2 true)

/-- Reads and writes through BAR2 or CXL.mem at the channel controllers; a host thread's write to its own memory, once the device
has given up the line (R412). -/
def hostAccess (s : State) (a : HostAccess) : Option State :=
  match a with
  | .read port _ pa len =>
    let ps := dmemPieces pa len
    if !hostMay s port || decide (2 ^ 39 < pa + len) then none
    else (newGate s none ps).map (fun t => onHost t (fun h => { h with reply := (readPieces t none ps).1 }))
  | .write port _ pa bs =>
    let ps := dmemPieces pa bs.length
    if !hostMay s port || decide (2 ^ 39 < pa + bs.length) then none
    else
      match writeGates s none false ps with
      | .wait t => if t = s then none else some t
      | .go => some (writePieces s (.host port) none ps bs false)
  | .ownWrite ha bs =>
    if s.host.owned.any (fun l => decide (ha / 64 ≤ l) && decide (l ≤ (ha + bs.length - 1) / 64)) then none
    else some (onHost s (fun h => { h with sys := putBytes h.sys ha bs }))
  | .powerState port d3 =>
    let bit := BitVec.ofNat 2 (2 ^ port)
    if decide (2 ≤ port) || !s.host.portUp.getLsbD port then none
    else some (onHost s (fun h => { h with d3hot := if d3 then h.d3hot ||| bit else h.d3hot &&& ~~~bit }))

def execHostMemoryAccess (a : HostAccess) (s : State) : Out := eventO "HOST_MEMORY_ACCESS" s (hostAccess s a)

/-- The message of a raised vector leaves once it is unmasked and its port is up (R415). -/
def execInterruptSend (v : Nat) (s : State) : Out :=
  let b := vector s.host v
  event "INTERRUPT_SEND" (mget false s.host.pend v && !vMasked b && s.host.portUp.getLsbD (vPort b)) s
    (onHost s (fun h => { h with pend := mput false h.pend v false,
                                 msgs := h.msgs ++ [(vPort b, (b.setWidth 64).toNat, ((b >>> 64).setWidth 32).toNat)] }))

/-! ### The management port (R420) -/

/-- MGMT_ALERT_N is asserted while the board controller has not read every entry that caused it. -/
def alertOn (s : State) : Bool := !s.sched.rasNew.isEmpty || !s.host.unread.isEmpty

def word8 (w : Word) : List Byte := natLe 8 w.toNat
def answer (s : State) (w : Word) : State := onHost s (fun h => { h with reply := word8 w })

/-- Sensors: 0 and 1 the compute dies, 2 to 9 the stacks; 10 the module's power. (DESIGN CHOICE, log entry 14.) -/
def management (s : State) (rq : MgmtRequest) : Option State :=
  match rq with
  | .temperature k => if k < 10 then some (answer s (Config.sensor k s.now)) else none
  | .power => some (answer s (Config.sensor 10 s.now))
  | .devid => some (answer s devid)
  | .bootstat => some (answer s (bootstat s))
  | .rasLog i =>
    if 64 ≤ i then none
    else
      some (onSched (answer s (nth 0 s.sched.raslog i)) (fun h => { h with rasNew := h.rasNew.filter (· != i) }))
  | .stewardLog n i =>
    if 512 ≤ n ∨ 32 ≤ i then none
    else some (onHost (answer s (nth 0 (stewardAt s n).log i)) (fun h => { h with unread := h.unread.filter (fun e => e != (n, i)) }))
  | .writePwrlim v => some (writePwrlim s v)
  | .writeStartctl v => some (writeStartctl s v)

def execManagementRequest (rq : MgmtRequest) (s : State) : Out :=
  eventO "MANAGEMENT_REQUEST" s (if s.host.mgmtReady then management s rq else none)

/-! ### SPDM (R417, R418) -/

def channelNo (c : SpdmChannel) : Nat :=
  match c with
  | .doe0 => 0
  | .doe1 => 1
  | .mctp => 2

/-- Does the channel carry requests: the port's mailbox, or the management port? -/
def channelUp (s : State) (c : SpdmChannel) : Bool :=
  match c with
  | .doe0 => s.host.portUp.getLsbD 0
  | .doe1 => s.host.portUp.getLsbD 1
  | .mctp => s.host.mgmtReady

def spdmAt (s : State) (c : SpdmChannel) : Spdm := mget Spdm.reset s.host.spdm (channelNo c)

/-- A request that needs the negotiation to stand at `need` at least: its response carries `body`, and the negotiation moves to
`stage`; otherwise the response is an error. (PRESUMED, log entry 13.) -/
def spdm (name : String) (code : Nat) (c : SpdmChannel) (need : Nat) (ok : Bool) (stage : Nat → Nat) (body : List Byte) (s : State) :
    Out :=
  let k := spdmAt s c
  let good : Bool := decide (need ≤ k.stage) && ok
  let r := if good then Config.spdmBody code body else Config.spdmBody 0x7F []
  event name (channelUp s c) s (onHost s (fun h => { h with
    reply := r, spdm := mput Spdm.reset h.spdm (channelNo c) ⟨if good then stage k.stage else k.stage, r⟩ }))

/-- PRESUMED, log entry 13. -/
def execGetVersion (c : SpdmChannel) (s : State) : Out := spdm "GET_VERSION" 0x04 c 0 true (fun _ => 1) [0x12] s
def execGetCapabilities (c : SpdmChannel) (s : State) : Out := spdm "GET_CAPABILITIES" 0x61 c 1 true (fun k => max k 2) [] s

/-- The only algorithms are RSASSA-3072 and SHA-256: bits 2 and 0 of what the requester offers. -/
def execNegotiateAlgorithms (c : SpdmChannel) (sign hash : Nat) (s : State) : Out :=
  spdm "NEGOTIATE_ALGORITHMS" 0x63 c 2 (sign / 4 % 2 == 1 && hash % 2 == 1) (fun _ => 3) [4, 1] s

def execGetDigests (c : SpdmChannel) (s : State) : Out := spdm "GET_DIGESTS" 0x01 c 3 true id (sha256 Config.certChain) s
def execGetCertificate (c : SpdmChannel) (s : State) : Out := spdm "GET_CERTIFICATE" 0x02 c 3 true id Config.certChain s

/-- The identity key signs the requester's nonce. -/
def execChallenge (c : SpdmChannel) (nonce : BitVec 256) (s : State) : Out :=
  let n := natLe 32 nonce.toNat
  spdm "CHALLENGE" 0x03 c 3 true id (sha256 Config.certChain ++ n ++ Config.sign n) s

/-- The eight registers, signed over the requester's nonce. -/
def execGetMeasurements (c : SpdmChannel) (nonce : BitVec 256) (s : State) : Out :=
  let m := (List.range 8).flatMap (fun k => (natLe 32 (mget 0 s.host.meas k).toNat).reverse)
  let n := natLe 32 nonce.toNat
  spdm "GET_MEASUREMENTS" 0x60 c 3 true id (m ++ n ++ Config.sign (m ++ n)) s

end Sys2Proof.Machine
end

