-- ==== Sys2Proof/Machine/Scalar.lean ====
section
/-! DEFINITION. Scalar.lean: what the scalar, CSR and predicate instructions of slot S issue (R124-R140, R168). -/

namespace Sys2Proof.Machine
open Sys2Proof

/-- Two scalar sources, one result. -/
def sOp2 (x : RF) (f : Frame) (g : Word → Word → Word) : Frame := wrS f 0 x.d (g (rdS f 0 x.a) (rdS f 0 x.b))
def sOp1 (x : RF) (f : Frame) (g : Word → Word) : Frame := wrS f 0 x.d (g (rdS f 0 x.a))
def b2w (b : Bool) : Word := if b then 1 else 0
/-- The amount of a shift or rotate: sB[5:0] (R124). -/
def amt (b : Word) : Nat := b.toNat % 64

def issueAdd (x : RF) (f : Frame) : Frame := sOp2 x f (· + ·)
def issueSub (x : RF) (f : Frame) : Frame := sOp2 x f (· - ·)
def issueMul (x : RF) (f : Frame) : Frame := sOp2 x f (· * ·)
def issueMulh (x : RF) (f : Frame) : Frame := sOp2 x f (fun a b => ofI (a.toInt * b.toInt / 2 ^ 64))
def issueMulhn (x : RF) (f : Frame) : Frame := sOp2 x f (fun a b => BitVec.ofNat 64 (a.toNat * b.toNat / 2 ^ 64))
/-- DIV, DIVN, REM, REMN (R125): a zero divisor sets DZ. -/
def sDiv (x : RF) (f : Frame) (zero : Word → Word) (g : Word → Word → Word) : Frame :=
  let a := rdS f 0 x.a
  let b := rdS f 0 x.b
  if b = 0 then raise (wrS f 0 x.d (zero a)) 0 fDZ true else wrS f 0 x.d (g a b)
def issueDiv (x : RF) (f : Frame) : Frame := sDiv x f (fun _ => BitVec.allOnes 64) (fun a b => ofI (a.toInt.tdiv b.toInt))
def issueDivn (x : RF) (f : Frame) : Frame := sDiv x f (fun _ => BitVec.allOnes 64) (fun a b => BitVec.ofNat 64 (a.toNat / b.toNat))
def issueRem (x : RF) (f : Frame) : Frame := sDiv x f id (fun a b => ofI (a.toInt.tmod b.toInt))
def issueRemn (x : RF) (f : Frame) : Frame := sDiv x f id (fun a b => BitVec.ofNat 64 (a.toNat % b.toNat))
def issueAnd (x : RF) (f : Frame) : Frame := sOp2 x f (· &&& ·)
def issueOr (x : RF) (f : Frame) : Frame := sOp2 x f (· ||| ·)
def issueXor (x : RF) (f : Frame) : Frame := sOp2 x f (· ^^^ ·)
def issueShl (x : RF) (f : Frame) : Frame := sOp2 x f (fun a b => a <<< amt b)
def issueShr (x : RF) (f : Frame) : Frame := sOp2 x f (fun a b => a >>> amt b)
def issueSar (x : RF) (f : Frame) : Frame := sOp2 x f (fun a b => a.sshiftRight (amt b))
def issueRot (x : RF) (f : Frame) : Frame := sOp2 x f (fun a b => a.rotateLeft (amt b))
def issueMin (x : RF) (f : Frame) : Frame := sOp2 x f (fun a b => if b.toInt < a.toInt then b else a)
def issueMax (x : RF) (f : Frame) : Frame := sOp2 x f (fun a b => if a.toInt < b.toInt then b else a)
def issueMinn (x : RF) (f : Frame) : Frame := sOp2 x f (fun a b => if b.toNat < a.toNat then b else a)
def issueMaxn (x : RF) (f : Frame) : Frame := sOp2 x f (fun a b => if a.toNat < b.toNat then b else a)
/-- The conditions of CMP (R126). -/
def cmpCond (cc : Nat) (a b : Word) : Bool :=
  match cc with
  | 0 => a == b | 1 => a != b
  | 2 => a.toInt < b.toInt | 3 => a.toInt ≤ b.toInt | 4 => b.toInt < a.toInt | 5 => b.toInt ≤ a.toInt
  | 6 => a.toNat < b.toNat | 7 => a.toNat ≤ b.toNat | 8 => b.toNat < a.toNat | _ => b.toNat ≤ a.toNat
def issueCmp (x : RF) (f : Frame) : Frame := sOp2 x f (fun a b => b2w (cmpCond x.f.toNat a b))
def issueSel (x : RF) (f : Frame) : Frame := sOp2 x f (fun a b => if a ≠ 0 then b else rdS f 0 x.c)
/-- Leading zeros: 64 less the bits that the value needs. -/
def clz64 (a : Word) : Nat := if a = 0 then 64 else 63 - Nat.log2 a.toNat
def issueClz (x : RF) (f : Frame) : Frame := sOp1 x f (fun a => BitVec.ofNat 64 (clz64 a))
def popc64 (a : Word) : Nat := ((List.range 64).filter (fun i => a.getLsbD i)).length
def issuePopc (x : RF) (f : Frame) : Frame := sOp1 x f (fun a => BitVec.ofNat 64 (popc64 a))
/-- BFX and BFI (R127): pos and width stand in the fields b and c. -/
def bfPos (x : RF) : Nat := x.b.toNat % 64
def bfWidth (x : RF) : Nat := x.c.toNat % 64 + 1
def issueBfx (x : RF) (f : Frame) : Frame := sOp1 x f (fun a =>
  let t := a.toNat / 2 ^ bfPos x % 2 ^ bfWidth x
  if x.f.getLsbD 0 then sextN (bfWidth x) t else BitVec.ofNat 64 t)
def issueBfi (x : RF) (f : Frame) : Frame :=
  let mask : Word := BitVec.ofNat 64 ((2 ^ bfWidth x - 1) * 2 ^ bfPos x)
  let old := rdS f 0 (x.d &&& 63)
  wrS f 0 x.d ((old &&& ~~~mask) ||| ((rdS f 0 x.a <<< bfPos x) &&& mask))
def issueAddi (x : IF) (f : Frame) : Frame := wrS f 0 x.d (rdS f 0 x.a + x.imm.signExtend 64)
/-- LOGI (R128): op in the two top bits of the immediate field. -/
def issueLogi (x : IF) (f : Frame) : Frame :=
  let a := rdS f 0 x.a
  let v := (x.imm.extractLsb' 0 16).signExtend 64
  let op := x.imm.extractLsb' 16 2
  wrS f 0 x.d (if op = 0 then a &&& v else if op = 1 then a ||| v else a ^^^ v)
def issueLi (x : LIF) (f : Frame) : Frame := wrS f 0 x.d (x.imm.signExtend 64)
def issueLih (x : LIF) (f : Frame) : Frame :=
  wrS f 0 x.d ((x.imm.setWidth 64 <<< 24) ||| (rdS f 0 (x.d &&& 63) &&& 0xFFFFFF))

/-! ### Scalar floating point (R129-R133) -/

/-- Format and rounding of a scalar floating-point instruction (R129). -/
def sfT (x : RF) : ETy := if x.f.getLsbD 2 then .f64 else .f32
def sfRm (f : Frame) (x : RF) : Rm := rmDyn (x.f.extractLsb' 0 2) (fpcRm f)
/-- A source read in a format: its low bits (R123). -/
def rdF (f : Frame) (t : ETy) (a : BitVec 7) : Nat := (rdS f 0 a).toNat % 2 ^ t.w
/-- Write a result zero-extended and raise its flags. -/
def wrF (f : Frame) (d : BitVec 7) (r : Nat × Fl) : Frame := raise (wrS f 0 d (BitVec.ofNat 64 r.1)) 0 r.2 false
def sf2 (x : RF) (f : Frame) (g : ETy → Rm → Nat → Nat → Nat × Fl) : Frame :=
  wrF f x.d (g (sfT x) (sfRm f x) (rdF f (sfT x) x.a) (rdF f (sfT x) x.b))
def issueFadd (x : RF) (f : Frame) : Frame := sf2 x f fAdd
def issueFsub (x : RF) (f : Frame) : Frame := sf2 x f fSub
def issueFmul (x : RF) (f : Frame) : Frame := sf2 x f fMul
def issueFma (x : RF) (f : Frame) : Frame :=
  wrF f x.d (fMa (sfT x) (sfRm f x) (rdF f (sfT x) x.a) (rdF f (sfT x) x.b) (rdF f (sfT x) x.c))
def issueFdiv (x : RF) (f : Frame) : Frame := sf2 x f fDiv
def issueFsqrt (x : RF) (f : Frame) : Frame := wrF f x.d (fSqrt (sfT x) (sfRm f x) (rdF f (sfT x) x.a))
def issueFmin (x : RF) (f : Frame) : Frame := sf2 x f (fun t _ => fMinMax t false)
def issueFmax (x : RF) (f : Frame) : Frame := sf2 x f (fun t _ => fMinMax t true)
/-- FCMP (R131): the INT64 absent code when an operand is absent. -/
def issueFcmp (x : RF) (f : Frame) : Frame :=
  let r := fCmp (sfT x) (x.c.toNat % 8) (rdF f (sfT x) x.a) (rdF f (sfT x) x.b)
  raise (wrS f 0 x.d (match r.1 with
    | none => 0x8000000000000000
    | some b => b2w b)) 0 r.2 false
/-- FCVT (R133): an .I32 result is sign-extended (R123). -/
def issueFcvt (x : RF) (f : Frame) : Frame :=
  let s := ty? (x.c.extractLsb' 0 5)
  let d := ty? (x.b.extractLsb' 0 5)
  let r := cvt d s (sfRm f x) (rdF f s x.a)
  raise (wrS f 0 x.d (if d == .i32 then sextN 32 r.1 else BitVec.ofNat 64 r.1)) 0 r.2 false
def issueFclass (x : RF) (f : Frame) : Frame := wrS f 0 x.d (BitVec.ofNat 64 (fClass (sfT x) (rdF f (sfT x) x.a)))

/-! ### CSRs (R134, R135) -/

def issueCsrr (x : RF) (f : Frame) : Frame := wrS f 0 x.d (csrRead f.pre (csrNum x))
/-- CSRW takes effect when the bundle commits, before its flags (R43, R135). -/
def issueCsrw (x : RF) (f : Frame) : Frame := { f with csrw := some (csrNum x, rdS f 0 x.a) }

/-! ### Predicates (R166-R168) -/

def wpBits (W : Nat) : Nat := if W = 0 then 4 else if W = 1 then 8 else if W = 2 then 16 else if W = 3 then 32 else 64
def issuePset (x : RF) (f : Frame) : Frame :=
  let W := x.f.toNat % 8
  wrP f 0 (x.c.toNat % 8) (if W = 7 then 0xE000 else mkPred W (min (rdS f 0 x.a).toNat 8191))
def issuePsets (x : RF) (f : Frame) : Frame :=
  let W := x.f.toNat % 8
  let E := (x.c.toNat / 8 % 8 + 1) * 2048 / wpBits W
  let a := rdS f 0 x.a
  let n := min a.toNat E
  wrS (wrP f 0 (x.c.toNat % 8) (mkPred W n)) 0 x.d (a - BitVec.ofNat 64 n)
def issuePcnt (x : RF) (f : Frame) : Frame :=
  let W := x.f.toNat % 8
  wrS f 0 x.d (BitVec.ofNat 64 (active (rdP f 0 (x.c.toNat % 8)) (wpBits W) (x.c.toNat / 8 % 8 + 1)))

/-! ### The meanings -/

def execAdd (x : RF) (s : State) : Out := runCore (.add x) (issueAdd x) s
def execSub (x : RF) (s : State) : Out := runCore (.sub x) (issueSub x) s
def execMul (x : RF) (s : State) : Out := runCore (.mul x) (issueMul x) s
def execMulh (x : RF) (s : State) : Out := runCore (.mulh x) (issueMulh x) s
def execMulhn (x : RF) (s : State) : Out := runCore (.mulhn x) (issueMulhn x) s
def execDiv (x : RF) (s : State) : Out := runCore (.div x) (issueDiv x) s
def execDivn (x : RF) (s : State) : Out := runCore (.divn x) (issueDivn x) s
def execRem (x : RF) (s : State) : Out := runCore (.rem x) (issueRem x) s
def execRemn (x : RF) (s : State) : Out := runCore (.remn x) (issueRemn x) s
def execAnd (x : RF) (s : State) : Out := runCore (.and x) (issueAnd x) s
def execOr (x : RF) (s : State) : Out := runCore (.or x) (issueOr x) s
def execXor (x : RF) (s : State) : Out := runCore (.xor x) (issueXor x) s
def execShl (x : RF) (s : State) : Out := runCore (.shl x) (issueShl x) s
def execShr (x : RF) (s : State) : Out := runCore (.shr x) (issueShr x) s
def execSar (x : RF) (s : State) : Out := runCore (.sar x) (issueSar x) s
def execRot (x : RF) (s : State) : Out := runCore (.rot x) (issueRot x) s
def execMin (x : RF) (s : State) : Out := runCore (.min x) (issueMin x) s
def execMax (x : RF) (s : State) : Out := runCore (.max x) (issueMax x) s
def execMinn (x : RF) (s : State) : Out := runCore (.minn x) (issueMinn x) s
def execMaxn (x : RF) (s : State) : Out := runCore (.maxn x) (issueMaxn x) s
def execCmp (x : RF) (s : State) : Out := runCore (.cmp x) (issueCmp x) s
def execSel (x : RF) (s : State) : Out := runCore (.sel x) (issueSel x) s
def execClz (x : RF) (s : State) : Out := runCore (.clz x) (issueClz x) s
def execPopc (x : RF) (s : State) : Out := runCore (.popc x) (issuePopc x) s
def execBfx (x : RF) (s : State) : Out := runCore (.bfx x) (issueBfx x) s
def execBfi (x : RF) (s : State) : Out := runCore (.bfi x) (issueBfi x) s
def execAddi (x : IF) (s : State) : Out := runCore (.addi x) (issueAddi x) s
def execLogi (x : IF) (s : State) : Out := runCore (.logi x) (issueLogi x) s
def execLi (x : LIF) (s : State) : Out := runCore (.li x) (issueLi x) s
def execLih (x : LIF) (s : State) : Out := runCore (.lih x) (issueLih x) s
def execFadd (x : RF) (s : State) : Out := runCore (.fadd x) (issueFadd x) s
def execFsub (x : RF) (s : State) : Out := runCore (.fsub x) (issueFsub x) s
def execFmul (x : RF) (s : State) : Out := runCore (.fmul x) (issueFmul x) s
def execFma (x : RF) (s : State) : Out := runCore (.fma x) (issueFma x) s
def execFdiv (x : RF) (s : State) : Out := runCore (.fdiv x) (issueFdiv x) s
def execFsqrt (x : RF) (s : State) : Out := runCore (.fsqrt x) (issueFsqrt x) s
def execFmin (x : RF) (s : State) : Out := runCore (.fmin x) (issueFmin x) s
def execFmax (x : RF) (s : State) : Out := runCore (.fmax x) (issueFmax x) s
def execFcmp (x : RF) (s : State) : Out := runCore (.fcmp x) (issueFcmp x) s
def execFcvt (x : RF) (s : State) : Out := runCore (.fcvt x) (issueFcvt x) s
def execFclass (x : RF) (s : State) : Out := runCore (.fclass x) (issueFclass x) s
def execCsrr (x : RF) (s : State) : Out := runCore (.csrr x) (issueCsrr x) s
def execCsrw (x : RF) (s : State) : Out := runCore (.csrw x) (issueCsrw x) s
def execPset (x : RF) (s : State) : Out := runCore (.pset x) (issuePset x) s
def execPsets (x : RF) (s : State) : Out := runCore (.psets x) (issuePsets x) s
def execPcnt (x : RF) (s : State) : Out := runCore (.pcnt x) (issuePcnt x) s

end Sys2Proof.Machine
end

