-- ==== Sys2Proof/Machine/Scale.lean ====
section
/-! DEFINITION. Scale.lean: the instructions of slot X (R233-R235). -/

namespace Sys2Proof.Machine
open Sys2Proof

/-- Where an X-slot result goes: the scale register as rotation names it now (R104). -/
def xDst (f : Frame) (x : XF) : LateDst := ⟨.x, [rotX f.pre.rb x.x.toNat], 12, 1, false, 5, boosted f 5⟩

/-- SCLD (R234): lands so that the sixth bundle on is the first that reads it. -/
def issueScld (x : XF) (s : State) (f : Frame) : Frame :=
  let ea := rdS f 5 x.a + BitVec.ofNat 64 (2 * x.hi.toNat)
  if (heldRead f 5 (fun _ => true)).isSome then expose s f .scld (xDst f x) 6 []
  else gateLoad f (withPieces s f .rd 2 [(va48 ea, 2)] (faultAt f 5) (fun ps => expose s f .scld (xDst f x) 6 ps))

/-- XSEL (R235): flags now, the code two bundles on. -/
def issueXsel (x : XF) (f : Frame) : Frame :=
  let bt : ETy := match (x.hi.extractLsb' 2 2).toNat with
    | 0 => .bm8 | 1 => .bm5 | _ => .bm3
  let t : ETy := match (x.hi.extractLsb' 0 2).toNat with
    | 0 => .f64 | 1 => .f32 | 2 => .bf16 | _ => .f16
  let r := xselCode bt t (nth 0 (elems t.w 1 (rdV f 5 x.a 1)) 0)
  raise { f with now := { f.now with exposed := f.now.exposed ++
    [⟨.xsel, xDst f x, 2, f.now.memNext, some (natLe 2 r.1), false, boosted f 5⟩] } } 5 r.2 false

def issueXset (x : XF) (f : Frame) : Frame := wrX f 5 x.x.toNat (x.hi ++ x.a)

def execScld (x : XF) (s : State) : Out := runSlot (.scld x) (issueScld x) s
def execXsel (x : XF) (s : State) : Out := runCore (.xsel x) (issueXsel x) s
def execXset (x : XF) (s : State) : Out := runCore (.xset x) (issueXset x) s

end Sys2Proof.Machine
end

