-- ==== Sys2Proof/Machine/Vector.lean ====
section
/-! DEFINITION. Vector.lean: what the instructions of slot V issue (R141-R186). -/

namespace Sys2Proof.Machine
open Sys2Proof

def vt (x : VF) : ETy := ty? x.ty
/-- A flagless element-wise operation of two operands. -/
def vi2 (x : VF) (f : Frame) (g : Nat → Nat → Nat) : Frame := vmap2 f x (fun a b => (g a b, 0))

def issueVadd (x : VF) (f : Frame) : Frame := vi2 x f (iAdd (vt x))
def issueVsub (x : VF) (f : Frame) : Frame := vi2 x f (iSub (vt x))
def issueVadds (x : VF) (f : Frame) : Frame := vi2 x f (iAdds (vt x))
def issueVsubs (x : VF) (f : Frame) : Frame := vi2 x f (iSubs (vt x))
def issueVmul (x : VF) (f : Frame) : Frame := vi2 x f (iMul (vt x))
def issueVmulh (x : VF) (f : Frame) : Frame := vi2 x f (iMulh (vt x))
def issueVmin (x : VF) (f : Frame) : Frame := vi2 x f (iMinMax (vt x) false)
def issueVmax (x : VF) (f : Frame) : Frame := vi2 x f (iMinMax (vt x) true)
def issueVand (x : VF) (f : Frame) : Frame := vi2 x f (· &&& ·)
def issueVor (x : VF) (f : Frame) : Frame := vi2 x f (· ||| ·)
def issueVxor (x : VF) (f : Frame) : Frame := vi2 x f (· ^^^ ·)
/-- Shifts (R150): with sb set the amount is the whole of sB. -/
def vshift (x : VF) (f : Frame) (g : Nat → Nat → Nat → Nat) : Frame :=
  if x.f.getLsbD 6 then vmap1 f x (fun a => (g (vw x) a (rdS f 1 x.b).toNat, 0)) else vi2 x f (g (vw x))
def issueVshl (x : VF) (f : Frame) : Frame := vshift x f eShl
def issueVshr (x : VF) (f : Frame) : Frame := vshift x f eShr
def issueVsar (x : VF) (f : Frame) : Frame := vshift x f eSar
def issueVabs (x : VF) (f : Frame) : Frame := vmap1 f x (fun a => (iAbs (vt x) a, 0))
def issueVfadd (x : VF) (f : Frame) : Frame := vmap2 f x (fAdd (vt x) (vrm f x))
def issueVfsub (x : VF) (f : Frame) : Frame := vmap2 f x (fSub (vt x) (vrm f x))
def issueVfmul (x : VF) (f : Frame) : Frame := vmap2 f x (fMul (vt x) (vrm f x))
def issueVfma (x : VF) (f : Frame) : Frame := vmap3 f x (fMa (vt x) (vrm f x))
def issueVfmin (x : VF) (f : Frame) : Frame := vmap2 f x (vfMinMax (vt x) false)
def issueVfmax (x : VF) (f : Frame) : Frame := vmap2 f x (vfMinMax (vt x) true)
def issueVfsgn (x : VF) (f : Frame) : Frame := vmap2 f x (vFsgn (vt x) (x.f.toNat % 4))
def issueVrcp (x : VF) (f : Frame) : Frame := vmap1 f x (vRcp (vt x))
def issueVrcpn (x : VF) (f : Frame) : Frame := vmap2 f x (vNewton false (vt x) (vrm f x))
def issueVrsq (x : VF) (f : Frame) : Frame := vmap1 f x (vRsq (vt x))
def issueVrsqn (x : VF) (f : Frame) : Frame := vmap2 f x (vNewton true (vt x) (vrm f x))
def issueVexp2 (x : VF) (f : Frame) : Frame := vmap1 f x (vExp2 (vt x))
def issueVlog2 (x : VF) (f : Frame) : Frame := vmap1 f x (vLog2 (vt x))
/-- VCMP (R159): the absent code of .I at the width when an operand is absent. -/
def vcmpE (t : ETy) (cc a b : Nat) : Nat × Fl :=
  let r (o : Option Bool) : Nat := match o with
    | none => 2 ^ (t.w - 1)
    | some b => if b then 1 else 0
  if t.isF then (r (fCmp t cc a b).1, (fCmp t cc a b).2)
  else if isAbsent t a || isAbsent t b then (r none, 0) else (r (some (icond cc (ival t a) (ival t b))), 0)
def issueVcmp (x : VF) (f : Frame) : Frame := vmap2 f x (vcmpE (vt x) (x.f.toNat % 16))
def issueVsel (x : VF) (f : Frame) : Frame := vmap3 f x (fun a b c => (if a % 2 = 1 then b else c, 0))
def issueVclass (x : VF) (f : Frame) : Frame := vmap1 f x (fun a => (fClass (vt x) a, 0))
def issueVpres (x : VF) (f : Frame) : Frame := vmap1 f x (fun a => (if isAbsent (vt x) a then 0 else 1, 0))
def issueVabsnt (x : VF) (f : Frame) : Frame := vi2 x f (fun a b => if b ≠ 0 then fill (vt x) else a)
def issueVnrm (x : VF) (f : Frame) : Frame := vmap2 f x (vNrm (vt x) (vrm f x))
/-- VRED writes element 0 of one register (R164). -/
def issueVred (x : VF) (f : Frame) : Frame :=
  let r := reduce (vt x) (x.f.toNat % 8) (vrm f x) (vE x) (vcount f x) (opA f x)
  raise (wrE f 1 x.d (vw x) 1 [some r.1]) 1 r.2 false
def issueVscan (x : VF) (f : Frame) : Frame :=
  let c := vcount f x
  let r := scan (vt x) (x.f.toNat % 8) (vrm f x) (vE x) c (opA f x)
  raise (wrE f 1 x.d (vw x) (grp x.gs) (firstN c r.1)) 1 r.2 false

/-! ### Rearranging elements (R169-R177) -/

/-- Write the results of positions below the active count. -/
def vmove (x : VF) (f : Frame) (g : Nat → Nat) : Frame :=
  wrE f 1 x.d (vw x) (grp x.gs) (((List.range (vcount f x)).map g).map some)
/-- Element i of a list, or the fill code outside it (R169). -/
def pick (x : VF) (es : List Nat) (i : Nat) : Nat := nth (fill (vt x)) es i

/-- VPART (R171): indices of the active elements whose bit 0 is set, and of the others. (DEDUCED, log entry 19.) -/
def issueVpart (x : VF) (f : Frame) : Frame :=
  let w := vw x
  let G := grp x.gs
  let T := x.c.toNat % 8
  let ix := ((opA f x).take (vcount f x)).zipIdx
  let L0 := (ix.filter (fun e => e.1 % 2 == 1)).map (fun e => e.2 % 2 ^ w)
  let L1 := (ix.filter (fun e => e.1 % 2 == 0)).map (fun e => e.2 % 2 ^ w)
  let f1 := if x.d.getLsbD 6 then f else wrE f 1 (x.d + BitVec.ofNat 7 G) w G (L1.map some)
  let f2 := wrE f1 1 x.d w G (L0.map some)
  wrP (wrP f2 1 T (mkPred (widthCode w) L0.length)) 1 (T + 1) (mkPred (widthCode w) L1.length)
def issueVperm (x : VF) (f : Frame) : Frame :=
  let t := opA f x ++ elems (vw x) (grp x.gs) (rdV f 1 x.b (grp x.gs))
  let c := opC f x
  vmove x f (fun i => pick x t (nth 0 c i))
def issueVgath (x : VF) (f : Frame) : Frame :=
  let a := opA f x
  let b := elems (vw x) (grp x.gs) (rdV f 1 x.b (grp x.gs))
  vmove x f (fun i => pick x a (nth 0 b i))
def issueVbcast (x : VF) (f : Frame) : Frame :=
  let s := (rdS f 1 x.b).toNat
  if x.f.getLsbD 0 then vmove x f (fun _ => s % 2 ^ vw x)
  else let a := opA f x; vmove x f (fun _ => pick x a s)
def issueVextr (x : VF) (f : Frame) : Frame :=
  let s := (rdS f 1 x.b).toNat
  if s < vE x then
    let e := nth 0 (opA f x) s
    wrS f 1 x.d (if (vt x).isI then sextBits (vw x) e else BitVec.ofNat 64 e)
  else wrS f 1 x.d 0
where sextBits (w v : Nat) : Word := BitVec.ofInt 64 (if 2 ^ (w - 1) ≤ v then (v : Int) - 2 ^ w else v)
def issueVins (x : VF) (f : Frame) : Frame :=
  let k := (rdS f 1 x.b).toNat
  let v := (rdS f 1 x.a).toNat % 2 ^ vw x
  wrE f 1 x.d (vw x) (grp x.gs) (if k < vE x then List.replicate k none ++ [some v] else [])
def issueVslide (x : VF) (f : Frame) : Frame :=
  let k := (rdS f 1 x.b).toNat
  let a := opA f x
  if x.f.getLsbD 0 then vmove x f (fun i => if k ≤ i then pick x a (i - k) else fill (vt x))
  else vmove x f (fun i => pick x a (i + k))
def issueVzip (x : VF) (f : Frame) : Frame :=
  let a := opA f x
  let b := elems (vw x) (grp x.gs) (rdV f 1 x.b (grp x.gs))
  let o := if x.f.getLsbD 0 then vE x / 2 else 0
  vmove x f (fun i => pick x (if i % 2 = 0 then a else b) (o + i / 2))
def issueVunzip (x : VF) (f : Frame) : Frame :=
  let t := opA f x ++ elems (vw x) (grp x.gs) (rdV f 1 x.b (grp x.gs))
  let o := if x.f.getLsbD 0 then 1 else 0
  vmove x f (fun i => pick x t (2 * i + o))
/-- The mask of VEXPAND and VCOMPRESS (R176). -/
def vmask (x : VF) (f : Frame) : List Bool :=
  if x.f.getLsbD 6 then (List.range (vE x)).map (fun i => decide (i < 64) && (rdS f 1 x.b).getLsbD i)
  else (elems (vw x) (grp x.gs) (rdV f 1 x.b (grp x.gs))).map (fun e => e % 2 == 1)
def expandGo : List Bool → List Nat → List Nat
  | [], _ => []
  | true :: m, a :: as => a :: expandGo m as
  | true :: m, [] => 0 :: expandGo m []
  | false :: m, as => 0 :: expandGo m as
def issueVexpand (x : VF) (f : Frame) : Frame :=
  wrE f 1 x.d (vw x) (grp x.gs) ((expandGo ((vmask x f).take (vcount f x)) (opA f x)).map some)
def issueVcompress (x : VF) (f : Frame) : Frame :=
  let c := vcount f x
  let l := (((vmask x f).take c).zip (opA f x)).filterMap (fun e => if e.1 then some e.2 else none)
  wrE f 1 x.d (vw x) (grp x.gs) ((l ++ List.replicate (c - l.length) 0).map some)
def issueViota (x : VF) (f : Frame) : Frame :=
  let s := if x.f.getLsbD 6 then (rdS f 1 x.b).toNat else 0
  vmove x f (fun i => (i + s) % 2 ^ vw x)

/-! ### Conversion and block formats (R178-R183) -/

def vsrc (x : VF) : ETy := ty? (x.f.extractLsb' 0 5)
def issueVcvt (x : VF) (f : Frame) : Frame :=
  let d := vt x
  let s := vsrc x
  let G := grp x.gs
  let ww := max d.w s.w
  let c := min (active (rdP f 1 x.pr.toNat) s.w G) (G * 2048 / ww)
  let a := elems s.w (narrow G s.w ww) (rdV f 1 x.a (narrow G s.w ww))
  let rs := (a.take c).map (cvt d s (vrm f x))
  raise (wrE f 1 x.d d.w (narrow G d.w ww) (rs.map (fun r => some r.1))) 1 (orFlags rs) false
/-- VMAXA (R181). -/
def issueVmaxa (x : VF) (f : Frame) : Frame :=
  let t := vt x
  let l := ((opA f x).take (vcount f x)).filter (fun e => !isAbsent t e)
  let vs := l.map (fval t)
  let r : Nat × Fl :=
    if l.isEmpty then (fill t, 0)
    else if vs.any (· == .snan) then (dnan t, fNV)
    else if vs.any (· == .qnan) then (dnan t, 0)
    else (l.foldl (fun m e => max m (e % 2 ^ (t.w - 1))) 0, 0)
  raise (wrE f 1 x.d t.w 1 [some r.1]) 1 r.2 false
def issueVqnt (x : VF) (f : Frame) : Frame :=
  let bt := vt x
  let s := vsrc x
  let G := grp x.gs
  let c := active (rdP f 1 x.pr.toNat) s.w G
  let a := ((elems s.w G (rdV f 1 x.a G)).take c).map some
  let sig := (rdX f 1 (x.c.toNat % 16)).toNat
  let bs := (List.range ((c + 15) / 16)).map (fun j => quantBlock bt s (vrm f x) sig ((a.drop (16 * j)).take 16))
  let bytes := bs.flatMap (fun b => (natLe bt.blk b.1).map BitVec.toNat)
  raise (wrE f 1 x.d 8 (blkRegs bt (G * 2048 / s.w / 16)) (bytes.map some)) 1 (orFlags bs) false
def issueVdqnt (x : VF) (f : Frame) : Frame :=
  let d := vt x
  let bt := vsrc x
  let G := grp x.gs
  let nb := G * 2048 / d.w / 16
  let c := active (rdP f 1 x.pr.toNat) d.w G
  let blocks := unpack (8 * bt.blk) nb (joinV (rdV f 1 x.a (blkRegs bt nb)))
  let rs := (List.range c).map (fun i => dequant d bt (vrm f x) (nth 0 blocks (i / 16)) (i % 16))
  raise (wrE f 1 x.d d.w G (rs.map (fun r => some r.1))) 1 (orFlags rs) false

/-! ### The meanings -/

def execVadd (x : VF) (s : State) : Out := runCore (.vadd x) (issueVadd x) s
def execVsub (x : VF) (s : State) : Out := runCore (.vsub x) (issueVsub x) s
def execVadds (x : VF) (s : State) : Out := runCore (.vadds x) (issueVadds x) s
def execVsubs (x : VF) (s : State) : Out := runCore (.vsubs x) (issueVsubs x) s
def execVmul (x : VF) (s : State) : Out := runCore (.vmul x) (issueVmul x) s
def execVmulh (x : VF) (s : State) : Out := runCore (.vmulh x) (issueVmulh x) s
def execVmin (x : VF) (s : State) : Out := runCore (.vmin x) (issueVmin x) s
def execVmax (x : VF) (s : State) : Out := runCore (.vmax x) (issueVmax x) s
def execVand (x : VF) (s : State) : Out := runCore (.vand x) (issueVand x) s
def execVor (x : VF) (s : State) : Out := runCore (.vor x) (issueVor x) s
def execVxor (x : VF) (s : State) : Out := runCore (.vxor x) (issueVxor x) s
def execVshl (x : VF) (s : State) : Out := runCore (.vshl x) (issueVshl x) s
def execVshr (x : VF) (s : State) : Out := runCore (.vshr x) (issueVshr x) s
def execVsar (x : VF) (s : State) : Out := runCore (.vsar x) (issueVsar x) s
def execVabs (x : VF) (s : State) : Out := runCore (.vabs x) (issueVabs x) s
def execVfadd (x : VF) (s : State) : Out := runCore (.vfadd x) (issueVfadd x) s
def execVfsub (x : VF) (s : State) : Out := runCore (.vfsub x) (issueVfsub x) s
def execVfmul (x : VF) (s : State) : Out := runCore (.vfmul x) (issueVfmul x) s
def execVfma (x : VF) (s : State) : Out := runCore (.vfma x) (issueVfma x) s
def execVfmin (x : VF) (s : State) : Out := runCore (.vfmin x) (issueVfmin x) s
def execVfmax (x : VF) (s : State) : Out := runCore (.vfmax x) (issueVfmax x) s
def execVfsgn (x : VF) (s : State) : Out := runCore (.vfsgn x) (issueVfsgn x) s
def execVrcp (x : VF) (s : State) : Out := runCore (.vrcp x) (issueVrcp x) s
def execVrcpn (x : VF) (s : State) : Out := runCore (.vrcpn x) (issueVrcpn x) s
def execVrsq (x : VF) (s : State) : Out := runCore (.vrsq x) (issueVrsq x) s
def execVrsqn (x : VF) (s : State) : Out := runCore (.vrsqn x) (issueVrsqn x) s
def execVexp2 (x : VF) (s : State) : Out := runCore (.vexp2 x) (issueVexp2 x) s
def execVlog2 (x : VF) (s : State) : Out := runCore (.vlog2 x) (issueVlog2 x) s
def execVcmp (x : VF) (s : State) : Out := runCore (.vcmp x) (issueVcmp x) s
def execVsel (x : VF) (s : State) : Out := runCore (.vsel x) (issueVsel x) s
def execVclass (x : VF) (s : State) : Out := runCore (.vclass x) (issueVclass x) s
def execVpres (x : VF) (s : State) : Out := runCore (.vpres x) (issueVpres x) s
def execVabsnt (x : VF) (s : State) : Out := runCore (.vabsnt x) (issueVabsnt x) s
def execVnrm (x : VF) (s : State) : Out := runCore (.vnrm x) (issueVnrm x) s
def execVred (x : VF) (s : State) : Out := runCore (.vred x) (issueVred x) s
def execVscan (x : VF) (s : State) : Out := runCore (.vscan x) (issueVscan x) s
def execVpart (x : VF) (s : State) : Out := runCore (.vpart x) (issueVpart x) s
def execVperm (x : VF) (s : State) : Out := runCore (.vperm x) (issueVperm x) s
def execVgath (x : VF) (s : State) : Out := runCore (.vgath x) (issueVgath x) s
def execVbcast (x : VF) (s : State) : Out := runCore (.vbcast x) (issueVbcast x) s
def execVextr (x : VF) (s : State) : Out := runCore (.vextr x) (issueVextr x) s
def execVins (x : VF) (s : State) : Out := runCore (.vins x) (issueVins x) s
def execVslide (x : VF) (s : State) : Out := runCore (.vslide x) (issueVslide x) s
def execVzip (x : VF) (s : State) : Out := runCore (.vzip x) (issueVzip x) s
def execVunzip (x : VF) (s : State) : Out := runCore (.vunzip x) (issueVunzip x) s
def execVexpand (x : VF) (s : State) : Out := runCore (.vexpand x) (issueVexpand x) s
def execVcompress (x : VF) (s : State) : Out := runCore (.vcompress x) (issueVcompress x) s
def execViota (x : VF) (s : State) : Out := runCore (.viota x) (issueViota x) s
def execVcvt (x : VF) (s : State) : Out := runCore (.vcvt x) (issueVcvt x) s
def execVmaxa (x : VF) (s : State) : Out := runCore (.vmaxa x) (issueVmaxa x) s
def execVqnt (x : VF) (s : State) : Out := runCore (.vqnt x) (issueVqnt x) s
def execVdqnt (x : VF) (s : State) : Out := runCore (.vdqnt x) (issueVdqnt x) s

end Sys2Proof.Machine
end

