-- ==== Sys2Proof/Machine/Dispatch.lean ====
section
/-! DEFINITION. Dispatch.lean: one arm per constructor of `Instr`. -/

namespace Sys2Proof.Machine
open Sys2Proof

def exec (i : Instr) (s : State) : Host.Outcome State Fault Refusal :=
  match i with
  | .add x => Sys2Proof.Machine.execAdd x s
  | .sub x => Sys2Proof.Machine.execSub x s
  | .mul x => Sys2Proof.Machine.execMul x s
  | .mulh x => Sys2Proof.Machine.execMulh x s
  | .mulhn x => Sys2Proof.Machine.execMulhn x s
  | .div x => Sys2Proof.Machine.execDiv x s
  | .divn x => Sys2Proof.Machine.execDivn x s
  | .rem x => Sys2Proof.Machine.execRem x s
  | .remn x => Sys2Proof.Machine.execRemn x s
  | .and x => Sys2Proof.Machine.execAnd x s
  | .or x => Sys2Proof.Machine.execOr x s
  | .xor x => Sys2Proof.Machine.execXor x s
  | .shl x => Sys2Proof.Machine.execShl x s
  | .shr x => Sys2Proof.Machine.execShr x s
  | .sar x => Sys2Proof.Machine.execSar x s
  | .rot x => Sys2Proof.Machine.execRot x s
  | .min x => Sys2Proof.Machine.execMin x s
  | .max x => Sys2Proof.Machine.execMax x s
  | .minn x => Sys2Proof.Machine.execMinn x s
  | .maxn x => Sys2Proof.Machine.execMaxn x s
  | .cmp x => Sys2Proof.Machine.execCmp x s
  | .sel x => Sys2Proof.Machine.execSel x s
  | .clz x => Sys2Proof.Machine.execClz x s
  | .popc x => Sys2Proof.Machine.execPopc x s
  | .bfx x => Sys2Proof.Machine.execBfx x s
  | .bfi x => Sys2Proof.Machine.execBfi x s
  | .addi x => Sys2Proof.Machine.execAddi x s
  | .logi x => Sys2Proof.Machine.execLogi x s
  | .li x => Sys2Proof.Machine.execLi x s
  | .lih x => Sys2Proof.Machine.execLih x s
  | .fadd x => Sys2Proof.Machine.execFadd x s
  | .fsub x => Sys2Proof.Machine.execFsub x s
  | .fmul x => Sys2Proof.Machine.execFmul x s
  | .fma x => Sys2Proof.Machine.execFma x s
  | .fdiv x => Sys2Proof.Machine.execFdiv x s
  | .fsqrt x => Sys2Proof.Machine.execFsqrt x s
  | .fmin x => Sys2Proof.Machine.execFmin x s
  | .fmax x => Sys2Proof.Machine.execFmax x s
  | .fcmp x => Sys2Proof.Machine.execFcmp x s
  | .fcvt x => Sys2Proof.Machine.execFcvt x s
  | .fclass x => Sys2Proof.Machine.execFclass x s
  | .csrr x => Sys2Proof.Machine.execCsrr x s
  | .csrw x => Sys2Proof.Machine.execCsrw x s
  | .pset x => Sys2Proof.Machine.execPset x s
  | .psets x => Sys2Proof.Machine.execPsets x s
  | .pcnt x => Sys2Proof.Machine.execPcnt x s
  | .br x => Sys2Proof.Machine.execBr x s
  | .bc x => Sys2Proof.Machine.execBc x s
  | .call x => Sys2Proof.Machine.execCall x s
  | .calli x => Sys2Proof.Machine.execCalli x s
  | .ret x => Sys2Proof.Machine.execRet x s
  | .jmpi x => Sys2Proof.Machine.execJmpi x s
  | .loop x => Sys2Proof.Machine.execLoop x s
  | .loopi x => Sys2Proof.Machine.execLoopi x s
  | .lexit x => Sys2Proof.Machine.execLexit x s
  | .lidx x => Sys2Proof.Machine.execLidx x s
  | .bswap x => Sys2Proof.Machine.execBswap x s
  | .trap x => Sys2Proof.Machine.execTrap x s
  | .eret x => Sys2Proof.Machine.execEret x s
  | .waite x => Sys2Proof.Machine.execWaite x s
  | .yield x => Sys2Proof.Machine.execYield x s
  | .exit x => Sys2Proof.Machine.execExit x s
  | .vadd x => Sys2Proof.Machine.execVadd x s
  | .vsub x => Sys2Proof.Machine.execVsub x s
  | .vadds x => Sys2Proof.Machine.execVadds x s
  | .vsubs x => Sys2Proof.Machine.execVsubs x s
  | .vmul x => Sys2Proof.Machine.execVmul x s
  | .vmulh x => Sys2Proof.Machine.execVmulh x s
  | .vmin x => Sys2Proof.Machine.execVmin x s
  | .vmax x => Sys2Proof.Machine.execVmax x s
  | .vand x => Sys2Proof.Machine.execVand x s
  | .vor x => Sys2Proof.Machine.execVor x s
  | .vxor x => Sys2Proof.Machine.execVxor x s
  | .vshl x => Sys2Proof.Machine.execVshl x s
  | .vshr x => Sys2Proof.Machine.execVshr x s
  | .vsar x => Sys2Proof.Machine.execVsar x s
  | .vabs x => Sys2Proof.Machine.execVabs x s
  | .vfadd x => Sys2Proof.Machine.execVfadd x s
  | .vfsub x => Sys2Proof.Machine.execVfsub x s
  | .vfmul x => Sys2Proof.Machine.execVfmul x s
  | .vfma x => Sys2Proof.Machine.execVfma x s
  | .vfmin x => Sys2Proof.Machine.execVfmin x s
  | .vfmax x => Sys2Proof.Machine.execVfmax x s
  | .vfsgn x => Sys2Proof.Machine.execVfsgn x s
  | .vrcp x => Sys2Proof.Machine.execVrcp x s
  | .vrcpn x => Sys2Proof.Machine.execVrcpn x s
  | .vrsq x => Sys2Proof.Machine.execVrsq x s
  | .vrsqn x => Sys2Proof.Machine.execVrsqn x s
  | .vexp2 x => Sys2Proof.Machine.execVexp2 x s
  | .vlog2 x => Sys2Proof.Machine.execVlog2 x s
  | .vcmp x => Sys2Proof.Machine.execVcmp x s
  | .vsel x => Sys2Proof.Machine.execVsel x s
  | .vclass x => Sys2Proof.Machine.execVclass x s
  | .vpres x => Sys2Proof.Machine.execVpres x s
  | .vabsnt x => Sys2Proof.Machine.execVabsnt x s
  | .vnrm x => Sys2Proof.Machine.execVnrm x s
  | .vred x => Sys2Proof.Machine.execVred x s
  | .vscan x => Sys2Proof.Machine.execVscan x s
  | .vpart x => Sys2Proof.Machine.execVpart x s
  | .vperm x => Sys2Proof.Machine.execVperm x s
  | .vgath x => Sys2Proof.Machine.execVgath x s
  | .vbcast x => Sys2Proof.Machine.execVbcast x s
  | .vextr x => Sys2Proof.Machine.execVextr x s
  | .vins x => Sys2Proof.Machine.execVins x s
  | .vslide x => Sys2Proof.Machine.execVslide x s
  | .vzip x => Sys2Proof.Machine.execVzip x s
  | .vunzip x => Sys2Proof.Machine.execVunzip x s
  | .vexpand x => Sys2Proof.Machine.execVexpand x s
  | .vcompress x => Sys2Proof.Machine.execVcompress x s
  | .viota x => Sys2Proof.Machine.execViota x s
  | .vcvt x => Sys2Proof.Machine.execVcvt x s
  | .vmaxa x => Sys2Proof.Machine.execVmaxa x s
  | .vqnt x => Sys2Proof.Machine.execVqnt x s
  | .vdqnt x => Sys2Proof.Machine.execVdqnt x s
  | .mjob x => Sys2Proof.Machine.execMjob x s
  | .mzero x => Sys2Proof.Machine.execMzero x s
  | .mdrn x => Sys2Proof.Machine.execMdrn x s
  | .mkat x => Sys2Proof.Machine.execMkat x s
  | .mrd x => Sys2Proof.Machine.execMrd x s
  | .mwr x => Sys2Proof.Machine.execMwr x s
  | .mwait x => Sys2Proof.Machine.execMwait x s
  | .scld x => Sys2Proof.Machine.execScld x s
  | .xsel x => Sys2Proof.Machine.execXsel x s
  | .xset x => Sys2Proof.Machine.execXset x s
  | .ld x => Sys2Proof.Machine.execLd x s
  | .st x => Sys2Proof.Machine.execSt x s
  | .ldr x => Sys2Proof.Machine.execLdr x s
  | .vld x => Sys2Proof.Machine.execVld x s
  | .vst x => Sys2Proof.Machine.execVst x s
  | .vlds x => Sys2Proof.Machine.execVlds x s
  | .vgld x => Sys2Proof.Machine.execVgld x s
  | .vsct x => Sys2Proof.Machine.execVsct x s
  | .vldr x => Sys2Proof.Machine.execVldr x s
  | .atom x => Sys2Proof.Machine.execAtom x s
  | .acas x => Sys2Proof.Machine.execAcas x s
  | .acas128 x => Sys2Proof.Machine.execAcas128 x s
  | .barv x => Sys2Proof.Machine.execBarv x s
  | .barw x => Sys2Proof.Machine.execBarw x s
  | .drain x => Sys2Proof.Machine.execDrain x s
  | .fence x => Sys2Proof.Machine.execFence x s
  | .fld x => Sys2Proof.Machine.execFld x s
  | .fst x => Sys2Proof.Machine.execFst x s
  | .fatom x => Sys2Proof.Machine.execFatom x s
  | .port x => Sys2Proof.Machine.execPort x s
  | .cpub x => Sys2Proof.Machine.execCpub x s
  | .ipub x => Sys2Proof.Machine.execIpub x s
  | .launch x => Sys2Proof.Machine.execLaunch x s
  | .ssig x => Sys2Proof.Machine.execSsig x s
  | .swait x => Sys2Proof.Machine.execSwait x s
  | .gbar x => Sys2Proof.Machine.execGbar x s
  | .gset x => Sys2Proof.Machine.execGset x s
  | .gsetMint x => Sys2Proof.Machine.execGsetMint x s
  | .carav x => Sys2Proof.Machine.execCarav x s
  | .mcst x => Sys2Proof.Machine.execMcst x s
  | .chkerr x => Sys2Proof.Machine.execChkerr x s
  | .ckpt x => Sys2Proof.Machine.execCkpt x s
  | .stewardMove x dst => Sys2Proof.Machine.execStewardMove x dst s
  | .aluAdd x => Sys2Proof.Machine.execAluAdd x s
  | .aluSub x => Sys2Proof.Machine.execAluSub x s
  | .aluAnd x => Sys2Proof.Machine.execAluAnd x s
  | .aluOr x => Sys2Proof.Machine.execAluOr x s
  | .aluXor x => Sys2Proof.Machine.execAluXor x s
  | .aluShl x => Sys2Proof.Machine.execAluShl x s
  | .aluShr x => Sys2Proof.Machine.execAluShr x s
  | .aluEq x => Sys2Proof.Machine.execAluEq x s
  | .aluLt x => Sys2Proof.Machine.execAluLt x s
  | .aluLtn x => Sys2Proof.Machine.execAluLtn x s
  | .brJump x => Sys2Proof.Machine.execBrJump x s
  | .brIf x => Sys2Proof.Machine.execBrIf x s
  | .brCall x => Sys2Proof.Machine.execBrCall x s
  | .brRet x => Sys2Proof.Machine.execBrRet x s
  | .lsuLd x => Sys2Proof.Machine.execLsuLd x s
  | .lsuSt x => Sys2Proof.Machine.execLsuSt x s
  | .semSig x => Sys2Proof.Machine.execSemSig x s
  | .semWait x => Sys2Proof.Machine.execSemWait x s
  | .rowLease x => Sys2Proof.Machine.execRowLease x s
  | .rowRelease x => Sys2Proof.Machine.execRowRelease x s
  | .bkeLd x n => Sys2Proof.Machine.execBkeLd x n s
  | .bkeSt x n => Sys2Proof.Machine.execBkeSt x n s
  | .bkeMv8 x n => Sys2Proof.Machine.execBkeMv8 x n s
  | .bkeMv4 x n => Sys2Proof.Machine.execBkeMv4 x n s
  | .bkeMvb x n => Sys2Proof.Machine.execBkeMvb x n s
  | .bkeRed x n => Sys2Proof.Machine.execBkeRed x n s
  | .bkeClr x n => Sys2Proof.Machine.execBkeClr x n s
  | .deqCol x n => Sys2Proof.Machine.execDeqCol x n s
  | .accRd x n => Sys2Proof.Machine.execAccRd x n s
  | .logRd x => Sys2Proof.Machine.execLogRd x s
  | .nmkDone x => Sys2Proof.Machine.execNmkDone x s
  | .stewardTimeout n => Sys2Proof.Machine.execStewardTimeout n s
  | .semWaitExpiry n => Sys2Proof.Machine.execSemWaitExpiry n s
  | .semWaitSatisfied n => Sys2Proof.Machine.execSemWaitSatisfied n s
  | .engineOperationEnd n e err => Sys2Proof.Machine.execEngineOperationEnd n e err s
  | .stewardOperationEnd n u => Sys2Proof.Machine.execStewardOperationEnd n u s
  | .nodeWatchdog id => Sys2Proof.Machine.execNodeWatchdog id s
  | .leaseGrant n rq => Sys2Proof.Machine.execLeaseGrant n rq s
  | .leaseEnd n rq => Sys2Proof.Machine.execLeaseEnd n rq s
  | .leaseRenewal n rq => Sys2Proof.Machine.execLeaseRenewal n rq s
  | .waveWindow hc => Sys2Proof.Machine.execWaveWindow hc s
  | .bankArbitration bank err => Sys2Proof.Machine.execBankArbitration bank err s
  | .openHostIdle bank => Sys2Proof.Machine.execOpenHostIdle bank s
  | .watchedRowSpacing bank row => Sys2Proof.Machine.execWatchedRowSpacing bank row s
  | .perBankRefresh bank => Sys2Proof.Machine.execPerBankRefresh bank s
  | .patrolScrub g err => Sys2Proof.Machine.execPatrolScrub g err s
  | .blockRevival hc block => Sys2Proof.Machine.execBlockRevival hc block s
  | .thermalReadout hc limit => Sys2Proof.Machine.execThermalReadout hc limit s
  | .dieMigrationUnit stack => Sys2Proof.Machine.execDieMigrationUnit stack s
  | .bankTest bank decoded => Sys2Proof.Machine.execBankTest bank decoded s
  | .bankTestEnd bank passed => Sys2Proof.Machine.execBankTestEnd bank passed s
  | .coreBistEnd c passed => Sys2Proof.Machine.execCoreBistEnd c passed s
  | .coreParityError c => Sys2Proof.Machine.execCoreParityError c s
  | .landingDataArrival c k => Sys2Proof.Machine.execLandingDataArrival c k s
  | .landingTimeout c => Sys2Proof.Machine.execLandingTimeout c s
  | .scldArrival c k => Sys2Proof.Machine.execScldArrival c k s
  | .xselLanding c k => Sys2Proof.Machine.execXselLanding c k s
  | .loadResponse c id => Sys2Proof.Machine.execLoadResponse c id s
  | .porterJobStart cl j => Sys2Proof.Machine.execPorterJobStart cl j s
  | .porterJobEnd cl j => Sys2Proof.Machine.execPorterJobEnd cl j s
  | .portTimeout cl j => Sys2Proof.Machine.execPortTimeout cl j s
  | .mjobStart c => Sys2Proof.Machine.execMjobStart c s
  | .slabEnd c far => Sys2Proof.Machine.execSlabEnd c far s
  | .mjobEnd c => Sys2Proof.Machine.execMjobEnd c s
  | .mjobFaultStop c far => Sys2Proof.Machine.execMjobFaultStop c far s
  | .matrixTimeout c drain => Sys2Proof.Machine.execMatrixTimeout c drain s
  | .drainReadEnd c => Sys2Proof.Machine.execDrainReadEnd c s
  | .mdrnEnd c => Sys2Proof.Machine.execMdrnEnd c s
  | .mkatEnd c fault => Sys2Proof.Machine.execMkatEnd c fault s
  | .waiteWake c => Sys2Proof.Machine.execWaiteWake c s
  | .waiteTimeout c => Sys2Proof.Machine.execWaiteTimeout c s
  | .barwWake c => Sys2Proof.Machine.execBarwWake c s
  | .barwTimeout c => Sys2Proof.Machine.execBarwTimeout c s
  | .swaitReread c => Sys2Proof.Machine.execSwaitReread c s
  | .swaitTimeout c => Sys2Proof.Machine.execSwaitTimeout c s
  | .cpubEnd c => Sys2Proof.Machine.execCpubEnd c s
  | .icacheFill c => Sys2Proof.Machine.execIcacheFill c s
  | .pageWalk cl k => Sys2Proof.Machine.execPageWalk cl k s
  | .walkTimeout cl k => Sys2Proof.Machine.execWalkTimeout cl k s
  | .writeCombineTimeout port k => Sys2Proof.Machine.execWriteCombineTimeout port k s
  | .systemAtomicCompletion c ok => Sys2Proof.Machine.execSystemAtomicCompletion c ok s
  | .nodeCapture q => Sys2Proof.Machine.execNodeCapture q s
  | .nodeDispatch id cores => Sys2Proof.Machine.execNodeDispatch id cores s
  | .priorityAging id => Sys2Proof.Machine.execPriorityAging id s
  | .preemption id why => Sys2Proof.Machine.execPreemption id why s
  | .resume id cores => Sys2Proof.Machine.execResume id cores s
  | .spareTakeover c => Sys2Proof.Machine.execSpareTakeover c s
  | .lockWaitCheck id => Sys2Proof.Machine.execLockWaitCheck id s
  | .parkedBandVictim id holder => Sys2Proof.Machine.execParkedBandVictim id holder s
  | .counterDecrement who => Sys2Proof.Machine.execCounterDecrement who s
  | .nodeStop id => Sys2Proof.Machine.execNodeStop id s
  | .nodeRetry id => Sys2Proof.Machine.execNodeRetry id s
  | .sliceClear c => Sys2Proof.Machine.execSliceClear c s
  | .shadowCopy id gran => Sys2Proof.Machine.execShadowCopy id gran s
  | .shadowFallback id gran => Sys2Proof.Machine.execShadowFallback id gran s
  | .shadowConflict id gran => Sys2Proof.Machine.execShadowConflict id gran s
  | .shadowCommit id => Sys2Proof.Machine.execShadowCommit id s
  | .shadowCopyBack gran => Sys2Proof.Machine.execShadowCopyBack gran s
  | .ckptGranule k => Sys2Proof.Machine.execCkptGranule k s
  | .ckptEnd ok => Sys2Proof.Machine.execCkptEnd ok s
  | .interleaveCommitEnd r => Sys2Proof.Machine.execInterleaveCommitEnd r s
  | .tinvEnd => Sys2Proof.Machine.execTinvEnd s
  | .winvEnd => Sys2Proof.Machine.execWinvEnd s
  | .ctxkillEnd => Sys2Proof.Machine.execCtxkillEnd s
  | .ircmdCommit port r v => Sys2Proof.Machine.execIrcmdCommit port r v s
  | .tinvGo port v => Sys2Proof.Machine.execTinvGo port v s
  | .ctxkillGo port v => Sys2Proof.Machine.execCtxkillGo port v s
  | .qdbDoorbell port q v => Sys2Proof.Machine.execQdbDoorbell port q v s
  | .qcfgWrite port q v => Sys2Proof.Machine.execQcfgWrite port q v s
  | .bkcfgCommit port b v => Sys2Proof.Machine.execBkcfgCommit port b v s
  | .winvGo port v => Sys2Proof.Machine.execWinvGo port v s
  | .hsemClaim k p0 p1 => Sys2Proof.Machine.execHsemClaim k p0 p1 s
  | .hsemRel port k => Sys2Proof.Machine.execHsemRel port k s
  | .startctlCold port => Sys2Proof.Machine.execStartctlCold port s
  | .startctlWarm port => Sys2Proof.Machine.execStartctlWarm port s
  | .parkrelGo port k => Sys2Proof.Machine.execParkrelGo port k s
  | .logclrGo port n => Sys2Proof.Machine.execLogclrGo port n s
  | .pwrlimWrite port v => Sys2Proof.Machine.execPwrlimWrite port v s
  | .registerWrite port t v => Sys2Proof.Machine.execRegisterWrite port t v s
  | .powerOn => Sys2Proof.Machine.execPowerOn s
  | .powerRemoved => Sys2Proof.Machine.execPowerRemoved s
  | .startStepEnd passed images => Sys2Proof.Machine.execStartStepEnd passed images s
  | .managementReady => Sys2Proof.Machine.execManagementReady s
  | .managementRequest rq => Sys2Proof.Machine.execManagementRequest rq s
  | .getVersion ch => Sys2Proof.Machine.execGetVersion ch s
  | .getCapabilities ch => Sys2Proof.Machine.execGetCapabilities ch s
  | .negotiateAlgorithms ch sign hash => Sys2Proof.Machine.execNegotiateAlgorithms ch sign hash s
  | .getDigests ch => Sys2Proof.Machine.execGetDigests ch s
  | .getCertificate ch => Sys2Proof.Machine.execGetCertificate ch s
  | .challenge ch nonce => Sys2Proof.Machine.execChallenge ch nonce s
  | .getMeasurements ch nonce => Sys2Proof.Machine.execGetMeasurements ch nonce s
  | .hostLinkDown port => Sys2Proof.Machine.execHostLinkDown port s
  | .hostMemoryAccess acc => Sys2Proof.Machine.execHostMemoryAccess acc s
  | .interruptSend v => Sys2Proof.Machine.execInterruptSend v s
  | .fabricLinkDown port => Sys2Proof.Machine.execFabricLinkDown port s
  | .flowOff port prio resp => Sys2Proof.Machine.execFlowOff port prio resp s
  | .flowOn port prio resp => Sys2Proof.Machine.execFlowOn port prio resp s
  | .flitStarvation port => Sys2Proof.Machine.execFlitStarvation port s
  | .flowDetour dev prio => Sys2Proof.Machine.execFlowDetour dev prio s
  | .ingressRequest rq => Sys2Proof.Machine.execIngressRequest rq s
  | .fabricResponse id cause v poison => Sys2Proof.Machine.execFabricResponse id cause v poison s
  | .linkNoRoute id => Sys2Proof.Machine.execLinkNoRoute id s
  | .linkTimeout id => Sys2Proof.Machine.execLinkTimeout id s
  | .mcstMemberWrite id m cause => Sys2Proof.Machine.execMcstMemberWrite id m cause s
  | .mcstEnd id => Sys2Proof.Machine.execMcstEnd id s
  | .caravanStep id remote => Sys2Proof.Machine.execCaravanStep id remote s
  | .caravanReturn id => Sys2Proof.Machine.execCaravanReturn id s
  | .ftimeTick => Sys2Proof.Machine.execFtimeTick s
  | .writePerformed src => Sys2Proof.Machine.execWritePerformed src s
  | .fabricLinkUp port => Sys2Proof.Machine.execFabricLinkUp port s
  | .hostLinkUp port => Sys2Proof.Machine.execHostLinkUp port s
  | .coreFaultNotContained c => Sys2Proof.Machine.execCoreFaultNotContained c s
  | .waitingBandTimeout id => Sys2Proof.Machine.execWaitingBandTimeout id s
  | .homeAgentSnoop line => Sys2Proof.Machine.execHomeAgentSnoop line s
  | .nop => Sys2Proof.Machine.execNop s
  | .illegalOpcode slots => Sys2Proof.Machine.execIllegalOpcode slots s

end Sys2Proof.Machine
end

