-- ==== Sys2Proof/Machine/Fetch.lean ====
section
/-! DEFINITION. Fetch.lean: where the next bundle comes from (R93, R187, R262-R267), and which instructions it holds; the
same for a Steward's bundle (R75, R78). -/

namespace Sys2Proof.Machine
open Sys2Proof

/-- What fetching at the pc gives. -/
inductive Fetched where
  | bytes (w : BitVec 256)
  | fault (cause info : Nat)
  | miss (line : Nat)
deriving DecidableEq, Repr

def word256 (bs : List Byte) : BitVec 256 := BitVec.ofNat 256 (leNat bs)

/-- Fetch at the pc of core `c` (R98, R187, R265-R267). -/
def fetchAt (s : State) (c : Nat) (k : Core) : Fetched :=
  let pc := k.pc.toNat
  if sliceWin ≤ pc ∧ pc < sliceWin + 2 ^ 32 then .fault 0x11 0
  else if istWin ≤ pc ∧ pc < istWin + 2 ^ 32 then
    let o := pc - istWin
    if 2 ^ 15 ≤ o then .fault 0x11 0
    else if decide (2 ^ 14 ≤ o) != k.rh then .fault 0x33 0
    else if !(if k.rh then k.isB else k.isA) then .fault 0x30 0
    else .bytes (word256 (bytesAt s.ists (c * 2 ^ 15 + o) 32))
  else
    match k.ic.find? (fun l => l.va == pc / 64 * 64) with
    | some l => .bytes (word256 ((l.bytes.drop (pc % 64)).take 32))
    | none =>
      match k.fetchFault with
      | some (cause, info) => .fault cause info
      | none => .miss (pc / 64 * 64)

/-- What an act runs: nothing more, one instruction, or the instructions of an open bundle. -/
inductive Todo where
  | stop (s : State)
  | one (s : State) (i : Instr)
  | many (s : State) (l : List Instr)
deriving DecidableEq, Repr

/-- The instructions of a bundle, by slot; an unassigned opcode is the lowest cause there is (R74). -/
def slotsOf (b : Bundle) : List (Nat × Dec) := ((List.range 6).zip b.slots).filter (fun e => e.2 != .nop)

def badOpcodes (l : List (Nat × Dec)) : BitVec 6 := orSlots ((l.filter (fun e => e.2 == .bad 0)).map (·.1))
def badFields (l : List (Nat × Dec)) : List (Nat × Nat) := l.filterMap (fun e => match e.2 with
  | .bad n => some (e.1, n)
  | _ => none)
def instrsOf (l : List (Nat × Dec)) : List Instr := l.filterMap (fun e => match e.2 with
  | .ins i => some i
  | _ => none)

/-- The X slot first, then the L slot: a fence stands after the loads of its bundle and before its jobs (R247). -/
def memOrder (l : List (Nat × Dec)) : List (Nat × Dec) :=
  l.filter (fun e => e.1 == 5) ++ l.filter (fun e => e.1 == 3) ++ l.filter (fun e => e.1 != 5 && e.1 != 3)

/-- Core `c` issues its next bundle. -/
def fetchCore (s : State) (c : Nat) : Todo :=
  let s := { s with cur := c }
  match openBundle s with
  | .stop t => .stop t
  | .run t f =>
    let k := coreAt t c
    match fetchAt t c k with
    | .fault cause info => .stop (takeTrap t c cause k.pc (trec 0 info false))
    | .miss l => .stop (onCore t c (fun k => bump 1 { k with fetchMiss := some l }))
    | .bytes w =>
      let b := decBundle w
      let l := slotsOf b
      let t := { t with hdr := b.hdr }
      if badOpcodes l ≠ 0 then .one t (.illegalOpcode (badOpcodes l))
      else
        match l with
        | [] => .one t .nop
        | [(_, .ins i)] => .one t i
        | l =>
          let used := orSlots ((badFields l).map (·.1))
          .many { t with frame := some { f with hdr := b.hdr, enc := badFields l, used := used } } (instrsOf (memOrder l))

/-- The instructions of the bundle have run; the bundle closes. -/
def closeCore (s : State) : State :=
  match s.frame with
  | some f => closeBundle { s with frame := none } f
  | none => s

/-! ### Stewards -/

/-- The unit a trigger port belongs to (R304): each accepts one trigger a bundle. -/
def unitOf (p : Nat) : Option Nat :=
  if !isTrigger p then none
  else if p < 0x50 then some 0 else if p < 0x60 then some 1 else if p < 0x70 then some 2 else if p < 0x80 then some 3
  else if p < 0x100 then some 4 else if p < 0x180 then some (5 + (p - 0x100) / 0x20) else some p

/-- Moves of a bundle by position: guard and destination. -/
def moveKeys (w : BitVec 192) : List (Nat × Nat × Nat) :=
  (List.range 8).map (fun i =>
    let m := w.extractLsb' (24 * i) 24
    (i, (m.extractLsb' 22 2).toNat, (m.extractLsb' 0 11).toNat))

/-- The mask of the moves that make a Steward bundle illegal (R78, R304). -/
def stewardIllegal (w : BitVec 192) : Nat :=
  let l := (moveKeys w).filter (fun m => m.2.1 != 3 && m.2.2 != 0)
  let bad (m : Nat × Nat × Nat) : Bool :=
    decide (0x400 ≤ m.2.2) || l.any (fun o => o.1 != m.1 && (o.2.2 == m.2.2 ||
      (match unitOf o.2.2, unitOf m.2.2 with
       | some a, some b => a == b
       | _, _ => false)))
  ((l.filter bad).map (fun m => 2 ^ m.1)).sum

def isPlainMove : Instr → Bool
  | .stewardMove _ _ => true
  | _ => false

/-- Steward `n` issues its next bundle: operand ports are written before triggers (R304), so plain moves run first. -/
def fetchSteward (s : State) (n : Nat) : Todo :=
  let s := { s with cur := n }
  match openSteward s with
  | none => .stop s
  | some f =>
    let t := stewardAt s n
    if 682 ≤ t.pc then .stop (haltSteward s n 0x61 0 nowhere)
    else
      let w := BitVec.ofNat 192 (leNat (bytesAt t.imem (24 * t.pc) 24))
      if stewardIllegal w ≠ 0 then .stop (haltSteward s n 0x0A (stewardIllegal w) nowhere)
      else
        let all := (decMoves w).filter (fun i => i != .stewardMove ⟨0, 0⟩ 0)
        match all with
        | [] => .one s (.stewardMove ⟨0, 0⟩ 0)
        | [i] => .one s i
        | l => .many { s with sframe := some f } (l.filter isPlainMove ++ l.filter (fun i => !isPlainMove i))

def closeStewardFrame (s : State) : State :=
  match s.sframe with
  | some f => closeSteward { s with sframe := none } f
  | none => s

/-! ### Events and the choice of an act -/

/-- The next act and the state that has taken it from the agenda: with an empty agenda it is a free choice (DESIGN
CHOICE, log entry 1). -/
def nextAct (s : State) : Act × State :=
  match s.agenda with
  | a :: t => (a, { s with agenda := t })
  | [] => (Config.nextAct s.choice, { s with choice := s.choice + 1 })

/-- Does an instruction stand in a bundle or a Steward bundle, so that it is no event? -/
def isEvent (i : Instr) : Bool := (encode i).isNone && (match i with
  | .illegalOpcode _ => false
  | _ => true)

/-! ### Placing a word where the next step fetches (the host's interface) -/

/-- A bundle that holds a slot word in its slot field (R50), by the width of the field. -/
def bundleOf (nbits w : Nat) : BitVec 256 :=
  let w' := BitVec.ofNat 256 (w % 2 ^ nbits)
  if nbits = 256 then w'
  else if nbits = 56 then w' <<< 56
  else if nbits = 32 then w' <<< 112
  else if nbits = 48 then w' <<< 144
  else if nbits = 24 then w' <<< 232
  else match decS (BitVec.ofNat 40 w) with
    | .bad _ => w' <<< 192
    | _ => w' <<< 16

/-- Core 0 powered, running user level code at the start of instruction-store half A, which holds the bundle. -/
def placeBundle (s : State) (b : BitVec 256) : State :=
  let s := { s with agenda := [.bundle 0], cur := 0, frame := none, sframe := none }
  let s := onHost s (fun h => { h with power := true, state := 2, step := 6, mgmtReady := true })
  let s := onCore s 0 (fun k => { k with running := true, pc := BitVec.ofNat 48 istWin, isA := true, rh := false })
  { s with ists := putBytes s.ists 0 (natLe 32 b.toNat) }

/-- Steward 0 powered and running at bundle 0, which holds the move. -/
def placeMove (s : State) (m : Nat) : State :=
  let s := { s with agenda := [.steward 0], cur := 0, frame := none, sframe := none }
  let s := onHost s (fun h => { h with power := true, state := 2, step := 6, mgmtReady := true })
  setSteward s 0 (fun t => { t with running := true, pc := 0, imem := putBytes t.imem 0 (natLe 24 (m % 2 ^ 24)) })

end Sys2Proof.Machine
end

