-- ==== Sys2Proof/Machine/Step.lean ====
section
/-! DEFINITION. Step.lean: one step of the machine: the next act, then its instructions; and the host's way to place a
word where the next step fetches. -/

namespace Sys2Proof.Machine
open Sys2Proof

/-- Run instructions one after another in the open bundle. -/
def runList : List Instr → State → Host.Outcome State Fault Refusal
  | [], s => .next s
  | i :: t, s =>
    match exec i s with
    | .next s' => runList t s'
    | o => o

/-- Run what an act found to do; `close` closes an open bundle. -/
def runTodo (close : State → State) (t : Todo) : Host.Outcome State Fault Refusal :=
  match t with
  | .stop s => .next s
  | .one s i => exec i s
  | .many s l =>
    match runList l s with
    | .next s' => .next (close s')
    | o => o

/-- An event occurs, or is passed over where it cannot. -/
def runEvent (i : Instr) (s : State) : Host.Outcome State Fault Refusal :=
  if isEvent i then
    match exec i s with
    | .refused (.notEnabled _) => .next s
    | o => o
  else .next s

/-- One step: the next act of the agenda, or the one the free choice names. -/
def step (s : State) : Host.Outcome State Fault Refusal :=
  match nextAct s with
  | (.bundle c, t) => runTodo closeCore (fetchCore t c)
  | (.steward n, t) => runTodo closeStewardFrame (fetchSteward t n)
  | (.event i, t) => runEvent i t
  | (.sliceError c a bits, t) => .next (sliceError t c a bits)
  | (.send id m, t) => .next (if t.host.power then sendPacket t id m else t)

/-- The state whose next step fetches and runs the word: a slot word in its field of an otherwise empty bundle, a Steward
move as the first of its bundle. -/
def State.withFetchWord (s : State) (nbits w : Nat) : State :=
  if nbits = 24 ∧ !isXWord w then placeMove s w else placeBundle s (bundleOf nbits w)

end Sys2Proof.Machine
end

