-- ==== Sys2Proof/Safety.lean ====
section
/-! DEFINITION. Safety.lean: the words in which claims speak: what a core needs to issue a bundle that holds one
instruction, what such a bundle leaves when it commits, what a Steward needs, and the canonical form of the memories. -/

namespace Sys2Proof.Machine
open Sys2Proof

/-- The four memories are in canonical form (R3, R187, R239, R411). -/
def memCanon (s : State) : Bool :=
  Memory.wf s.slices && Memory.wf s.ists && Memory.wf s.dram.mem && Memory.wf s.host.sys

/-- The table of cores is in canonical form: core numbers strictly rising, none listed that is idle. -/
def coresCanon (s : State) : Bool := canon Core.idle s.cores

/-- The tables of the control space are in canonical form. -/
def tablesCanon (s : State) : Bool :=
  canon RegionRegs.reset s.dram.stage && s.dram.stage.all (fun e => canon 0 e.2.mrow) && canon Queue.reset s.sched.queues &&
    canon 0 s.host.hpath && canon 0 s.fab.lpcfg && canon 0 s.sched.parkbase && canon 0 s.host.vectors

/-- The registers of the control space that read as they were written (R276, R284, R285, R330, R332, R352, R359, R379, R399, R400, R407,
R410, R412): offset, semaphore, and the bits that are not reserved. -/
def plainRegs : List (Nat × Nat × Word) :=
  [(0x20, 8, 0x7F), (0x28, 8, 0x7F), (0x30, 8, 0xFFFFFFFFC0000), (0x38, 8, 0xFFFFFFFFC0000), (0x30000, 1, 0xFFFFFFFC0000),
    (0x30010, 1, 0x7FFFFC0001), (0x30018, 1, 0x7FFFC00000), (0x30028, 1, 0xFFFFFFFFFF00), (0x60000, 4, 0xFC003F),
    (0x60008, 4, 0xFFFFFFFFFFFFFFFF), (0x60010, 4, 0x7FFFFE0001), (0x60020, 4, 0xF), (0x70018, 5, 0xFFF)] ++
    (List.range 16).flatMap (fun r => [(0x20000 + 0x200 * r, 0, 0x7FC0000000), (0x20008 + 0x200 * r, 0, 0x13F)]) ++
    (List.range 256).flatMap (fun q => [(0x40000 + 0x40 * q, 2, 0x7FFFFFFF00), (0x40028 + 0x40 * q, 2, 0xFF)]) ++
    (List.range 8).map (fun k => (0x70100 + 8 * k, 5, 0x7FFF000001))

/-- The current core with every satisfied fence taken off its memory list (R247). -/
def fenced (s : State) : Core := pruned s s.cur (coreAt s s.cur)
def entered (s : State) : State := setCore s s.cur (fenced s)

/-- The core as its next bundle reads it: what is due at the boundary has landed (R116, R197). -/
def boundary (s : State) : Core := landDue (fenced s)

/-- The current core issues a bundle of its own now: it is powered, runs, waits for nothing and has been held by no system atomic (R107, R108, R198, R248, R249,
R269, R349), and no trap is due at this boundary (R381). -/
def canIssue (s : State) : Bool :=
  let k := fenced s
  s.host.power && s.frame.isNone && issues s k && (k.park.all (·.res.isSome) && k.early.isEmpty) && k.gwait.isNone &&
    (k.postTrap.find? (fun e => e.1 == k.level)).isNone && k.cpub.isNone && !drainHolds k && !frozen k

/-- The bundle that holds only `i`, under header `hdr`, meets no condition of R73. -/
def legalAlone (hdr : BitVec 16) (k : Core) (i : Instr) (n : Nat) : Bool :=
  (causes k.level i).isEmpty && hdrOk hdr && hdrBoost hdr &&& ~~~slotBit n == 0 &&
    (if (hdrBoost hdr).getLsbD n then mayBoost i && !k.level else (latchReads (uses i)).all (fun j => !k.latBoost.getLsbD j))

/-- The bundle is marked as a loop end exactly where the innermost loop ends, and there transfers nowhere (R102). -/
def endOk (hdr : BitVec 16) (k : Core) (i : Instr) : Bool :=
  match k.loops.getLast? with
  | none => !hdrLe hdr
  | some t => if t.stop = k.pc then hdrLe hdr && !transfers i else !hdrLe hdr

/-- No source register holds a status word that nothing has read yet: the read is no acquire (R250). -/
def noToken (k : Core) (u : Uses) : Bool :=
  ((u.s.filter named).map BitVec.toNat ++ (u.sp.filter (fun a => a.toNat < 64)).flatMap (fun a => [a.toNat, a.toNat + 1])).all
    (fun r => !k.toks.contains r)

/-- The current core may issue a bundle that holds only `i`, staged with header `s.hdr`: the bundle is legal, and every
register and latch that `i` reads or writes has its value (R57, R193). -/
def lone (i : Instr) (s : State) : Bool :=
  match slotOf i with
  | some n => canIssue s && legalAlone s.hdr (boundary s) i n && !waits (boundary s) i && noToken (boundary s) (uses i) &&
      endOk s.hdr (boundary s) i
  | none => false

/-- The bundle as slot `n` of it reads its sources. -/
def reading (s : State) : Frame := newFrame (boundary s) s.hdr

/-- Is slot `n` of the bundle boosted (R51)? -/
def isBoosted (s : State) (n : Nat) : Bool := (hdrBoost s.hdr).getLsbD n

/-- The address of the next bundle: the next in order, or at a loop end what the back-edge gives (R95, R102). -/
def goOn (hdr : BitVec 16) (k : Core) : Core :=
  let k := { k with pc := k.pc + 32 }
  if hdrLe hdr then backEdge k else k

/-- What the commit of the bundle leaves of its core, where slot `n` wrote by `w`, loaded the latches `lat`, and raised
`fl` (R43, R54, R57, R112, R116): boosted results and flags are in the shadow. -/
def afterBundle (s : State) (n : Nat) (lat : SMap Vec) (w : Core → Core) (fl : Fl) (intDiv : Bool) : Core :=
  let k := boundary s
  let b := isBoosted s n
  let r := w { k with lat := [], latBoost := 0, latWait := [], shadow := Shadow.none }
  { r with
    csr := { r.csr with fps := r.csr.fps ||| (if b then 0 else fl) },
    shadow := mergeShadow k.shadow r.shadow (if b then fl else 0) (b && fl.getLsbD 1 && !intDiv),
    exposed := k.exposed.map (fun e => { e with off := e.off - 1 }) ++ r.exposed.drop k.exposed.length,
    lat := lat, latBoost := hdrBoost s.hdr &&& slotBit n, freeze := 0, park := none, early := [], owed := none, xlFault := none, fetchFault := none }

/-- The state after the bundle commits with the core `k` and goes on in order, one core cycle later (R54, R95, R140). -/
def retire (s : State) (k : Core) : State := setCore (entered s) s.cur (bump 1 (goOn s.hdr k))

/-- Flags `fl` of slot `n` raise no trap: none of them is enabled, or the slot is boosted (R41, R112). -/
def quiet (s : State) (n : Nat) (fl : Fl) : Bool :=
  isBoosted s n || fl &&& ((boundary s).csr.fpc.extractLsb' 0 5).setWidth 6 == 0

/-- A scalar result of slot `n` (R57, R59): the latch, and the register unless the write is suppressed. -/
def latS (n : Nat) (v : Word) : SMap Vec := mput 0 [] n (v.setWidth 2048)
def regS (s : State) (n : Nat) (d : BitVec 7) (v : Word) (k : Core) : Core :=
  if d.toNat < 64 then putS k (isBoosted s n) d.toNat v else k

/-! ### Results of slot S, by rule -/

/-- The conditions of CMP by code (R126). -/
def cmpHolds (cc : Nat) (a b : Word) : Bool :=
  match cc with
  | 0 => a == b
  | 1 => a != b
  | 2 => a.slt b
  | 3 => a.sle b
  | 4 => b.slt a
  | 5 => b.sle a
  | 6 => a.ult b
  | 7 => a.ule b
  | 8 => b.ult a
  | _ => b.ule a

/-- Bits `[pos + w - 1 : pos]` of a word, extended (R127). -/
def fieldOf (signed : Bool) (pos w : Nat) (a : Word) : Word :=
  let t := a <<< (64 - pos - w)
  if signed then t.sshiftRight (64 - w) else t >>> (64 - w)

/-- A word with bits `[pos + w - 1 : pos]` replaced (R127). -/
def withField (pos w : Nat) (old a : Word) : Word :=
  let mask : Word := BitVec.ofNat 64 (2 ^ w - 1) <<< pos
  (old &&& ~~~mask) ||| ((a <<< pos) &&& mask)

/-- The destination and the result of a scalar integer instruction that raises no flag, over its sources `r` (R124,
R126-R128). -/
def aluResult (r : BitVec 7 → Word) : Instr → Option (BitVec 7 × Word)
  | .add x => some (x.d, r x.a + r x.b)
  | .sub x => some (x.d, r x.a - r x.b)
  | .mul x => some (x.d, r x.a * r x.b)
  | .mulh x => some (x.d, (((r x.a).signExtend 128 * (r x.b).signExtend 128).extractLsb' 64 64))
  | .mulhn x => some (x.d, (((r x.a).setWidth 128 * (r x.b).setWidth 128).extractLsb' 64 64))
  | .and x => some (x.d, r x.a &&& r x.b)
  | .or x => some (x.d, r x.a ||| r x.b)
  | .xor x => some (x.d, r x.a ^^^ r x.b)
  | .shl x => some (x.d, r x.a <<< ((r x.b).extractLsb' 0 6).toNat)
  | .shr x => some (x.d, r x.a >>> ((r x.b).extractLsb' 0 6).toNat)
  | .sar x => some (x.d, (r x.a).sshiftRight ((r x.b).extractLsb' 0 6).toNat)
  | .rot x => some (x.d, (r x.a).rotateLeft ((r x.b).extractLsb' 0 6).toNat)
  | .min x => some (x.d, if (r x.a).sle (r x.b) then r x.a else r x.b)
  | .max x => some (x.d, if (r x.a).sle (r x.b) then r x.b else r x.a)
  | .minn x => some (x.d, if (r x.a).ule (r x.b) then r x.a else r x.b)
  | .maxn x => some (x.d, if (r x.a).ule (r x.b) then r x.b else r x.a)
  | .cmp x => some (x.d, if cmpHolds x.f.toNat (r x.a) (r x.b) then 1 else 0)
  | .sel x => some (x.d, if r x.a = 0 then r x.c else r x.b)
  | .clz x => some (x.d, (r x.a).clz)
  | .popc x => some (x.d, (r x.a).cpop)
  | .bfx x => some (x.d, fieldOf (x.f.getLsbD 0) (x.b.toNat % 64) (x.c.toNat % 64 + 1) (r x.a))
  | .bfi x => some (x.d, withField (x.b.toNat % 64) (x.c.toNat % 64 + 1) (r (x.d &&& 63)) (r x.a))
  | .addi x => some (x.d, r x.a + x.imm.signExtend 64)
  | .logi x =>
    let v := (x.imm.extractLsb' 0 16).signExtend 64
    some (x.d, if x.imm.extractLsb' 16 2 = 0 then r x.a &&& v else if x.imm.extractLsb' 16 2 = 1 then r x.a ||| v
      else r x.a ^^^ v)
  | .li x => some (x.d, x.imm.signExtend 64)
  | .lih x => some (x.d, (0#16 : BitVec 16) ++ x.imm ++ (r (x.d &&& 63)).extractLsb' 0 24)
  | _ => none

/-- Destination and result of the division group (R125), a divisor of zero apart. -/
def divResult (r : BitVec 7 → Word) : Instr → Option (RF × Word × Word)
  | .div x => some (x, (r x.a).sdiv (r x.b), BitVec.allOnes 64)
  | .divn x => some (x, r x.a / r x.b, BitVec.allOnes 64)
  | .rem x => some (x, (r x.a).srem (r x.b), r x.a)
  | .remn x => some (x, r x.a % r x.b, r x.a)
  | _ => none

/-- The format and the rounding mode of a scalar floating-point instruction (R37, R129). -/
def fpFmt (x : RF) : ETy := if x.f.getLsbD 2 then .f64 else .f32
def fpRm (s : State) (x : RF) : Rm := rmDyn (x.f.extractLsb' 0 2) ((boundary s).csr.fpc.extractLsb' 5 2)

/-- Destination, result and flags of a scalar floating-point instruction over its sources `r` (R129-R133). -/
def fpResult (s : State) (r : BitVec 7 → Word) : Instr → Option (BitVec 7 × Word × Fl) :=
  let fmt (x : RF) (a : BitVec 7) : Nat := (r a).toNat % 2 ^ (fpFmt x).w
  let out (d : BitVec 7) (v : Nat × Fl) : Option (BitVec 7 × Word × Fl) := some (d, BitVec.ofNat 64 v.1, v.2)
  fun i => match i with
  | .fadd x => out x.d (fAdd (fpFmt x) (fpRm s x) (fmt x x.a) (fmt x x.b))
  | .fsub x => out x.d (fSub (fpFmt x) (fpRm s x) (fmt x x.a) (fmt x x.b))
  | .fmul x => out x.d (fMul (fpFmt x) (fpRm s x) (fmt x x.a) (fmt x x.b))
  | .fma x => out x.d (fMa (fpFmt x) (fpRm s x) (fmt x x.a) (fmt x x.b) (fmt x x.c))
  | .fdiv x => out x.d (fDiv (fpFmt x) (fpRm s x) (fmt x x.a) (fmt x x.b))
  | .fsqrt x => out x.d (fSqrt (fpFmt x) (fpRm s x) (fmt x x.a))
  | .fmin x => out x.d (fMinMax (fpFmt x) false (fmt x x.a) (fmt x x.b))
  | .fmax x => out x.d (fMinMax (fpFmt x) true (fmt x x.a) (fmt x x.b))
  | .fclass x => some (x.d, BitVec.ofNat 64 (fClass (fpFmt x) (fmt x x.a)), 0)
  | .fcmp x =>
    let v := fCmp (fpFmt x) (x.c.toNat % 8) (fmt x x.a) (fmt x x.b)
    some (x.d, (match v.1 with
      | none => 0x8000000000000000
      | some true => 1
      | some false => 0), v.2)
  | .fcvt x =>
    let src := ty? (x.c.extractLsb' 0 5)
    let dst := ty? (x.b.extractLsb' 0 5)
    let v := cvt dst src (fpRm s x) ((r x.a).toNat % 2 ^ src.w)
    some (x.d, if dst == .i32 then sextN 32 v.1 else BitVec.ofNat 64 v.1, v.2)
  | _ => none

/-! ### Control, by rule -/

/-- The core after a bundle whose slot `n` writes no register and raises no flag. -/
def passed (s : State) (n : Nat) : Core := afterBundle s n [] id 0 false

/-- The state after the bundle commits with the core `k` and goes to `pc`, `bubbles` further core cycles later (R95,
R107). -/
def jumpTo (s : State) (pc : BitVec 48) (bubbles : Nat) (k : Core) : State :=
  setCore (entered s) s.cur (bump (1 + bubbles) { k with pc := pc })

/-- The trap that a bundle of one instruction in slot `n` takes instead of committing (R380, R381). -/
def trapped (s : State) (n cause info : Nat) : State :=
  takeTrap (entered s) s.cur cause (boundary s).pc (trec (slotBit n) info false)

/-- The conditions of BC by code (R96). -/
def bcHolds (cc : Nat) (a : Word) : Bool :=
  match cc with
  | 0 => a == 0
  | 1 => a != 0
  | 2 => a.slt 0
  | 3 => (0 : Word).sle a
  | 4 => (0 : Word).slt a
  | 5 => a.sle 0
  | 6 => a.getLsbD 0
  | _ => !a.getLsbD 0

/-- The target of a branch or call of format B (R96). -/
def targetOf (s : State) (x : BF) : BitVec 48 := (boundary s).pc + 32 * x.off.signExtend 48

/-- The call-stack entry of a call (R99). -/
def returnEntry (s : State) : Word :=
  ((boundary s).pc + 32).setWidth 64 ||| BitVec.ofNat 64 (4 * (boundary s).loops.length)

/-- The loop entry that LOOP or LOOPI opens at the boundary (R101). -/
def loopEntry (s : State) (n e : Nat) (rot : Bool) : LoopEnt :=
  let pc := (boundary s).pc
  ⟨pc + 32, pc + BitVec.ofNat 48 (32 * (e + 1)), BitVec.ofNat 32 n, 0, rot⟩

/-! ### Results of slot V, by rule -/

/-- A vector result of slot V: destination, element width, registers, new elements with `none` for those that keep their
value, flags (R143, R147). -/
structure VecOut where
  d : BitVec 7
  w : Nat
  G : Nat
  es : List (Option Nat)
  fl : Fl
deriving Repr

/-- The registers of the destination group after the elements `es` are written over the old ones (R143); with the write
suppressed the old ones count as zero. -/
def newGroup (s : State) (n : Nat) (o : VecOut) : List Vec :=
  let old := if o.d.toNat < 64 then elems o.w o.G (rdV (reading s) n o.d o.G) else List.replicate (o.G * 2048 / o.w) 0
  splitV o.G (pack o.w (mergeE o.es old))

/-- Writing registers of a vector group, under rotation, in the register file or the shadow (R59, R104, R112). -/
def regV (s : State) (n : Nat) (d : BitVec 7) (vs : List Vec) (k : Core) : Core :=
  if d.toNat < 64 then
    (List.range vs.length).foldl (fun k i => putV k (isBoosted s n) (rotV (boundary s).rb (d.toNat + i)) (nth 0 vs i)) k
  else k

/-- The state after a lone vector instruction: the latch takes the first register of the group (R57). -/
def vecRetired (s : State) (o : VecOut) : State :=
  retire s (afterBundle s 1 (mput 0 [] 1 ((newGroup s 1 o).headD 0)) (regV s 1 o.d (newGroup s 1 o)) o.fl false)

/-- The block format and the source type of XSEL (R235). -/
def xselBlock (x : XF) : ETy := if x.hi.toNat / 4 % 4 = 0 then .bm8 else if x.hi.toNat / 4 % 4 = 1 then .bm5 else .bm3
def xselType (x : XF) : ETy :=
  if x.hi.toNat % 4 = 0 then .f64 else if x.hi.toNat % 4 = 1 then .f32 else if x.hi.toNat % 4 = 2 then .bf16 else .f16

/-- Rounding mode of a V-slot instruction (R37). -/
def vecRm (s : State) (x : VF) : Rm := rmDyn x.rm ((boundary s).csr.fpc.extractLsb' 5 2)

/-- Element-wise results: the first `c` elements are written, and their flags are raised (R143, R147). -/
def elementwise (s : State) (x : VF) (rs : List (Nat × Fl)) : VecOut :=
  let c := vcount (reading s) x
  ⟨x.d, vw x, grp x.gs, firstN c (rs.map (·.1)), orFlags (rs.take c)⟩

/-- Results of the element-wise arithmetic instructions (R148-R163). -/
def vecArith (s : State) : Instr → Option VecOut :=
  let a (x : VF) : List Nat := (opA (reading s) x).take (vcount (reading s) x)
  let b (x : VF) : List Nat := opB (reading s) x
  let c (x : VF) : List Nat := opC (reading s) x
  let t (x : VF) : ETy := ty? x.ty
  let by1 (x : VF) (g : Nat → Nat × Fl) : Option VecOut := some (elementwise s x ((a x).map g))
  let by2 (x : VF) (g : Nat → Nat → Nat × Fl) : Option VecOut := some (elementwise s x (List.zipWith g (a x) (b x)))
  let by3 (x : VF) (g : Nat → Nat → Nat → Nat × Fl) : Option VecOut :=
    some (elementwise s x (List.zipWith (fun p e => g p.1 p.2 e) ((a x).zip (b x)) (c x)))
  let int2 (x : VF) (g : Nat → Nat → Nat) : Option VecOut := by2 x (fun p q => (g p q, 0))
  let shift (x : VF) (g : Nat → Nat → Nat → Nat) : Option VecOut :=
    if x.f.getLsbD 6 then by1 x (fun p => (g (vw x) p (rdS (reading s) 1 x.b).toNat, 0)) else int2 x (g (vw x))
  fun i => match i with
  | .vadd x => int2 x (iop (t x) (· + ·))
  | .vsub x => int2 x (iop (t x) (· - ·))
  | .vadds x => int2 x (iop (t x) (fun p q => isat (t x) (p + q)))
  | .vsubs x => int2 x (iop (t x) (fun p q => isat (t x) (p - q)))
  | .vmul x => int2 x (iop (t x) (· * ·))
  | .vmulh x => int2 x (iop (t x) (fun p q => p * q / 2 ^ (t x).w))
  | .vmin x => int2 x (iMinMax (t x) false)
  | .vmax x => int2 x (iMinMax (t x) true)
  | .vand x => int2 x (· &&& ·)
  | .vor x => int2 x (· ||| ·)
  | .vxor x => int2 x (· ^^^ ·)
  | .vshl x => shift x eShl
  | .vshr x => shift x eShr
  | .vsar x => shift x eSar
  | .vabs x => by1 x (fun p => (iAbs (t x) p, 0))
  | .vfadd x => by2 x (fAdd (t x) (vecRm s x))
  | .vfsub x => by2 x (fSub (t x) (vecRm s x))
  | .vfmul x => by2 x (fMul (t x) (vecRm s x))
  | .vfma x => by3 x (fMa (t x) (vecRm s x))
  | .vfmin x => by2 x (vfMinMax (t x) false)
  | .vfmax x => by2 x (vfMinMax (t x) true)
  | .vfsgn x => by2 x (vFsgn (t x) (x.f.toNat % 4))
  | .vrcp x => by1 x (vRcp (t x))
  | .vrcpn x => by2 x (vNewton false (t x) (vecRm s x))
  | .vrsq x => by1 x (vRsq (t x))
  | .vrsqn x => by2 x (vNewton true (t x) (vecRm s x))
  | .vexp2 x => by1 x (vExp2 (t x))
  | .vlog2 x => by1 x (vLog2 (t x))
  | .vcmp x => by2 x (vcmpE (t x) (x.f.toNat % 16))
  | .vsel x => by3 x (fun p q e => (if p % 2 = 1 then q else e, 0))
  | .vclass x => by1 x (fun p => (fClass (t x) p, 0))
  | .vpres x => by1 x (fun p => (if isAbsent (t x) p then 0 else 1, 0))
  | .vabsnt x => int2 x (fun p q => if q ≠ 0 then fill (t x) else p)
  | .vnrm x => by2 x (vNrm (t x) (vecRm s x))
  | _ => none

/-- Results of the reductions, scans and rearrangements that write one vector group (R164, R169-R177, R181). -/
def vecShape (s : State) : Instr → Option VecOut :=
  let f := reading s
  let n (x : VF) : Nat := vcount f x
  let t (x : VF) : ETy := ty? x.ty
  let vb (x : VF) : List Nat := elems (vw x) (grp x.gs) (rdV f 1 x.b (grp x.gs))
  let out (x : VF) (es : List Nat) : Option VecOut := some ⟨x.d, vw x, grp x.gs, es.map some, 0⟩
  let at_ (x : VF) (l : List Nat) (i : Nat) : Nat := nth (fill (t x)) l i
  let pos (x : VF) (g : Nat → Nat) : Option VecOut := out x ((List.range (n x)).map g)
  let mask (x : VF) : List Bool :=
    if x.f.getLsbD 6 then (List.range (vE x)).map (fun i => decide (i < 64) && (rdS f 1 x.b).getLsbD i)
    else (vb x).map (fun e => e % 2 == 1)
  fun i => match i with
  | .vred x =>
    let r := reduce (t x) (x.f.toNat % 8) (vecRm s x) (vE x) (n x) (opA f x)
    some ⟨x.d, vw x, 1, [some r.1], r.2⟩
  | .vscan x =>
    let r := scan (t x) (x.f.toNat % 8) (vecRm s x) (vE x) (n x) (opA f x)
    some ⟨x.d, vw x, grp x.gs, firstN (n x) r.1, r.2⟩
  | .vmaxa x =>
    let l := ((opA f x).take (n x)).filter (fun e => !isAbsent (t x) e)
    let r : Nat × Fl :=
      if l.isEmpty then (fill (t x), 0)
      else if (l.map (fval (t x))).any (· == .snan) then (dnan (t x), fNV)
      else if (l.map (fval (t x))).any (· == .qnan) then (dnan (t x), 0)
      else (l.foldl (fun m e => max m (e % 2 ^ ((t x).w - 1))) 0, 0)
    some ⟨x.d, (t x).w, 1, [some r.1], r.2⟩
  | .vperm x => pos x (fun i => at_ x (opA f x ++ vb x) (nth 0 (opC f x) i))
  | .vgath x => pos x (fun i => at_ x (opA f x) (nth 0 (vb x) i))
  | .vbcast x =>
    let k := (rdS f 1 x.b).toNat
    if x.f.getLsbD 0 then pos x (fun _ => k % 2 ^ vw x) else pos x (fun _ => at_ x (opA f x) k)
  | .vins x =>
    let k := (rdS f 1 x.b).toNat
    let v := (rdS f 1 x.a).toNat % 2 ^ vw x
    some ⟨x.d, vw x, grp x.gs, if k < vE x then List.replicate k none ++ [some v] else [], 0⟩
  | .vslide x =>
    let k := (rdS f 1 x.b).toNat
    if x.f.getLsbD 0 then pos x (fun i => if k ≤ i then at_ x (opA f x) (i - k) else fill (t x))
    else pos x (fun i => at_ x (opA f x) (i + k))
  | .vzip x => pos x (fun i => at_ x (if i % 2 = 0 then opA f x else vb x) ((if x.f.getLsbD 0 then vE x / 2 else 0) + i / 2))
  | .vunzip x => pos x (fun i => at_ x (opA f x ++ vb x) (2 * i + if x.f.getLsbD 0 then 1 else 0))
  | .vexpand x => out x (expandGo ((mask x).take (n x)) (opA f x))
  | .vcompress x =>
    let l := (((mask x).take (n x)).zip (opA f x)).filterMap (fun e => if e.1 then some e.2 else none)
    out x (l ++ List.replicate (n x - l.length) 0)
  | .viota x => pos x (fun i => (i + if x.f.getLsbD 6 then (rdS f 1 x.b).toNat else 0) % 2 ^ vw x)
  | _ => none

/-- Results of the conversions and block formats (R178, R182, R183). -/
def vecConvert (s : State) : Instr → Option VecOut :=
  let f := reading s
  let t (x : VF) : ETy := ty? x.ty
  let src (x : VF) : ETy := ty? (x.f.extractLsb' 0 5)
  fun i => match i with
  | .vcvt x =>
    let w := max (t x).w (src x).w
    let c := min (active (rdP f 1 x.pr.toNat) (src x).w (grp x.gs)) (grp x.gs * 2048 / w)
    let a := elems (src x).w (narrow (grp x.gs) (src x).w w) (rdV f 1 x.a (narrow (grp x.gs) (src x).w w))
    let rs := (a.take c).map (cvt (t x) (src x) (vecRm s x))
    some ⟨x.d, (t x).w, narrow (grp x.gs) (t x).w w, rs.map (fun r => some r.1), orFlags rs⟩
  | .vqnt x =>
    let c := active (rdP f 1 x.pr.toNat) (src x).w (grp x.gs)
    let a := ((elems (src x).w (grp x.gs) (rdV f 1 x.a (grp x.gs))).take c).map some
    let bs := (List.range ((c + 15) / 16)).map (fun j =>
      quantBlock (t x) (src x) (vecRm s x) (rdX f 1 (x.c.toNat % 16)).toNat ((a.drop (16 * j)).take 16))
    some ⟨x.d, 8, blkRegs (t x) (grp x.gs * 2048 / (src x).w / 16),
      (bs.flatMap (fun b => (natLe (t x).blk b.1).map BitVec.toNat)).map some, orFlags bs⟩
  | .vdqnt x =>
    let nb := grp x.gs * 2048 / (t x).w / 16
    let c := active (rdP f 1 x.pr.toNat) (t x).w (grp x.gs)
    let blocks := unpack (8 * (src x).blk) nb (joinV (rdV f 1 x.a (blkRegs (src x) nb)))
    let rs := (List.range c).map (fun i => dequant (t x) (src x) (vecRm s x) (nth 0 blocks (i / 16)) (i % 16))
    some ⟨x.d, (t x).w, grp x.gs, rs.map (fun r => some r.1), orFlags rs⟩
  | _ => none

/-! ### Memory as a bundle reaches it -/

/-- The pieces of an access of the bundle by its elements, or why there are none (R195). -/
def reach (s : State) (acc : Acc) (align : Nat) (els : List (Nat × Nat)) : Resolved :=
  resolve (entered s) s.cur (boundary s) acc align els

/-- The pieces where no fault is met and no commit of the interleave stalls the access (R195, R278). -/
def reached (s : State) (acc : Acc) (align : Nat) (els : List (Nat × Nat)) : Option (List Piece) :=
  match reach s acc align els with
  | .ok ps => if ps.any (fun p => remapped (entered s) (boundary s).node p.pl) then none else some ps
  | _ => none

/-- Bytes and poison that the bundle reads from pieces. -/
def found (s : State) (ps : List Piece) : List Byte × Bool := readPieces (entered s) (boundary s).node ps

/-- No open ACQ or FULL holds back a load or a job of the bundle, or a write of it (R248). -/
def mayLoad (s : State) : Bool := !acqHolds (boundary s) (hdrColour s.hdr) false
def mayWrite (s : State) : Bool := !acqHolds (boundary s) (hdrColour s.hdr) true

/-- The access performs at its own bundle: it stays in the core's own memories, and nothing earlier is left there (R243). -/
def ownNow (s : State) (ps : List Piece) : Bool := atOnce (entered s) (reading s) ps

/-- Nothing earlier is left to perform at the pieces, and no lease holds their banks (R243, R290). -/
def undisturbed (s : State) (ps : List Piece) : Bool := ps.all (syncClear (entered s) (reading s))

/-- A card or descriptor that the bundle reads: its pieces, its bytes and their poison, once its banks serve it (R205, R216, R287,
R345, R401). -/
def cardAt (s : State) (ea : Word) (align n : Nat) : Option (List Piece × List Byte × Bool) :=
  (reached s .rd align [(va48 ea, n)]).bind (fun ps =>
    if mayLoad s && undisturbed s ps then
      (readGate (entered s) (boundary s).node ps).map (fun t => (ps, readPieces t (boundary s).node ps))
    else none)

/-- Writes of the bundle that follow its commit, in slot order (R54). -/
def thenDo (s : State) (ls : List Late) (t : State) : State := ls.foldl (fun t l => doLate t s.cur (hdrColour s.hdr) l) t

/-- An entry of the core's memory list, in the colour of the bundle (R243). -/
def listed (s : State) (op : MemOp) (k : Core) : Core :=
  { k with mem := k.mem ++ [⟨k.memNext, hdrColour s.hdr, op, false, (boundary s).csr.cycle.toNat⟩], memNext := k.memNext + 1 }

/-- A result that arrives later, by entry `id`, owns its registers and its latch until then (R57, R193). -/
def owed (id : Nat) (d : LateDst) (k : Core) : Core :=
  let own := d.regs.filter (fun r => decide (r < 64) && !(d.file == .s && r == 0))
  { k with
    pendS := if d.file == .s then k.pendS ++ own else k.pendS, pendV := if d.file == .v then k.pendV ++ own else k.pendV,
    latWait := k.latWait ++ [(d.slot, id)] }

/-- An access whose result memory returns later (R193). -/
def requested (s : State) (op : MemOp) (d : LateDst) (k : Core) : Core := owed k.memNext d (listed s op k)

/-- The state after a lone load: its value at once, or an entry of the memory list (R193, R196). -/
def loadedS (s : State) (x : LF) (ps : List Piece) : State :=
  let t := ty? x.ty
  let d := sDst (reading s) 3 x.d t
  let v := extend t.isI t.w (leNat (found s ps).1)
  if ownNow s ps then
    retire s (afterBundle s 3 (latS 3 v) (fun k => regS s 3 x.d v (consumeAt d (found s ps).2 k)) 0 false)
  else retire s (afterBundle s 3 [] (requested s (.load ps d [] false) d) 0 false)

/-- The same for a vector load: the first elements of the group are loaded, the others kept (R194, R195). -/
def loadedV (s : State) (x : LF) (ps : List Piece) : State :=
  let d := vDst (reading s) 3 x
  let c := lcount (reading s) x
  let vs := newGroup s 3 ⟨x.d, lw x, grp x.gs, firstN c (bytesEl (lw x) c (found s ps).1), 0⟩
  if ownNow s ps then
    retire s (afterBundle s 3 (mput 0 [] 3 (vs.headD 0))
      (fun k => regV s 3 x.d vs (consumeAt d (found s ps).2 k)) 0 false)
  else retire s (afterBundle s 3 [] (requested s (.load ps d [] false) d) 0 false)

/-- The parts of a store, and the state after it: in the core's own memories at once, elsewhere in the store queue (R54, R243,
R244). -/
def storeList (ps : List Piece) (bs : List Byte) (nib : Bool) : List (Piece × List Byte × Bool) := lastNib nib (storeParts ps bs)
def stored (s : State) (ps : List Piece) (bs : List Byte) (nib : Bool) : State :=
  let parts := storeList ps bs nib
  if ownNow s ps && !fencePending (boundary s) then
    thenDo s (parts.map (fun e => .own e.1 e.2.1 e.2.2)) (retire s (passed s 3))
  else retire s (afterBundle s 3 [] (fun k => parts.foldl (fun k e => listed s (.store e.1 e.2.1 e.2.2) k) k) 0 false)

/-- A result exposed to the bundle `off` on (R116): the value read now, or by an entry of the memory list. -/
def exposedBy (s : State) (kind : ExpKind) (d : LateDst) (off : Nat) (ps : List Piece) (k : Core) : Core :=
  if ownNow s ps then
    { k with exposed := k.exposed ++ [⟨kind, d, off, k.memNext, some (found s ps).1, (found s ps).2, d.boost⟩] }
  else listed s (.load ps { d with file := .none, regs := [] } [] false)
    { k with exposed := k.exposed ++ [⟨kind, d, off, k.memNext, none, false, d.boost⟩] }

/-- What an access asks of memory: slot, access, alignment and elements (R192-R195, R234); of a bundle that reads a card or a
descriptor, that read (R205, R216, R345, R370, R373, R401). -/
def accessOf (s : State) : Instr → Option (Nat × Acc × Nat × List (Nat × Nat))
  | .ld x => some (3, .rd, lw x / 8, [(va48 (lsEa (reading s) x), lw x / 8)])
  | .ldr x => some (3, .rd, lw x / 8, [(va48 (lsEa (reading s) x), lw x / 8)])
  | .st x => some (3, .wr, lw x / 8, [(va48 (lsEa (reading s) x), lw x / 8)])
  | .vld x => some (3, .rd, 32, spanEl (reading s) x (lvEa (reading s) x))
  | .vst x => some (3, .wr, 32, spanEl (reading s) x (lvEa (reading s) x))
  | .vlds x => some (3, .rd, lw x / 8, strideEl (reading s) x)
  | .vgld x => some (3, .rd, lw x / 8, indexEl (reading s) x)
  | .vsct x => some (3, .wr, lw x / 8, indexEl (reading s) x)
  | .vldr x => some (3, .rd, 32, spanEl (reading s) x (vldrEa (reading s) x))
  | .scld x => some (5, .rd, 2, [(va48 (rdS (reading s) 5 x.a + BitVec.ofNat 64 (2 * x.hi.toNat)), 2)])
  | .port x => some (4, .rd, 64, [(va48 (rdS (reading s) 4 x.a), 64)])
  | .mjob x => some (2, .rd, 64, [(va48 (rdS (reading s) 2 x.a), 128)])
  | .mdrn x => some (2, .rd, 32, [(va48 (rdS (reading s) 2 x.a), 32)])
  | .launch x => some (4, .rd, 64, [(va48 (rdS (reading s) 4 x.a), 256)])
  | .ckpt x => some (4, .rd, 64, [(va48 (rdS (reading s) 4 x.a), 64)])
  | .mcst x => some (4, .rd, 64, [(va48 (rdS (reading s) 4 x.a), 32)])
  | .carav x => some (4, .rd, 32, [(va48 (rdS (reading s) 4 x.a), 32)])
  | _ => none

/-- The loads whose boosted faults wait in a deferred record: destination, and the operands the record keeps (R112, R121). -/
def defersOf (s : State) : Instr → Option (LateDst × Saved)
  | .ld x => some (sDst (reading s) 3 x.d (ty? x.ty),
      ⟨encLF 1 x, rdS (reading s) 3 x.a, if x.ix then rdS (reading s) 3 x.b else 0, 0, []⟩)
  | .vld x => some (vDst (reading s) 3 x,
      ⟨encLF 8 x, rdS (reading s) 3 x.a, if x.vix then rdS (reading s) 3 x.b else 0, rdP (reading s) 3 x.pr.toNat, []⟩)
  | .vlds x => some (vDst (reading s) 3 x,
      ⟨encLF 10 x, rdS (reading s) 3 x.a, rdS (reading s) 3 x.b, rdP (reading s) 3 x.pr.toNat, []⟩)
  | .vgld x => some (vDst (reading s) 3 x,
      ⟨encLF 11 x, rdS (reading s) 3 x.a, 0, rdP (reading s) 3 x.pr.toNat, rdV (reading s) 3 x.b (grp x.gs)⟩)
  | _ => none

/-- The bytes a slot-L store writes, and whether its last byte takes the low nibble only (R193-R195). -/
def dataOf (s : State) : Instr → Option (List Byte × Bool)
  | .st x => some (natLe (lw x / 8) (rdS (reading s) 3 (x.aux.extractLsb' 0 7)).toNat, false)
  | .vst x => some (dataBytes (reading s) x (lcount (reading s) x), lcount (reading s) x * lw x % 8 != 0)
  | .vsct x => some (dataBytes (reading s) x (lcount (reading s) x), false)
  | _ => none

/-- An atomic: slot, operation, type, address, operands, destination, and the core whose event follows it (R200, R347). -/
structure AtomReq where
  slot : Nat
  kind : AtomKind
  ty : ETy
  ea : Word
  x : Nat
  y : Nat
  d : BitVec 7
  ev : Option Nat
deriving Repr

def atomOf? (s : State) : Instr → Option AtomReq
  | .atom x => some ⟨3, .op x.op.toNat, ty? x.ty, rdS (reading s) 3 x.a, low (reading s) x.c (lw x), 0, x.d, none⟩
  | .acas x => some ⟨3, .cas, ty? x.ty, rdS (reading s) 3 x.a, low (reading s) x.c (lw x), low (reading s) x.b (lw x), x.d, none⟩
  | .acas128 x => some ⟨3, .cas128, .n64, rdS (reading s) 3 x.a, rdPair (reading s) x.c, rdPair (reading s) x.b, x.d, none⟩
  | .ssig x =>
    let n := (rdS (reading s) 4 x.c).toNat
    some ⟨4, .op 0, .n64, rdS (reading s) 4 x.a, (rdS (reading s) 4 x.b).toNat, 0, x.d,
      if x.f = 1 ∧ n < (bandOf (entered s) (boundary s).node).length then some n else none⟩
  | _ => none

/-- The result of an atomic in its registers: one, or a pair with the low half first (R60); the latch takes the first. -/
def atomVal (q : AtomReq) (bs : List Byte) : Word :=
  if atomW q.kind q.ty = 128 then BitVec.ofNat 64 (leNat (bs.take 8)) else extend q.ty.isI (atomW q.kind q.ty) (leNat bs)
def atomRegs (s : State) (q : AtomReq) (bs : List Byte) (k : Core) : Core :=
  let k := regS s q.slot q.d (atomVal q bs) k
  if atomW q.kind q.ty = 128 ∧ q.d.toNat < 64 then
    putS k (isBoosted s q.slot) (q.d.toNat + 1) (BitVec.ofNat 64 (leNat (bs.drop 8))) else k

/-- The word that an atomic, a barrier instruction or SWAIT names: slot, address, alignment, access and elements, whether only a slice
may hold it, and whether the running half of the instruction store has a cause of its own (R200, R204, R262, R348). -/
def wordOf (s : State) (i : Instr) : Option (Nat × Nat × Nat × Acc × List (Nat × Nat) × Bool × Bool) :=
  match i with
  | .barv x => let va := va48 (rdS (reading s) 3 x.a); some (3, va, 8, .rw, [(va, 8)], true, false)
  | .barw x => let va := va48 (rdS (reading s) 3 x.a); some (3, va, 8, .rd, [(va, 8)], true, false)
  | .swait x =>
    let va := va48 (rdS (reading s) 4 x.a)
    some (4, va, 8, .rd, (va, 8) :: if x.f = 1 then [(va + 8, 8)] else [], false, false)
  | i => (atomOf? s i).map (fun q =>
      let n := atomW q.kind q.ty / 8
      (q.slot, va48 q.ea, n, .rw, [(va48 q.ea, n)], false, true))

/-- A job's token register and its place in the order of issue (R205). -/
def tokened (d : BitVec 7) (k : Core) : Core := { k with pendS := k.pendS ++ [d.toNat], memNext := k.memNext + 1 }

/-- An entry joins the matrix engine's queue, its tiles are busy, and its token register is owned (R214, R216). -/
def matrixQueued (d : BitVec 7) (o : MxOp) (ts : List Nat) (k : Core) : Core :=
  tokened d { k with mxq := k.mxq ++ [o], memNext := k.memNext + 1, busy := k.busy ||| tileMask ts }

/-- The words and counts that MWR puts, by index (R231). -/
def mwrVals (x : MF) (r : Nat) (es : List Nat) : List (Nat × Nat) :=
  match mxMode x with
  | 0 => es.zipIdx.map (fun e => (tIx (mxTile x) r e.2, if isAbsent .f32 e.1 then 0 else e.1))
  | 1 => []
  | _ => es.zipIdx.flatMap (fun e =>
      let v := if isAbsent .f64 e.1 then 0 else e.1
      [(pIx (mxTile x) r e.2, v % 2 ^ 32), (pIx (mxTile x) r e.2 + 1, v / 2 ^ 32)])
def mwrCnts (x : MF) (r : Nat) (es : List Nat) : List (Nat × Nat) :=
  es.zipIdx.map (fun e => match mxMode x with
    | 0 => (tIx (mxTile x) r e.2, if isAbsent .f32 e.1 then 0 else 1)
    | 1 => (tIx (mxTile x) r e.2, min e.1 65535)
    | _ => (pCx (mxTile x) r e.2, if isAbsent .f64 e.1 then 0 else 1))

/-- The elements that MRD reads from row `r` of a tile or pair (R231). -/
def mrdRow (k : Core) (x : MF) (r : Nat) : List Nat :=
  let t := mxTile x
  (List.range 64).map (fun n => match mxMode x with
    | 0 => tileV k (tIx t r n)
    | 1 => tileC k (tIx t r n)
    | 2 => pairV k (pIx t r n)
    | _ => if tileC k (tIx t r n) = 0 then fill .f32 else tileV k (tIx t r n))

/-! ### Bundles of several slots, illegal bundles and traps -/

/-- The bundle whose filled slots hold `l`, run in that order and closed (R54). -/
def runBundle (l : List Instr) (s : State) : Host.Outcome State Fault Refusal :=
  match runList l { entered s with frame := some (reading s) } with
  | .next t => .next (closeCore t)
  | o => o

/-- The slots of a bundle whose instruction is one that `hit` names, as a mask (R52). -/
def slotsWhere (l : List Instr) (hit : Instr → Bool) : BitVec 6 := orSlots ((l.filter hit).filterMap slotOf)

/-- Does another slot of the bundle write a register that `i` writes (R70)? -/
def sharesWrite (l : List Instr) (i : Instr) : Bool :=
  l.any (fun j => slotOf j != slotOf i && (written (uses i)).any (fun r => (written (uses j)).contains r))

/-- Does `i` use ports of a file of which the bundle uses more than the budget (R69)? -/
def overBudget (l : List Instr) (i : Instr) : Bool :=
  (List.range 5).any (fun r =>
    (decide (nth 0 readBudget r < (l.map (fun j => nth 0 (readPorts (uses j)) r)).sum) && 0 < nth 0 (readPorts (uses i)) r) ||
    (decide (nth 0 writeBudget r < (l.map (fun j => nth 0 (writePorts (uses j)) r)).sum) && 0 < nth 0 (writePorts (uses i)) r))

/-- The causes of R73 that a lone slot instruction meets: its own fields, its boost bit, a boosted latch. -/
def ownCauses (s : State) (i : Instr) (n : Nat) : List Nat :=
  let k := boundary s
  causes k.level i ++ (if isBoosted s n && (!mayBoost i || k.level) then [8] else []) ++
    (if !isBoosted s n && (latchReads (uses i)).any (fun j => k.latBoost.getLsbD j) then [9] else [])

/-- The header's: a reserved bit, and a boost bit over an empty slot (R51, R71). -/
def hdrCauses (s : State) (used : BitVec 6) : List Nat :=
  (if hdrOk s.hdr then [] else [2]) ++ (if hdrBoost s.hdr &&& ~~~used = 0 then [] else [8])

/-! ### Stewards -/

/-- The Steward that runs now. -/
def steward (s : State) : Steward := stewardAt s s.cur
/-- Steward `s.cur` issues a bundle of its own that holds only a move whose guard holds and whose source is ready (R75,
R304). -/
def loneMove (x : MV) (s : State) : Bool :=
  let t := steward s
  s.host.power && s.sframe.isNone && t.running && t.done.isNone && guardOk t x.g &&
    (x.src.getLsbD 10 || (!(portWait t x.src.toNat).1 && !(portWait t x.src.toNat).2))
/-- The value a lone move carries: a sign-extended immediate, or its source port (R76). -/
def moveValue (s : State) (x : MV) : Word :=
  if x.src.getLsbD 10 then (x.src.extractLsb' 0 10).signExtend 64
  else readPort s ⟨s.cur, steward s, steward s, false, false, none, none⟩ x.src.toNat
/-- Does the move read the result of a completed sem.wait for the first time (R310)? -/
def acquires (s : State) (x : MV) : Bool := (steward s).waited && x.src == 0x7F
/-- The state after the Steward's bundle of move `x` commits and goes on to `pc` (R75, R308): clk counts from the node's first bundle
(R302), and the first read of a completed sem.wait's result is an acquire (R250). -/
def movedTo (s : State) (x : MV) (pc : Nat) (w : Steward → Steward) : State :=
  let u := startClk s s.cur
  let t := w (steward s)
  setSteward u s.cur (fun _ => { t with
    pc := pc, stallSince := none, clk := (steward u).clk, waited := if x.src = 0x7F then false else t.waited,
    acqSeq := if acquires s x then t.opNext else t.acqSeq })
def moved (s : State) (x : MV) (w : Steward → Steward) : State := movedTo s x ((steward s).pc + 1) w
/-- The bundle halts the Steward, and no move of it commits (R305). -/
def halted (s : State) (cause info : Nat) (a : At) : State := haltSteward (startClk s s.cur) s.cur cause info a
/-- The bundle stalls: nothing of it commits, and the stall's start is kept (R304). -/
def stalled (s : State) : State :=
  setSteward (startClk s s.cur) s.cur (fun t => { t with stallSince := some (t.stallSince.getD (baseNow s)) })

/-- The operation that a lsu trigger starts (R309). -/
def withLsu (st : Bool) (v : Word) (t : Steward) : Steward :=
  { t with lsu := some ⟨st, v, port t 0x60, t.opNext⟩, opNext := t.opNext + 1 }
/-- The operation that a sem trigger starts (R310). -/
def withSem (s : State) (wait : Bool) (v : Word) (t : Steward) : Steward :=
  let lim := port t 0x71
  { t with sem := some ⟨wait, v, port t 0x70, if wait = true ∧ lim ≠ BitVec.allOnes 64 then some (baseNow s + lim.toNat) else none,
      t.opNext⟩, opNext := t.opNext + 1 }

/-- ALU results of a Steward over the trigger value and the operand (R307). -/
def stewardAlu (t o : Word) : Instr → Option (MV × Word)
  | .aluAdd x => some (x, t + o)
  | .aluSub x => some (x, t - o)
  | .aluAnd x => some (x, t &&& o)
  | .aluOr x => some (x, t ||| o)
  | .aluXor x => some (x, t ^^^ o)
  | .aluShl x => some (x, t <<< (o.toNat % 64))
  | .aluShr x => some (x, t >>> (o.toNat % 64))
  | _ => none
def stewardCmp (t o : Word) : Instr → Option (MV × Bool)
  | .aluEq x => some (x, decide (t = o))
  | .aluLt x => some (x, t.slt o)
  | .aluLtn x => some (x, t.ult o)
  | _ => none

/-- The move, engine and trigger code of an engine trigger (R302). -/
def engineTrigger : Instr → Option (MV × Nat × Nat)
  | .bkeLd x n => some (x, n.toNat, 8)
  | .bkeSt x n => some (x, n.toNat, 9)
  | .bkeMv8 x n => some (x, n.toNat, 10)
  | .bkeMv4 x n => some (x, n.toNat, 11)
  | .bkeMvb x n => some (x, n.toNat, 12)
  | .bkeRed x n => some (x, n.toNat, 13)
  | .bkeClr x n => some (x, n.toNat, 14)
  | .deqCol x n => some (x, n.toNat, 16)
  | .accRd x n => some (x, n.toNat, 17)
  | _ => none

end Sys2Proof.Machine
end

