-- ==== Sys2Proof/Certificates/Slice0/Obligations.lean ====
section
/-! DEFINITION. Obligations.lean: the statements for the provers. A lone bundle is a bundle of one instruction, staged with
header `s.hdr` (`lone`, Safety.lean): unless a statement says otherwise it covers every header that is legal with it,
boosted ones among them. That every bundle takes one core cycle more than its stalls, and counts it in CYCLE, is log entry 16 (DESIGN
CHOICE): each statement of what a bundle leaves rests on it. -/

open Sys2Proof Sys2Proof.Machine

/-- R124, R126, R127, R128, R54, R57, R59: a lone scalar integer instruction commits; its latch and its destination hold the
result, no flag is raised, nothing else of the core but the bundle's own bookkeeping changes, and nothing outside the core. -/
def Obligations.IntegerResults : Prop :=
  ∀ (s : State) (i : Instr) (d : BitVec 7) (v : Word), lone i s = true → aluResult (rdS (reading s) 0) i = some (d, v) →
    exec i s = .next (retire s (afterBundle s 0 (latS 0 v) (regS s 0 d v) 0 false))

/-- R125, R129-R133, R40: DIV, DIVN, REM and REMN, with a divisor other than zero and with zero, and the scalar floating-point
instructions, where their flags raise no trap. -/
def Obligations.DivisionAndFloatResults : Prop :=
  (∀ (s : State) (i : Instr) (x : RF) (q z : Word), lone i s = true → divResult (rdS (reading s) 0) i = some (x, q, z) →
     (rdS (reading s) 0 x.b ≠ 0 → exec i s = .next (retire s (afterBundle s 0 (latS 0 q) (regS s 0 x.d q) 0 false))) ∧
     (rdS (reading s) 0 x.b = 0 → quiet s 0 fDZ = true →
       exec i s = .next (retire s (afterBundle s 0 (latS 0 z) (regS s 0 x.d z) fDZ true)))) ∧
  (∀ (s : State) (i : Instr) (d : BitVec 7) (v : Word) (fl : Fl), lone i s = true →
     fpResult s (rdS (reading s) 0) i = some (d, v, fl) → quiet s 0 fl = true →
     exec i s = .next (retire s (afterBundle s 0 (latS 0 v) (regS s 0 d v) fl false)))

/-- R41, R125, R147, R186, R235: an enabled flag of slot S, V or X traps: no slot commits, the bundle's flags are in FPS, TREC names
the slot, and the cause is that of the flag, or INT_DIVIDE_BY_ZERO for the integer division. That a flag a scan raises past the
active count is none is log entry 113 (DEDUCED). -/
def Obligations.FlagTraps : Prop :=
  ∀ (s : State) (i : Instr), lone i s = true →
    let en : Fl := ((boundary s).csr.fpc.extractLsb' 0 5).setWidth 6
    let traps (n cause : Nat) (fl : Fl) : Prop :=
      exec i s = .next (takeTrap (onCore (entered s) s.cur (fun k => { k with csr := { k.csr with fps := k.csr.fps ||| fl } }))
        s.cur cause (boundary s).pc (trec (slotBit n) 0 false))
    (∀ d v fl, fpResult s (rdS (reading s) 0) i = some (d, v, fl) → quiet s 0 fl = false → traps 0 (flagCause (fl &&& en) true) fl) ∧
    (∀ x q z, divResult (rdS (reading s) 0) i = some (x, q, z) → rdS (reading s) 0 x.b = 0 → quiet s 0 fDZ = false →
      traps 0 0x45 fDZ) ∧
    (∀ o, vecArith s i = some o ∨ vecConvert s i = some o ∨ vecShape s i = some o → quiet s 1 o.fl = false →
      traps 1 (flagCause (o.fl &&& en) true) o.fl) ∧
    (∀ x, i = .xsel x →
      let fl := (xselCode (xselBlock x) (xselType x) (nth 0 (elems (xselType x).w 1 (rdV (reading s) 5 x.a 1)) 0)).2
      quiet s 5 fl = false → traps 5 (flagCause (fl &&& en) true) fl)

/-- R134, R135, R166-R168: CSRR writes the register as it stood before the bundle, CSRW takes effect at the commit; PSET, PSETS and
PCNT. -/
def Obligations.CsrAndPredicates : Prop :=
  (∀ (s : State) (x : RF),
     (lone (.csrr x) s = true → exec (.csrr x) s = .next (retire s
       (afterBundle s 0 (latS 0 (csrRead (boundary s) (csrNum x))) (regS s 0 x.d (csrRead (boundary s) (csrNum x))) 0 false))) ∧
     (lone (.csrw x) s = true → exec (.csrw x) s = .next (retire s
       { passed s 0 with csr := csrWrite (boundary s).csr (csrNum x) (rdS (reading s) 0 x.a) }))) ∧
  (∀ (s : State) (x : RF),
     let W := x.f.toNat % 8
     let E := (x.c.toNat / 8 % 8 + 1) * 2048 / wpBits W
     let a := rdS (reading s) 0 x.a
     let P := x.c.toNat % 8
     (lone (.pset x) s = true → exec (.pset x) s = .next (retire s (afterBundle s 0 []
       (fun k => putP k (isBoosted s 0) P (if W = 7 then 0xE000 else mkPred W (min a.toNat 8191))) 0 false))) ∧
     (lone (.psets x) s = true → exec (.psets x) s = .next (retire s (afterBundle s 0 (latS 0 (a - BitVec.ofNat 64 (min a.toNat E)))
       (fun k => regS s 0 x.d (a - BitVec.ofNat 64 (min a.toNat E)) (putP k (isBoosted s 0) P (mkPred W (min a.toNat E)))) 0 false))) ∧
     (lone (.pcnt x) s = true →
       let n := BitVec.ofNat 64 (active (rdP (reading s) 0 P) (wpBits W) (x.c.toNat / 8 % 8 + 1))
       exec (.pcnt x) s = .next (retire s (afterBundle s 0 (latS 0 n) (regS s 0 x.d n) 0 false))))

/-- R96, R97, R107, R113, R193: branches that resolve no shadow, and indirect jumps; and a resolving branch. While a load of the shadow
is under way, or one owed to a register that the commit writes, it waits. Against its prediction the shadow is discarded; as
predicted every pending copy replaces its register and the shadow flags join FPS. With deferred records it traps the first time with
the cause of the oldest, and after the return performs them again as loads of its bundle (log entries 22, 23 and 24, DEDUCED: how a
repeated record waits, and what a load under way holds; log entry 21, DEDUCED: TREC.INFO of the first trap is 0). -/
def Obligations.BranchesAndJumps : Prop :=
  (∀ (s : State) (x : BF) (y : RF),
     (lone (.br x) s = true → x.br = 0 ∨ (boundary s).level = true →
       exec (.br x) s = .next (jumpTo s (targetOf s x) 0 (passed s 0))) ∧
     (lone (.bc x) s = true → x.br = 0 ∨ (boundary s).level = true →
       let t := bcHolds x.cc.toNat (rdS (reading s) 0 x.a)
       exec (.bc x) s = .next (jumpTo s (if t then targetOf s x else (boundary s).pc + 32)
         (if t = decide (x.pd = 1) then 0 else 4) (passed s 0))) ∧
     (lone (.jmpi y) s = true →
       let t := (rdS (reading s) 0 y.a).setWidth 48
       exec (.jmpi y) s = .next (if t.extractLsb' 0 5 = 0 then jumpTo s t 2 (passed s 0) else trapped s 0 0x0B 0))) ∧
  (∀ (s : State) (x : BF), (boundary s).level = false → x.br = 1 →
     let owed := commitOwed { reading s with resolve := some true }
     let waits (i : Instr) : Prop := exec i s = .next (onCore (entered s) s.cur (bump 1))
     let sh := (boundary s).shadow
     let commits (u : State) (sh : Shadow) (pc : BitVec 48) : State :=
       setCore u s.cur (bump 1 { commitShadow (reading s) sh (passed s 0) with
         shadow := Shadow.none, postTrap := shadowTrap (passed s 0) sh ++ (boundary s).postTrap, pc := pc })
     let traps (cause info : Nat) : State :=
       takeTrap (onCore (entered s) s.cur (fun k => onShadow k (fun x => { x with retry := x.retry || landed k }))) s.cur cause
         (boundary s).pc (trec (slotBit 3) info true)
     let resolved (i : Instr) (pc : BitVec 48) : Prop :=
       (sh.recs = [] → exec i s = .next (commits (entered s) sh pc)) ∧
       (∀ r rest, sh.recs = r :: rest →
         (sh.retry = false → exec i s = .next (traps r.cause 0)) ∧
         (sh.retry = true →
           (∀ u k, redo s.cur sh.recs (entered s) (boundary s) = .done u k → exec i s = .next (commits u k.shadow pc)) ∧
           (∀ cause info, redo s.cur sh.recs (entered s) (boundary s) = .fault cause info →
             exec i s = .next (traps cause info))))
     (lone (.br x) s = true →
       (boostOut (reading s) = true ∨ owed = true → waits (.br x)) ∧
       (boostOut (reading s) = false → owed = false → resolved (.br x) (targetOf s x))) ∧
     (lone (.bc x) s = true →
       let t := bcHolds x.cc.toNat (rdS (reading s) 0 x.a)
       let pc := if t then targetOf s x else (boundary s).pc + 32
       (boostOut (reading s) = true ∨ (t = decide (x.pd = 1) ∧ owed = true) → waits (.bc x)) ∧
       (boostOut (reading s) = false → owed = false → t = decide (x.pd = 1) → resolved (.bc x) pc) ∧
       (boostOut (reading s) = false → t ≠ decide (x.pd = 1) → exec (.bc x) s = .next (jumpTo s pc 4 { passed s 0 with shadow := Shadow.none }))))

/-- R97, R99, R100, R107, R111: calls and returns through the resident call stack, the spill of the oldest entry and the fill of a
spilled one, behind the fences of earlier bundles (R247, R248), and the faults. -/
def Obligations.CallsAndReturns : Prop :=
  ∀ (s : State) (x : BF) (y : RF),
    let k := boundary s
    let push (pc : BitVec 48) (n : Nat) : State :=
      if k.calls.length + k.cspl = 520 then trapped s 0 0x38 0
      else if k.calls.length = 8 then
        let p : Piece := ⟨.slice s.cur (0xFF000 + 8 * k.cspl), 8, false⟩
        let bs := natLe 8 (k.calls.headD 0).toNat
        let go : Core := { passed s 0 with calls := k.calls.drop 1 ++ [returnEntry s], cspl := k.cspl + 1 }
        if fencePending k = true then jumpTo s pc (n + 1) (listed s (.spill p bs) go)
        else thenDo s [.own p bs false] (jumpTo s pc (n + 1) go)
      else jumpTo s pc n { passed s 0 with calls := k.calls ++ [returnEntry s] }
    let clear : Prop := ownPending s.cur k = false ∧ mayLoad s = true
    (lone (.call x) s = true → (k.calls.length = 8 → clear) → exec (.call x) s = .next (push (targetOf s x) 0)) ∧
    (lone (.calli y) s = true → (k.calls.length = 8 → clear) →
      let t := (rdS (reading s) 0 y.a).setWidth 48
      exec (.calli y) s = .next (if t.extractLsb' 0 5 = 0 then push t 2 else trapped s 0 0x0B 0)) ∧
    (lone (.ret y) s = true → (k.calls = [] → clear) → exec (.ret y) s = .next
      (let go (e : Word) (c : Core) (n : Nat) : State :=
        if (e.extractLsb' 2 3).toNat ≠ k.loops.length then trapped s 0 0x3E 0
        else jumpTo s ((e.setWidth 48) &&& 0xFFFFFFFFFFE0) n c
       match k.calls.getLast? with
       | some e => go e { passed s 0 with calls := k.calls.dropLast } 2
       | none =>
         if k.cspl = 0 then trapped s 0 0x39 0
         else
           let r := readPlace (entered s) k.node (.slice s.cur (0xFF000 + 8 * (k.cspl - 1))) 8 false
           if r.2 then trapped s 0 0x3A 0
           else go (BitVec.ofNat 64 (leNat r.1)) { passed s 0 with cspl := k.cspl - 1 } 6))

/-- R101, R103: opening a loop, leaving loops, reading an index, and their faults. That the back-edge of a marked end bundle that
holds LOOP or LOOPI is taken on the entry pushed, or after the skip, is log entry 98 (DEDUCED). -/
def Obligations.LoopsOpenAndClose : Prop :=
  ∀ (s : State) (x : RF),
    let k := boundary s
    let opens (n : Nat) : State :=
      let c := if x.f.getLsbD 0 then { passed s 0 with rb := 0 } else passed s 0
      if 0 < n ∧ k.loops.length = 6 then trapped s 0 0x3B 0
      else if n = 0 then setCore (entered s) s.cur (bump 1
        (if hdrLe s.hdr then backEdge { c with pc := k.pc + BitVec.ofNat 48 (32 * (x.loopE + 2)) }
         else { c with pc := k.pc + BitVec.ofNat 48 (32 * (x.loopE + 2)) }))
      else retire s { c with loops := k.loops ++ [loopEntry s n x.loopE (x.f.getLsbD 0)] }
    let at_ := k.loops.length - 1 - x.f.toNat
    (lone (.loop x) s = true → exec (.loop x) s = .next
      (if 0xFFFFFFFF < (rdS (reading s) 0 x.a).toNat then trapped s 0 0x3B 0 else opens (rdS (reading s) 0 x.a).toNat)) ∧
    (lone (.loopi x) s = true → exec (.loopi x) s = .next (opens x.loopN)) ∧
    (lone (.lexit x) s = true → exec (.lexit x) s = .next
      (if k.loops.length < x.f.toNat + 1 then trapped s 0 0x3C 0
       else setCore (entered s) s.cur (bump 1
         { passed s 0 with loops := k.loops.take at_, pc := (k.loops.getD at_ default).stop + 32 }))) ∧
    (lone (.lidx x) s = true →
      let v := ((k.loops.getD at_ default).index).setWidth 64
      exec (.lidx x) s = .next (if k.loops.length < x.f.toNat + 1 then trapped s 0 0x3C 0
        else retire s (afterBundle s 0 (latS 0 v) (regS s 0 x.d v) 0 false)))

/-- R53, R95, R106, R110, R140: NOP, TRAP, ERET and EXIT at their own bundle: TRAP leaves SOFTWARE_TRAP due at the next
boundary, ERET restores what the trap saved, EXIT retires the core. -/
def Obligations.TrapReturnAndExit : Prop :=
  ∀ (s : State) (x : RF),
    let k := boundary s
    (∀ t, s.host.power = true → s.frame = some t → exec .nop s = .next s) ∧
    (canIssue s = true → hdrOk s.hdr = true → hdrBoost s.hdr = 0 → endOk s.hdr k .nop = true →
      exec .nop s = .next (retire s { passed s 0 with latBoost := 0 })) ∧
    (lone (.trap x) s = true → exec (.trap x) s = .next (setCore (entered s) s.cur
      (let c := bump 1 (goOn s.hdr (passed s 0))
       { c with postTrap := (c.level, 0x3F, trec 0 x.trapN.toNat false) :: c.postTrap }))) ∧
    (lone (.eret x) s = true → exec (.eret x) s = .next (setCore (entered s) s.cur (bump 1
      { passed s 0 with
        pc := k.csr.epc, lat := k.tlat, latBoost := k.tlatBoost, exposed := k.held ++ (passed s 0).exposed, held := [],
        level := k.tlevel }))) ∧
    (lone (.exit x) s = true → exec (.exit x) s = .next (setCore (entered s) s.cur (bump 1
      { passed s 0 with
        pc := k.pc + 32, running := false, retiring := true, postTrap := [],
        failed := if k.level = true ∧ k.csr.cause ≠ 0 then some k.csr.cause.toNat else none })))

/-- R105, R108, R109, R250: BSWAP, WAITE and YIELD. A token or matrix event that WAITE returns is an acquire; a wait that ended with
none of its events returns 0. -/
def Obligations.SwapsWaitsYields : Prop :=
  ∀ (s : State) (x : RF),
    let k := boundary s
    (lone (.bswap x) s = true → ownPending s.cur k = false → exec (.bswap x) s = .next
      (if (if k.rh then k.isA else k.isB) then setCore (entered s) s.cur (bump 3
          { passed s 0 with
            rh := !k.rh, pc := BitVec.ofNat 48 ((if k.rh then 0xFE0000000000 else 0xFE0000004000) + 32 * x.bswapIdx) })
       else trapped s 0 0x30 1)) ∧
    (lone (.waite x) s = true →
      let m : BitVec 8 := (rdS (reading s) 0 x.a).setWidth 8
      let got : BitVec 8 := k.evl &&& m
      (got ≠ 0 → got &&& 0x0C = 0 → exec (.waite x) s = .next (retire s (afterBundle s 0 (latS 0 (got.setWidth 64))
        (fun c => regS s 0 x.d (got.setWidth 64) { c with evl := k.evl &&& ~~~m }) 0 false))) ∧
      (got &&& 0x0C ≠ 0 → exec (.waite x) s = .next (retire s (afterBundle s 0 (latS 0 (got.setWidth 64))
        (fun c => listed s (.acq 0xFF) (regS s 0 x.d (got.setWidth 64) { c with evl := k.evl &&& ~~~m })) 0 false))) ∧
      (∀ w, got = 0 → waitRes (reading s) 0 = some w →
        exec (.waite x) s = .next (retire s (afterBundle s 0 (latS 0 0) (regS s 0 x.d 0) 0 false))) ∧
      (got = 0 → rdS (reading s) 0 x.b = 0 →
        exec (.waite x) s = .next (retire s (afterBundle s 0 (latS 0 0) (regS s 0 x.d 0) 0 false))) ∧
      (got = 0 → rdS (reading s) 0 x.b ≠ 0 → k.park = none → exec (.waite x) s = .next (onCore (entered s) s.cur (fun c =>
        bump 1 { c with xlFault := none,
                        park := some ⟨.waite m, 0, if rdS (reading s) 0 x.b = BitVec.allOnes 64 then none
                          else some (s.now + (rdS (reading s) 0 x.b).toNat), s.now, none, []⟩ })))) ∧
    (lone (.yield x) s = true →
      let t := retire s (passed s 0)
      exec (.yield x) s = .next (match (coreAt t s.cur).node.bind (nodeOf t) with
        | some n => if yields t n then onNode t n.id (fun n => { n with offer := true }) else t
        | none => t))

/-- R143, R147-R163, R178, R182, R183, R57: a lone element-wise vector instruction, or a lone conversion between element types or
block formats, writes its active elements, keeps the others, and raises the flags of the active ones. -/
def Obligations.VectorResults : Prop :=
  ∀ (s : State) (i : Instr) (o : VecOut), lone i s = true → vecArith s i = some o ∨ vecConvert s i = some o →
    quiet s 1 o.fl = true → exec i s = .next (vecRetired s o)

/-- R164, R169-R177, R181: lone reductions, scans and rearrangements; VEXTR writes a scalar, VPART two vector groups and two
predicates. That VPART writes its predicates although its destination is suppressed is log entry 19 (DEDUCED), and that the steps of
a scan past the active count raise no flag is log entry 113 (DEDUCED). -/
def Obligations.VectorShapes : Prop :=
  ∀ (s : State) (i : Instr) (o : VecOut), lone i s = true →
    (vecShape s i = some o → quiet s 1 o.fl = true → exec i s = .next (vecRetired s o)) ∧
    (∀ x, i = .vextr x →
      let k := (rdS (reading s) 1 x.b).toNat
      let e := nth 0 (opA (reading s) x) k
      let v : Word := if k < vE x then (if (ty? x.ty).isI then sextN (vw x) e else BitVec.ofNat 64 e) else 0
      exec i s = .next (retire s (afterBundle s 1 (latS 1 v) (regS s 1 x.d v) 0 false))) ∧
    (∀ x, i = .vpart x →
      let ix := ((opA (reading s) x).take (vcount (reading s) x)).zipIdx
      let ones := (ix.filter (fun e => e.1 % 2 == 1)).map (fun e => e.2 % 2 ^ vw x)
      let zeros := (ix.filter (fun e => e.1 % 2 == 0)).map (fun e => e.2 % 2 ^ vw x)
      let lo := newGroup s 1 ⟨x.d, vw x, grp x.gs, ones.map some, 0⟩
      let hi := newGroup s 1 ⟨x.d + BitVec.ofNat 7 (grp x.gs), vw x, grp x.gs, zeros.map some, 0⟩
      let T := x.c.toNat % 8
      exec i s = .next (retire s (afterBundle s 1 (mput 0 [] 1 (lo.headD 0))
        (fun k => putP (putP (regV s 1 x.d lo (if x.d.toNat < 64 then regV s 1 (x.d + BitVec.ofNat 7 (grp x.gs)) hi k else k))
          (isBoosted s 1) T (mkPred (widthCode (vw x)) ones.length)) (isBoosted s 1) (T + 1)
          (mkPred (widthCode (vw x)) zeros.length)) 0 false)))

/-- R142: element i of a group of registers that a slot reads stands in register a + (i div E1), at bits [w j + w - 1 : w j] with
j = i mod E1, where E1 = 2048 / w; and a written group reads back: the new elements where one was given, the old ones elsewhere. -/
def Obligations.WrittenElementsReadBack : Prop :=
  (∀ (f : Frame) (k w G : Nat) (a : BitVec 7), w ∈ [4, 8, 16, 32, 64] → 1 ≤ G → G ≤ 6 → a.toNat + G ≤ 32 →
    let es := elems w G (rdV f k a G)
    es.length = G * (2048 / w) ∧ ∀ i, i < G * (2048 / w) → nth 0 es i =
      (rdVp f k (rotV f.pre.rb (a.toNat + i / (2048 / w)))).toNat / 2 ^ (w * (i % (2048 / w))) % 2 ^ w) ∧
  ∀ (w G : Nat) (es : List (Option Nat)) (old : List Nat), w ∈ [4, 8, 16, 32, 64] → 1 ≤ G → G ≤ 6 →
    old.length = G * 2048 / w → es.length ≤ old.length → (∀ e ∈ old, e < 2 ^ w) → (∀ e ∈ es, ∀ v, e = some v → v < 2 ^ w) →
    elems w G (splitV G (pack w (mergeE es old))) = mergeE es old ∧
    (∀ i, i < es.length → ∀ v, es[i]? = some (some v) → (mergeE es old)[i]? = some v) ∧
    (∀ i, es.length ≤ i ∨ es[i]? = some none → (mergeE es old)[i]? = old[i]?)

/-! ### Matrix and scale slots -/

/-- R214, R216, R218, R219, R222, R227, R236, R364, R377: a job, a drain or a known-answer test joins the matrix queue with its card as
the bundle read it; a malformed card or descriptor, or a malformed fabric address of a card (log entry 43, DEDUCED), traps and queues
nothing. -/
def Obligations.MatrixIssue : Prop :=
  ∀ (s : State) (x : MF),
    let k := boundary s
    let ea := rdS (reading s) 2 x.a
    k.mxq.length < 8 →
    (lone (.mjob x) s = true → ∀ ps r, cardAt s ea 64 128 = some (ps, r) →
      let fit := (cAg r.1 ≠ 0 → faddrOk (entered s) (BitVec.ofNat 64 (d64 r.1 0)) = true) ∧
        (cBg r.1 ≠ 0 → faddrOk (entered s) (BitVec.ofNat 64 (d64 r.1 8)) = true)
      (cardOk r.1 = false → exec (.mjob x) s = .next (trapped s 2 0x50 0)) ∧
      (cardOk r.1 = true → ¬fit → exec (.mjob x) s = .next (trapped s 2 0x87 0)) ∧
      (cardOk r.1 = true → fit → tilesBusy k (cTiles r.1) = false →
        exec (.mjob x) s = .next (thenDo s [.touch ps] (retire s (afterBundle s 2 [] (matrixQueued x.d { mxNew (reading s) .mjob x.d.toNat r.1 ea with
          grA := grantOf (reading s) (cAg r.1), grB := grantOf (reading s) (cBg r.1), prog := cStart r.1 } (cTiles r.1)) 0 false))))) ∧
    (lone (.mdrn x) s = true → ∀ ps r, cardAt s ea 32 32 = some (ps, r) →
      let ts := dTiles r.1 (mxTile x)
      (drainOk r.1 (mxTile x) = false → exec (.mdrn x) s = .next (trapped s 2 0x51 0)) ∧
      (drainOk r.1 (mxTile x) = true → tilesBusy k ts = false →
        exec (.mdrn x) s = .next (thenDo s [.touch ps] (retire s (afterBundle s 2 [] (matrixQueued x.d { mxNew (reading s) .mdrn x.d.toNat r.1 ea with
          tile := mxTile x, scale := rdX (reading s) 2 (mdrnK x),
          rm := if dB r.1 0x0D = 3 then k.csr.fpc.extractLsb' 5 2 else BitVec.ofNat 2 (dB r.1 0x0D) } ts) 0 false))))) ∧
    (lone (.mkat x) s = true → exec (.mkat x) s = .next (retire s (afterBundle s 2 []
      (fun k => { k with
        mxq := k.mxq ++ [{ mxNew (reading s) .mkat 0 [] 0 with sig := x.hi ++ x.a ++ x.d }], memNext := k.memNext + 1 }) 0 false)))

/-- R211, R212, R214, R230-R232: tile instructions whose tiles are not busy. -/
def Obligations.TileAccess : Prop :=
  ∀ (s : State) (x : MF),
    let k := boundary s
    let r := (rdS (reading s) 2 x.a).toNat % 64
    let wide := mxMode x = 2
    let m : BitVec 16 := x.hi.extractLsb' 0 2 ++ x.a ++ x.d
    (lone (.mzero x) s = true →
      let t := x.d.toNat % 16
      let n := x.d.toNat / 16 + 8 * (x.a.toNat % 2) + 1
      tilesBusy k ((List.range n).map (t + ·)) = false →
      exec (.mzero x) s = .next (retire s (afterBundle s 2 [] (fun c =>
        { c with tval := mclear c.tval (4096 * t) (4096 * n), tcnt := mclear c.tcnt (4096 * t) (4096 * n) }) 0 false))) ∧
    (lone (.mrd x) s = true → tilesBusy k (mxTiles x) = false →
      let vs := splitV (if wide then 2 else 1) (pack (if wide then 64 else 32) (mrdRow k x r))
      exec (.mrd x) s = .next (retire s (afterBundle s 2 (mput 0 [] 2 (vs.headD 0)) (regV s 2 x.d vs) 0 false))) ∧
    (lone (.mwr x) s = true → tilesBusy k (mxTiles x) = false → mxMode x ≠ 3 →
      let es := elems (if wide then 64 else 32) (if wide then 2 else 1) (rdV (reading s) 2 x.d (if wide then 2 else 1))
      let fl : Fl := if mxMode x = 1 ∧ (∃ e ∈ es, 65535 < e) then fCSAT else 0
      quiet s 2 fl = true →
      exec (.mwr x) s = .next (retire s (afterBundle s 2 [] (fun c => { c with
        tval := mputs 0 c.tval ((mwrVals x r es).map (fun e => (e.1, BitVec.ofNat 32 e.2))),
        tcnt := mputs 0 c.tcnt ((mwrCnts x r es).map (fun e => (e.1, BitVec.ofNat 16 e.2))) }) fl false))) ∧
    (lone (.mwait x) s = true → (if m = 0 then k.mxq = [] else k.busy &&& m = 0) →
      exec (.mwait x) s = .next (retire s (passed s 2)))

/-- R104, R116, R233-R235: scale registers: a load for the sixth bundle on, a selected code for the second, an immediate now. -/
def Obligations.ScaleRegisters : Prop :=
  ∀ (s : State) (x : XF),
    let d : LateDst := ⟨.x, [rotX (boundary s).rb x.x.toNat], 12, 1, false, 5, isBoosted s 5⟩
    (lone (.scld x) s = true → mayLoad s = true →
      ∀ ps, reached s .rd 2 [(va48 (rdS (reading s) 5 x.a + BitVec.ofNat 64 (2 * x.hi.toNat)), 2)] = some ps →
      exec (.scld x) s = .next (retire s (afterBundle s 5 [] (exposedBy s .scld d 6 ps) 0 false))) ∧
    (lone (.xsel x) s = true →
      let t := xselType x
      let r := xselCode (xselBlock x) t (nth 0 (elems t.w 1 (rdV (reading s) 5 x.a 1)) 0)
      quiet s 5 r.2 = true → exec (.xsel x) s = .next (retire s (afterBundle s 5 [] (fun k =>
        { k with exposed := k.exposed ++ [⟨.xsel, d, 2, k.memNext, some (natLe 2 r.1), false, isBoosted s 5⟩] }) r.2 false))) ∧
    (lone (.xset x) s = true →
      let v : BitVec 12 := x.hi ++ x.a
      exec (.xset x) s = .next (retire s (afterBundle s 5 (mput 0 [] 5 (v.setWidth 2048))
        (fun k => putX k (isBoosted s 5) (rotX (boundary s).rb x.x.toNat) v) 0 false)))

/-! ### Slot L -/

/-- R192-R196, R243: loads whose addresses are good: the value at the bundle from the core's own memories, otherwise a result
that memory returns later. -/
def Obligations.Loads : Prop :=
  ∀ (s : State) (x : LF) (ps : List Piece), mayLoad s = true →
    (lone (.ld x) s = true → reached s .rd (lw x / 8) [(va48 (lsEa (reading s) x), lw x / 8)] = some ps →
      exec (.ld x) s = .next (loadedS s x ps)) ∧
    (lone (.vld x) s = true → reached s .rd 32 (spanEl (reading s) x (lvEa (reading s) x)) = some ps →
      exec (.vld x) s = .next (loadedV s x ps)) ∧
    (lone (.vlds x) s = true → reached s .rd (lw x / 8) (strideEl (reading s) x) = some ps →
      exec (.vlds x) s = .next (loadedV s x ps)) ∧
    (lone (.vgld x) s = true → reached s .rd (lw x / 8) (indexEl (reading s) x) = some ps →
      exec (.vgld x) s = .next (loadedV s x ps))

/-- R194, R197, R198: arrival loads: a landing slot for each register, the exposed result, and the trap when none is free;
with the destination suppressed only the address is checked. -/
def Obligations.ArrivalLoads : Prop :=
  ∀ (s : State) (x : LF) (ps : List Piece), mayLoad s = true →
    let out (d : LateDst) (n G : Nat) : State :=
      if 64 ≤ x.d.toNat then retire s (passed s 3)
      else if 16 < landingUse (boundary s) + G then trapped s 3 0x12 0
      else retire s (afterBundle s 3 [] (exposedBy s .ldr d n ps) 0 false)
    (lone (.ldr x) s = true → reached s .rd (lw x / 8) [(va48 (lsEa (reading s) x), lw x / 8)] = some ps →
      exec (.ldr x) s = .next (out (sDst (reading s) 3 x.d (ty? x.ty)) x.aux.toNat 1)) ∧
    (lone (.vldr x) s = true → reached s .rd 32 (spanEl (reading s) x (vldrEa (reading s) x)) = some ps →
      exec (.vldr x) s = .next (out (vDst (reading s) 3 x) x.arr.toNat (grp x.gs)))

/-- R116, R197: an exposed scalar or scale result is in its register, and the entry gone, from the bundle it is due at. -/
def Obligations.ExposedResultLands : Prop :=
  ∀ (s : State) (e : Exposed) (r : Nat) (bs : List Byte), (fenced s).exposed = [e] → e.off = 1 → e.data = some bs →
    e.boosted = false → e.dst.regs = [r] →
    (e.dst.file = .s → r < 64 → (boundary s).regs = (fenced s).regs.wS r (extend e.dst.sext e.dst.w (leNat bs))) ∧
    (e.dst.file = .x → r < 64 → (boundary s).regs = (fenced s).regs.wX r (BitVec.ofNat 12 (leNat bs))) ∧
    (boundary s).exposed = []

/-- R193-R195, R243, R244: stores whose addresses are good. -/
def Obligations.Stores : Prop :=
  ∀ (s : State) (i : Instr) (acc : Acc) (align : Nat) (els : List (Nat × Nat)) (bs : List Byte) (nib : Bool) (ps : List Piece),
    lone i s = true → accessOf s i = some (3, acc, align, els) → dataOf s i = some (bs, nib) → mayWrite s = true →
    reached s acc align els = some ps → writesOut (boundary s) < 64 → exec i s = .next (stored s ps bs nib)

/-- R187, R193, R243: a scalar store to the core's own slice puts its bytes at its address and changes no other byte of any
memory. -/
def Obligations.StoredBytes : Prop :=
  ∀ (s : State) (x : LF) (c o n : Nat) (disc : Bool), memCanon s = true → lone (.st x) s = true →
    mayWrite s = true → reached s .wr (lw x / 8) [(va48 (lsEa (reading s) x), lw x / 8)] = some [⟨.slice c o, n, disc⟩] →
    ownNow s [⟨.slice c o, n, disc⟩] = true → fencePending (boundary s) = false → n = lw x / 8 →
    ∃ t, exec (.st x) s = .next t ∧
      (∀ i, i < n → byteAt t.slices (c * 2 ^ 20 + o + i) =
        BitVec.ofNat 8 ((rdS (reading s) 3 (x.aux.extractLsb' 0 7)).toNat / 2 ^ (8 * i))) ∧
      (∀ a, a < c * 2 ^ 20 + o ∨ c * 2 ^ 20 + o + n ≤ a → byteAt t.slices a = byteAt s.slices a) ∧
      t.ists = s.ists ∧ t.dram.mem = s.dram.mem ∧ t.dram.wq = s.dram.wq ∧ t.host.sys = s.host.sys

/-- R187, R190, R195, R200, R204, R262, R348, R112, R121: where an access is refused (a window that does not exist for the core, a
misaligned address, a failed translation), the bundle traps with the cause, be it a load, a store, the read of a card or descriptor, an
atomic, or a word that BARV, BARW or SWAIT names; those trap with ATOMIC_TARGET in the instruction store, where an atomic of the
running half has ISP_RUNNING_HALF, and a barrier word outside a slice does so too. A boosted load traps nothing: its record joins
the shadow. The latch of such a load is a free value (log entry 8, DESIGN CHOICE), no record is kept where no register would take the
result (log entry 25, DEDUCED), a base is checked though no element is active (log entry 27, DEDUCED), the window check covers every
byte (log entry 114, DESIGN CHOICE), the fault of an arrival load's address comes before a missing landing slot (log entry 109, DESIGN
CHOICE), and ATOMIC_TARGET comes after window and alignment (log entry 110, DESIGN CHOICE). -/
def Obligations.AddressFaults : Prop :=
  (∀ (s : State) (i : Instr) (n : Nat) (acc : Acc) (align : Nat) (els : List (Nat × Nat)), lone i s = true →
     accessOf s i = some (n, acc, align, els) → (if acc.writes then mayWrite s = true else mayLoad s = true) →
     (defersOf s i = none ∨ isBoosted s n = false) → (n = 2 → (boundary s).mxq.length < 8) →
     let parts := els.flatMap (fun e => (chunks e.1 e.2).map (fun p => (p.1 % 2 ^ 48, p.2)))
     ((∃ p ∈ parts, window (entered s) (boundary s).node s.cur p.1 = .refused) → exec i s = .next (trapped s n 0x11 0)) ∧
     ((∀ p ∈ parts, window (entered s) (boundary s).node s.cur p.1 ≠ .refused) → (∃ e ∈ els, e.1 % align ≠ 0) →
       exec i s = .next (trapped s n 0x10 0)) ∧
     (∀ cause info, reach s acc align els = .fault cause info → exec i s = .next (trapped s n cause info))) ∧
  (∀ (s : State) (i : Instr) (n va align : Nat) (acc : Acc) (els : List (Nat × Nat)) (sliceOnly own : Bool), lone i s = true →
     wordOf s i = some (n, va, align, acc, els, sliceOnly, own) → waitRes (reading s) n = none →
     let at_ := window (entered s) (boundary s).node s.cur va
     (at_ = .refused → exec i s = .next (trapped s n 0x11 0)) ∧
     (at_ ≠ .refused → va % align ≠ 0 → exec i s = .next (trapped s n 0x10 0)) ∧
     (∀ d o, va % align = 0 → at_ = .at_ (.ist d o) → exec i s = .next (trapped s n
       (if own = true ∧ decide (2 ^ 14 ≤ o) = (boundary s).rh then 0x32 else 0x14) 0)) ∧
     (va % align = 0 → at_ = .virt → sliceOnly = true → exec i s = .next (trapped s n 0x14 0)) ∧
     (∀ cause info, targetFault (entered s) (reading s) va align sliceOnly own = none → (∃ x, i = .barv x) ∨ mayLoad s = true →
       reach s acc align els = .fault cause info → exec i s = .next (trapped s n cause info))) ∧
  (∀ (s : State) (i : Instr) (acc : Acc) (align : Nat) (els : List (Nat × Nat)) (d : LateDst) (q : Saved) (cause info : Nat),
     lone i s = true → accessOf s i = some (3, acc, align, els) → defersOf s i = some (d, q) → mayLoad s = true →
     isBoosted s 3 = true → reach s acc align els = .fault cause info →
     let seq := ((boundary s).shadow.recs.map (·.seq)).foldl max 0 + 1
     exec i s = .next (retire s (afterBundle s 3 (mput 0 [] 3 (Config.deferLatch q.va.toNat)) (fun k =>
       if d.regs.all (fun r => (r == 0 && d.file == .s) || decide (64 ≤ r)) then k
       else onShadow k (fun sh =>
         { sh with recs := sh.recs ++ [⟨d.regs.headD 64, q.insn, cause, seq, q.va, q.vb, q.pred, d, q.vidx⟩] })) 0 false)))

/-- R200, R201, R347, R412: atomics: in the core's own slice at the bundle, elsewhere at the owner; to a system page the bundle
waits for the completion, or traps where the path cannot carry the operation or the completion says so. What an atomic meets at an
address that may not hold its word is in AddressFaults. That the latch of ACAS128 takes the even register is log entry 106 (DESIGN
CHOICE). -/
def Obligations.Atomics : Prop :=
  ∀ (s : State) (i : Instr) (q : AtomReq), lone i s = true → atomOf? s i = some q →
    let n := atomW q.kind q.ty / 8
    (∀ p, mayLoad s = true → waitRes (reading s) q.slot = none →
      targetFault (entered s) (reading s) (va48 q.ea) n false true = none → reached s .rw n [(va48 q.ea, n)] = some [p] →
      ((∀ ha mt, p.pl ≠ .sys ha mt) →
        let d := atomDst q.kind q.ty q.slot q.d
        let later : State := retire s (afterBundle s q.slot [] (requested s (.atom q.kind q.ty p q.x q.y d q.ev) d) 0 false)
        (ownNow s [p] = true → fencePending (boundary s) = false →
          let r := readPiece (entered s) (boundary s).node p
          exec i s = .next (thenDo s
            (match atomNew q.kind q.ty (leNat r.1) q.x q.y with
              | some v => .own p (natLe n v) false :: q.ev.toList.map .ev
              | none => [])
            (retire s (afterBundle s q.slot (latS q.slot (atomVal q r.1)) (fun k => atomRegs s q r.1 (consumeIf r.2 k)) 0 false)))) ∧
        ((ownNow s [p] = false ∨ fencePending (boundary s) = true) → q.slot = 3 → writesOut (boundary s) < 64 →
          exec i s = .next later) ∧
        ((ownNow s [p] = false ∨ fencePending (boundary s) = true) → q.slot = 4 → exec i s = .next later)) ∧
      (∀ ha mt, p.pl = .sys ha mt →
        (pathOk (entered s) q.kind q.ty ha mt = false → exec i s = .next (trapped s q.slot 0xB0 0)) ∧
        (pathOk (entered s) q.kind q.ty ha mt = true → (boundary s).park = none →
          exec i s = .next (onCore (entered s) s.cur (fun k =>
            bump 1 { k with xlFault := none, park := some ⟨.sysAtom q.kind q.ty p q.x q.y, q.slot, none, s.now, none, []⟩ }))))) ∧
    (∀ w, waitRes (reading s) q.slot = some w →
      (w.ok = false → exec i s = .next (trapped s q.slot 0xB0 0)) ∧
      (w.ok = true → exec i s = .next (thenDo s (q.ev.toList.map .ev) (retire s (afterBundle s q.slot
        (latS q.slot (atomVal q (natLe n w.val))) (atomRegs s q (natLe n w.val)) 0 false)))))

/-- R203, R204, R246-R250: BARV takes one arrival off a barrier word once its release is satisfied, and traps on a word that is no
barrier; BARW returns 1 as an acquire where the parity bit agrees, 0 where it may not wait, otherwise parks, and then returns as its
wait ended; DRAIN and FENCE take a place in the core's order, and a fence at CORE does nothing more. -/
def Obligations.OrderingWords : Prop :=
  (∀ (s : State) (x : LF) (p : Piece),
     let va := va48 (rdS (reading s) 3 x.a)
     let r := readPiece (entered s) (boundary s).node p
     let old : Word := BitVec.ofNat 64 (leNat r.1)
     undisturbed s [p] = true →
     (lone (.barv x) s = true → targetFault (entered s) (reading s) va 8 true false = none →
       reached s .rw 8 [(va, 8)] = some [p] → released (entered s) (reading s) 3 = true →
       let left := (old.extractLsb' 0 16).toNat
       let expect := (old.extractLsb' 16 16).toNat
       (expect = 0 ∨ old.extractLsb' 32 31 ≠ 0 ∨ left = 0 → exec (.barv x) s = .next (trapped s 3 0x90 0)) ∧
       (expect ≠ 0 → old.extractLsb' 32 31 = 0 → left ≠ 0 →
         let par : Word := if left = 1 then (if old.getLsbD 63 then 0 else 1 <<< 63) else old &&& (1 <<< 63)
         let new : Word := par ||| BitVec.ofNat 64 (65536 * expect + if left = 1 then expect else left - 1)
         exec (.barv x) s = .next (thenDo s [.own p (natLe 8 new.toNat) false] (retire s (afterBundle s 3 (latS 3 old)
           (fun k => regS s 3 x.d old (consumeIf r.2 k)) 0 false))))) ∧
     (lone (.barw x) s = true → mayLoad s = true → targetFault (entered s) (reading s) va 8 true false = none →
       reached s .rd 8 [(va, 8)] = some [p] →
       let met := old.getLsbD 63 = (rdS (reading s) 3 x.b).getLsbD 0
       let ends (ok : Bool) : State :=
         if ok then retire s (afterBundle s 3 (latS 3 1)
           (fun k => listed s (.acq 0xFF) (regS s 3 x.d 1 (consumeIf r.2 k))) 0 false)
         else retire s (afterBundle s 3 (latS 3 0) (fun k => regS s 3 x.d 0 (consumeIf r.2 k)) 0 false)
       (met → exec (.barw x) s = .next (ends true)) ∧
       (¬met → rdS (reading s) 3 x.c = 0 → exec (.barw x) s = .next (ends false)) ∧
       (∀ w, ¬met → rdS (reading s) 3 x.c ≠ 0 → waitRes (reading s) 3 = some w → exec (.barw x) s = .next (ends w.ok)) ∧
       (¬met → rdS (reading s) 3 x.c ≠ 0 → (boundary s).park = none → exec (.barw x) s = .next (onCore (entered s) s.cur (fun k =>
         bump 1 { k with
           xlFault := none,
           park := some ⟨.barw p.pl ((rdS (reading s) 3 x.b).getLsbD 0), 3, deadlineOf s (rdS (reading s) 3 x.c), s.now, none, []⟩ }))))) ∧
  (∀ (s : State) (x : LF),
     (lone (.drain x) s = true → exec (.drain x) s = .next (retire s (afterBundle s 3 [] (listed s (.drain x.mask)) 0 false))) ∧
     (lone (.fence x) s = true → exec (.fence x) s = .next (retire s (
       if x.scope = 0 then passed s 3
       else afterBundle s 3 [] (listed s (if x.kind = 0 then .rel x.scope x.mask s.dram.wqNext else if x.kind = 1 then .acq x.mask
         else .full x.scope x.mask s.dram.wqNext)) 0 false))))

/-- R355, R363-R365: fabric loads, stores and atomics: a bad fabric address or a misaligned offset traps, otherwise the
request leaves with its grant and the registers of its value and status wait for the response. A request that loops back to this
module takes its place among the core's accesses by where it leads (log entry 46, DEDUCED). -/
def Obligations.FabricAccess : Prop :=
  ∀ (s : State) (x : LF),
    let fa := rdS (reading s) 3 x.a
    let n := lw x / 8
    let fit := faddrOk (entered s) fa = true ∧ offOf fa % n = 0
    let g := some ((boundary s).regs.rG x.grant.toNat)
    let req (kind : FabKind) : FabReq := fabReq (entered s) (reading s) kind x.d.toNat fa g
    let led (kind : FabKind) (right : Nat) : List Piece := loopPieces (entered s) (req kind) n right
    (lone (.fld x) s = true → mayLoad s = true →
      (¬fit → exec (.fld x) s = .next (trapped s 3 (if faddrOk (entered s) fa then 0x10 else 0x87) 0)) ∧
      (fit → let kd : FabKind := .fld (ty? x.ty)
        exec (.fld x) s = .next (thenDo s [.fabric (req kd)]
          (retire s (afterBundle s 3 [] (requested s (.fab true false false (led kd 0) (fabPair x.d)) (fabPair x.d)) 0 false))))) ∧
    (lone (.fst x) s = true → mayWrite s = true →
      (¬fit → exec (.fst x) s = .next (trapped s 3 (if faddrOk (entered s) fa then 0x10 else 0x87) 0)) ∧
      (fit → writesOut (boundary s) < 64 → let kd : FabKind := .fst (rdS (reading s) 3 x.c) n
        exec (.fst x) s = .next (thenDo s [.fabric (req kd)] (retire s (afterBundle s 3 [] (fun k =>
          { listed s (.fab false true false (led kd 1) (fabWord x.d)) k with pendS := k.pendS ++ [x.d.toNat] }) 0 false))))) ∧
    (lone (.fatom x) s = true → mayLoad s = true →
      (¬fit → exec (.fatom x) s = .next (trapped s 3 (if faddrOk (entered s) fa then 0x10 else 0x87) 0)) ∧
      (fit → writesOut (boundary s) < 64 → let kd : FabKind := .fatom x.op.toNat (ty? x.ty) (rdS (reading s) 3 x.c)
        exec (.fatom x) s = .next (thenDo s [.fabric (req kd)]
          (retire s (afterBundle s 3 [] (requested s (.fab true true false (led kd 2) (fabPair x.d)) (fabPair x.d)) 0 false)))))

/-! ### Slot A -/

/-- R205, R206, R209, R247, R345, R401: PORT reads its card and queues its job, with its token register, where the queue of 64 and the
core's 16 have room; LAUNCH and CKPT read their descriptor, release at DEVICE, and are answered later in their register. -/
def Obligations.JobsAndLaunches : Prop :=
  (∀ (s : State) (x : RF) (ps : List Piece) (r : List Byte × Bool), lone (.port x) s = true →
     cardAt s (rdS (reading s) 4 x.a) 64 64 = some (ps, r) →
     let jobs := (cluster (entered s) (Config.clusterOf s.cur)).jobs
     jobs.length < 64 → (jobs.filter (fun j => j.core == s.cur)).length < 16 →
     let k := boundary s
     exec (.port x) s = .next (thenDo s [.touch ps, .porter ⟨s.cur, x.d.toNat, hdrColour s.hdr, r.1, k.memNext, false, 0, 0, none, k.level,
       s.now⟩] (retire s (afterBundle s 4 [] (tokened x.d) 0 false)))) ∧
  (∀ (s : State) (x : RF) (ps : List Piece) (r : List Byte × Bool),
     let ea := rdS (reading s) 4 x.a
     let d : LateDst := ⟨.s, [x.d.toNat], 64, 1, false, 4, false⟩
     let out (op : MemOp) : State := thenDo s [.touch ps] (retire s (afterBundle s 4 []
       (fun k => requested s op d (listed s (.rel 3 0xFF s.dram.wqNext) (consumeIf r.2 k))) 0 false))
     (lone (.launch x) s = true → cardAt s ea 64 256 = some (ps, r) →
       exec (.launch x) s = .next (out (.launch (rdS (reading s) 4 x.b).toNat (boundary s).level r.1 d))) ∧
     (lone (.ckpt x) s = true → cardAt s ea 64 64 = some (ps, r) → exec (.ckpt x) s = .next (out (.ckpt r.1 d))))

/-- R267, R269, R271: CPUB traps on a range it may not publish or whose first address does not translate, and otherwise begins; IPUB
publishes the half that does not run. -/
def Obligations.PublishCode : Prop :=
  ∀ (s : State) (x : RF),
    let k := boundary s
    let a := va48 (rdS (reading s) 4 x.a)
    let n := (rdS (reading s) 4 x.b).toNat
    let inWindow := (a < sliceWin + 2 ^ 32 ∧ sliceWin < a + n) ∨ (a < istWin + 2 ^ 32 ∧ istWin < a + n)
    (lone (.cpub x) s = true →
      (a % 64 ≠ 0 ∨ n % 64 ≠ 0 → exec (.cpub x) s = .next (trapped s 4 0x10 0)) ∧
      (a % 64 = 0 → n % 64 = 0 → n = 0 ∨ inWindow → exec (.cpub x) s = .next (trapped s 4 0x34 0)) ∧
      (a % 64 = 0 → n % 64 = 0 → 0 < n → ¬inWindow → ∀ cause info, xlPub (entered s) s.cur k a = .fault cause info →
        exec (.cpub x) s = .next (trapped s 4 cause info)) ∧
      (a % 64 = 0 → n % 64 = 0 → 0 < n → ¬inWindow → ∀ p e, xlPub (entered s) s.cur k a = .ok p false (some e) →
        let page := 2 ^ pageBits e.level
        (a / page ≠ (a + n - 1) / page → exec (.cpub x) s = .next (trapped s 4 0x34 0)) ∧
        (a / page = (a + n - 1) / page → x.cpubW = false → e.leaf.getLsbD 4 = false →
          exec (.cpub x) s = .next (trapped s 4 0x36 0)) ∧
        (a / page = (a + n - 1) / page → x.cpubW = true ∨ e.leaf.getLsbD 4 = true →
          let j : Cpub := ⟨if x.cpubW then [] else cpubWaits k ⟨p, n, false⟩ x.cpubMask, a, p, n, e.level, x.cpubMask,
            x.cpubScope, []⟩
          exec (.cpub x) s = .next (thenDo s [if x.cpubW then .cpubW j else .cpubX j] (retire s (passed s 4)))))) ∧
    (lone (.ipub x) s = true → ipubHeld (entered s) s.cur k = false → ownPending s.cur k = false →
      exec (.ipub x) s = .next (retire s (if k.rh then { passed s 4 with isA := true } else { passed s 4 with isB := true })))

/-- R250, R348, R350: SWAIT on a word at its threshold returns 1 as an acquire; below it returns 0 with a zero time-out, or
parks, and then returns as its wait ended. -/
def Obligations.SemaphoreWaits : Prop :=
  ∀ (s u : State) (x : RF) (p : Piece) (rest : List Piece), lone (.swait x) s = true → mayLoad s = true →
    let va := va48 (rdS (reading s) 4 x.a)
    targetFault (entered s) (reading s) va 8 false false = none →
    reached s .rd 8 ((va, 8) :: if x.f = 1 then [(va + 8, 8)] else []) = some (p :: rest) → undisturbed s (p :: rest) = true →
    readGate (entered s) (boundary s).node (p :: rest) = some u →
    let r := readPiece u (boundary s).node p
    let thr := rdS (reading s) 4 x.b
    let lim := rdS (reading s) 4 x.c
    let ends (poi : Bool) (ok : Bool) : State := thenDo s [.touch (p :: rest)] (
      if ok then retire s (afterBundle s 4 (latS 4 1) (fun k => listed s (.acq 0xFF) (regS s 4 x.d 1 (consumeIf poi k))) 0 false)
      else retire s (afterBundle s 4 (latS 4 0) (fun k => regS s 4 x.d 0 (consumeIf poi k)) 0 false))
    (thr.toNat ≤ leNat r.1 → exec (.swait x) s = .next (ends r.2 true)) ∧
    (leNat r.1 < thr.toNat → lim = 0 → exec (.swait x) s = .next (ends r.2 false)) ∧
    (leNat r.1 < thr.toNat → lim ≠ 0 → ∀ w, waitRes (reading s) 4 = some w →
      exec (.swait x) s = .next (ends (w.val != 0) w.ok)) ∧
    (leNat r.1 < thr.toNat → lim ≠ 0 → (boundary s).park = none → exec (.swait x) s = .next (onCore (entered s) s.cur (fun k =>
      bump 1 { k with
        xlFault := none,
        park := some ⟨.swait va p.pl thr (if x.f = 1 then some (BitVec.ofNat 64 (leNat (readPieces u (boundary s).node rest).1))
          else none), 4, deadlineOf s lim, s.now, none, []⟩ })))

/-- R349, R362, R387, R388: GBAR arrives at its barrier register once its release is satisfied; GSET writes a grant register, GSET.MINT
makes a grant or traps on the first check that fails; CHKERR, once no earlier access is open, reads the integrity register, traps
on a verdict in its mask, or stops the node. That GSET leaves its latch zero is log entry 106 (DESIGN CHOICE). -/
def Obligations.BarriersGrantsChecks : Prop :=
  (∀ (s : State) (x : RF), lone (.gbar x) s = true →
     let n := (((boundary s).node.bind (nodeOf (entered s))).map nGbarn).getD 0
     (n ≤ x.gbarK → exec (.gbar x) s = .next (trapped s 4 0x97 0)) ∧
     (x.gbarK < n → released (entered s) (reading s) x.gbarScope = true →
       exec (.gbar x) s = .next (thenDo s [.gbar x.gbarK] (retire s (passed s 4))))) ∧
  (∀ (s : State) (x : RF),
     (lone (.gset x) s = true → exec (.gset x) s = .next (retire s (afterBundle s 4 []
       (fun k => onRegs k (fun r => r.wG (x.d.toNat % 8) (rdS (reading s) 4 x.a))) 0 false))) ∧
     (lone (.gsetMint x) s = true →
       let g := rdS (reading s) 4 x.a
       let dev := rdS (reading s) 4 x.b
       let v : Word := BitVec.ofNat 64 (macTag (entered s) (gKey g) (g.toNat % 2 ^ 40) dev.toNat * 2 ^ 40) ||| g
       (∀ cause, mintFault (entered s) (boundary s) g dev = some cause → exec (.gsetMint x) s = .next (trapped s 4 cause 0)) ∧
       (mintFault (entered s) (boundary s) g dev = none →
         exec (.gsetMint x) s = .next (retire s (afterBundle s 4 (latS 4 v) (regS s 4 x.d v) 0 false))))) ∧
  (∀ (s : State) (x : RF), lone (.chkerr x) s = true → checkOpen (entered s) s.cur (boundary s) = false →
     let c := (boundary s).csr.cir
     let hit : BitVec 2 := c.extractLsb' 0 2 &&& x.chkMask
     (x.chkMode = 0 ∨ hit = 0 →
       exec (.chkerr x) s = .next (retire s (afterBundle s 4 (latS 4 c) (regS s 4 x.d c) 0 false))) ∧
     (x.chkMode = 1 → hit ≠ 0 → exec (.chkerr x) s = .next (trapped s 4 0xA1 (c.extractLsb' 0 16).toNat)) ∧
     (x.chkMode = 2 → hit ≠ 0 → exec (.chkerr x) s = .next
       (stopNode (onCore (entered s) s.cur (bump 1)) s.cur (if hit.getLsbD 0 then 0xA0 else 0x53))))

/-- R370, R372-R374: MCST and CARAV read their cards and send their request, or trap on a malformed one. -/
def Obligations.MulticastAndCaravans : Prop :=
  ∀ (s : State) (x : RF) (ps : List Piece) (r : List Byte × Bool),
    let ea := rdS (reading s) 4 x.a
    (lone (.mcst x) s = true → ∀ qs h, cardAt s ea 64 32 = some (qs, h) →
      (mHead h.1 = false → exec (.mcst x) s = .next (trapped s 4 0x87 0)) ∧
      (mHead h.1 = true → ∀ cause info, reach s .rd 64 [(va48 ea, 32 + 16 * mNum h.1)] = .fault cause info →
        exec (.mcst x) s = .next (trapped s 4 cause info)) ∧
      (mHead h.1 = true → cardAt s ea 64 (32 + 16 * mNum h.1) = some (ps, r) →
        ((∃ m, m < mNum r.1 ∧ faddrOk (entered s) (mFaddr r.1 m) = false) → exec (.mcst x) s = .next (trapped s 4 0x87 0)) ∧
        ((∀ m, m < mNum r.1 → faddrOk (entered s) (mFaddr r.1 m) = true) →
          exec (.mcst x) s = .next (thenDo s
            [.touch qs, .touch ps, .fabric (fabReq (entered s) (reading s)
              (.mcst r.1 none (List.replicate (mNum r.1) none) (List.replicate (mNum r.1) none)) x.d.toNat 0 none)]
            (retire s (afterBundle s 4 [] (tokened x.d) 0 false)))))) ∧
    (lone (.carav x) s = true → cardAt s ea 32 32 = some (ps, r) →
      let n := (x.c.extractLsb' 3 3).toNat + 1
      let p : Word := BitVec.ofNat 64 (d64 r.1 0)
      let fit := carOk p = true ∧ ∀ o ∈ (cOffs r.1).drop n, o = 0
      let g := if x.c.getLsbD 6 then some ((boundary s).regs.rG (x.c.extractLsb' 0 3).toNat) else none
      (¬fit → exec (.carav x) s = .next (trapped s 4 0x75 0)) ∧
      (fit → exec (.carav x) s = .next (thenDo s
        [.touch ps, .fabric (fabReq (entered s) (reading s)
          (.carav p (cOffs r.1) (BitVec.ofNat 64 (d64 r.1 0x18)) n 0 24 false none .core) x.d.toNat p g)]
        (retire s (afterBundle s 4 [] (fun k =>
          { listed s (.fab true false false [] (carPair x.d)) k with pendS := k.pendS ++ [x.d.toNat, x.d.toNat + 1] }) 0 false)))))

/-! ### Illegal bundles, traps, and a step -/

/-- R54, R68-R71, R73, R74, R102, R106, R134, R381: a bundle that meets conditions of R73 traps with the lowest cause it meets and
commits nothing: an instruction refused for its fields, its boost bit or a latch; an empty bundle with a bad header; unassigned
opcodes; a bundle marked as a loop end off the innermost loop's end, or unmarked there; a bundle of several slots that write one
register, or use more ports of a file than its budget. Two legal slots commit together, each having read before the other wrote; a
fault of one leaves the other without effect, and of two faults the lower slot's is taken. TREC 0 of LOOP_MARK is log entry 21
(DEDUCED), the single cause of group codes 6 and 7 log entry 26 (DEDUCED), and the causes of an illegal type of VCVT, VQNT and VDQNT
and of an operation code 10 to 15 with a floating-point type are log entries 104 and 105 (DESIGN CHOICE). -/
def Obligations.IllegalBundlesTrap : Prop :=
  (∀ (s : State) (i : Instr) (n m : Nat) (slots : BitVec 6), canIssue s = true →
     let trap (cause : Nat) (mask : BitVec 6) : State := takeTrap (entered s) s.cur cause (boundary s).pc (trec mask 0 false)
     (slotOf i = some n → ownCauses s i n ≠ [] → waits (boundary s) i = false →
       (ownCauses s i n ++ hdrCauses s (slotBit n)).min? = some m →
       exec i s = .next (trap m (if m = 2 then 0 else (if m ∈ ownCauses s i n then slotBit n else 0) |||
         if m = 8 then hdrBoost s.hdr &&& ~~~slotBit n else 0))) ∧
     ((hdrCauses s 0).min? = some m → exec .nop s = .next (trap m (if m = 2 then 0 else hdrBoost s.hdr))) ∧
     (slots ≠ 0 → exec (.illegalOpcode slots) s = .next (trap 0 slots))) ∧
  (∀ (s : State) (i : Instr), canIssue s = true → endOk s.hdr (boundary s) i = false →
     let trap : State := takeTrap (entered s) s.cur 0x3D (boundary s).pc 0
     (hdrOk s.hdr = true → hdrBoost s.hdr = 0 → i = .nop → exec .nop s = .next trap) ∧
     (∀ d v, aluResult (rdS (reading s) 0) i = some (d, v) → legalAlone s.hdr (boundary s) i 0 = true →
       waits (boundary s) i = false → noToken (boundary s) (uses i) = true → exec i s = .next trap)) ∧
  (∀ (s : State) (l : List Instr), canIssue s = true → hdrOk s.hdr = true → hdrBoost s.hdr = 0 → (l.map slotOf).Nodup →
     (∀ i ∈ l, slotOf i ≠ none ∧ causes (boundary s).level i = [] ∧ waits (boundary s) i = false) →
     let trap (cause : Nat) (mask : BitVec 6) : State := takeTrap (entered s) s.cur cause (boundary s).pc (trec mask 0 false)
     ((∃ i ∈ l, sharesWrite l i = true) → runBundle l s = .next (trap 6 (slotsWhere l (sharesWrite l)))) ∧
     ((∀ i ∈ l, sharesWrite l i = false) → (∃ i ∈ l, overBudget l i = true) →
       runBundle l s = .next (trap 7 (slotsWhere l (overBudget l))))) ∧
  (∀ (s : State) (i j : Instr) (d : BitVec 7) (v : Word), hdrBoost s.hdr = 0 → lone i s = true → lone j s = true →
     aluResult (rdS (reading s) 0) i = some (d, v) →
     (∀ o, vecArith s j = some o ∨ vecConvert s j = some o ∨ vecShape s j = some o → quiet s 1 o.fl = true →
       let vs := newGroup s 1 o
       runBundle [i, j] s = .next (retire s (afterBundle s 0 (mput 0 (latS 0 v) 1 (vs.headD 0))
         (fun k => regV s 1 o.d vs (regS s 0 d v k)) o.fl false))) ∧
     (∀ n acc align els cause info, accessOf s j = some (n, acc, align, els) →
       (if acc.writes then mayWrite s = true else mayLoad s = true) → (n = 2 → (boundary s).mxq.length < 8) →
       reach s acc align els = .fault cause info → sharesWrite [i, j] i = false → overBudget [i, j] i = false →
       overBudget [i, j] j = false → runBundle [i, j] s = .next (trapped s n cause info))) ∧
  (∀ (s : State) (i j : Instr) (n m : Nat) (acc acc' : Acc) (align align' : Nat) (els els' : List (Nat × Nat))
     (cause cause' info info' : Nat), hdrBoost s.hdr = 0 → lone i s = true → lone j s = true →
     accessOf s i = some (n, acc, align, els) → accessOf s j = some (m, acc', align', els') → n < m →
     (acc.writes = true ∨ acc'.writes = true → mayWrite s = true) → (acc.writes = false ∨ acc'.writes = false → mayLoad s = true) →
     (boundary s).mxq.length < 8 → reach s acc align els = .fault cause info → reach s acc' align' els' = .fault cause' info' →
     (∀ k ∈ [i, j], sharesWrite [i, j] k = false ∧ overBudget [i, j] k = false) →
     runBundle [i, j] s = .next (trapped s n cause info))

/-- R106, R118, R199, R380-R383: taking a trap: it waits for results under way; at user level it saves the cause, the pc and TREC, sets
the latches and the exposed results aside and enters the handler; with no handler, or at handler level, the node stops. A cause
due at the boundary is taken there, before the bundle at the pc. That it is taken before the landings (log entry 94), only at the level
at which it fell due (95), and one at a boundary (100) are the model's choices (DEDUCED). -/
def Obligations.TrapEntry : Prop :=
  (∀ (s : State) (c cause : Nat) (epc : BitVec 48) (tr : Word), (coreAt s c).running = true →
     let k := coreAt s c
     let t := takeTrap s c cause epc tr
     let k' := coreAt t c
     (landed k = false → t = setCore s c (bump 1 k)) ∧
     (landed k = true → k.level = true →
       let d := dropEarly s c
       t = stopNode (setCore d c (bump 1 { coreAt d c with
         xlFault := none, fetchFault := none, csr := { k.csr with cause := BitVec.ofNat 8 cause } })) c 0xB1) ∧
     (landed k = true → k.level = false → k.csr.tvec ≠ 0 →
       k'.csr.cause = BitVec.ofNat 8 cause ∧ k'.csr.epc = epc ∧ k'.csr.trec = tr ∧ k'.level = true ∧ k'.tlevel = false ∧
         k'.pc = k.csr.tvec + BitVec.ofNat 48 (32 * (cause / 16)) ∧ k'.tlat = k.lat ∧ k'.lat = [] ∧ k'.held = k.exposed ∧
         k'.exposed = [] ∧ k'.regs = k.regs ∧ k'.shadow = k.shadow ∧ k'.loops = k.loops ∧ k'.calls = k.calls ∧
         k'.csr.fps = k.csr.fps ∧ k'.csr.tvec = k.csr.tvec ∧ t.slices = s.slices ∧ t.dram = s.dram ∧
         ∀ c', c' ≠ c → coreAt t c' = coreAt s c') ∧
     (landed k = true → k.level = false → k.csr.tvec = 0 → ∃ u, t = stopNode u c cause ∧ (coreAt u c).csr.epc = epc ∧
       (coreAt u c).csr.trec = tr ∧ (coreAt u c).csr.cause = BitVec.ofNat 8 cause)) ∧
  (∀ (s : State) (i : Instr) (n : Nat) (lv : Bool) (cause : Nat) (tr : Word), slotOf i = some n → s.host.power = true →
     s.frame = none → let k := fenced s
     issues s k = true → k.park = none → k.gwait = none → k.postTrap.find? (fun e => e.1 == k.level) = some (lv, cause, tr) →
     landed k = true → exec i s = .next
       (takeTrap (setCore s s.cur { k with postTrap := k.postTrap.erase (lv, cause, tr) }) s.cur cause k.pc tr))

/-- R54, R74, R93, R98: a core's step fetches at its pc and runs what stands there: the instruction of a bundle with one
filled slot, NOP for an empty bundle, an opcode trap, or the slots one after another in an open frame that then closes. -/
def Obligations.StepRunsBundle : Prop :=
  ∀ (s t : State) (c : Nat), nextAct s = (.bundle c, t) →
    let u := { t with cur := c }
    canIssue u = true →
    let v := entered u
    (∀ cause info, fetchAt v c (coreAt v c) = .fault cause info →
      step s = .next (takeTrap v c cause (coreAt v c).pc (trec 0 info false))) ∧
    (∀ l, fetchAt v c (coreAt v c) = .miss l → step s = .next (onCore v c (fun k => bump 1 { k with fetchMiss := some l }))) ∧
    (∀ w, fetchAt v c (coreAt v c) = .bytes w →
      let l := slotsOf (decBundle w)
      let x := { v with hdr := w.extractLsb' 0 16 }
      (badOpcodes l ≠ 0 → step s = exec (.illegalOpcode (badOpcodes l)) x) ∧
      (l = [] → step s = exec .nop x) ∧
      (∀ n i, l = [(n, .ins i)] → step s = exec i x) ∧
      (badOpcodes l = 0 → l ≠ [] → (∀ n i, l ≠ [(n, .ins i)]) → step s =
        match runList (instrsOf (memOrder l)) { x with frame := some { reading u with
          hdr := w.extractLsb' 0 16, enc := badFields l, used := orSlots ((badFields l).map (·.1)) } } with
        | .next y => .next (closeCore y)
        | o => o))

/-- R54, R75, R78: the same for a Steward's bundle, and for an event of the agenda. That an event which is not enabled is passed over
is log entry 1 (DESIGN CHOICE); the acts of an uncorrectable slice error and of a sent packet are log entries 115 and 120. -/
def Obligations.StepRunsMovesAndEvents : Prop :=
  ∀ (s t : State),
    (∀ n, nextAct s = (.steward n, t) →
      let u := { t with cur := n }
      let k := stewardAt u n
      let w := BitVec.ofNat 192 (leNat (bytesAt k.imem (24 * k.pc) 24))
      let ms := (decMoves w).filter (fun i => i != .stewardMove ⟨0, 0⟩ 0)
      k.running = true →
      (682 ≤ k.pc → step s = .next (haltSteward u n 0x61 0 nowhere)) ∧
      (k.pc < 682 → stewardIllegal w ≠ 0 → step s = .next (haltSteward u n 0x0A (stewardIllegal w) nowhere)) ∧
      (k.pc < 682 → stewardIllegal w = 0 →
        (ms = [] → step s = exec (.stewardMove ⟨0, 0⟩ 0) u) ∧
        (∀ i, ms = [i] → step s = exec i u) ∧
        (2 ≤ ms.length → step s =
          match runList (ms.filter isPlainMove ++ ms.filter (fun i => !isPlainMove i))
            { u with sframe := some ⟨n, k, k, false, false, none, none⟩ } with
          | .next y => .next (closeStewardFrame y)
          | o => o))) ∧
    (∀ i, nextAct s = (.event i, t) → isEvent i = true →
      (∀ u, exec i t = .next u → step s = .next u) ∧ (∀ e, exec i t = .refused (.notEnabled e) → step s = .next t)) ∧
    (∀ c a bits, nextAct s = (.sliceError c a bits, t) → step s = .next (sliceError t c a bits)) ∧
    (∀ id m, nextAct s = (.send id m, t) → step s = .next (if t.host.power then sendPacket t id m else t))

/-! ### Stewards -/

/-- R307: an ALU trigger leaves its result in alu.res and changes nothing else but the pc; comparisons set the g-flag with it. -/
def Obligations.StewardMoves : Prop :=
  ∀ (s : State) (i : Instr) (x : MV), loneMove x s = true →
    let o := port (steward s) 0x40
    (∀ v, stewardAlu (moveValue s x) o i = some (x, v) → exec i s = .next (moved s x (fun t => setPort t 0x4F v))) ∧
    (∀ b, stewardCmp (moveValue s x) o i = some (x, b) →
      exec i s = .next (moved s x (fun t => { setPort t 0x4F (if b then 1 else 0) with g := b })))

/-- R302, R304, R305, R308: a plain move writes its destination: the g-flag, a register, an operand port; any other port discards it; a
move whose guard fails does nothing. Branches of a Steward, its call stack of eight, and the halt on a bundle outside the memory. -/
def Obligations.StewardBranches : Prop :=
  (∀ (s : State) (x : MV) (dst : BitVec 11), s.host.power = true → s.sframe = none → (steward s).running = true →
     (steward s).done = none →
     let p := dst.toNat
     let v := moveValue s x
     (guardOk (steward s) x.g = false → exec (.stewardMove x dst) s = .next (moved s { x with src := 0 } id)) ∧
     (loneMove x s = true →
       (p = 1 → exec (.stewardMove x dst) s = .next (moved s x (fun t => { t with g := v.getLsbD 0 }))) ∧
       (0x10 ≤ p → p < 0x30 → exec (.stewardMove x dst) s = .next (moved s x (fun t => { t with q := mput 0 t.q (p - 0x10) v }))) ∧
       (isOperand p = true → exec (.stewardMove x dst) s = .next (moved s x (fun t => setPort t p v))) ∧
       (p ≠ 1 → ¬(0x10 ≤ p ∧ p < 0x30) → isOperand p = false → exec (.stewardMove x dst) s = .next (moved s x id)))) ∧
  (∀ (s : State) (x : MV), loneMove x s = true →
    let t := steward s
    let v := (moveValue s x).toNat
    let halt : State := halted s 0x61 0 nowhere
    exec (.brJump x) s = .next (if 682 ≤ v then halt else movedTo s x v id) ∧
    exec (.brIf x) s = .next (if t.g = false then moved s x id else if 682 ≤ v then halt else movedTo s x v id) ∧
    exec (.brCall x) s = .next (if 8 ≤ t.calls.length ∨ 682 ≤ v then halt
      else movedTo s x v (fun t => { t with calls := t.calls ++ [t.pc + 1] })) ∧
    exec (.brRet x) s = .next (match t.calls.getLast? with
      | some b => movedTo s x b (fun t => { t with calls := t.calls.dropLast })
      | none => halt))

/-- R304, R306, R309, R310, R324, R327: the lsu, the sem unit, the log and the end of the node: a busy unit stalls the bundle, a
bad value halts the Steward, otherwise the operation starts. That a busy unit stalls the bundle before a bad value halts it is log
entry 54 (DEDUCED). -/
def Obligations.StewardUnits : Prop :=
  ∀ (s : State) (x : MV), loneMove x s = true →
    let t := steward s
    let v := moveValue s x
    let local_ := v.getLsbD 63 = false ∧ v.toNat ≤ 0x1FF8
    let device := v.getLsbD 63 = true ∧ v.extractLsb' 39 24 = 0
    let lsu (st : Bool) : State := if t.lsu.isSome then stalled s
      else if v.toNat % 8 = 0 ∧ (local_ ∨ device) then moved s x (withLsu st v) else halted s 0x60 0 nowhere
    let sem (wait : Bool) : State := if t.sem.isSome then stalled s
      else if v.toNat % 8 = 0 ∧ device then moved s x (withSem s wait v) else halted s 0x60 0 nowhere
    exec (.lsuLd x) s = .next (lsu false) ∧ exec (.lsuSt x) s = .next (lsu true) ∧
    exec (.semSig x) s = .next (sem false) ∧ exec (.semWait x) s = .next (sem true) ∧
    exec (.logRd x) s = .next (if t.logop.isSome then stalled s else if 31 < v.toNat then halted s 0x64 0 nowhere
      else moved s x (fun t => { t with logop := some v })) ∧
    exec (.nmkDone x) s = .next (if 256 ≤ v.toNat then halted s 0x64 0 nowhere
      else
        let u := moved s x (fun t => { t with running := false, done := some (v.toNat, none) })
        if v = 0 then u else stewardLog u s.cur 0x69 v.toNat t.pc nowhere)

/-- R304, R311, R315-R320: row.lease appends a request for each bank of row.banks, in ascending order; row.release marks the newest
request of each bank named; an engine trigger joins its engine's queue with its operands and the newest lease request of its bank; a
full queue stalls the bundle, a breached limit or a missing request halts the Steward. That a released request stays listed until its
lease ends is log entry 59 (DEDUCED), that the second operand of bke.red is checked only where it is written is log entry 55
(DEDUCED), and that a stall comes before a halt is log entry 54 (DEDUCED). -/
def Obligations.StewardLeasesAndEngines : Prop :=
  (∀ (s : State) (x : MV), loneMove x s = true →
     let t := steward s
     let v := moveValue s x
     let banks := (List.range 64).filter (fun i => (port t 0x80).getLsbD i)
     (2 ^ 14 ≤ v.toNat → exec (.rowLease x) s = .next (halted s 0x64 0 nowhere)) ∧
     (v.toNat < 2 ^ 14 → ∃ u, exec (.rowLease x) s = .next u ∧
       (stewardAt u s.cur).leases = t.leases ++ banks.zipIdx.map (fun e =>
         Lease.mk (t.leaseNext + e.2) e.1 v.toNat (decide (1 < banks.length)) false 0 false (baseNow s) true) ∧
       (stewardAt u s.cur).leaseNext = t.leaseNext + banks.length ∧ (stewardAt u s.cur).pc = t.pc + 1) ∧
     (∃ u, exec (.rowRelease x) s = .next u ∧ (stewardAt u s.cur).pc = t.pc + 1 ∧
       (stewardAt u s.cur).leases.length = t.leases.length ∧
       ((t.leases.map (·.id)).Nodup → ∀ l ∈ t.leases, (∃ l' ∈ (stewardAt u s.cur).leases, l' = { l with
         released := l.released || (v.getLsbD l.bank && ((newestLease t l.bank).map (·.id) == some l.id)) })))) ∧
  (∀ (s : State) (i : Instr) (x : MV) (e trig : Nat), loneMove x s = true → engineTrigger i = some (x, e, trig) →
     let t := steward s
     let o (k : Nat) : Word := port t (0x100 + 0x20 * e + k)
     let c := engineCheck trig e (moveValue s x) (o 0) (o 1) (o 2)
     let lease := c.2.bind (newestLease t)
     exec i s = .next (
       if 4 ≤ (eng t e).q.length then stalled s
       else if c.1 then halted s 0x64 e nowhere
       else if c.2.isSome ∧ lease = none then halted s 0x63 e ⟨c.2.getD 0, 0, 0⟩
       else moved s x (fun t => { setEng t e (fun g => { g with
         q := g.q ++ [⟨trig, moveValue s x, o 0, o 1, o 2, lease.map (·.id), t.opNext, 0⟩] }) with opNext := t.opNext + 1 })))

/-! ### Events: waits, memory, engines -/

/-- R108, R204, R243, R247, R258, R348, R412: how a parked wait ends: by its condition, at its time-out, by a completion, which
comes once the fences and the reads of the atomic's own bundle, and the earlier accesses to its bytes, are past; and what a host port
does with a held line and an old buffer. That a parked SWAIT reads the place it was given when it parked, with no new translation, is
log entry 71 (DEDUCED). -/
def Obligations.ParkedWaitsEnd : Prop :=
  ∀ (s : State) (c : Nat), s.host.power = true →
    let k := coreAt s c
    (∀ p m, parkOf s c = some p → p.kind = .waite m →
      (k.evl &&& m ≠ 0 → exec (.waiteWake c) s = .next (endPark s c p true 0)) ∧
      (expired s p = true → exec (.waiteTimeout c) s = .next (endPark s c p false 0))) ∧
    (∀ p pl par, parkOf s c = some p → p.kind = .barw pl par →
      let met : Bool := (BitVec.ofNat 64 (leNat (readPlace s k.node pl 8 false).1) : Word).getLsbD 63 == par
      (met = true → exec (.barwWake c) s = .next (endPark s c p true 0)) ∧
      (expired s p = true → exec (.barwTimeout c) s = .next (endPark s c p met 0))) ∧
    (∀ p va pl thr inh v poi t, parkOf s c = some p → p.kind = .swait va pl thr inh → waitWord s c va pl = some (v, poi, t) →
      exec (.swaitReread c) s = .next (if thr.toNat ≤ v.toNat then endPark t c p true (if poi then 1 else 0) else t) ∧
      (expired s p = true → exec (.swaitTimeout c) s =
        .next (endPark t c p (decide (thr.toNat ≤ v.toNat)) (if poi then 1 else 0)))) ∧
    (∀ p a ty ha mt len disc x y, parkOf s c = some p → p.kind = .sysAtom a ty (Piece.mk (.sys ha mt) len disc) x y →
      let q : Piece := ⟨.sys ha mt, len, disc⟩
      let w := setCore s c (pruned s c k)
      (∀ e ∈ (coreAt w c).mem, e.acc = true ∨ (e.op.isFence = false ∧ ∀ o ∈ e.op.pieces, overlaps o q = false)) →
      (∀ e ∈ (coreAt w c).early, e.got ≠ none) → combining w q = false →
      (mt ≠ 0 → mt ≠ 3 → (∀ r ∈ p.prev, r.ok = false) → exec (.systemAtomicCompletion c false) s = .next (endPark w c p false 0)) ∧
      (let r := performAtom w (.core c 0 0) (coreAt w c).node a ty q x y
       let t := if mt = 0 ∨ mt = 3 then onHost r.2.2 (fun h => { h with owned := (h.owned ++ [ha / 64]).eraseDups }) else r.2.2
       exec (.systemAtomicCompletion c true) s = .next (endPark t c p true (leNat r.1)))) ∧
    (∀ line ∈ s.host.owned, exec (.homeAgentSnoop line) s =
      .next (onHost s (fun h => { h with owned := h.owned.filter (· != line) }))) ∧
    (∀ i b, s.host.wcb[i]? = some b → b.since + 2048 ≤ s.now → exec (.writeCombineTimeout b.port i) s = .next (emitBuf s i))

/-- R193, R196-R200, R234, R235, R265, R269, R282, R283, R287, R345, R401: what memory returns to a core: the atoms of a load one after
another, values and atomics, the answers of LAUNCH and CKPT, the end of a CPUB, instruction lines, the loads of a walk; and the freeze
and the walk load that last too long. A value that a bundle held by a system atomic awaits is kept for that bundle (R412). That each atom is an event of its own is log entry 28 (DESIGN CHOICE), the end of a CPUB waits
for engine jobs by log entry 32 (DEDUCED), the replacement of cached translations
log entry 35 (PRESUMED), the level of a walk time-out log entry 9 (DEDUCED), walks without a cluster log entry 121 (DESIGN CHOICE),
landings of XSEL log entry 44 (DEDUCED). -/
def Obligations.MemoryAnswers : Prop :=
  ∀ (s : State) (c : Nat), s.host.power = true →
    let k := coreAt s c
    (∀ e ps d got poi, memEnt k e.id = some e → e.op = .load ps d got poi → mayPerform s c e.id = true →
      let answers (u : State) : Prop :=
        (awaits k (some .ldr) e.id = true → exec (.landingDataArrival c e.id) s = .next u) ∧
        (awaits k (some .scld) e.id = true → exec (.scldArrival c e.id) s = .next u)
      let value (bs : List Byte) (bad : Bool) (k : Core) : Core :=
        let u := { k with mem := k.mem.filter (fun x => x.id != e.id) }
        if u.early.any (fun x => x.id == e.id && x.got.isNone) then
          { u with early := u.early.map (fun x => if x.id == e.id then { x with got := some (bs, bad) } else x) }
        else arrive u e.id d bs bad
      (ps = [] → answers (onCore s c (fun k => fillExposed k e.id got poi)) ∧
        (awaits k none e.id = false → exec (.loadResponse c e.id) s = .next (onCore s c (value got poi)))) ∧
      (∀ p rest t, nextAtom ps = some (p, rest) → gateAged (ageOf k e) s k.node [p] = some t →
        let r := readPiece t (coreAt t c).node p
        let more (k : Core) : Core :=
          { k with mem := k.mem.map (fun x => if x.id == e.id then { x with op := .load rest d (got ++ r.1) (poi || r.2) } else x) }
        answers (onCore t c (fun k => if rest.isEmpty then fillExposed k e.id (got ++ r.1) (poi || r.2) else more k)) ∧
        (awaits k none e.id = false → exec (.loadResponse c e.id) s =
          .next (onCore t c (fun k => if rest.isEmpty then value (got ++ r.1) (poi || r.2) k else more k))))) ∧
    (∀ e a ty p x y d ev t, memEnt k e.id = some e → e.op = .atom a ty p x y d ev → mayPerform s c e.id = true →
      awaits k none e.id = false → gateAged (ageOf k e) s k.node [p] = some t → writeGate t k.node false p.pl = .go →
      let r := performAtom t (.core c e.id e.colour) k.node a ty p x y
      let u := onCore r.2.2 c (fun k => arrive k e.id d r.1 r.2.1)
      let v := if (atomNew a ty (leNat (readPiece t k.node p).1) x y).isSome then settle u c e.id p else dropMem u c e.id
      exec (.loadResponse c e.id) s = .next (match ev with
        | some n => setEvent v k.node n 4
        | none => v)) ∧
    (∀ e, memEnt k e.id = some e → mayPerform s c e.id = true → awaits k none e.id = false →
      let answered (r : Word × State) (d : LateDst) : State :=
        dropMem (onCore r.2 c (fun k => arrive k e.id d (natLe 8 r.1.toNat) false)) c e.id
      (∀ q h desc d, e.op = .launch q h desc d →
        (launchRefused s c q h).isSome = true ∨ writeGate s none false (launchPiece s q).pl = .go →
        exec (.loadResponse c e.id) s = .next (answered (performLaunch s c q h desc) d)) ∧
      (∀ desc d, e.op = .ckpt desc d →
        let u := ctxLoad s k.csr.ctxid
        (u.sched.ckpt ≠ none ∨ ckptOk u desc = false → exec (.loadResponse c e.id) s = .next (answered (performCkpt u c desc) d)) ∧
        (u.sched.ckpt = none → ckptOk u desc = true → ∀ t, newGate u none (cutBytes u k.csr.ctxid desc) = some t →
          exec (.loadResponse c e.id) s = .next (answered (performCkpt t c desc) d)))) ∧
    (frozen k = true → 2 ^ 20 ≤ k.freeze → exec (.landingTimeout c) s = .next (setCore s c { k with
      exposed := k.exposed.filter (fun x => !(x.off == 1 && x.data.isNone)),
      mem := k.mem.filter (fun e => !(k.exposed.filter (fun x => x.off == 1 && x.data.isNone)).any (fun x => x.id == e.id)),
      freeze := 0, postTrap := k.postTrap ++ [(k.level, 0x13, trec 0 0 false)] })) ∧
    (∀ x rest, k.exposed.filter (fun x => x.off == 1 && x.dst.file == .x) = x :: rest → x.kind = .xsel → landable s c = true →
      exec (.xselLanding c x.id) s = .next (setCore s c (landOne k { k with exposed := k.exposed.erase x } x))) ∧
    (∀ j, k.cpub = some j → (∀ w ∈ j.waits, ∀ e ∈ k.mem, e.id = w → e.acc = true) → jobsInto s c j = false →
      castsInto s c j = false → leafHeld s c j = false → exec (.cpubEnd c) s = .next (cpubEnd s c j)) ∧
    (∀ va, k.fetchMiss = some va →
      (∀ cause info, xlCore s c k va .ex = .fault cause info → exec (.icacheFill c) s = .next
        (setCore s c { k with fetchMiss := none, fetchFault := some (cause, info), xlFault := none })) ∧
      (∀ pl disc e t, xlCore s c k va .ex = .ok pl disc (some e) → newGate s k.node [Piece.mk pl 64 disc] = some t →
        (∀ cause, fetchLine t k.node e va = .error cause → exec (.icacheFill c) s = .next
          (setCore t c { k with fetchMiss := none, fetchFault := some (cause, 0) })) ∧
        (∀ q bs, fetchLine t k.node e va = .ok (q, bs) → exec (.icacheFill c) s = .next (setCore t c { k with
          fetchMiss := none, ic := (k.ic ++ [IcLine.mk va q bs]).drop (k.ic.length + 1 - 512) })))) ∧
    (∀ cl i w, i < 16 → (cluster s cl).walks[i]? = some w →
      (∀ t, ctxHeld s w.ctx = false → newGate s none [Piece.mk (.dmem (ctxAddr s w.ctx)) 64 true] = some t →
        exec (.pageWalk cl i) s = .next (setCluster (ctxLoad t w.ctx) cl (fun u => { u with
          walks := u.walks.map (fun o => if o == w then { w with since := t.now } else o) }))) ∧
      (ctxHeld s w.ctx = true →
        let root := (ctxEntry s w.ctx).1
        let base := if w.lev = 0 then (root.extractLsb' 12 27).toNat * 2 ^ 12 else w.base
        (root.getLsbD 0 = false → exec (.pageWalk cl i) s = .next (walkEnd s cl w (.error (0x18, 0)))) ∧
        (root.getLsbD 0 = true → ∀ lev t, levels[w.lev]? = some lev →
          newGate s none [Piece.mk (.dmem (walkAt w.va base lev)) 8 true] = some t → exec (.pageWalk cl i) s = .next (
            match walkLoad t w.va base lev with
            | .stop cause => walkEnd t cl w (.error (cause, lev.1))
            | .leaf e => walkEnd t cl w (.ok (lev.1, e))
            | .down b => setCluster t cl (fun u => { u with walks := u.walks.map (fun o =>
                if o == w then { w with lev := w.lev + 1, base := b, since := t.now } else o) })))) ∧
      (cl ≠ 24 → w.since + 2 ^ 20 ≤ s.now → exec (.walkTimeout cl i) s = .next (walkEnd s cl w (.error (0x1C, w.lev))))) ∧
    (∀ i, exec (.walkTimeout 24 i) s = .next (onSched s (fun h => { h with walkHang := i == 0 })))

/-- R205-R209, R395: a Porter job starts, fills or copies its runs, stops where a run does not translate, times out, its write then
waiting for no granule any more, and ends with its token. That a run is one event is log entry 29 (DESIGN CHOICE). -/
def Obligations.PorterRuns : Prop :=
  ∀ (s : State) (cl i : Nat) (j : PJob), s.host.power = true →
    let jobs := (cluster s cl).jobs
    jobs[i]? = some j →
    (j.started = false → (jobs.filter (·.started)).length < 4 → jobHeld s j = false → ownBefore s j.core j.after = false →
      (∀ o ∈ jobs.take i, o.started = true ∨ jobHeld s o = true) →
      exec (.porterJobStart cl i) s = .next (setJob s cl i (fun j =>
        { j with started := true, since := s.now, cause := if pOk j.card then none else some 0x70 }))) ∧
    (j.started = true → j.cause = none → j.run < pRuns j.card → jobMay s j.core j.after j.colour true = true →
      jobMay s j.core j.after j.colour false = true →
      let node := (coreAt s j.core).node
      let found := engParts s j.core j.after j.handler .rd (chunks (pSrc j.card j.run) (pRun j.card))
      (∀ src x, pFill j.card = false → found = .hit src (some x) → exec (.writePerformed (.porter cl i)) s =
        .next (setJob (engTold s j.core j.after) cl i (fun j => { j with cause := some x }))) ∧
      (∀ src t dst x, (if pFill j.card = true then src = [] else found = .hit src none) → newGate s node src = some t →
        engParts t j.core j.after j.handler .wr (chunks (pDst j.card j.run) (pRun j.card)) = .hit dst x →
        writeGates t node true dst = .go →
        let cells := if pFill j.card then fillCells j.card else cellsOf t node src
        exec (.writePerformed (.porter cl i)) s = .next (setJob
          (putAll j.writer node dst cells (if x.isSome then engTold t j.core j.after else t)) cl i (fun j =>
            { j with run := if x.isSome then j.run else j.run + 1, bytes := j.bytes + (dst.map (·.len)).sum, cause := x,
                     since := t.now })))) ∧
    (j.started = true → j.cause = none → j.run < pRuns j.card → j.since + 2 ^ 20 ≤ s.now →
      let ps := (pages (pDst j.card j.run) (pRun j.card)).filterMap (fun e =>
        match xlEngine s j.core j.after j.handler (e.1 % 2 ^ 48) .wr with
        | .ok p d _ => some (Piece.mk p e.2 d)
        | _ => none)
      exec (.portTimeout cl i) s =
        .next (endWaits (setJob s cl i (fun j => { j with cause := some 0x71 })) (coreAt s j.core).node ps)) ∧
    (j.started = true → (j.cause ≠ none ∨ pRuns j.card ≤ j.run) → unbanked s j.writer = false →
      jobMay s j.core j.after j.colour true = true →
      let r := if j.cause = none ∧ pArrive j.card ≠ 0 then porterArrive s j else (j.cause, s)
      exec (.porterJobEnd cl i) s = .next
        (writeToken (setCluster r.2 cl (fun u => { u with jobs := u.jobs.eraseIdx i })) j.core j.tok 2 (tokenWord r.1 1 j.bytes)))

/-- R209, R214, R216, R220, R223-R225, R228, R229, R236, R355, R367, R395: the array and the drain unit: a job starts, asks other
modules for its rows, adds a slab, stops at a time-out or a fault, of its progress write too, and ends with its token, a resumed one
once its card is written back; a drain reads its tile, writes its rows, over the words that stand there with ACC, and ends; a
known-answer test compares its signature. A slab as one event is log entry 29 (DESIGN CHOICE), the order and the consumptions of its
operand rows log entries 41 and 42 (DEDUCED), a row both misaligned and refused log entry 126, an ACC drain to a system page log entry
127, its one consumption a row log entry 112, and a tile word with a count and absent bits log entry 129 (DESIGN CHOICE). -/
def Obligations.MatrixRuns : Prop :=
  ∀ (s : State) (c : Nat) (o : MxOp), s.host.power = true →
    let k := coreAt s c
    (arrayHead k = some o → o.kind = .mjob → o.started = false → edgeHeld s c o.after (mxFoot o) = false →
      ownBefore s c o.after = false →
      let t := setMx s c o (fun e => { e with started := true, since := s.now })
      exec (.mjobStart c) s = .next (askRows (if cZero o.card = true ∧ cResumed o.card = false then
        onCore t c (fun k => (cTiles o.card).foldl (fun k n => clearTiles k n 1) k) else t) c o)) ∧
    (runningJob s c = some o → o.prog < cSlabs o.card → o.cause = none → mxMay s c o.after o.at_ o.colour false = true →
      ∀ far x, fetchSlab s c o far = .ok x →
      let r := addSlab (coreAt x.st c) o.card (slabIx o.card o.prog) x
      let w := rowDevs s o.card
      let pr := linkPrio s k.node
      ∀ u, (w.1.toList ++ w.2.toList).foldl (fun u _ => u.bind (fun u => rxTake u pr 192))
          (some (setCore x.st c ((List.range x.poi).foldl (fun k _ => consume k) r.1))) = some u →
      exec (.slabEnd c far) s = .next (askRows (setMx u c o (fun e =>
        { e with prog := e.prog + 1, slabs := e.slabs + 1, flags := e.flags ||| r.2, since := s.now })) c
        { o with prog := o.prog + 1 })) ∧
    (runningJob s c = some o → cSlabs o.card ≤ o.prog → o.rows = 0 → cResumed o.card = false →
      exec (.mjobEnd c) s = .next (mjobToken s c o none)) ∧
    (runningJob s c = some o → cSlabs o.card ≤ o.prog → o.rows = 0 → cResumed o.card = true →
      mxMay s c o.after o.at_ o.colour true = true →
      (∀ u, progressWrite s c o (List.replicate 16 0) = (.ok .go, u) →
        exec (.mjobEnd c) s = .next (setMx u c o (fun e => { e with rows := 1, cause := none }))) ∧
      (∀ u x, progressWrite s c o (List.replicate 16 0) = (.error x, u) →
        exec (.mjobEnd c) s = .next (setMx u c o (fun e => { e with rows := 1, cause := some x })))) ∧
    (runningJob s c = some o → cSlabs o.card ≤ o.prog → o.rows ≠ 0 → unbanked s (o.writer c) = false →
      exec (.mjobEnd c) s = .next (mjobToken s c o o.cause)) ∧
    (runningJob s c = some o → o.prog < cSlabs o.card → o.rows ≠ 0 → unbanked s (o.writer c) = false →
      exec (.mjobFaultStop c none) s = .next (mjobToken s c o o.cause)) ∧
    (runningJob s c = some o → o.prog < cSlabs o.card → o.rows = 0 → mxMay s c o.after o.at_ o.colour true = true → ∀ x,
      o.cause = some x ∨ (o.cause = none ∧ fetchSlab s c o ⟨List.replicate (64 * slabBytes (cA o.card)) 0,
        List.replicate (64 * slabBytes (cB o.card)) 0, List.replicate 64 false, List.replicate 64 false⟩ = .fault x) →
      (∀ u, progressWrite s c o (cProgress o.card o.prog x) = (.ok .go, u) →
        exec (.mjobFaultStop c none) s = .next (setMx u c o (fun e => { e with rows := 1, cause := some x }))) ∧
      (∀ u y, progressWrite s c o (cProgress o.card o.prog x) = (.error y, u) →
        exec (.mjobFaultStop c none) s = .next (setMx u c o (fun e => { e with rows := 1, cause := some y })))) ∧
    (runningJob s c = some o → o.cause = none → o.prog < cSlabs o.card → o.rows = 0 → o.since + 2 ^ 20 ≤ s.now →
      exec (.matrixTimeout c false) s =
        .next (endWaits (setMx (dropRows s c o.after) c o (fun e => { e with cause := some 0x52 })) k.node [])) ∧
    (drainHead k = some o → o.started = true → o.cause = none → o.rows < 64 → o.since + 2 ^ 20 ≤ s.now →
      exec (.matrixTimeout c true) s =
        .next (endWaits (setMx (dropRows s c o.after) c o (fun e => { e with cause := some 0x52 })) k.node
          (match drainPieces s c o o.rows with
           | .hit ps _ => ps
           | .miss _ => []))) ∧
    (drainHead k = some o → o.started = false → edgeHeld s c o.after (mxFoot o) = false → ownBefore s c o.after = false →
      let ts := dTiles o.card o.tile
      exec (.drainReadEnd c) s = .next (onCore (setMx s c o (fun e =>
        { e with started := true, since := s.now, buf := drainElems k o })) c (fun k =>
          clearBusy (if dOpt o.card 5 then clearTiles k o.tile ts.length else k) ts))) ∧
    (drainHead k = some o → o.started = true → o.cause = none → o.rows < 64 → mxMay s c o.after o.at_ o.colour true = true →
      let b := (dFmt o.card).w / 8
      let word (i : Nat) : BitVec 64 × Nat := nth (0, 0) ((o.buf.drop (64 * o.rows)).take 64) i
      let next (u : State) (poi : Bool) (es : List (Option Nat × Fl)) : State :=
        setMx (onCore u c (consumeIf poi)) c o (fun e => { e with
          rows := e.rows + 1, bytes := e.bytes + dRowBytes o.card, since := s.now,
          flags := e.flags ||| es.foldl (fun a x => a ||| x.2) 0 })
      (∀ ps x, drainPieces s c o o.rows = .hit ps (some x) → (dAcc o.card = true → mxMay s c o.after o.at_ o.colour false = true) →
        exec (.writePerformed (.drain c)) s = .next (setMx (engTold s c o.after) c o (fun e => { e with cause := some x }))) ∧
      (∀ ps, dAcc o.card = false → drainPieces s c o o.rows = .hit ps none → writeGates s k.node true ps = .go →
        let es := (List.range 64).map (fun i => drainElem o (word i).1 (word i).2 none)
        exec (.writePerformed (.drain c)) s =
          .next (next (writePieces s (o.writer c) k.node ps (es.flatMap (fun e => natLe b (e.1.getD 0))) false) false es)) ∧
      (∀ ps t, dAcc o.card = true → mxMay s c o.after o.at_ o.colour false = true → drainPieces s c o o.rows = .hit ps none →
        newGate s k.node ps = some t → writeGates t k.node true ps = .go →
        let at_ (i : Nat) : Place × Bool := nth (Place.dmem 0, false) (placesOf ps) (b * i)
        let old (i : Nat) : List Byte × Bool := readPlace t k.node (at_ i).1 b (at_ i).2
        let es := (List.range 64).map (fun i => drainElem o (word i).1 (word i).2 (some (leNat (old i).1)))
        let put (u : State) (i : Nat) : State := match (nth (none, 0) es i).1 with
          | some v => writePlace u (o.writer c) k.node (at_ i).1 (natLe b v) (old i).2
          | none => u
        exec (.writePerformed (.drain c)) s =
          .next (next ((List.range 64).foldl put t) ((List.range 64).any (fun i => (old i).2)) es))) ∧
    (drainHead k = some o → o.started = true → (o.cause ≠ none ∨ 64 ≤ o.rows) → unbanked s (o.writer c) = false →
      exec (.mdrnEnd c) s = .next
        (writeToken (onCore (dropMx s c o) c (fun k => orFps k o.flags)) c o.tok 3 (tokenWord o.cause 3 o.bytes))) ∧
    (arrayHead k = some o → o.kind = .mkat →
      exec (.mkatEnd c (katSig ^^^ o.sig)) s = .next (dropMx s c o) ∧
      ∀ fault, katSig ^^^ fault ≠ o.sig → ∃ t, exec (.mkatEnd c fault) s = .next t ∧ c ∈ t.sched.coreTest)

/-- R36, R187, R241-R244, R258, R288: a write performs: a store of the core, a spilled entry, an entry of a controller's queue, a full
combining buffer; and what every byte of every memory then reads, over one atom of device memory while dirty bits are kept, over any
number while they are not. That a store to a system page, and an emitted buffer, is in host memory at once is log entry 37
(DEDUCED). -/
def Obligations.WritesPerform : Prop :=
  ∀ (s : State), s.host.power = true →
    (∀ c e p bs nib, memEnt (coreAt s c) e.id = some e → e.op = .store p bs nib → mayPerform s c e.id = true →
      writeGate s (coreAt s c).node true p.pl = .go → exec (.writePerformed (.core c e.id)) s = .next
        (settle (performStore s (.core c e.id e.colour) (coreAt s c).node e.colour p bs nib false) c e.id p)) ∧
    (∀ i e t, s.dram.wq[i]? = some e → bankable s.dram i = true → hostOpen s (e.loc / 32) = some t →
      exec (.writePerformed (.bank i)) s = .next (bankEntry t i)) ∧
    (∀ c e p bs, memEnt (coreAt s c) e.id = some e → e.op = .spill p bs → mayPerform s c e.id = true →
      exec (.writePerformed (.core c e.id)) s = .next
        (settle (writePlace s (.core c e.id e.colour) (coreAt s c).node p.pl bs false) c e.id p)) ∧
    (∀ i b, s.host.wcb[i]? = some b → b.bytes.length = 64 ∨ bufNeeded s b.colours = true →
      exec (.writePerformed (.combine b.port i)) s = .next (emitBuf s i)) ∧
    (memCanon s = true →
      (∀ c e pl n disc bs nib, memEnt (coreAt s c) e.id = some e → e.op = .store (Piece.mk pl n disc) bs nib →
        mayPerform s c e.id = true → 0 < bs.length →
        let node := (coreAt s c).node
        let v := storeBytes s node (Piece.mk pl n disc) bs nib
        (∀ d o, pl = .slice d o → ∃ t, exec (.writePerformed (.core c e.id)) s = .next t ∧
          (∀ a, byteAt t.slices a = if d * 2 ^ 20 + o ≤ a ∧ a < d * 2 ^ 20 + o + v.length then nth 0 v (a - (d * 2 ^ 20 + o))
            else byteAt s.slices a) ∧ t.ists = s.ists ∧ t.dram = s.dram ∧ t.host = s.host) ∧
        (∀ pa, pl = .dmem pa → pa % 32 + v.length ≤ 32 → writeGate s node true pl = .go →
          let q := redirect s node pa
          let u := setDirty s (.core c e.id e.colour) q
          (s.host.dirtybase.getLsbD 0 = false → u = s) ∧
          ∃ t, exec (.writePerformed (.core c e.id)) s = .next t ∧
            (∀ l, dByte t.dram l = if locOf u q ≤ l ∧ l < locOf u q + v.length then nth 0 v (l - locOf u q) else dByte u.dram l) ∧
            t.slices = s.slices ∧ t.ists = s.ists ∧ t.host = u.host) ∧
        (∀ pa, pl = .dmem pa → s.host.dirtybase.getLsbD 0 = false → writeGate s node true pl = .go →
          let at_ (i : Nat) : Nat := locOf s (redirect s node (pa + i))
          (∀ i j, i < v.length → j < v.length → at_ i = at_ j → i = j) →
          ∃ t, exec (.writePerformed (.core c e.id)) s = .next t ∧
            (∀ i, i < v.length → dByte t.dram (at_ i) = nth 0 v i) ∧
            (∀ l, (∀ i, i < v.length → l ≠ at_ i) → dByte t.dram l = dByte s.dram l) ∧
            t.slices = s.slices ∧ t.ists = s.ists ∧ t.host = s.host) ∧
        (∀ ha mt, pl = .sys ha mt → mt ≠ 2 → ∃ t, exec (.writePerformed (.core c e.id)) s = .next t ∧
          (∀ a, byteAt t.host.sys a = if ha ≤ a ∧ a < ha + v.length then nth 0 v (a - ha) else byteAt s.host.sys a) ∧
          t.slices = s.slices ∧ t.ists = s.ists ∧ t.dram = s.dram) ∧
        (∀ ha, pl = .sys ha 2 → ha % 64 + v.length ≤ 64 → ∃ t, exec (.writePerformed (.core c e.id)) s = .next t ∧
          (∃ b ∈ t.host.wcb, b.port = hostPortOf s ha ∧ b.line = ha / 64 ∧
            ∀ j, j < v.length → (ha % 64 + j, nth 0 v j) ∈ b.bytes) ∧
          t.host.sys = s.host.sys ∧ t.slices = s.slices ∧ t.ists = s.ists ∧ t.dram = s.dram)) ∧
      (∀ i e u, s.dram.wq[i]? = some e → bankable s.dram i = true → hostOpen s (e.loc / 32) = some u →
        ∃ t, exec (.writePerformed (.bank i)) s = .next t ∧
          (∀ l, byteAt t.dram.mem l = if e.loc ≤ l ∧ l < e.loc + e.bytes.length then nth 0 e.bytes (l - e.loc)
            else byteAt s.dram.mem l) ∧ t.dram.wq = s.dram.wq.eraseIdx i ∧ t.slices = s.slices ∧ t.ists = s.ists ∧
          t.host.sys = s.host.sys) ∧
      (∀ i b, s.host.wcb[i]? = some b → b.bytes.length = 64 ∨ bufNeeded s b.colours = true → (b.bytes.map (·.1)).Nodup →
        ∃ t, exec (.writePerformed (.combine b.port i)) s = .next t ∧
          (∀ o v, (o, v) ∈ b.bytes → byteAt t.host.sys (64 * b.line + o) = v) ∧
          (∀ a, (∀ e ∈ b.bytes, a ≠ 64 * b.line + e.1) → byteAt t.host.sys a = byteAt s.host.sys a) ∧
          t.slices = s.slices ∧ t.ists = s.ists ∧ t.dram = s.dram))

/-! ### Events: the fabric -/

/-- R352-R354, R357, R358, R416, R5: links go up and down, buffers turn off and on and fill and drain, a starved flit, a detour, and one
ns of time. The links between other modules are log entry 119, the counting of flits and of a head's wait log entry 120 (DESIGN
CHOICE). -/
def Obligations.FabricLinks : Prop :=
  ∀ (s : State) (port dev prio : Nat) (resp : Bool), s.host.power = true →
    let key := 8 * port + 2 * prio + if resp then 1 else 0
    (port < 16 → s.fab.up.getLsbD port = false → s.host.state = 2 ∨ (s.host.state = 1 ∧ 4 ≤ s.host.step) →
      exec (.fabricLinkUp (.port port)) s = .next (onFab s (fun h => { h with up := h.up ||| BitVec.ofNat 16 (2 ^ port) }))) ∧
    (port < 16 → s.fab.up.getLsbD port = true → exec (.fabricLinkDown (.port port)) s = .next (reroute s (onFab s (fun h =>
      { h with up := h.up &&& ~~~(BitVec.ofNat 16 (2 ^ port)), off := mclear h.off (8 * port) 8,
               rx := mclear h.rx (8 * port) 8, rxOff := mclear h.rxOff (8 * port) 8,
               starved := mput none h.starved port none })))) ∧
    (∀ a b, farPair s a b = true →
      (s.fab.farDown.contains (a, b) = true → exec (.fabricLinkUp (.between a b)) s =
        .next (onFab s (fun h => { h with farDown := h.farDown.filter (· != (a, b)) }))) ∧
      (s.fab.farDown.contains (a, b) = false → exec (.fabricLinkDown (.between a b)) s =
        .next (reroute s (onFab s (fun h => { h with farDown := (a, b) :: h.farDown }))))) ∧
    (portOn s port = true → prio < 4 → mget 0 s.fab.off key = 0 → exec (.flowOff port prio resp) s =
      .next (onFab s (fun h => { h with off := mput 0 h.off key (s.now + 1) }))) ∧
    (prio < 4 → mget 0 s.fab.off key ≠ 0 → exec (.flowOn port prio resp) s =
      .next (onFab s (fun h => { h with
        off := mput 0 h.off key 0, onAt := if resp then h.onAt else mput 0 h.onAt (4 * port + prio) s.now,
        detour := if resp then h.detour
          else h.detour.filter (fun e => !(e.1 % 4 == prio && firstPort s (e.1 / 4) == some port)) }))) ∧
    (∀ n, prio < 4 → 0 < n →
      let r := mget 0 s.fab.rx key
      let set (n : Nat) : State := onFab s (fun h => { h with
        rx := mput 0 h.rx key n,
        rxOff := mput false h.rxOff key (if 768 < n then true else if n < 512 then false else mget false h.rxOff key) })
      (portOn s port = true → r + n ≤ 2560 → exec (.ingressRequest (.arrive port prio resp n)) s = .next (set (r + n))) ∧
      (n ≤ r → exec (.ingressRequest (.leave port prio resp n)) s = .next (set (r - n)))) ∧
    (portOn s port = true → starvedHead s port = none → prio < 4 → (∀ q, q < prio → portQueue s port q = []) →
      ∀ r m d rest, portQueue s port prio = (r, m, d) :: rest → mget 0 s.fab.off (8 * port + 2 * prio) = 0 →
      max r.at_ (max (mget 0 s.fab.lastSend (4 * port + prio)) (mget 0 s.fab.onAt (4 * port + prio))) + 2048 ≤ s.now →
      exec (.flitStarvation port) s = .next (onFab s (fun h => { h with starved := mput none h.starved port (some (r.id, m)) }))) ∧
    (dev < 64 → prio < 4 → dev ≠ myDev s → firstPort s dev = some port → resp = false → mget 0 s.fab.off key ≠ 0 →
      mget 0 s.fab.off key + 1023 ≤ s.now → mget false s.fab.detour (4 * dev + prio) = false →
      inFlight s (4 * dev + prio) = false → (routeBy s (detourHop s) (myDev s) dev).isSome = true → exec (.flowDetour dev prio) s =
        .next (onFab s (fun h => { h with detour := mput false h.detour (4 * dev + prio) true }))) ∧
    (∃ t, exec .ftimeTick s = .next t ∧ t.now = s.now + 2 ∧ t.fab.ftime = s.fab.ftime + 1 ∧ t.cores = s.cores ∧
      t.slices = s.slices ∧ t.dram = s.dram)

/-- R353, R354, R356-R358, R361, R363, R365, R391: requests of this module at its own ingress, and the answers to those sent out, which
leave the response buffer and reach their core; a request fails at its link time-out by the cause that its route decides. The answers of
other modules are free (log entry 47, DESIGN CHOICE); the order of the loopback flow is log entry 46, the moment of the cause log entry
48 (DEDUCED), the buffer that a response leaves log entry 120 (DESIGN CHOICE). Requests of other modules: duplicates, refusals, reads,
and writes and atomics, which are acknowledged once they are banked (log entry 53, DEDUCED); a write performs one atom for each event,
in ascending order (log entry 29, DESIGN CHOICE); an answer leaves its router while the buffer at the other end is ON. -/
def Obligations.FabricAnswers : Prop :=
  (∀ (s : State) (r : FabReq), s.host.power = true → reqOf s r.id = some r →
    (∀ op, fabOp r.kind = some op → isLoop s r = true → r.resp = none → mayPerform s r.core r.mid = true →
      flowFirst s r = true →
      let g := r.grant.getD 0
      ∀ u, ingressGate s (myDev s) g (offOf r.faddr) (lenOf op) (rightOf op) = some u →
      let chk := ingressCheck u (myDev s) g (offOf r.faddr) (lenOf op) (rightOf op)
      (∀ cause, chk = .error cause → exec (.ingressRequest (.loopback r.id)) s =
        .next (setReq u r.id (fun r => { r with resp := some (cause, 0, false) }))) ∧
      (∀ ps a t, chk = .ok ps → ingressDo u (.fabric r.core r.colour r.id) (coreAt s r.core).node op ps = some (a, t) →
        exec (.ingressRequest (.loopback r.id)) s = .next (setReq (ingressNote t g (offOf r.faddr) (lenOf op) (rightOf op)) r.id
          (fun r => { r with resp := some (0, BitVec.ofNat 64 (leNat a.bytes), a.poison) })))) ∧
    ((fabOp r.kind).isSome = true → s.now < r.at_ + 2 ^ 22 →
      (isLoop s r = true → ∀ cause v poi, r.resp = some (cause, v, poi) →
        unbanked s (.fabric r.core r.colour r.id) = false → ∀ x y z,
        exec (.fabricResponse r.id x y z) s = .next (fabAnswer s r cause v poi)) ∧
      (isLoop s r = false → r.sent.contains 0 = true → ∀ cause v poi u, cause = 0 ∨ cause ∈ farCauses →
        rxTake s r.prio (respFlits r) = some u → exec (.fabricResponse r.id cause v poi) s = .next (fabAnswer u r cause v poi))) ∧
    ((fabOp r.kind).isSome = true → r.at_ + 2 ^ 22 ≤ s.now →
      let routed : Prop := r.sent.contains 0 = true ∨ routedSince s (devOf r.faddr) r.at_ = true
      (routed → exec (.linkTimeout r.id) s = .next (fabAnswer s r 0x80 0 false)) ∧
      (¬routed → exec (.linkNoRoute r.id) s = .next (fabAnswer s r 0x81 0 false)))) ∧
  (∀ (s u : State) (port dev prio seq : Nat) (g : Word) (off : Nat) (op : IngressOp), s.host.power = true → dev < 64 →
    dev ≠ myDev s → prio < 4 → off < 2 ^ 48 → farOpOk op = true → portOn s port = true →
    s.fab.far.any (fun q => flowKey q.dev q.prio == flowKey dev prio && !q.todo.isEmpty) = false →
    rxLeave s port prio false (reqFlits op) = some u →
    let want := mget 0 s.fab.seqs (4 * dev + prio)
    let run := exec (.ingressRequest (.remote port dev prio seq g off op)) s
    let next (t : State) : State := onFab t (fun h => { h with seqs := mput 0 h.seqs (4 * dev + prio) (want + 1) })
    let noted (t : State) : State := ingressNote (next t) g off (lenOf op) (rightOf op)
    let admitted (t : State) (ps : List Piece) (cells : List (Byte × Bool)) (a : Answer) : State :=
      onFab (noted t) (fun h => { h with
        far := h.far ++ [⟨h.farNext, dev, prio, seq, gWin g, eCtx (winEntry u (gWin g)), ps, cells, a.bytes, a.poison⟩],
        farNext := h.farNext + 1 })
    (seq < want → run = .next u) ∧
    (seq = want → ∀ w, ingressGate u dev g off (lenOf op) (rightOf op) = some w →
      let chk := ingressCheck w dev g off (lenOf op) (rightOf op)
      (∀ cause, chk = .error cause → run = .next (ingressAnswer (next w) dev prio seq (refusal cause))) ∧
      (∀ ps, chk = .ok ps →
        (∀ bs poi, op = .write bs poi →
          run = .next (admitted w (atomPieces ps) (bs.zip (poi ++ List.replicate bs.length false)) (refusal 0))) ∧
        (∀ o ty v a t, op = .atom o ty v → ingressDo w (.ingress (2 ^ 32 + u.fab.farNext)) none op ps = some (a, t) →
          run = .next (admitted t [] [] a)) ∧
        (∀ a t, rightOf op = 0 ∨ rightOf op = 3 → ingressDo w (.ingress (2 ^ 32)) none op ps = some (a, t) →
          run = .next (ingressAnswer (noted t) dev prio seq a))))) ∧
  (∀ (s : State) (i p : Nat) (a : FarAns), s.host.power = true → s.fab.answers[i]? = some a → ansPort s a = some p →
    (∀ e ∈ s.fab.answers.take i, e.dev ≠ a.dev ∨ e.prio ≠ a.prio) →
    (∀ e ∈ s.fab.answers, ansPort s e = some p →
      if a.at_ + 2048 ≤ s.now then e.at_ + 2048 ≤ s.now → a.at_ ≤ e.at_ else s.now < e.at_ + 2048 ∧ e.prio ≤ a.prio) →
    exec (.ingressRequest (.answer i)) s = .next (onFab s (fun h => { h with
      answers := h.answers.eraseIdx i, ingress := h.ingress ++ [(a.dev, a.seq, a.cause, a.bytes, a.poison)] }))) ∧
  (∀ (s : State) (q : FarReq), s.host.power = true → s.fab.far.find? (fun e => e.tag == q.tag) = some q →
    (∀ p ps, q.todo = p :: ps → writeGates s none false [p] = .go → exec (.ingressRequest (.atom q.tag)) s = .next (onFab
      (putCells s (.ingress (2 ^ 32 + q.tag)) none p (q.cells.take p.len)) (fun h => { h with
        far := h.far.map (fun e => if e.tag == q.tag then { e with todo := ps, cells := e.cells.drop p.len } else e) }))) ∧
    (q.todo = [] → unbanked s (.ingress (2 ^ 32 + q.tag)) = false → exec (.ingressRequest (.acknowledge q.tag)) s = .next (ingressAnswer
      (onFab s (fun h => { h with far := h.far.filter (fun e => e.tag != q.tag) })) q.dev q.prio q.seq
        ⟨0, q.bytes, q.poison⟩)))

/-- R356, R357, R371, R374-R376, R391: a multicast reads its payload, writes each member atom by atom, or fails it, and ends with its
token; a Caravan steps, returns, and is lost at the link time-out. The cause at a time-out is log entry 48, the transfers that a step
counts log entry 49, that a multicast takes its place in the flow when its payload is read log entry 46 (DEDUCED), that a member is
written one atom for each event log entry 29, and the buffer that a response leaves log entry 120 (DESIGN CHOICE). -/
def Obligations.MulticastAndCaravansRun : Prop :=
  ∀ (s : State) (r : FabReq), s.host.power = true → reqOf s r.id = some r →
    (∀ d st todo, r.kind = .mcst d none st todo → edgeHeld s r.core r.after [span (mSrc d) [] (mLen d) false] = false →
      ownBefore s r.core r.after = false → jobMay s r.core r.after r.colour false = true → ∀ m cause src,
      let found := engParts s r.core r.mid r.handler .rd (chunks (va48 (BitVec.ofNat 64 (mSrc d))) (mLen d))
      let node := (coreAt s r.core).node
      (∀ x, found = .hit src (some x) → exec (.mcstMemberWrite r.id m cause) s = .next (setReq (engTold s r.core r.mid) r.id (fun q =>
        { q with kind := .mcst d (some ([], [])) (st.map (fun _ => some (256 + x))) (st.map (fun _ => none)) }))) ∧
      (∀ t, found = .hit src none → newGate s node src = some t →
        let l := cellsOf t node src
        exec (.mcstMemberWrite r.id m cause) s = .next (onCore (onFab t (fun h => { h with
          reqNext := h.reqNext + 1,
          reqs := h.reqs.filter (fun q => q.id != r.id) ++ [{ r with
            kind := .mcst d (some (l.map (·.1), l.map (·.2))) st (st.map (fun _ => none)), order := h.reqNext }] })) r.core (fun k =>
            insertMem k ⟨r.mid, r.colour, .fab false true true [] tokenDst, false, k.csr.cycle.toNat⟩)))) ∧
    (∀ d pay st todo m, r.kind = .mcst d (some pay) st todo → st[m]? = some none → jobMay s r.core r.after r.colour true = true →
      let note (s : State) (x : Nat) : State := tidyRoutes (setReq s r.id (fun q =>
        { q with kind := .mcst d (some pay) (st.set m (some (memberCode x))) (todo.set m none) }))
      let go (s : State) (ps : List Piece) : State :=
        setReq s r.id (fun q => { q with kind := .mcst d (some pay) st (todo.set m (some ps)) })
      let fa := mFaddr d m
      let lost := if r.sent.contains m = true ∨ routedSince s (devOf fa) r.at_ = true then 0x80 else 0x81
      (r.at_ + 2 ^ 22 ≤ s.now → exec (.mcstMemberWrite r.id m lost) s = .next (note s lost)) ∧
      (s.now < r.at_ + 2 ^ 22 → devOf fa ≠ myDev s → r.sent.contains m = true → ∀ cause u, cause = 0 ∨ cause ∈ farCauses →
        rxTake s r.prio (respFlits r) = some u → exec (.mcstMemberWrite r.id m cause) s = .next (note u cause)) ∧
      (s.now < r.at_ + 2 ^ 22 → devOf fa = myDev s → ∀ cause,
        (∀ u, nth none todo m = none → flowFirst s r = true →
          ingressGate s (myDev s) (mGrant d m) (offOf fa) (mLen d) 1 = some u →
          let chk := ingressCheck u (myDev u) (mGrant d m) (offOf fa) (mLen d) 1
          (∀ x, chk = .error x → exec (.mcstMemberWrite r.id m cause) s = .next (note u x)) ∧
          (∀ ps, chk = .ok ps → exec (.mcstMemberWrite r.id m cause) s =
            .next (go (ingressNote u (mGrant d m) (offOf fa) (mLen d) 1) (atomPieces ps)))) ∧
        (∀ p ps, nth none todo m = some (p :: ps) → writeGates s (coreAt s r.core).node false [p] = .go →
          exec (.mcstMemberWrite r.id m cause) s = .next (go (putCells s (.fabric r.core r.colour r.id) (coreAt s r.core).node p
            (((pay.1.zip pay.2).drop (mLen d - ((p :: ps).map (·.len)).sum)).take p.len)) ps)) ∧
        (nth none todo m = some [] → exec (.mcstMemberWrite r.id m cause) s = .next (note s 0)))) ∧
    (∀ d pay st todo, r.kind = .mcst d (some pay) st todo → (∀ e ∈ st, e ≠ none) →
      unbanked s (.fabric r.core r.colour r.id) = false → exec (.mcstEnd r.id) s = .next (mcstDone s r (st.filterMap id))) ∧
    (∀ p offs mask n k budget poi pos remote, r.kind = .carav p offs mask n k budget poi none pos → k < n →
      mayPerform s r.core r.mid = true → s.now < r.at_ + 2 ^ 22 →
      let a := p + (nth 0 offs k).signExtend 64 * 8
      let stop (s : State) (cost cause : Nat) : State :=
        let at_ := if devOf a = myDev s ∨ cost = 0 then pos else .far (devOf a)
        if budget < cost then setCar s r p k 0 poi (some 0x73) at_ else setCar s r p k (budget - cost) poi (some cause) at_
      (carOk a = false → exec (.caravanStep r.id remote) s = .next (stop s 0 0x74)) ∧
      (carOk a = true → offOf a % 8 ≠ 0 → exec (.caravanStep r.id remote) s = .next (stop s 0 0x10)) ∧
      (carOk a = true → offOf a % 8 = 0 → ∀ o,
        (if devOf a = myDev s then remote = .here ∧ carHere s r pos (offOf a) = some o
         else if budget = 0 then remote = .here ∧ o = .fail 0 0x73 else carFar s r pos (devOf a) remote = some o) →
        exec (.caravanStep r.id remote) s = .next (match o with
          | .wait t => t
          | .fail cost cause => stop (engTold s r.core r.mid) cost cause
          | .ok cost v pz pos' t =>
            if budget < cost then stop s cost 0x73
            else tidyRoutes (setCar t r (v &&& mask) (k + 1) (budget - cost) (poi || pz)
              (if carOk (v &&& mask) = false ∧ k + 1 < n then some 0x74 else none) pos')))) ∧
    (∀ p offs mask n k budget poi res pos, r.kind = .carav p offs mask n k budget poi res pos →
      (s.now < r.at_ + 2 ^ 22 → res ≠ none ∨ k = n →
        ((∀ d, pos ≠ .far d) → exec (.caravanReturn r.id) s = .next (carDeliver s r p k budget poi res)) ∧
        (∀ d u, pos = .far d → rxTake s r.prio (respFlits r) = some u →
          exec (.caravanReturn r.id) s = .next (carDeliver u r p k budget poi res))) ∧
      (r.at_ + 2 ^ 22 ≤ s.now →
        (carHeld s r = false → exec (.linkTimeout r.id) s = .next (carDeliver s r r.faddr k budget poi (some 0x80))) ∧
        (carHeld s r = true → exec (.linkNoRoute r.id) s = .next (carDeliver s r p k budget poi (some 0x81)))))

/-! ### Events: Stewards, banks and cores -/

/-- R250, R304, R309, R310, R312, R315-R320, R322, R327: how a Steward's stall, waits and operations end, those on device memory
among them. What ends a stall (log entry 57), the pieces an engine operation runs in (58), that sem.wait ends without TAINT whatever the
poison of its word (99, beside R321) and what it acquires (118) are the model's choices. -/
def Obligations.StewardOperationsEnd : Prop :=
  ∀ (s : State) (n : Nat), s.host.power = true →
    let t := stewardAt s n
    (∀ a, t.stallSince = some a → t.running = true → a + 2 ^ 20 ≤ baseNow s →
      exec (.stewardTimeout n) s = .next (haltSteward s n 0x62 0 nowhere)) ∧
    (∀ a x d seq pa, t.sem = some ⟨true, a, x, d, seq⟩ → stewardAddr a = some (true, pa) → acqBlocks t seq = false →
      let l := locOf s (redirect s none pa)
      let v := if live s.dram (l / 32) then leNat (bytesAt s.dram.mem l 8) else 0
      let ends (ok : Bool) : State :=
        setSteward s n (fun t => { setPort t 0x7F (if ok then 1 else 0) with sem := none, waited := ok })
      (x.toNat ≤ v → exec (.semWaitSatisfied n) s = .next (ends true)) ∧
      (∀ e, d = some e → e ≤ baseNow s → exec (.semWaitExpiry n) s = .next (ends (decide (x.toNat ≤ v))))) ∧
    (∀ a x d seq pa u, t.sem = some ⟨false, a, x, d, seq⟩ → stewardAddr a = some (true, pa) →
      (∀ e ∈ t.eng, ∀ o ∈ e.q, seq ≤ o.seq) → (∀ e ∈ s.dram.wq, e.by_ ≠ .steward n) → (∀ l, t.lsu = some l → seq ≤ l.seq) →
      writeGates s none false [⟨.dmem pa, 8, false⟩] = .go → newGate s none [⟨.dmem pa, 8, false⟩] = some u →
      let (bs, r) := stewardRead u n pa
      exec (.stewardOperationEnd n .sem) s =
        .next (setSteward (writePlace r (.steward n) none (.dmem pa) (natLe 8 (leNat bs + x.toNat)) false) n (fun t =>
          { setPort t 0x7F (BitVec.ofNat 64 (leNat bs)) with sem := none, waited := false }))) ∧
    (∀ o pa, t.lsu = some o → stewardAddr o.addr = some (true, pa) → acqBlocks t o.seq = false →
      (∀ r, ownRow s n pa = some r → enginesBefore s n o.seq r = false) →
      let at_ : List Piece := [⟨.dmem pa, 8, false⟩]
      let stored (u : State) : State := setSteward u n (fun t => { t with lsu := none })
      let loaded (u : State) : State :=
        let (bs, r) := stewardRead u n pa
        setSteward r n (fun t => { setPort t 0x6F (BitVec.ofNat 64 (leNat bs)) with lsu := none })
      ((∃ r, ownRow s n pa = some r ∧ ownLease t n r = true) →
        (o.st = true → ckptHolds s pa = false → needsRevival s none (.dmem pa) = none → exec (.stewardOperationEnd n .lsu) s =
          .next (stored (rowWrite s n pa (natLe 8 o.data.toNat) false))) ∧
        (∀ b, o.st = true → ckptHolds s pa = false → needsRevival s none (.dmem pa) = some b → b ∉ s.dram.reviving →
          exec (.stewardOperationEnd n .lsu) s = .next (onDram s (fun d => { d with reviving := d.reviving ++ [b] }))) ∧
        (o.st = false → beingRevived s none (.dmem pa) = false → exec (.stewardOperationEnd n .lsu) s = .next (loaded s))) ∧
      ((∀ r, ownRow s n pa = some r → ownLease t n r = false) →
        (∀ u, o.st = true → writeGates s none false at_ = .go → hostOpenAll s none at_ = some u →
          exec (.stewardOperationEnd n .lsu) s =
            .next (stored (writePlace u (.steward n) none (.dmem pa) (natLe 8 o.data.toNat) false))) ∧
        (∀ u, o.st = false → newGate s none at_ = some u → exec (.stewardOperationEnd n .lsu) s = .next (loaded u)))) ∧
    (∀ o a, t.lsu = some o → stewardAddr o.addr = some (false, a) → acqBlocks t o.seq = false →
      exec (.stewardOperationEnd n .lsu) s =
      .next (setSteward s n (fun t =>
        { (if o.st then { t with dmem := putBytes t.dmem a (natLe 8 o.data.toNat) }
           else setPort t 0x6F (BitVec.ofNat 64 (leNat (bytesAt t.dmem a 8)))) with lsu := none }))) ∧
    (∀ v, t.logop = some v → exec (.stewardOperationEnd n .log) s =
      .next (setSteward s n (fun t => { setPort t 0x1AF (nth 0 t.log v.toNat) with logop := none }))) ∧
    (∀ e o rest, (eng t e).q = o :: rest → o.lease = none → acqBlocks t o.seq = false → exec (.engineOperationEnd n e none) s =
      .next (onEng (runUnits s n e 0 0 o o.prog (min 16 ((engineUnits o).1 - o.prog))) n e (fun g => { g with
        q := if (engineUnits o).1 - o.prog ≤ 16 then g.q.drop 1 else { o with prog := o.prog + 16 } :: g.q.drop 1 }))) ∧
    (∀ e o rest l, (eng t e).q = o :: rest → o.lease = some l.id → leaseOf t l.id = some l → l.held = true → acqBlocks t o.seq = false →
      let left := (engineUnits o).1 - o.prog
      let b := 64 * n + l.bank
      left ≤ 16 → left * (engineUnits o).2 ≤ l.budget → lsuBefore s n o.seq (b, l.row) = false →
      (if o.trig = 9 then storeGate s b l.row = .go
       else live s.dram (served s (rowAtom b l.row 0)) = true ∧ gBlock (served s (rowAtom b l.row 0)) ∉ s.dram.reviving) →
      exec (.engineOperationEnd n e none) s = .next (onEng
        (setSteward (runUnits s n e b l.row o o.prog left) n (fun t =>
          onLease t l.id (fun l => { l with budget := l.budget - left * (engineUnits o).2 }))) n e
        (fun g => { g with q := g.q.drop 1 })))

/-- R287-R290, R292-R294, R297, R311, R312: leases of rows are granted, asked for again and ended, and the row they leave is
closed where nobody takes it, a released request staying while operations are bound to it; a wave opens its window; a free bank serves
its oldest write, where no older access of a core waits, or its oldest lease request; idle rows
close, watched rows are spaced, banks refresh. Which accesses open rows and which wait at a bank (log entries 36 and 60), and
what ends a lease early (59), are the model's choices. -/
def Obligations.BanksServe : Prop :=
  ∀ (s : State) (n b : Nat), s.host.power = true →
    let t := stewardAt s n
    let k := bank s.dram b
    (∀ l u, leaseOf t l.id = some l → grantable s n l = true →
      urgent s l = true ∨ (writesWait s (64 * n + l.bank) = false ∧ readWaits s (64 * n + l.bank) none = false) →
      openRow s (64 * n + l.bank) l.row (.engine l.row) = some u →
      exec (.leaseGrant n l.id) s = .next (setSteward (bankRow u (64 * n + l.bank) l.row) n (fun t => onLease t l.id (fun l =>
        { l with held := true, budget := 16, since := baseNow u, asked := false, wave := false })))) ∧
    (∀ l, leaseOf t l.id = some l →
      (l.released = true ∧ boundOps t l.id = false) ∨ (l.held = true ∧ (l.budget = 0 ∨ l.since + 256 ≤ baseNow s ∨
        refreshDue s (64 * n + l.bank) = true ∨ agedWrite s (64 * n + l.bank) = true ∨ agedRead s (64 * n + l.bank) = true)) →
      let u := setSteward s n (fun t =>
        if l.released = true ∧ boundOps t l.id = false then { t with leases := t.leases.filter (fun e => e.id != l.id) }
        else onLease t l.id (fun l => { l with held := false, asked := false, since := baseNow s }))
      exec (.leaseEnd n l.id) s =
        .next (if l.held then onBank u (64 * n + l.bank) (fun k => { k with row := .ended l.row }) else u)) ∧
    (∀ l, leaseOf t l.id = some l → l.held = false → l.asked = false → boundOps t l.id = true →
      exec (.leaseRenewal n l.id) s = .next (setSteward s n (fun t => onLease t l.id (fun l =>
        { l with asked := true, since := baseNow s })))) ∧
    (n < 512 → (mget (0, 64) s.dram.window n).1 + 64 ≤ baseNow s → ∃ u, exec (.waveWindow n) s = .next u ∧
      mget (0, 64) u.dram.window n = (baseNow s, mget 64 s.dram.actmax n)) ∧
    ((∀ r, k.row ≠ .engine r) → k.testing = false → refreshDue s b = false →
      (∀ i e u, s.dram.wq.findIdx? (fun e => gBank (e.loc / 32) == b) = some i → s.dram.wq[i]? = some e →
        hostOpen s (e.loc / 32) = some u → writeOldest s b = true →
        agedWrite s b = true ∨ agedRead s b = true ∨ (nextLease s b).any (urgent s) = false →
        exec (.bankArbitration b none) s = .next (bankEntry u i)) ∧
      (∀ l u, agedWrite s b = false → agedRead s b = false → nextLease s b = some l → grantable s (b / 64) l = true →
        grantLease s (b / 64) l.id = some u →
        urgent s l = true ∨ (writesWait s b = false ∧ readWaits s b none = false) →
        exec (.bankArbitration b none) s = .next u) ∧
      (∀ r, k.row = .ended r → agedWrite s b = false → agedRead s b = false → nextLease s b = none → writesWait s b = false →
        readWaits s b none = false → exec (.bankArbitration b none) s = .next (precharge s b r)) ∧
      (∀ row, row < 2 ^ 14 → row ∉ k.badPar → exec (.bankArbitration b (some (.badParity row))) s =
        .next (onBank s b (fun k => { k with badPar := k.badPar ++ [row] })))) ∧
    (∀ r, k.row = .host r → k.lastUse + 64 ≤ baseNow s →
      s.dram.wq.any (fun e => gBank (e.loc / 32) == b && gRow (e.loc / 32) == r) = false → readWaits s b (some r) = false →
      exec (.openHostIdle b) s = .next (onBank (preCheck s b r) b (fun k => { k with row := .closed }))) ∧
    (∀ row at_, (row, at_) ∈ k.watch → 0 < at_ → at_ + 126000 ≤ baseNow s → exec (.watchedRowSpacing b row) s =
      .next (onBank s b (fun k => { k with watch := k.watch.map (fun e => if e.1 == row then (row, 0) else e) }))) ∧
    (∀ u, b < 2 ^ 15 → k.refAt + 15625 ≤ baseNow s →
      (k.row = .closed ∧ u = s) ∨ (∃ r, (k.row = .host r ∨ k.row = .ended r) ∧ u = precharge s b r) →
      exec (.perBankRefresh b) s = .next (onBank u b (fun k =>
      { (if live s.dram (rowAtom b (8 * k.refresh) 0) then ((List.range 8).map (fun i => 8 * k.refresh + i)).foldl refreshRow k
         else k) with refresh := (k.refresh + 1) % 2048, refAt := baseNow u })))

/-- R122, R291, R296-R298, R390, R398-R400: scrub, revival, the thermal limit, migration to a spare die, tests of banks and cores,
and core faults. How a bank is parked and put back (log entry 61), and how an error shows and is read again (62), are the model's
choices. -/
def Obligations.UpkeepRuns : Prop :=
  ∀ (s : State), s.host.power = true →
    (∀ g u, g < 2 ^ 34 → live s.dram g = true → writesWait s (gBank g) = false → hostOpen s g = some u →
      exec (.patrolScrub g none) s = .next u) ∧
    (∀ hc block, block < 512 → hc * 512 + block ∈ s.dram.reviving → exec (.blockRevival hc block) s = .next (onDram s (fun d =>
      { zeroBlock d (hc * 512 + block) with
        elided := mput false d.elided (hc * 512 + block) false, reviving := d.reviving.filter (· != hc * 512 + block) }))) ∧
    (∀ hc limit, hc < 512 → 4 ≤ limit → limit ≤ 64 → exec (.thermalReadout hc limit) s =
      .next (onDram s (fun d => { d with actmax := mput 64 d.actmax hc limit }))) ∧
    (∀ k b r, migrating s k = some (b, r) → (∀ x, (bank s.dram b).row ≠ .engine x) → exec (.dieMigrationUnit k) s =
      .next (onDram s (fun d => { d with mark := mput 0 d.mark k (mget 0 d.mark k + 1) }))) ∧
    (∀ b decoded, let k := bank s.dram b
      k.testReq = true → k.testing = false → k.parked = false → parkBase s (bankStack b) = none ∨ parkTaken s b = false →
      (stewardAt s (b / 64)).leases.any (fun l => l.bank == b % 64) = false →
      let s2 := onBank (reread (bankAll s) b decoded) b (fun k => { k with testReq := false })
      (∀ p, parkBase s (bankStack b) = some p → exec (.bankTest b decoded) s =
        .next (onBank (parkCopy (closeBank s2 b) b p false) b (fun k => { k with testing := true, parked := true }))) ∧
      (parkBase s (bankStack b) = none → exec (.bankTest b decoded) s =
        .next (testEnded (if (bank s2.dram b).bad.isEmpty then rasLog s2 0xA9 2 (bankNum b) else (lasting s2 b).1) (.bank b)))) ∧
    (∀ b, (bank s.dram b).testing = true →
      (∀ p, parkBase s (bankStack b) = some p → exec (.bankTestEnd b true) s = .next (testEnded (rasLog
        (onBank (parkCopy s b p true) b (fun k => { k with testing := false, parked := false })) 0xA9 2 (bankNum b)) (.bank b))) ∧
      ((mget none s.dram.spare (bankStack b)).isSome = true → exec (.bankTestEnd b false) s = .next (testEnded
        (onBank (rasLog s 0xAC 2 (bankNum b)) b (fun k => { k with testing := false })) (.bank b)))) ∧
    (∀ c passed, c ∈ s.sched.coreTest → (coreAt s c).node = none → exec (.coreBistEnd c passed) s = .next (rasLog
      (onSched s (fun h => { h with
        coreTest := h.coreTest.filter (· != c), coreParity := h.coreParity.filter (· != c), coreBad := if passed then h.coreBad else (h.coreBad ++ [c]).eraseDups,
        nodes := h.nodes.map (fun n => { n with testWait := n.testWait.filter (· != TestKey.core c) }) }))
      (if passed then 0xA9 else 0xAA) 1 c)) ∧
    (∀ c, c < Config.cores → c ∉ s.sched.coreBad → c ∉ s.sched.coreParity → exec (.coreParityError c) s =
      .next (onSched s (fun h => { h with
        coreTest := (h.coreTest ++ [c]).eraseDups, coreParity := h.coreParity ++ [c] }))) ∧
    (∀ c id, (coreAt s c).node = some id → c ∉ s.sched.coreBad → exec (.coreFaultNotContained c) s = .next
      (onNode (onSched (rasLog (stopNode s c 0xA4) 0xA4 1 c) (fun h => { h with coreTest := (h.coreTest ++ [c]).eraseDups })) id
        (fun n => { n with testWait := (n.testWait ++ [TestKey.core c]).eraseDups })))

/-! ### Events: the scheduler -/

/-- R92, R117, R189, R268, R301, R330, R331, R333-R341, R379, R384, R387, R392, R397: a node is captured, with its footprint, or ends
where its descriptor, footprint or graph fails it; it is dispatched, ages, is told to stop, is saved, and resumes. What the cores of an
array node and the Stewards of a near-memory node hold at their first bundle is what `startArray` and `startNear` leave. When a context
entry is loaded at a capture and what ends a capture (log entries 74, 75), the tie of aging steps (64), when a band is saved (66), the
layout of inner places (86), which atom a near-memory argument may name (88) and which free placement is taken (102) are the model's
choices. -/
def Obligations.NodesRun : Prop :=
  ∀ (s : State), s.host.power = true →
    let fin (t : State) : State := markReady (killNext t)
    (∀ q v w, let u := queueAt s q
      let r := dRead s none (entryPa u u.head) 256 true
      let n := newNode s q u r.1
      q < 256 → eligible u = true → (s.sched.nodes.filter (fun m => m.queue == q && !isDone m)).length < 64 →
      newGate s none [⟨.dmem (entryPa u u.head), 256, true⟩] = some v →
      ((dB r.1 0x47 = 0 ∨ 16 < dB r.1 0x47) ∧ w = v) ∨
        ((1 ≤ dB r.1 0x47 ∧ dB r.1 0x47 ≤ 16) ∧ ctxGate v u.ctx (d64 r.1 0x58) (24 * dB r.1 0x47) = some w) →
      let t0 := onSched (setQueue w q (afterCapture n)) (fun h => { h with nodes := h.nodes ++ [n], nodeNext := h.nodeNext + 1 })
      let t := if dB r.1 0x47 = 0 then t0 else ctxLoad t0 u.ctx
      let fails (cause : Nat) : Prop :=
        recordsFree t n.id = true → exec (.nodeCapture q) s = .next (fin (endNode t n.id false cause))
      (t.sched.killing = some n.ctx ∨ t.host.state = 1 → fails 0x98) ∧
      (t.sched.killing ≠ some n.ctx → t.host.state ≠ 1 →
        (r.2 = true ∨ descOk r.1 = false → fails 0x93) ∧
        (r.2 = false → descOk r.1 = true →
          (∀ x, footOf t n.ctx n.desc = .error x → fails x) ∧
          (∀ f, footOf t n.ctx n.desc = .ok f →
            let w := onNode t n.id (fun n => { n with foot := f })
            let lost := lostBy w { n with foot := f }
            let shape := decide (nKind n ≠ 0) || shapeOk w n
            (lost = true ∨ shape = false → recordsFree w n.id = true →
              exec (.nodeCapture q) s = .next (fin (endNode w n.id false (if lost = true then 0xA5 else 0x95)))) ∧
            (lost = false → shape = true → exec (.nodeCapture q) s = .next (fin w)))))) ∧
    (∀ id n cores, nodeOf s id = some n → n.st = .captured →
      let t := ctxLoad s n.ctx
      ready t n = true → firstToGo t n = true → recordsFree t id = true →
      (∀ x, refusedAt t n = some x → exec (.nodeDispatch id cores) s = .next (fin (failRun t id x))) ∧
      (∀ v, refusedAt t n = none → imagesGate t n = some v →
        (nKind n = 0 → placementOk v n cores = true →
          exec (.nodeDispatch id cores) s = .next (fin (startArray v n cores))) ∧
        (nKind n ≠ 0 → stewardsFree v n = true → exec (.nodeDispatch id []) s = .next (fin (startNear v n))))) ∧
    (∀ n cores a b sl, image s n (nImgA n) (2 ^ 14) = .ok a → image s n (nImgB n) (2 ^ 14) = .ok b →
      image s n (nSlimg n) (nSllen n) = .ok sl → (∀ l, a = some l → l.length = 2 ^ 14) → (∀ l, b = some l → l.length = 2 ^ 14) →
      (∀ l, sl = some l → l.length = nSllen n) → nSloff n + nSllen n ≤ 2 ^ 20 → cores.Nodup → memCanon s = true →
      coresCanon s = true → canon false s.spoi = true → ∀ i c, cores[i]? = some c →
      let u := startArray s n cores
      let k := coreAt u c
      let w (v : Nat) : Word := BitVec.ofNat 64 v
      let img (x : Option (List (Byte × Bool))) (j : Nat) : Byte := nth 0 ((x.getD []).map (·.1)) j
      k.regs.rS 1 = w (nArg n) ∧ k.regs.rS 2 = w i ∧ k.regs.rS 3 = w (i / nGang n) ∧ k.regs.rS 4 = w (i % nGang n) ∧
        k.regs.rS 5 = w (sliceWin + i * 2 ^ 20) ∧ (∀ r, r = 0 ∨ 6 ≤ r → k.regs.rS r = 0) ∧
        k.regs.v = [] ∧ k.regs.x = [] ∧ k.regs.g = [] ∧ (∀ r, k.regs.rP r = 0xE000) ∧ k.lat = [] ∧ k.tval = [] ∧ k.tcnt = [] ∧
        k.loops = [] ∧ k.calls = [] ∧ k.shadow = Shadow.none ∧ k.held = [] ∧ k.exposed = [] ∧ k.evl = 0 ∧ k.level = false ∧
        k.running = true ∧ k.node = some n.id ∧ k.num = i ∧ k.pc = BitVec.ofNat 48 (nEntry n) ∧ k.cspl = 0 ∧ k.rb = 0 ∧
        k.rh = (decide (istWin + 2 ^ 14 ≤ nEntry n % 2 ^ 48) && decide (nEntry n % 2 ^ 48 < istWin + 2 ^ 15)) ∧
        k.csr.tvec = s.host.tvecinit ∧ k.csr.ctxid = n.ctx ∧ k.csr.fps = 0 ∧ k.csr.fpc = 0 ∧ k.csr.cause = 0 ∧ k.csr.epc = 0 ∧
        k.csr.trec = 0 ∧
        k.csr.cir = w (n.tries * 2 ^ 58 + if nRetry n then (if s.sched.shsize = 0 then 2 ^ 60 else 2 ^ 61) else 0) ∧
        k.isA = a.isSome ∧ k.isB = b.isSome ∧
        (∀ j < 2 ^ 14, byteAt u.ists (c * 2 ^ 15 + j) = img a j ∧ byteAt u.ists (c * 2 ^ 15 + 2 ^ 14 + j) = img b j) ∧
        (∀ j < 2 ^ 20, byteAt u.slices (c * 2 ^ 20 + j) =
          if nSloff n ≤ j ∧ j < nSloff n + nSllen n then img sl (j - nSloff n) else 0) ∧
        ((∀ e ∈ sl.getD [], e.2 = false) → ∀ j < 2 ^ 15, mget false u.spoi (c * 2 ^ 15 + j) = false)) ∧
    (∀ n img arg, (d64 n.desc 0x50 = 0 ∨ nmRegion s n.ctx (d64 n.desc 0x50) = none) →
      (if nImgB n = 0 then .ok [] else ctxRead s n.ctx (nImgA n) (nImgB n)) = .ok img →
      ((nArg n = 0 ∧ arg = 0) ∨
        (nArg n ≠ 0 ∧ ∃ pa d e, xlCtx s [] n.ctx (nArg n % 2 ^ 48) .rd = .ok (.dmem pa, d, e) ∧ arg = BitVec.ofNat 64 (2 ^ 63 + pa))) →
      canon Steward.idle s.stewards = true → ∀ k ∈ nSmask n,
      stewardAt (startNear s n) k = { Steward.idle with
        node := some n.id, running := true, imem := putBytes [] 0 (img.map (·.1)), pc := nEntry n, arg := arg,
        log := (stewardAt s k).log, lost := (stewardAt s k).lost, alert := (stewardAt s k).alert }) ∧
    (∀ id n t, nodeOf s id = some n → n.agingFrom = some t → ready s n = true →
      let k := (s.now - t) / 128000 - 1
      1 ≤ k → min (n.prio + k) (ceilOf s n) ≠ n.aged → exec (.priorityAging id) s =
        .next (fin (onNode s id (fun n => { n with aged := min (n.prio + k) (ceilOf s n) })))) ∧
    (∀ id n why, nodeOf s id = some n →
      (n.st = .running → nKind n = 0 → preemptFor s n why = true → exec (.preemption id why) s =
        .next (fin (onNode s id (fun n => { n with st := .draining, offer := false })))) ∧
      (n.st = .draining → let t := ctxLoad s n.ctx
        (∀ e ∈ liveOf n, stoppedCore t e.2 = true ∧ (coreAt t e.2).mxq = []) → recordsFree t id = true →
        n.id = id → let segs := (List.range n.cores.length).flatMap (coreSegs t n)
        ∀ v, areaGate t n .wr (segs.map Seg.span) = some v →
        let hurt := (liveOf n).filter (fun e => v.sched.coreParity.contains e.2)
        let w := onSched v (fun h => { h with coreParity := h.coreParity.filter (fun c => !hurt.any (fun e => e.2 == c)) })
        let ws := (liveOf n).filterMap (savedWait w)
        (∀ u, areaWrite n w segs = .ok u → exec (.preemption id why) s = .next (fin (onNode (freeBand u n) id (fun m => { m with
          st := if ws.isEmpty then .preempted else .waiting, cores := [], ran := m.ran + (w.now - m.placedAt), waits := ws,
          saved := (liveOf n).map (fun e => residOf (coreAt w e.2)), offer := false, victim := false, aged := 0, agingFrom := none,
          hurt := hurt })))) ∧
        (∀ x, areaWrite n w segs = .error x → exec (.preemption id why) s = .next (fin (failRun
          (onNode (freeBand (hurt.foldl (fun s e => rasLog s 0xA4 1 e.2) w) n) id
            (fun n => { n with testWait := (n.testWait ++ hurt.map (fun e => TestKey.core e.2)).eraseDups })) id
          (if hurt.isEmpty then x else 0xA4)))))) ∧
    (∀ id n cores, nodeOf s id = some n → n.st = .preempted →
      let t := ctxLoad s n.ctx
      ready t n = true → firstToGo t n = true → recordsFree t id = true →
      (∀ x, refusedAt t n = some x → exec (.resume id cores) s = .next (fin (failRun t id x))) ∧
      (refusedAt t n = none → placementOk t n cores = true →
        (∀ x, readArea t n = .error x → exec (.resume id cores) s = .next (fin (failRun t id x))) ∧
        (∀ m poi v, readArea t n = .ok (m, poi) → areaGate t n .rd (coreParts n ++ tagged n m) = some v →
          ((∃ i < cores.length, n.gone.contains i = false ∧ areaOk m i = false) →
            exec (.resume id cores) s = .next (fin (failRun v id 0xB2))) ∧
          ((∀ i < cores.length, n.gone.contains i = true ∨ areaOk m i = true) →
            let w := ((List.range cores.length).zip cores).foldl (restoreCore m poi n) (onNode v id (fun n => { n with
              st := .running, cores := cores, placedAt := v.now, aged := 0, agingFrom := none, waits := [], evs := [], saved := [],
              hurt := [] }))
            let bar (g k : Nat) : Bool × BitVec 8 :=
              let b := fld m (g * nGang n * 0x180000 + 0x168E00 + 8 * k) 8
              (decide (2 ^ 63 ≤ b), BitVec.ofNat 8 b)
            exec (.resume id cores) s =
              .next (fin (n.evs.foldl (fun s e => setEvent s (some id) e.1 e.2) (allotBars w n cores bar)))))))

/-- R110, R115, R122, R189, R324, R335, R350, R383, R390: spares, locks, counters, stops, retries, clearing and the watchdog. What a
Steward's completion waits for (log entry 63), what a stopping node waits for (67), what the watchdog does to a near-memory node (90) and
where a retired core's slice is cleared (91) are the model's choices. -/
def Obligations.NodesEnd : Prop :=
  ∀ (s : State), s.host.power = true →
    let fin (t : State) : State := markReady (killNext t)
    (∀ c, c ∈ s.sched.coreBad → c % 9 ≠ 8 → mget none s.sched.spareUsed (c / 9) = none → 9 * (c / 9) + 8 ∉ s.sched.coreBad →
      exec (.spareTakeover c) s =
        .next (fin (onSched s (fun h => { h with spareUsed := mput none h.spareUsed (c / 9) (some (c % 9)) })))) ∧
    (∀ id n pre w rest va pl thr inh u, nodeOf s id = some n → n.st = .waiting → n.waits = pre ++ w :: rest →
      (∀ x ∈ pre, ∀ a p h o, x.2.swait = some (a, p, h, o) → h.toNat ≤ leNat (readPlace s (some id) p 8 false).1 →
        newGate s (some id) [Piece.mk p 8 false] = none) → w.2.swait = some (va, pl, thr, inh) →
      thr.toNat ≤ leNat (readPlace s (some id) pl 8 false).1 → newGate s (some id) [Piece.mk pl 8 false] = some u →
      exec (.lockWaitCheck id) s = .next (fin (onNode u id (fun n => { n with st := .preempted })))) ∧
    (∀ id n w t, nodeOf s id = some n → n.st = .waiting → w ∈ n.waits → w.2.until_ = some t → t ≤ s.now →
      exec (.waitingBandTimeout id) s = .next (fin (onNode s id (fun n => { n with st := .preempted })))) ∧
    (∀ id n holder h, nodeOf s id = some n → n.st = .running → nKind n = 0 → n.victim = false → liveOf n ≠ [] →
      (∀ e ∈ liveOf n, longParked s e.2 = true) → nodeOf s holder = some h → waitsFor s n h.ctx = true →
      exec (.parkedBandVictim id holder) s = .next (fin (onNode s id (fun n => { n with victim := true })))) ∧
    (∀ c, (coreAt s c).retiring = true → settled s c true = true → sysUnflushed s 0xFF = false → (coreAt s c).node = none →
      exec (.counterDecrement (.core c)) s = .next (fin (onCore s c (fun k => { Core.idle with tlb := k.tlb })))) ∧
    (∀ c id n, let k := coreAt s c
      let g := k.num / nGang n
      k.retiring = true → settled s c true = true → sysUnflushed s 0xFF = false → k.node = some id → nodeOf s id = some n →
      n.st = .running → k.failed = none → k.csr.cir.extractLsb' 0 2 = 0 → n.id = id →
      gangOver { n with gone := n.gone ++ [k.num] } g = false → g < nGangs n →
      exec (.counterDecrement (.core c)) s = .next (fin (barArrive (onNode
        (onSched (onCore s c (fun k => { Core.idle with tlb := k.tlb })) (fun h => { h with coreClear := (h.coreClear ++ [c]).eraseDups })) id
        (fun n => { n with gone := n.gone ++ [k.num] })) id g (Config.clusterOf c) (fun _ => 0)))) ∧
    (∀ k st, let t := stewardAt s k
      t.done = some st → t.node = none → exec (.counterDecrement (.steward k)) s =
        .next (fin (setSteward s k (fun t => { Steward.idle with log := t.log, lost := t.lost, alert := t.alert })))) ∧
    (∀ id n cause, nodeOf s id = some n → n.st = .stopping cause → recordsFree s id = true → n.id = id →
      (∀ c ∈ n.cores, (coreAt s c).node ≠ some id ∨ (settled s c true = true ∧ (coreAt s c).park = none)) →
      exec (.nodeStop id) s = .next (fin (failRun
        (freeBand (onNode s id (fun m =>
          { m with ran := m.ran + (if m.cores.isEmpty then 0 else s.now - m.placedAt), cause := some cause })) n) id cause))) ∧
    (∀ id n, nodeOf s id = some n → n.st = .retry → n.testWait = [] → exec (.nodeRetry id) s = .next (fin (onNode s id
      (fun n => { n with st := .captured, tries := n.tries + 1, cause := none, aged := 0, agingFrom := none })))) ∧
    (∀ c, c ∈ s.sched.coreClear → (∀ n ∈ s.sched.nodes, c ∉ n.cores) → memCanon s = true → ∃ t, exec (.sliceClear c) s = .next (fin t) ∧
      (∀ a, byteAt t.slices a = if c * 2 ^ 20 ≤ a ∧ a < (c + 1) * 2 ^ 20 then 0 else byteAt s.slices a) ∧ t.ists = s.ists ∧
      t.cores = s.cores ∧ t.dram = s.dram ∧ t.sched.coreClear = s.sched.coreClear.filter (· != c)) ∧
    (∀ id n, nodeOf s id = some n → nWdog n ≠ 0 → n.begun + nWdog n * 2000 ≤ s.now →
      (n.st = .running ∧ nKind n = 0) ∨ n.st = .draining ∨ n.st = .preempted ∨ n.st = .waiting →
      exec (.nodeWatchdog id) s = .next (fin (onNode s id (fun n => { n with st := .stopping 0x96 }))))

/-- R259, R393-R396, R402, R404, R405: shadow granules are copied, give way, fail the younger node, become global and go back; a
checkpoint streams the lowest chosen granule, or one that a write waits for, and ends with its manifest and its record. What a
commit and a copy-back wait for (log entry 68) and which writes count as waiting (69) are the model's choices. -/
def Obligations.ShadowsAndCheckpoints : Prop :=
  ∀ (s : State), s.host.power = true →
    let fin (t : State) : State := markReady (killNext t)
    (∀ id gran r u, s.sched.redir.find? (fun r => r.node == id && r.gran == gran && !r.ready) = some r →
      granuleGate s gran r.pool = some u → exec (.shadowCopy id gran) s =
        .next (fin (onSched (copyGranule u gran r.pool) (fun h => { h with
          redir := h.redir.map (fun e => if e == r then { e with ready := true } else e) })))) ∧
    (∀ id gran n, nodeOf s id = some n → waitedLong s id gran false = true → s.sched.redir.any (fun r => r.gran == gran) = false →
      s.sched.shfree = [] ∨ 4096 ≤ s.sched.redir.length → exec (.shadowFallback id gran) s =
        .next (fin (onSched (onNode ((liveOf n).foldl (fun s e => onCore s e.2 fallenCir) s) id
          (fun n => { n with fell := true })) (fun h => { h with shwait := h.shwait.filter (fun w => w.node != id) })))) ∧
    (∀ id gran r a b, s.sched.redir.find? (fun r => r.gran == gran && r.node != id && !r.global) = some r →
      nodeOf s id = some a → nodeOf s r.node = some b → (younger a b).st ≠ .commit → (∀ x, (younger a b).st ≠ .stopping x) →
      waitedLong s id gran true = true → exec (.shadowConflict id gran) s =
        .next (fin (onNode s (younger a b).id (fun n => { n with st := .stopping 0xA3 })))) ∧
    (∀ id n, nodeOf s id = some n → n.st = .commit → recordsFree s id = true →
      let mine (r : Redirect) : Bool := r.node == id && !r.global
      (∀ r ∈ s.sched.redir, mine r = true → r.ready = true ∧ granuleQuiet s r.gran = true) → exec (.shadowCommit id) s =
        .next (fin (endNode (onSched
          ((s.sched.redir.filter mine).foldl (fun s r => setDirty s .device (r.gran * 2 ^ 18)) s) (fun h => { h with
            redir := h.redir.map (fun r => if mine r then { r with global := true } else r) })) id true
          (if n.fell then 0xA2 else 0)))) ∧
    (∀ gran r u, s.sched.redir.find? (fun r => r.gran == gran && r.global) = some r → granuleGate s r.pool gran = some u →
      exec (.shadowCopyBack gran) s = .next (fin (onSched
        (copyGranule (setDirty u .device (gran * 2 ^ 18)) r.pool gran) (fun h => { h with
          redir := h.redir.filter (fun e => e != r), shfree := h.shfree ++ [r.pool] })))) ∧
    (∀ i k g, s.sched.ckpt = some k → k.chosen.find? (fun g => g.1 == i) = some (i, g) →
      (∀ e ∈ k.chosen, i ≤ e.1) ∨ (∃ p, g = some p ∧ writeWaits s k p = true) →
      (g = none → exec (.ckptGranule i) s = .next (ckptFail s 0xA7)) ∧
      (∀ n ha mt disc, g = some n →
        ctxPieces s k.ctx (kDest k.desc + 2 ^ 18 * i) (2 ^ 18) .wr = .ok [Piece.mk (.sys ha mt) (2 ^ 18) disc] →
        (s.host.portUp.getLsbD (hostPortOf s ha) = false → exec (.ckptGranule i) s = .next (ckptFail s 0xA8)) ∧
        (∀ v u, s.host.portUp.getLsbD (hostPortOf s ha) = true →
          ctxGateOf s k.ctx (kDest k.desc + 2 ^ 18 * i) (2 ^ 18) .wr = some v → rawOpen v (n * 2 ^ 18) (2 ^ 18) = some u →
          let r := rawRange (bankAll u) 0 (n * 2 ^ 18) (2 ^ 18)
          exec (.ckptGranule i) s = .next (onCkpt (onHost u (fun h => { h with
            sys := mputs 0 (mclear h.sys ha (2 ^ 18)) (r.1.map (fun e => (ha + e.1, e.2))) })) (fun k => { k with
              chosen := k.chosen.filter (fun e => e.1 != i), streamed := k.streamed + 1,
              man := k.man ++ [(i, !r.2.isEmpty)] }))))) ∧
    (∀ k g, g < kLen k.desc / 2 ^ 18 → (nth 0 (manifest k) (g / 4)).toNat / 4 ^ (g % 4) % 4 =
      match k.man.find? (fun e => e.1 == g) with
      | some (_, poisoned) => if poisoned then 3 else 1
      | none => 0) ∧
    (∀ k0 (ok : Bool), s.sched.ckpt = some k0 →
      let k := if ok then k0 else { k0 with cause := some (k0.cause.getD 0xA8), chosen := [] }
      let t := onSched s (fun h => { h with ckpt := some k })
      let gone (u : State) : State := onSched u (fun h => { h with ckpt := none })
      let man := ctxPieces t k.ctx (kMan k.desc) (manifest k).length .wr
      let walked (o : Option State) (va len : Nat) : Option State :=
        o.bind (fun u => if va = 0 then some u else ctxGateOf u k.ctx va len .wr)
      ∀ v u k', k.chosen = [] → walked (walked (some t) (kMan k.desc) (manifest k).length) (kDone k.desc) 32 = some v →
        (kMan k.desc = 0 ∧ u = v ∧ k' = k) ∨
          (kMan k.desc ≠ 0 ∧ ∃ ms, man = .ok ms ∧ writableNow t ms = true ∧ u = deviceWrite v ms (manifest k) ∧ k' = k) ∨
          (kMan k.desc ≠ 0 ∧ ∃ x, man = .error x ∧ u = v ∧ k' = { k with cause := some (k.cause.getD 0xA7) }) →
        (∀ ps, ctxPieces t k.ctx (kDone k.desc) 32 .wr = .ok ps → writableNow t ps = true → exec (.ckptEnd ok) s =
          .next (gone (deviceWrite (systemFlush u ps) ps (natLe 8 k'.seq ++
            [if k'.cause.isNone then 1 else 2, BitVec.ofNat 8 (k'.cause.getD 0)] ++ List.replicate 6 0 ++ natLe 8 k'.streamed ++
            natLe 8 ((u.now - k'.start) / 2000))))) ∧
        (∀ x, ctxPieces t k.ctx (kDone k.desc) 32 .wr = .error x → exec (.ckptEnd ok) s = .next (gone u)))

/-! ### Events: the control space and the host -/

/-- R276, R277, R284, R285, R328, R330-R333, R343, R352, R359, R379, R393, R399, R400, R407-R410, R412, R415, R416, R419: what a write of
the control space does: it is discarded behind a semaphore that the other port holds, and otherwise takes effect as its register says; a
register with no behaviour of its own reads as it was written, its reserved bits zero; of two claims of a semaphore in one cycle each port
wins in turn. What BKCFG keeps staged (log entry 72), what a refused doorbell leaves eligible (73), the order in which a context ends (76),
a STARTCTL with both bits (78), that a function in D3hot takes no access (135) and the place of the LIVE maps' write (132) are the model's
choices. -/
def Obligations.ControlSpaceWrites : Prop :=
  ∀ (s : State) (p : HostPort), s.host.power = true → portOk s p = true →
    (∀ r v, r < 16 → (regionRegs s r).pend = none →
      exec (.ircmdCommit p r v) s = .next (
        if discards s p 0 = true ∨ v.getLsbD 0 = false then s
        else match checkRegion s r with
          | .error code => setRegs s r (fun g => { g with code := BitVec.ofNat 8 code })
          | .ok x => setRegs s r (fun g => { g with code := 0, pend := some x }))) ∧
    (∀ v, exec (.tinvGo p v) s = .next (
      let go := v.getLsbD 16
      if discards s p 1 = true ∨ (s.host.tinv.isSome = true ∧ go = true) then s
      else onHost s (fun h => { h with
        tinvCtl := v &&& 0xCFFFF,
        tinv := if go = true ∧ (v.extractLsb' 18 2).toNat ≠ 3 then
            some ((v.extractLsb' 18 2).toNat, v.extractLsb' 0 16, (h.tinvAddr.extractLsb' 18 30).toNat * 2 ^ 18)
          else h.tinv }))) ∧
    (readOwn s 0x30008 = s.host.tinvCtl ||| if s.host.tinv.isSome = true then 0x8000000000000000 else 0) ∧
    (∀ v, exec (.ctxkillGo p v) s = .next (
      let c := v.extractLsb' 0 16
      let t := onSched s (fun h => { h with ctxCache := [] })
      if discards s p 1 = true ∨ s.host.ctxkill.getLsbD 63 = true then s
      else if v.getLsbD 16 = false then onHost t (fun h => { h with ctxkill := c.setWidth 64 })
      else killNext (endContexts (onSched (onHost t (fun h => { h with ctxkill := 0x8000000000000000 ||| c.setWidth 64 }))
        (fun h => { h with killing := some c })) (fun x => x == c)))) ∧
    (∀ q v, q < 256 → exec (.qdbDoorbell p q v) s = .next (
      let u := queueAt s q
      let d := ((v.setWidth 32 : BitVec 32) - u.tail).toNat
      if u.en = true ∧ u.dev = false ∧ 0 < d ∧ d + (u.tail - u.head).toNat ≤ ringSize u then
        setQueue s q (fun u => { u with tail := v.setWidth 32 })
      else setQueue s q (fun u => { u with
        code := 0x99, en := u.en && u.dev,
        drainTo := if u.en && !u.dev && u.head != u.tail then some u.tail else u.drainTo }))) ∧
    (∀ q v, q < 256 → exec (.qcfgWrite p q v) s = .next (
      if discards s p 2 = true then s
      else setQueue s q (fun u =>
        if u.en = true then { u with en := v.getLsbD 16, drainTo := none }
        else
          let w : Queue := { u with ctx := v.extractLsb' 24 16, pmax := v.extractLsb' 18 6, dev := v.getLsbD 17,
                                    en := v.getLsbD 16, logn := v.extractLsb' 0 4 }
          if v.getLsbD 16 = true then { w with head := 0, tail := 0, from_ := [], drainTo := none } else w))) ∧
    (∀ b v, b < 32 → discards s p 3 = false →
      let t := setBooking s b (fun k => { k with stage := v &&& 0xFFFFFFFFFF3FFD })
      let clus : BitVec 24 := v.extractLsb' 32 24
      let code : BitVec 8 :=
        if v.getLsbD 0 = false then 0
        else if t.sched.bookings.any (fun e => e.1 != b && e.2.en && e.2.clus &&& clus != 0) = true then 1
        else if ctxValid t (v.extractLsb' 16 16) = false then 2
        else if clus = 0 then 3 else 0
      exec (.bkcfgCommit p b v) s = .next (
        if v.getLsbD 1 = false then t
        else if code ≠ 0 then setBooking t b (fun k => { k with code := code })
        else setBooking t b (fun k => { k with
          clus := clus, ctx := v.extractLsb' 16 16, ceil := v.extractLsb' 8 6, level := v.extractLsb' 2 6, en := v.getLsbD 0,
          code := 0, use := 0, idle := 0 }))) ∧
    (∀ v, exec (.winvGo p v) s = .next (
      let go := v.getLsbD 16
      if discards s p 4 = true ∨ (s.fab.winvOn.isSome = true ∧ go = true) then s
      else onFab s (fun h => { h with
        winv := v &&& 0xFFF, winvOn := if go = true then some (v.extractLsb' 0 12).toNat else h.winvOn }))) ∧
    (readOwn s 0x60018 = s.fab.winv ||| if s.fab.winvOn.isSome = true then 0x8000000000000000 else 0) ∧
    (∀ k, k < 32 → exec (.hsemRel p k) s = .next (
      if (hsemOwner s k).isSome ∧ hsemOwner s k = portNo p then onHost s (fun h => { h with hsem := mput none h.hsem k none })
      else s)) ∧
    (∀ k n, k < 32 → portNo p = some n → exec (.hsemClaim k (n == 0) (n == 1)) s = .next (
      if (hsemOwner s k).isSome then s else onHost s (fun h => { h with hsem := mput none h.hsem k (some n) }))) ∧
    (∀ k, k < 32 → portOk s .port0 = true → portOk s .port1 = true → exec (.hsemClaim k true true) s = .next (
      if (hsemOwner s k).isSome then s
      else onHost s (fun h => { h with
        hsem := mput none h.hsem k (some (if h.hsemTie = true then 1 else 0)), hsemTie := !h.hsemTie }))) ∧
    (∀ warm : Bool, exec (if warm then .startctlWarm p else .startctlCold p) s = .next (
      if discards s p 8 = true then s
      else killNext (onHost (endContexts s (fun _ => true)) (fun h =>
        { h with state := 1, step := 1, warm := warm, meas := [], spdm := [] })))) ∧
    (∀ k, k < 8 → exec (.parkrelGo p k) s = .next (if discards s p 5 = true then s else parkRelease s k)) ∧
    (∀ n, n < 512 → exec (.logclrGo p n) s = .next (
      if discards s p 6 = true then s
      else onHost (setSteward s n (fun t => { t with log := [], lost := 0, alert := false })) (fun h =>
        { h with unread := h.unread.filter (fun e => e.1 != n) }))) ∧
    (∀ v, exec (.pwrlimWrite p v) s = .next (
      if discards s p 8 = false ∧ 600 ≤ (v.extractLsb' 0 11).toNat ∧ (v.extractLsb' 0 11).toNat ≤ 1600 then
        onHost s (fun h => { h with pwrlim := v.extractLsb' 0 11 }) else s)) ∧
    (∀ off width v, (∀ r < 16, off ≠ 0x20120 + 0x200 * r) → width ≠ 8 ∨ off % 8 ≠ 0 →
      exec (.registerWrite p (.bar0 off width) v) s = .next s) ∧
    (∀ off k m v, (off, k, m) ∈ plainRegs → tablesCanon s = true →
      (discards s p k = true → exec (.registerWrite p (.bar0 off 8) v) s = .next s) ∧
      (discards s p k = false → ∃ t, exec (.registerWrite p (.bar0 off 8) v) s = .next t ∧ readOwn t off = v &&& m ∧
        t.cores = s.cores ∧ t.slices = s.slices ∧ t.dram.mem = s.dram.mem ∧ t.dram.regions = s.dram.regions ∧
        t.sched.nodes = s.sched.nodes)) ∧
    (∀ i v, i < 2 → discards s p 8 = false → exec (.registerWrite p (.bar0 (0x20 + 8 * i) 8) v) s =
      .next (onHost s (fun h => { h with hpath := mput 0 h.hpath i (v &&& 0x7F) }))) ∧
    (∀ v, discards s p 1 = false → exec (.registerWrite p (.bar0 0x30028 8) v) s =
      .next (onHost s (fun h => { h with tvecinit := (v &&& 0xFFFFFFFFFF00).setWidth 48 }))) ∧
    (∀ r j v, r < 16 → j < 34 → tablesCanon s = true → discards s p 0 = false → ∃ t,
      exec (.registerWrite p (.bar0 (0x20010 + 0x200 * r + 8 * j) 8) v) s = .next t ∧ mrow (regionRegs t r) j = v.setWidth 34 ∧
      ∀ i, i ≠ j → mrow (regionRegs t r) i = mrow (regionRegs s r) i) ∧
    (∀ n v, n < 16 → tablesCanon s = true → discards s p 4 = false → ∃ t,
      exec (.registerWrite p (.bar0 (0x60100 + 8 * n) 8) v) s = .next t ∧
      readOwn t (0x60100 + 8 * n) = (v &&& 0x703F) ||| if s.fab.up.getLsbD n = true then 0x8000 else 0) ∧
    (∀ j v, j < 8 → discards s p 4 = false → exec (.registerWrite p (.bar0 (0x60040 + 8 * j) 8) v) s =
      .next (onFab s (fun h => { h with keys := mput 0 h.keys j v }))) ∧
    (∀ base n, discards s p 5 = false →
      (s.sched.shfree.length = s.sched.shsize.toNat →
        let pool (b : Word) (size : BitVec 16) : State := onSched s (fun h => { h with
          shbase := b, shsize := size, shfree := (List.range size.toNat).map (fun i => (b.extractLsb' 18 21).toNat + i) })
        exec (.registerWrite p (.bar0 0x70000 8) base) s = .next (pool (base &&& 0x7FFFFC0000) s.sched.shsize) ∧
        exec (.registerWrite p (.bar0 0x70008 8) n) s = .next (pool s.sched.shbase (n.setWidth 16))) ∧
      (s.sched.shfree.length ≠ s.sched.shsize.toNat →
        exec (.registerWrite p (.bar0 0x70000 8) base) s = .next s ∧ exec (.registerWrite p (.bar0 0x70008 8) n) s = .next s)) ∧
    (∀ n v, n < 2048 → tablesCanon s = true → discards s p 7 = false →
      (∃ t, exec (.registerWrite p (.bar0 (0x100000 + 16 * n) 8) v) s = .next t ∧
        vector t.host n = (((vector s.host n) >>> 64) <<< 64 ||| v.setWidth 128)) ∧
      (∃ t, exec (.registerWrite p (.bar0 (0x100008 + 16 * n) 8) v) s = .next t ∧
        vector t.host n = ((vector s.host n).setWidth 64).setWidth 128 ||| (v &&& 0x3FFFFFFFF).setWidth 128 <<< 64)) ∧
    (∀ hc word v, hc < 512 → word < 8 → exec (.registerWrite p (.live hc word) v) s = .next (writeLive s hc word v))

/-- R278, R284, R331, R359, R406, R409, R412, R415: how the operations that a write starts end, host links, accesses of the host to
memory, and the message of an interrupt. What a commit waits for (log entry 70), where a parked wait reads after an invalidation
(71), what a context's end waits for (76), what lies outside the module (81), when a raised vector's message leaves (92) and
that a function in D3hot takes no memory request (135) are the model's choices. -/
def Obligations.HostSideRuns : Prop :=
  ∀ (s : State), s.host.power = true →
    (∀ r x, (regionRegs s r).pend = some x → ingressHolds s (fun _ _ => true) = false →
      (∀ e ∈ s.cores, ∀ m ∈ e.2.mem, m.acc = true ∨ ∀ q ∈ m.op.pieces, ∀ pa, q.pl = .dmem pa →
        inRegion x pa = false ∧ inRegion (mget none s.dram.regions r) pa = false) → exec (.interleaveCommitEnd r) s =
      .next (setRegs (onDram s (fun d => { d with regions := mput none d.regions r x })) r (fun g => { g with pend := none }))) ∧
    (∀ mode ctx va, s.host.tinv = some (mode, ctx, va) →
      let named (x : BitVec 16) : Bool := mode == 2 || x == ctx
      quietCtx s named = true → exec .tinvEnd s = .next (onHost
        (newTranslations
          (dropTlbs s (fun e => if mode = 0 then tlbHit ctx va e else if mode = 1 then e.ctx == ctx else true)) named)
        (fun h => { h with tinv := none }))) ∧
    (∀ w, s.fab.winvOn = some w → ingressHolds s (fun v _ => v == w) = false → exec .winvEnd s = .next (onFab s (fun h => { h with
      wcache := h.wcache.filter (fun e => e.1 != w), winvOn := none }))) ∧
    (∀ c, s.sched.killing = some c → ended s (fun x => x == c) = true → exec .ctxkillEnd s = .next (onHost
      (onSched (dropTlbs s (fun e => e.ctx == c)) (fun h =>
        { h with killing := none, nodes := h.nodes.filter (fun n => n.ctx != c) }))
      (fun h => { h with ctxkill := h.ctxkill &&& 0x7FFFFFFFFFFFFFFF }))) ∧
    (∀ port, port < 2 → (s.host.portUp.getLsbD port = false → s.host.state = 2 ∨ 4 ≤ s.host.step → exec (.hostLinkUp port) s =
        .next (onHost s (fun h => { h with portUp := h.portUp ||| BitVec.ofNat 2 (2 ^ port) }))) ∧
      (s.host.portUp.getLsbD port = true → exec (.hostLinkDown port) s = .next (onHost s (fun h =>
        { h with portUp := h.portUp &&& ~~~(BitVec.ofNat 2 (2 ^ port)), hsem := h.hsem.filter (fun e => e.2 != some port) })))) ∧
    (∀ port (d3 : Bool), port < 2 → s.host.portUp.getLsbD port = true → exec (.hostMemoryAccess (.powerState port d3)) s =
      .next (onHost s (fun h => { h with
        d3hot := if d3 = true then h.d3hot ||| BitVec.ofNat 2 (2 ^ port) else h.d3hot &&& ~~~BitVec.ofNat 2 (2 ^ port) }))) ∧
    (∀ port cxl pa len bs, port < 2 → s.host.state = 2 → s.host.portUp.getLsbD port = true → s.host.d3hot.getLsbD port = false →
      (∀ t, pa + len ≤ 2 ^ 39 → newGate s none (dmemPieces pa len) = some t →
        exec (.hostMemoryAccess (.read port cxl pa len)) s =
          .next (onHost t (fun h => { h with reply := (readPieces t none (dmemPieces pa len)).1 }))) ∧
      (pa + bs.length ≤ 2 ^ 39 → writeGates s none false (dmemPieces pa bs.length) = .go →
        exec (.hostMemoryAccess (.write port cxl pa bs)) s =
          .next (writePieces s (.host port) none (dmemPieces pa bs.length) bs false))) ∧
    (∀ ha bs, s.host.owned.any (fun l => decide (ha / 64 ≤ l) && decide (l ≤ (ha + bs.length - 1) / 64)) = false →
      exec (.hostMemoryAccess (.ownWrite ha bs)) s = .next (onHost s (fun h => { h with sys := putBytes h.sys ha bs }))) ∧
    (∀ v, let b := vector s.host v
      mget false s.host.pend v = true → vMasked b = false → s.host.portUp.getLsbD (vPort b) = true →
      exec (.interruptSend v) s = .next (onHost s (fun h => { h with
        pend := mput false h.pend v false,
        msgs := h.msgs ++ [(vPort b, (b.setWidth 64).toNat, ((b >>> 64).setWidth 32).toNat)] })))

/-- R400, R416-R418, R420: power, the six steps of a start, the management port, and the SPDM responder. The SPDM bodies (log entry
13), the sensors (14), a start's first write of STARTCTL (78), what a start leaves outside the module (81) and how a firmware image is
checked (117) are the model's choices. -/
def Obligations.PowerAndManagement : Prop :=
  ∀ (s : State),
    (s.host.power = false → exec .powerOn s =
      .next (onHost (outside s State.reset) (fun h => { h with power := true, state := 1, step := 1 }))) ∧
    (s.host.power = true →
      exec .powerRemoved s = .next (outside s State.reset) ∧
      (s.host.mgmtReady = false → 20000000 ≤ s.now →
        exec .managementReady s = .next (onHost s (fun h => { h with mgmtReady := true }))) ∧
      (∀ (images : List FwImage), s.host.state = 1 →
        (1 < s.host.step → exec (.startStepEnd false images) s = .next (onHost s (fun h => { h with state := 3 }))) ∧
        (s.host.step = 1 → ended s (fun _ => true) = true → s.host.warm = false ∨ s.dram.wq = [] →
          let digest (x : FwImage) : BitVec 256 := BitVec.ofNat 256 (leNat (sha256 x.image).reverse)
          let measured (l : List FwImage) : State := l.foldl (fun s x => measure s (x.stage, digest x)) (startReset s)
          (images.all fwValid = true →
            exec (.startStepEnd true images) s = .next (onHost (measured images) (fun h => { h with step := 2 }))) ∧
          (∀ good x rest, images = good ++ x :: rest → good.all fwValid = true → fwValid x = false →
            exec (.startStepEnd true images) s = .next (onHost (measured good) (fun h => { h with state := 3 })))) ∧
        (s.host.step = 2 ∨ s.host.step = 3 →
          exec (.startStepEnd true images) s = .next (onHost s (fun h => { h with step := h.step + 1 }))) ∧
        (s.host.step = 4 → exec (.startStepEnd true images) s =
          .next (if s.host.warm = true then onHost (endMigrations s) (fun h => { h with step := 6 })
            else onHost s (fun h => { h with step := 5 }))) ∧
        (s.host.step = 5 → exec (.startStepEnd true images) s =
          .next (onHost (onDram s (fun _ => Dram.reset)) (fun h => { h with step := 6 }))) ∧
        (s.host.step = 6 → exec (.startStepEnd true images) s = .next (onHost s (fun h => { h with state := 2 })))) ∧
      (s.host.mgmtReady = true →
        (∀ k, k < 10 → exec (.managementRequest (.temperature k)) s = .next (answer s (Config.sensor k s.now))) ∧
        exec (.managementRequest .power) s = .next (answer s (Config.sensor 10 s.now)) ∧
        exec (.managementRequest .devid) s = .next (answer s devid) ∧
        exec (.managementRequest .bootstat) s = .next (answer s (bootstat s)) ∧
        (∀ i, i < 64 → exec (.managementRequest (.rasLog i)) s = .next
          (onSched (answer s (nth 0 s.sched.raslog i)) (fun h => { h with rasNew := h.rasNew.filter (· != i) }))) ∧
        (∀ n i, n < 512 → i < 32 → exec (.managementRequest (.stewardLog n i)) s = .next
          (onHost (answer s (nth 0 (stewardAt s n).log i)) (fun h => { h with unread := h.unread.filter (fun e => e != (n, i)) }))) ∧
        (∀ v, exec (.managementRequest (.writePwrlim v)) s = .next (writePwrlim s v)) ∧
        (∀ v, exec (.managementRequest (.writeStartctl v)) s = .next (writeStartctl s v))) ∧
      (∀ ch, channelUp s ch = true →
        let k := spdmAt s ch
        let tells (code stage : Nat) (body : List Byte) : State := onHost s (fun h => { h with
          reply := Config.spdmBody code body,
          spdm := mput Spdm.reset h.spdm (channelNo ch) ⟨stage, Config.spdmBody code body⟩ })
        let need (n : Nat) (ok : Bool) (code stage : Nat) (body : List Byte) : State :=
          if n ≤ k.stage ∧ ok = true then tells code stage body else tells 0x7F k.stage []
        exec (.getVersion ch) s = .next (tells 0x04 1 [0x12]) ∧
        exec (.getCapabilities ch) s = .next (need 1 true 0x61 (max k.stage 2) []) ∧
        (∀ sign hash, exec (.negotiateAlgorithms ch sign hash) s =
          .next (need 2 (sign / 4 % 2 == 1 && hash % 2 == 1) 0x63 3 [4, 1])) ∧
        exec (.getDigests ch) s = .next (need 3 true 0x01 k.stage (sha256 Config.certChain)) ∧
        exec (.getCertificate ch) s = .next (need 3 true 0x02 k.stage Config.certChain) ∧
        (∀ nonce : BitVec 256, let n := natLe 32 nonce.toNat
          let m := (List.range 8).flatMap (fun j => (natLe 32 (mget 0 s.host.meas j).toNat).reverse)
          exec (.challenge ch nonce) s = .next (need 3 true 0x03 k.stage (sha256 Config.certChain ++ n ++ Config.sign n)) ∧
          exec (.getMeasurements ch nonce) s = .next (need 3 true 0x60 k.stage (m ++ n ++ Config.sign (m ++ n))))))

/-! ### The whole machine -/

/-- R420: without power nothing of the module runs: every instruction and every event but POWER_ON stops by name. -/
def Obligations.UnpoweredStops : Prop :=
  ∀ (s : State) (i : Instr), s.host.power = false → i ≠ .powerOn → exec i s = .fault .unpowered

/-- R54, R64, R65, R380, R381: an instruction of slot S or V leaves every memory, the DRAM, the host side, the fabric, the Stewards and every
other core as they were, whether it commits or traps. CALL and CALLI, which spill to memory, are left out: CallsAndReturns covers
them. -/
def Obligations.CoreInstructionsKeepOthers : Prop :=
  ∀ (s t : State) (i : Instr) (n : Nat), lone i s = true → slotOf i = some n → n < 2 → coresCanon s = true →
    (∀ x, i ≠ .call x) → (∀ x, i ≠ .calli x) → exec i s = .next t →
    t.slices = s.slices ∧ t.spoi = s.spoi ∧ t.ists = s.ists ∧ t.dram = s.dram ∧ t.host = s.host ∧ t.fab = s.fab ∧
      t.stewards = s.stewards ∧ t.now = s.now ∧ ∀ c, c ≠ s.cur → coreAt t c = coreAt s c

/-- R3, R187, R239, R411: every step keeps the memories, and the table of cores, in canonical form: keys strictly rising, nothing
listed that an unlisted key reads as. -/
def Obligations.MemoryStaysCanonical : Prop :=
  ∀ (s t : State), memCanon s = true → coresCanon s = true → step s = .next t → memCanon t = true ∧ coresCanon t = true

/-- R37, R276, R412, R415, R416, R419: reset. -/
def Obligations.ResetState : Prop :=
  memCanon State.reset = true ∧ coresCanon State.reset = true ∧ State.reset.host.power = false ∧ readOwn State.reset 0x08 = 0 ∧ readOwn State.reset 0x18 = 1600 ∧
    readOwn State.reset 0x20 = 0 ∧ readOwn State.reset 0x28 = 0 ∧ (∀ e ∈ State.reset.dram.regions, e.2 = none) ∧
    (∀ v < 2048, (vector State.reset.host v).getLsbD 96 = true) ∧ (∀ k < 32, hsemOwner State.reset k = none) ∧
    ∀ c, (coreAt State.reset c).csr.fpc.extractLsb' 5 2 = 0

/-- R53, R58-R68, R75, R302: for every well-formed slot instruction and Steward move, decoding its encoding gives it back; and a
word that decodes to an instruction is that instruction's encoding, so no bit of it is dropped. -/
def Obligations.EncodingsRoundTrip : Prop :=
  (∀ (i : Instr) (w : Nat), i.wf = true → encode i = some w → i ≠ .nop →
    (slotOf i = some 0 → decS (BitVec.ofNat 40 w) = .ins i) ∧ (slotOf i = some 1 → decV (BitVec.ofNat 56 w) = .ins i) ∧
    (slotOf i = some 2 → decM (BitVec.ofNat 32 w) = .ins i) ∧ (slotOf i = some 3 → decL (BitVec.ofNat 48 w) = .ins i) ∧
    (slotOf i = some 4 → decA (BitVec.ofNat 40 w) = .ins i) ∧ (slotOf i = some 5 → decX (BitVec.ofNat 24 w) = .ins i) ∧
    (slotOf i = none → decMove (BitVec.ofNat 24 w) = i)) ∧
  (∀ (i : Instr),
    (∀ w, decS w = .ins i → encode i = some w.toNat) ∧ (∀ w, decV w = .ins i → encode i = some w.toNat) ∧
    (∀ w, decM w = .ins i → encode i = some w.toNat) ∧ (∀ w, decL w = .ins i → encode i = some w.toNat) ∧
    (∀ w, decA w = .ins i → encode i = some w.toNat) ∧ (∀ w, decX w = .ins i → encode i = some w.toNat) ∧
    (∀ w, decMove w = i → encode i = some w.toNat))

/-- R53, R61, R62, R64-R68, R75, R192, R302: words put together from the encoding tables decode to the instructions they stand
for; the zero field is NOP, an opcode that no table assigns is refused. -/
def Obligations.DecodedWords : Prop :=
  decS 0x808301 = .ins (.add ⟨0, 0, 2, 1, 3⟩) ∧
    decS 0xFFFFC20520 = .ins (.addi ⟨0x3FFFF, 4, 5⟩) ∧
    decS 0xFFFF048951 = .ins (.bc ⟨0xFFFF0, 0, 1, 1, 9⟩) ∧
    decV 0xAD3182020013 = .ins (.vfma ⟨0, 1, 0xB, 2, 3, 12, 8, 4, 0⟩) ∧
    decL 0x2003FE008601 = .ins (.ld ⟨4, 0, 0x1F, 0x78, 1, 6⟩) ∧
    decL 0x4B0100038610 = .ins (.atom ⟨9, 0x30, 8, 0, 7, 6⟩) ∧
    decM 0x38601 = .ins (.mjob ⟨0, 7, 6⟩) ∧
    decX 0xFFFF03 = .ins (.xset ⟨0x1F, 0x7F, 15⟩) ∧
    decA 0x20C10118 = .ins (.gsetMint ⟨0, 1, 3, 2, 1⟩) ∧
    decMove 0x602841 = .aluAdd ⟨1, 0x405⟩ ∧
    decMove 0x814D = .bkeRed ⟨0, 0x10⟩ 2 ∧
    decS 0 = .nop ∧
    decS 0x1B = .bad 0 ∧
    decV 0x100 = .bad 1
end

