-- ==== Sys2Proof/Laws/Bundle.lean ====
section
/-! SUPPORT. Bundle.lean: what a bundle of one instruction does, once for every slot instruction. -/

namespace Sys2Proof.Machine
open Sys2Proof

/-- A core that can issue opens its bundle at the boundary. -/
theorem openBundle_of_canIssue {s : State} (h : canIssue s = true) :
    openBundle s = .run (entered s) (reading s) := by
  have key : ∀ k : Core, issues s k = true → k.park.all (·.res.isSome) = true → k.gwait = none →
      k.postTrap.find? (fun e => e.1 == k.level) = none → k.cpub = none → drainHolds k = false → frozen k = false →
      openOn s k = .run (setCore s s.cur k) (newFrame (landDue k) s.hdr) := by
    intro k hi hp hg ht hc hd hf
    unfold openOn
    cases hpk : k.park with
    | none => simp only [hi, hg, hd, hf, ht, hc]; rfl
    | some p =>
      obtain ⟨a, b, c, d, r, e⟩ := p
      rw [hpk] at hp
      cases r with
      | none => simp at hp
      | some r => simp only [hi, hg, hd, hf, ht, hc]; rfl
  simp only [canIssue, Bool.and_eq_true, Bool.not_eq_true', Option.isNone_iff_eq_none] at h
  obtain ⟨⟨⟨⟨⟨⟨⟨⟨-, -⟩, hi⟩, hp, -⟩, hg⟩, ht⟩, hc⟩, hd⟩, hf⟩ := h
  exact key (fenced s) hi hp hg ht hc hd hf

theorem canIssue_power {s : State} (h : canIssue s = true) : s.host.power = true ∧ s.frame = none := by
  simp only [canIssue, Bool.and_eq_true, Option.isNone_iff_eq_none] at h
  exact h.1.1.1.1.1.1.1

/-- The frame in which slot `n` of a bundle that holds only `i` has its effect. -/
def loneFrame (i : Instr) (n : Nat) (f : Frame) : Frame :=
  let u := uses i
  { f with
    used := slotBit n, writes := (written u).map (fun e => (n, fileNum e.1, e.2)), slots := [(n, i)],
    ports := (List.range 5).map (fun j => (fileNum j, n, nth 0 (readPorts u) j, nth 0 (writePorts u) j)) }

theorem slotOf_lt {i : Instr} {n : Nat} (h : slotOf i = some n) : n < 6 := by
  cases i <;> cases h <;> decide

/-- No instruction alone exceeds a budget of R69. -/
def usesOk (u : Uses) : Bool :=
  Nat.ble (u.s.length + 2 * u.sp.length) 8 && Nat.ble u.v.length 4 && Nat.ble u.p.length 2 && Nat.ble u.sc.length 2 &&
  Nat.ble u.g.length 2 && Nat.ble (u.ws.length + 2 * u.wsp.length) 4 && Nat.ble u.wv.length 2 && Nat.ble u.wp.length 2 &&
  Nat.ble u.wx.length 1 && Nat.ble u.wg.length 1

theorem usesOk_uV (x : VF) (b c : Bool) (g : Nat) : usesOk (uV x b c g) = true := by
  unfold uV; cases b <;> cases c <;> cases x.f.getLsbD 6 <;> rfl
theorem usesOk_uses (i : Instr) : usesOk (uses i) = true := by
  cases i
  case pset x => unfold uses; dsimp only; split <;> rfl
  case vbcast x => unfold uses; dsimp only; split <;> rfl
  case viota x => unfold uses; dsimp only; split <;> rfl
  case vpart x => unfold uses; dsimp only; split <;> rfl
  case vcvt x => unfold uses; dsimp only; split <;> rfl
  case vqnt x => unfold uses; dsimp only; split <;> rfl
  case vdqnt x => unfold uses; dsimp only; split <;> rfl
  case ld x => unfold uses uLS; dsimp only; split <;> rfl
  case st x => unfold uses uLS; dsimp only; split <;> rfl
  case ldr x => unfold uses uLS; dsimp only; split <;> rfl
  case vld x => unfold uses uLV; dsimp only; split <;> rfl
  case vst x => unfold uses uLV; dsimp only; split <;> rfl
  case ssig x => unfold uses; dsimp only; split <;> rfl
  case carav x => unfold uses; dsimp only; split <;> rfl
  case vadd | vsub | vadds | vsubs | vmul | vmulh | vmin | vmax | vand | vor | vxor | vshl | vshr | vsar | vfadd | vfsub | vfmul | vfmin | vfmax | vfsgn | vrcpn | vrsqn | vcmp | vabsnt | vnrm | vgath | vzip | vunzip | vexpand | vcompress | vfma | vsel | vperm | vabs | vrcp | vrsq | vexp2 | vlog2 | vclass | vpres | vscan | vred | vmaxa => exact usesOk_uV _ _ _ _
  all_goals rfl

theorem tokAcquire_noToken {f : Frame} {u : Uses} (h : noToken f.pre u = true) : tokAcquire f u = f := by
  unfold noToken at h
  unfold tokAcquire
  extract_lets rs
  have : rs.any (fun r => f.pre.toks.contains r) = false := by
    rw [List.any_eq_false]
    intro r hr
    have := List.all_eq_true.1 h r hr
    simpa using this
  rw [this]
  rfl

/-- Issuing the one slot of a legal bundle: its effect, in the frame that names it. -/
theorem slotIn_lone {i : Instr} {n : Nat} {k : Core} {hdr : BitVec 16} {g : Frame → Frame} (hs : slotOf i = some n)
    (hl : legalAlone hdr k i n = true) (hw : waits k i = false) (ht : noToken k (uses i) = true) :
    slotIn i g (newFrame k hdr) = g (loneFrame i n (newFrame k hdr)) := by
  unfold slotIn
  simp only [hs]
  unfold legalAlone at hl
  simp only [Bool.and_eq_true, List.isEmpty_iff] at hl
  obtain ⟨⟨⟨hc, -⟩, -⟩, hb⟩ := hl
  have hk : (newFrame k hdr).pre = k := rfl
  have hbo : boosted (newFrame k hdr) n = (hdrBoost hdr).getLsbD n := rfl
  rw [hk, hbo, hc]
  cases hd : (hdrBoost hdr).getLsbD n with
  | true =>
    rw [hd] at hb
    simp only [if_true, Bool.and_eq_true, Bool.not_eq_true'] at hb
    simp only [hw, hb.1, hb.2]
    rw [tokAcquire_noToken ht]
    simp [loneFrame, newFrame, slotBit]
  | false =>
    rw [hd] at hb
    have hb' : (latchReads (uses i)).any (fun j => k.latBoost.getLsbD j) = false := by
      rw [List.any_eq_false]
      intro j hj
      have := List.all_eq_true.1 hb j hj
      simpa using this
    simp only [hw, hb']
    rw [tokAcquire_noToken ht]
    simp [loneFrame, newFrame, slotBit]

end Sys2Proof.Machine
end

