-- ==== Sys2Proof/Laws/Sparse.lean ====
section
/-! SUPPORT. Sparse.lean: reading and writing sparse tables, and their canonical form. -/

namespace Sys2Proof.Machine

variable {α : Type}

theorem mget_mins_self (z : α) (m : SMap α) (n : Nat) (v : α) : mget z (mins m n v) n = v := by
  induction m with
  | nil => simp [mins, mget]
  | cons e t ih =>
    obtain ⟨k, w⟩ := e
    unfold mins
    split
    · simp [mget]
    · split
      · simp [mget]
      · next h1 h2 => simp only [mget, h1, h2, if_false]; exact ih

theorem mget_mput_of_ne [DecidableEq α] (z : α) (m : SMap α) (n : Nat) (v : α) (h : v ≠ z) : mget z (mput z m n v) n = v := by
  unfold mput
  rw [if_neg h, mget_mins_self]

/-- Keys above a bound. -/
theorem rising_weaken {lo hi : Nat} {m : SMap α} (h : rising (some hi) m = true) (hl : lo ≤ hi) :
    rising (some lo) m = true := by
  cases m with
  | nil => rfl
  | cons e t =>
    obtain ⟨k, w⟩ := e
    simp only [rising, Bool.and_eq_true, decide_eq_true_eq] at h ⊢
    exact ⟨by omega, h.2⟩

theorem rising_none {lo : Nat} {m : SMap α} (h : rising (some lo) m = true) : rising none m = true := by
  cases m with
  | nil => rfl
  | cons e t =>
    obtain ⟨k, w⟩ := e
    simp only [rising, Bool.and_eq_true, decide_eq_true_eq] at h ⊢
    simpa using h.2

theorem mget_of_rising {z : α} {lo : Nat} {m : SMap α} (h : rising (some lo) m = true) {n : Nat} (hn : n ≤ lo) :
    mget z m n = z := by
  cases m with
  | nil => rfl
  | cons e t =>
    obtain ⟨k, w⟩ := e
    simp only [rising, Bool.and_eq_true, decide_eq_true_eq] at h
    simp only [mget]
    rw [if_pos (by omega)]

theorem rising_mins {lo : Option Nat} {m : SMap α} {n : Nat} {v : α} (h : rising lo m = true)
    (hn : ∀ l, lo = some l → l < n) : rising lo (mins m n v) = true := by
  induction m generalizing lo with
  | nil => cases lo <;> simp [mins, rising]; exact hn _ rfl
  | cons e t ih =>
    obtain ⟨k, w⟩ := e
    simp only [rising, Bool.and_eq_true] at h
    unfold mins
    split
    · next hk =>
      have h2 : rising (some n) ((k, w) :: t) = true := by simp only [rising, Bool.and_eq_true]; exact ⟨by simpa using hk, h.2⟩
      cases lo with
      | none => simp only [rising, Bool.true_and]; exact h2
      | some l => unfold rising; simp only [Bool.and_eq_true, decide_eq_true_eq]; exact ⟨hn l rfl, h2⟩
    · split
      · next hk1 hk2 =>
        subst hk2
        simp only [rising, Bool.and_eq_true]
        exact h
      · next hk1 hk2 =>
        simp only [rising, Bool.and_eq_true]
        exact ⟨h.1, ih h.2 (fun l hl => by cases hl; omega)⟩

theorem rising_mdel {lo : Option Nat} {m : SMap α} {n : Nat} (h : rising lo m = true) : rising lo (mdel m n) = true := by
  induction m generalizing lo with
  | nil => rfl
  | cons e t ih =>
    obtain ⟨k, w⟩ := e
    have h' := h
    simp only [rising, Bool.and_eq_true] at h
    unfold mdel
    split
    · exact h'
    · split
      · cases lo with
        | none => exact rising_none h.2
        | some l => exact rising_weaken h.2 (by have := h.1; simp only [decide_eq_true_eq] at this; omega)
      · simp only [rising, Bool.and_eq_true]
        exact ⟨h.1, ih h.2⟩

theorem mem_mins {m : SMap α} {n : Nat} {v : α} {e : Nat × α} (h : e ∈ mins m n v) : e = (n, v) ∨ e ∈ m := by
  induction m with
  | nil => simp [mins] at h; exact .inl h
  | cons a t ih =>
    obtain ⟨k, w⟩ := a
    unfold mins at h
    split at h
    · simpa using h
    · split at h
      · rcases List.mem_cons.1 h with h | h
        · exact .inl h
        · exact .inr (List.mem_cons_of_mem _ h)
      · rcases List.mem_cons.1 h with h | h
        · exact .inr (by rw [h]; exact List.mem_cons_self)
        · rcases ih h with h | h
          · exact .inl h
          · exact .inr (List.mem_cons_of_mem _ h)

theorem mem_mdel {m : SMap α} {n : Nat} {e : Nat × α} (h : e ∈ mdel m n) : e ∈ m := by
  induction m with
  | nil => exact h
  | cons a t ih =>
    obtain ⟨k, w⟩ := a
    unfold mdel at h
    split at h
    · exact h
    · split at h
      · exact List.mem_cons_of_mem _ h
      · rcases List.mem_cons.1 h with h | h
        · rw [h]; exact List.mem_cons_self
        · exact List.mem_cons_of_mem _ (ih h)

/-- Writing keeps the canonical form. -/
theorem canon_mput [DecidableEq α] {z : α} {m : SMap α} (h : canon z m = true) (n : Nat) (v : α) : canon z (mput z m n v) = true := by
  simp only [canon, Bool.and_eq_true, List.all_eq_true, decide_eq_true_eq] at h ⊢
  unfold mput
  split
  · exact ⟨rising_mdel h.1, fun e he => h.2 e (mem_mdel he)⟩
  · next hv =>
    refine ⟨rising_mins h.1 (fun l hl => by cases hl), fun e he => ?_⟩
    rcases mem_mins he with he | he
    · rw [he]; exact hv
    · exact h.2 e he

/-- A table in canonical form reads back what was written, and nothing else changes. -/
theorem mget_mput [DecidableEq α] {z : α} {m : SMap α} (h : canon z m = true) (n : Nat) (v : α) (k : Nat) :
    mget z (mput z m n v) k = if k = n then v else mget z m k := by
  have hr : rising none m = true := by simp only [canon, Bool.and_eq_true] at h; exact h.1
  have key : ∀ (lo : Option Nat) (m : SMap α), rising lo m = true →
      (mget z (mins m n v) k = if k = n then v else mget z m k) ∧ (mget z (mdel m n) k = if k = n then z else mget z m k) := by
    intro lo m
    induction m generalizing lo with
    | nil =>
      intro _
      simp only [mins, mdel, mget]
      refine ⟨?_, by simp⟩
      split
      · next hk => rw [if_neg (by omega)]
      · rfl
    | cons e t ih =>
      obtain ⟨i, w⟩ := e
      intro hm
      simp only [rising, Bool.and_eq_true] at hm
      obtain ⟨h1, h2⟩ := ih (some i) hm.2
      have hz : k ≤ i → mget z t k = z := mget_of_rising hm.2
      rcases Nat.lt_trichotomy n i with hn | hn | hn
      · have e1 : mins ((i, w) :: t) n v = (n, v) :: (i, w) :: t := by unfold mins; rw [if_pos hn]
        have e2 : mdel ((i, w) :: t) n = (i, w) :: t := by unfold mdel; rw [if_pos hn]
        rw [e1, e2]
        simp only [mget]
        constructor <;> split_ifs <;> first | rfl | omega
      · subst hn
        have e1 : mins ((n, w) :: t) n v = (n, v) :: t := by unfold mins; rw [if_neg (by omega), if_pos rfl]
        have e2 : mdel ((n, w) :: t) n = t := by unfold mdel; rw [if_neg (by omega), if_pos rfl]
        rw [e1, e2]
        simp only [mget]
        constructor <;> split_ifs <;> first | rfl | omega | (exact hz (by omega))
      · have e1 : mins ((i, w) :: t) n v = (i, w) :: mins t n v := by
          rw [mins]; rw [if_neg (by omega), if_neg (by omega)]
        have e2 : mdel ((i, w) :: t) n = (i, w) :: mdel t n := by
          rw [mdel]; rw [if_neg (by omega), if_neg (by omega)]
        rw [e1, e2]
        simp only [mget, h1, h2]
        constructor <;> split_ifs <;> first | rfl | omega
  unfold mput
  split
  · next hv => rw [(key none m hr).2, hv]
  · exact (key none m hr).1

theorem rising_filter {p : Nat × α → Bool} {lo : Option Nat} {m : SMap α} (h : rising lo m = true) :
    rising lo (m.filter p) = true := by
  induction m generalizing lo with
  | nil => rfl
  | cons e t ih =>
    obtain ⟨k, w⟩ := e
    simp only [rising, Bool.and_eq_true] at h
    rw [List.filter_cons]
    split
    · simp only [rising, Bool.and_eq_true]; exact ⟨h.1, ih h.2⟩
    · refine ih ?_
      cases lo with
      | none => exact rising_none h.2
      | some l => exact rising_weaken h.2 (by have := h.1; simp only [decide_eq_true_eq] at this; omega)

theorem canon_filter [DecidableEq α] {z : α} {m : SMap α} (p : Nat × α → Bool) (h : canon z m = true) : canon z (m.filter p) = true := by
  simp only [canon, Bool.and_eq_true, List.all_eq_true] at h ⊢
  exact ⟨rising_filter h.1, fun e he => h.2 e (List.mem_filter.1 he).1⟩

theorem rising_mmap [DecidableEq α] {z : α} {f : Nat → α → α} {lo : Option Nat} {m : SMap α} (h : rising lo m = true) :
    rising lo (mmap z m f) = true := by
  induction m generalizing lo with
  | nil => rfl
  | cons e t ih =>
    obtain ⟨k, w⟩ := e
    simp only [rising, Bool.and_eq_true] at h
    unfold mmap
    rw [List.filterMap_cons]
    dsimp only
    split
    · refine ih ?_
      cases lo with
      | none => exact rising_none h.2
      | some l => exact rising_weaken h.2 (by have := h.1; simp only [decide_eq_true_eq] at this; omega)
    · next b hb =>
      split at hb
      · cases hb
      · cases hb
        simp only [rising, Bool.and_eq_true]; exact ⟨h.1, ih h.2⟩

/-- Mapping a table keeps its canonical form. -/
theorem canon_mmap [DecidableEq α] {z : α} {m : SMap α} (f : Nat → α → α) (h : canon z m = true) : canon z (mmap z m f) = true := by
  simp only [canon, Bool.and_eq_true, List.all_eq_true] at h ⊢
  refine ⟨rising_mmap h.1, fun e he => ?_⟩
  obtain ⟨a, _, ha⟩ := List.mem_filterMap.1 he
  split at ha
  · cases ha
  · next hz => cases ha; exact decide_eq_true hz

theorem canon_mputs [DecidableEq α] {z : α} {m : SMap α} (h : canon z m = true) (es : List (Nat × α)) : canon z (mputs z m es) = true := by
  unfold mputs
  induction es generalizing m with
  | nil => exact h
  | cons e t ih => exact ih (canon_mput h _ _)

theorem canon_mcopy [DecidableEq α] {z : α} {m : SMap α} (h : canon z m = true) (a b n : Nat) : canon z (mcopy z m a b n) = true :=
  canon_mputs (canon_filter _ h) _

/-- Writing bytes keeps a memory in canonical form. -/
theorem wf_putBytes {m : Bytes} (h : Memory.wf m = true) (a : Nat) (bs : List Byte) : Memory.wf (putBytes m a bs) = true := by
  induction bs generalizing m a with
  | nil => exact h
  | cons b t ih => exact ih (canon_mput h a b) (a + 1)

/-- A byte after bytes were written: the byte written there, or the old one. -/
theorem byteAt_putBytes {m : Bytes} (h : Memory.wf m = true) (a : Nat) (bs : List Byte) (k : Nat) :
    byteAt (putBytes m a bs) k = if a ≤ k ∧ k < a + bs.length then bs.getD (k - a) 0 else byteAt m k := by
  induction bs generalizing m a with
  | nil => simp [putBytes]
  | cons b t ih =>
    unfold putBytes
    rw [ih (canon_mput h a b)]
    have hb : byteAt (mput 0 m a b) k = if k = a then b else byteAt m k := mget_mput h a b k
    rw [hb]
    by_cases h1 : k = a
    · subst h1; simp
    · by_cases h2 : a + 1 ≤ k ∧ k < a + 1 + t.length
      · have h3 : a ≤ k ∧ k < a + (b :: t).length := by simp only [List.length_cons]; omega
        rw [if_pos h2, if_pos h3]
        obtain ⟨j, rfl⟩ : ∃ j, k = a + 1 + j := ⟨k - (a + 1), by omega⟩
        have e1 : a + 1 + j - (a + 1) = j := by omega
        have e2 : a + 1 + j - a = j + 1 := by omega
        rw [e1, e2]
        rfl
      · have h3 : ¬ (a ≤ k ∧ k < a + (b :: t).length) := by simp only [List.length_cons]; omega
        rw [if_neg h2, if_neg h3, if_neg h1]

end Sys2Proof.Machine
end

