-- ==== Sys2Proof/Laws/State.lean ====
section
/-! SUPPORT. State.lean: what each named update of the state does to each of its fields. -/

namespace Sys2Proof.Machine

/-! ### setCore -/

@[simp] theorem setCore_agenda (s : State) (c : Nat) (k : Core) : (setCore s c k).agenda = s.agenda := rfl
@[simp] theorem setCore_cur (s : State) (c : Nat) (k : Core) : (setCore s c k).cur = s.cur := rfl
@[simp] theorem setCore_hdr (s : State) (c : Nat) (k : Core) : (setCore s c k).hdr = s.hdr := rfl
@[simp] theorem setCore_choice (s : State) (c : Nat) (k : Core) : (setCore s c k).choice = s.choice := rfl
@[simp] theorem setCore_frame (s : State) (c : Nat) (k : Core) : (setCore s c k).frame = s.frame := rfl
@[simp] theorem setCore_sframe (s : State) (c : Nat) (k : Core) : (setCore s c k).sframe = s.sframe := rfl
@[simp] theorem setCore_now (s : State) (c : Nat) (k : Core) : (setCore s c k).now = s.now := rfl
@[simp] theorem setCore_cores (s : State) (c : Nat) (k : Core) : (setCore s c k).cores = mput Core.idle s.cores c k := rfl
@[simp] theorem setCore_slices (s : State) (c : Nat) (k : Core) : (setCore s c k).slices = s.slices := rfl
@[simp] theorem setCore_spoi (s : State) (c : Nat) (k : Core) : (setCore s c k).spoi = s.spoi := rfl
@[simp] theorem setCore_ists (s : State) (c : Nat) (k : Core) : (setCore s c k).ists = s.ists := rfl
@[simp] theorem setCore_clusters (s : State) (c : Nat) (k : Core) : (setCore s c k).clusters = s.clusters := rfl
@[simp] theorem setCore_stewards (s : State) (c : Nat) (k : Core) : (setCore s c k).stewards = s.stewards := rfl
@[simp] theorem setCore_dram (s : State) (c : Nat) (k : Core) : (setCore s c k).dram = s.dram := rfl
@[simp] theorem setCore_sched (s : State) (c : Nat) (k : Core) : (setCore s c k).sched = s.sched := rfl
@[simp] theorem setCore_fab (s : State) (c : Nat) (k : Core) : (setCore s c k).fab = s.fab := rfl
@[simp] theorem setCore_host (s : State) (c : Nat) (k : Core) : (setCore s c k).host = s.host := rfl

/-! ### onDram -/

@[simp] theorem onDram_agenda (s : State) (f : Dram → Dram) : (onDram s f).agenda = s.agenda := rfl
@[simp] theorem onDram_cur (s : State) (f : Dram → Dram) : (onDram s f).cur = s.cur := rfl
@[simp] theorem onDram_hdr (s : State) (f : Dram → Dram) : (onDram s f).hdr = s.hdr := rfl
@[simp] theorem onDram_choice (s : State) (f : Dram → Dram) : (onDram s f).choice = s.choice := rfl
@[simp] theorem onDram_frame (s : State) (f : Dram → Dram) : (onDram s f).frame = s.frame := rfl
@[simp] theorem onDram_sframe (s : State) (f : Dram → Dram) : (onDram s f).sframe = s.sframe := rfl
@[simp] theorem onDram_now (s : State) (f : Dram → Dram) : (onDram s f).now = s.now := rfl
@[simp] theorem onDram_cores (s : State) (f : Dram → Dram) : (onDram s f).cores = s.cores := rfl
@[simp] theorem onDram_slices (s : State) (f : Dram → Dram) : (onDram s f).slices = s.slices := rfl
@[simp] theorem onDram_spoi (s : State) (f : Dram → Dram) : (onDram s f).spoi = s.spoi := rfl
@[simp] theorem onDram_ists (s : State) (f : Dram → Dram) : (onDram s f).ists = s.ists := rfl
@[simp] theorem onDram_clusters (s : State) (f : Dram → Dram) : (onDram s f).clusters = s.clusters := rfl
@[simp] theorem onDram_stewards (s : State) (f : Dram → Dram) : (onDram s f).stewards = s.stewards := rfl
@[simp] theorem onDram_dram (s : State) (f : Dram → Dram) : (onDram s f).dram = f s.dram := rfl
@[simp] theorem onDram_sched (s : State) (f : Dram → Dram) : (onDram s f).sched = s.sched := rfl
@[simp] theorem onDram_fab (s : State) (f : Dram → Dram) : (onDram s f).fab = s.fab := rfl
@[simp] theorem onDram_host (s : State) (f : Dram → Dram) : (onDram s f).host = s.host := rfl

/-! ### onHost -/

@[simp] theorem onHost_agenda (s : State) (f : HostSide → HostSide) : (onHost s f).agenda = s.agenda := rfl
@[simp] theorem onHost_cur (s : State) (f : HostSide → HostSide) : (onHost s f).cur = s.cur := rfl
@[simp] theorem onHost_hdr (s : State) (f : HostSide → HostSide) : (onHost s f).hdr = s.hdr := rfl
@[simp] theorem onHost_choice (s : State) (f : HostSide → HostSide) : (onHost s f).choice = s.choice := rfl
@[simp] theorem onHost_frame (s : State) (f : HostSide → HostSide) : (onHost s f).frame = s.frame := rfl
@[simp] theorem onHost_sframe (s : State) (f : HostSide → HostSide) : (onHost s f).sframe = s.sframe := rfl
@[simp] theorem onHost_now (s : State) (f : HostSide → HostSide) : (onHost s f).now = s.now := rfl
@[simp] theorem onHost_cores (s : State) (f : HostSide → HostSide) : (onHost s f).cores = s.cores := rfl
@[simp] theorem onHost_slices (s : State) (f : HostSide → HostSide) : (onHost s f).slices = s.slices := rfl
@[simp] theorem onHost_spoi (s : State) (f : HostSide → HostSide) : (onHost s f).spoi = s.spoi := rfl
@[simp] theorem onHost_ists (s : State) (f : HostSide → HostSide) : (onHost s f).ists = s.ists := rfl
@[simp] theorem onHost_clusters (s : State) (f : HostSide → HostSide) : (onHost s f).clusters = s.clusters := rfl
@[simp] theorem onHost_stewards (s : State) (f : HostSide → HostSide) : (onHost s f).stewards = s.stewards := rfl
@[simp] theorem onHost_dram (s : State) (f : HostSide → HostSide) : (onHost s f).dram = s.dram := rfl
@[simp] theorem onHost_sched (s : State) (f : HostSide → HostSide) : (onHost s f).sched = s.sched := rfl
@[simp] theorem onHost_fab (s : State) (f : HostSide → HostSide) : (onHost s f).fab = s.fab := rfl
@[simp] theorem onHost_host (s : State) (f : HostSide → HostSide) : (onHost s f).host = f s.host := rfl

/-! ### onSched -/

@[simp] theorem onSched_agenda (s : State) (f : Sched → Sched) : (onSched s f).agenda = s.agenda := rfl
@[simp] theorem onSched_cur (s : State) (f : Sched → Sched) : (onSched s f).cur = s.cur := rfl
@[simp] theorem onSched_hdr (s : State) (f : Sched → Sched) : (onSched s f).hdr = s.hdr := rfl
@[simp] theorem onSched_choice (s : State) (f : Sched → Sched) : (onSched s f).choice = s.choice := rfl
@[simp] theorem onSched_frame (s : State) (f : Sched → Sched) : (onSched s f).frame = s.frame := rfl
@[simp] theorem onSched_sframe (s : State) (f : Sched → Sched) : (onSched s f).sframe = s.sframe := rfl
@[simp] theorem onSched_now (s : State) (f : Sched → Sched) : (onSched s f).now = s.now := rfl
@[simp] theorem onSched_cores (s : State) (f : Sched → Sched) : (onSched s f).cores = s.cores := rfl
@[simp] theorem onSched_slices (s : State) (f : Sched → Sched) : (onSched s f).slices = s.slices := rfl
@[simp] theorem onSched_spoi (s : State) (f : Sched → Sched) : (onSched s f).spoi = s.spoi := rfl
@[simp] theorem onSched_ists (s : State) (f : Sched → Sched) : (onSched s f).ists = s.ists := rfl
@[simp] theorem onSched_clusters (s : State) (f : Sched → Sched) : (onSched s f).clusters = s.clusters := rfl
@[simp] theorem onSched_stewards (s : State) (f : Sched → Sched) : (onSched s f).stewards = s.stewards := rfl
@[simp] theorem onSched_dram (s : State) (f : Sched → Sched) : (onSched s f).dram = s.dram := rfl
@[simp] theorem onSched_sched (s : State) (f : Sched → Sched) : (onSched s f).sched = f s.sched := rfl
@[simp] theorem onSched_fab (s : State) (f : Sched → Sched) : (onSched s f).fab = s.fab := rfl
@[simp] theorem onSched_host (s : State) (f : Sched → Sched) : (onSched s f).host = s.host := rfl

/-! ### onFab -/

@[simp] theorem onFab_agenda (s : State) (f : Fabric → Fabric) : (onFab s f).agenda = s.agenda := rfl
@[simp] theorem onFab_cur (s : State) (f : Fabric → Fabric) : (onFab s f).cur = s.cur := rfl
@[simp] theorem onFab_hdr (s : State) (f : Fabric → Fabric) : (onFab s f).hdr = s.hdr := rfl
@[simp] theorem onFab_choice (s : State) (f : Fabric → Fabric) : (onFab s f).choice = s.choice := rfl
@[simp] theorem onFab_frame (s : State) (f : Fabric → Fabric) : (onFab s f).frame = s.frame := rfl
@[simp] theorem onFab_sframe (s : State) (f : Fabric → Fabric) : (onFab s f).sframe = s.sframe := rfl
@[simp] theorem onFab_now (s : State) (f : Fabric → Fabric) : (onFab s f).now = s.now := rfl
@[simp] theorem onFab_cores (s : State) (f : Fabric → Fabric) : (onFab s f).cores = s.cores := rfl
@[simp] theorem onFab_slices (s : State) (f : Fabric → Fabric) : (onFab s f).slices = s.slices := rfl
@[simp] theorem onFab_spoi (s : State) (f : Fabric → Fabric) : (onFab s f).spoi = s.spoi := rfl
@[simp] theorem onFab_ists (s : State) (f : Fabric → Fabric) : (onFab s f).ists = s.ists := rfl
@[simp] theorem onFab_clusters (s : State) (f : Fabric → Fabric) : (onFab s f).clusters = s.clusters := rfl
@[simp] theorem onFab_stewards (s : State) (f : Fabric → Fabric) : (onFab s f).stewards = s.stewards := rfl
@[simp] theorem onFab_dram (s : State) (f : Fabric → Fabric) : (onFab s f).dram = s.dram := rfl
@[simp] theorem onFab_sched (s : State) (f : Fabric → Fabric) : (onFab s f).sched = s.sched := rfl
@[simp] theorem onFab_fab (s : State) (f : Fabric → Fabric) : (onFab s f).fab = f s.fab := rfl
@[simp] theorem onFab_host (s : State) (f : Fabric → Fabric) : (onFab s f).host = s.host := rfl

/-! ### setCluster -/

@[simp] theorem setCluster_agenda (s : State) (n : Nat) (f : Cluster → Cluster) : (setCluster s n f).agenda = s.agenda := rfl
@[simp] theorem setCluster_cur (s : State) (n : Nat) (f : Cluster → Cluster) : (setCluster s n f).cur = s.cur := rfl
@[simp] theorem setCluster_hdr (s : State) (n : Nat) (f : Cluster → Cluster) : (setCluster s n f).hdr = s.hdr := rfl
@[simp] theorem setCluster_choice (s : State) (n : Nat) (f : Cluster → Cluster) : (setCluster s n f).choice = s.choice := rfl
@[simp] theorem setCluster_frame (s : State) (n : Nat) (f : Cluster → Cluster) : (setCluster s n f).frame = s.frame := rfl
@[simp] theorem setCluster_sframe (s : State) (n : Nat) (f : Cluster → Cluster) : (setCluster s n f).sframe = s.sframe := rfl
@[simp] theorem setCluster_now (s : State) (n : Nat) (f : Cluster → Cluster) : (setCluster s n f).now = s.now := rfl
@[simp] theorem setCluster_cores (s : State) (n : Nat) (f : Cluster → Cluster) : (setCluster s n f).cores = s.cores := rfl
@[simp] theorem setCluster_slices (s : State) (n : Nat) (f : Cluster → Cluster) : (setCluster s n f).slices = s.slices := rfl
@[simp] theorem setCluster_spoi (s : State) (n : Nat) (f : Cluster → Cluster) : (setCluster s n f).spoi = s.spoi := rfl
@[simp] theorem setCluster_ists (s : State) (n : Nat) (f : Cluster → Cluster) : (setCluster s n f).ists = s.ists := rfl
@[simp] theorem setCluster_clusters (s : State) (n : Nat) (f : Cluster → Cluster) : (setCluster s n f).clusters = mput Cluster.empty s.clusters n (f (cluster s n)) := rfl
@[simp] theorem setCluster_stewards (s : State) (n : Nat) (f : Cluster → Cluster) : (setCluster s n f).stewards = s.stewards := rfl
@[simp] theorem setCluster_dram (s : State) (n : Nat) (f : Cluster → Cluster) : (setCluster s n f).dram = s.dram := rfl
@[simp] theorem setCluster_sched (s : State) (n : Nat) (f : Cluster → Cluster) : (setCluster s n f).sched = s.sched := rfl
@[simp] theorem setCluster_fab (s : State) (n : Nat) (f : Cluster → Cluster) : (setCluster s n f).fab = s.fab := rfl
@[simp] theorem setCluster_host (s : State) (n : Nat) (f : Cluster → Cluster) : (setCluster s n f).host = s.host := rfl

/-! ### setSteward -/

@[simp] theorem setSteward_agenda (s : State) (n : Nat) (f : Steward → Steward) : (setSteward s n f).agenda = s.agenda := rfl
@[simp] theorem setSteward_cur (s : State) (n : Nat) (f : Steward → Steward) : (setSteward s n f).cur = s.cur := rfl
@[simp] theorem setSteward_hdr (s : State) (n : Nat) (f : Steward → Steward) : (setSteward s n f).hdr = s.hdr := rfl
@[simp] theorem setSteward_choice (s : State) (n : Nat) (f : Steward → Steward) : (setSteward s n f).choice = s.choice := rfl
@[simp] theorem setSteward_frame (s : State) (n : Nat) (f : Steward → Steward) : (setSteward s n f).frame = s.frame := rfl
@[simp] theorem setSteward_sframe (s : State) (n : Nat) (f : Steward → Steward) : (setSteward s n f).sframe = s.sframe := rfl
@[simp] theorem setSteward_now (s : State) (n : Nat) (f : Steward → Steward) : (setSteward s n f).now = s.now := rfl
@[simp] theorem setSteward_cores (s : State) (n : Nat) (f : Steward → Steward) : (setSteward s n f).cores = s.cores := rfl
@[simp] theorem setSteward_slices (s : State) (n : Nat) (f : Steward → Steward) : (setSteward s n f).slices = s.slices := rfl
@[simp] theorem setSteward_spoi (s : State) (n : Nat) (f : Steward → Steward) : (setSteward s n f).spoi = s.spoi := rfl
@[simp] theorem setSteward_ists (s : State) (n : Nat) (f : Steward → Steward) : (setSteward s n f).ists = s.ists := rfl
@[simp] theorem setSteward_clusters (s : State) (n : Nat) (f : Steward → Steward) : (setSteward s n f).clusters = s.clusters := rfl
@[simp] theorem setSteward_stewards (s : State) (n : Nat) (f : Steward → Steward) : (setSteward s n f).stewards = mput Steward.idle s.stewards n (f (stewardAt s n)) := rfl
@[simp] theorem setSteward_dram (s : State) (n : Nat) (f : Steward → Steward) : (setSteward s n f).dram = s.dram := rfl
@[simp] theorem setSteward_sched (s : State) (n : Nat) (f : Steward → Steward) : (setSteward s n f).sched = s.sched := rfl
@[simp] theorem setSteward_fab (s : State) (n : Nat) (f : Steward → Steward) : (setSteward s n f).fab = s.fab := rfl
@[simp] theorem setSteward_host (s : State) (n : Nat) (f : Steward → Steward) : (setSteward s n f).host = s.host := rfl

/-! ### onCore, onNode, setQueue, setBooking: the updates above -/

@[simp] theorem onCore_eq (s : State) (c : Nat) (f : Core → Core) : onCore s c f = setCore s c (f (coreAt s c)) := rfl
@[simp] theorem onNode_eq (s : State) (id : Nat) (f : Node → Node) :
    onNode s id f = onSched s (fun h => { h with nodes := h.nodes.map (fun n => if n.id == id then f n else n) }) := rfl
@[simp] theorem setQueue_eq (s : State) (q : Nat) (f : Queue → Queue) :
    setQueue s q f = onSched s (fun h => { h with queues := mput Queue.reset h.queues q (f (queueAt s q)) }) := rfl
@[simp] theorem setBooking_eq (s : State) (b : Nat) (f : Booking → Booking) :
    setBooking s b f = onSched s (fun h => { h with bookings := mput Booking.reset h.bookings b (f (bookingAt s b)) }) := rfl

end Sys2Proof.Machine
end

