-- ==== Sys2Proof/Laws/Canon.lean ====
section
/-! SUPPORT. Canon.lean: the updates of the state and the operations on memory keep the canonical form of the memories and of
the table of cores. -/

namespace Sys2Proof.Machine
open Sys2Proof

/-- The four memories and the table of cores are in canonical form. -/
def Good (s : State) : Prop :=
  Memory.wf s.slices = true ∧ Memory.wf s.ists = true ∧ Memory.wf s.dram.mem = true ∧ Memory.wf s.host.sys = true ∧
    canon Core.idle s.cores = true

theorem good_iff (s : State) : Good s ↔ memCanon s = true ∧ coresCanon s = true := by
  simp only [Good, memCanon, coresCanon, Bool.and_eq_true, and_assoc]

/-- A state with the same memories and cores. -/
theorem Good.same {s t : State} (h : Good s) (h1 : t.slices = s.slices) (h2 : t.ists = s.ists) (h3 : t.dram.mem = s.dram.mem)
    (h4 : t.host.sys = s.host.sys) (h5 : t.cores = s.cores) : Good t := by
  unfold Good; rw [h1, h2, h3, h4, h5]; exact h

theorem Good.setCore {s : State} (h : Good s) (c : Nat) (k : Core) : Good (setCore s c k) :=
  ⟨h.1, h.2.1, h.2.2.1, h.2.2.2.1, canon_mput h.2.2.2.2 c k⟩
theorem Good.onCore {s : State} (h : Good s) (c : Nat) (f : Core → Core) : Good (onCore s c f) := h.setCore c _
theorem Good.onSched {s : State} (h : Good s) (f : Sched → Sched) : Good (onSched s f) := h
theorem Good.onFab {s : State} (h : Good s) (f : Fabric → Fabric) : Good (onFab s f) := h
theorem Good.setCluster {s : State} (h : Good s) (n : Nat) (f : Cluster → Cluster) : Good (setCluster s n f) := h
theorem Good.setSteward {s : State} (h : Good s) (n : Nat) (f : Steward → Steward) : Good (setSteward s n f) := h
theorem Good.onNode {s : State} (h : Good s) (id : Nat) (f : Node → Node) : Good (onNode s id f) := h
theorem Good.setQueue {s : State} (h : Good s) (q : Nat) (f : Queue → Queue) : Good (setQueue s q f) := h
theorem Good.onDram {s : State} (h : Good s) (f : Dram → Dram) (hf : Memory.wf (f s.dram).mem = true) : Good (onDram s f) :=
  ⟨h.1, h.2.1, hf, h.2.2.2⟩
/-- An update of the DRAM that leaves the array alone. -/
theorem Good.onDramMeta {s : State} (h : Good s) (f : Dram → Dram) (hf : (f s.dram).mem = s.dram.mem) : Good (Machine.onDram s f) :=
  h.onDram f (by rw [hf]; exact h.2.2.1)
theorem Good.onHost {s : State} (h : Good s) (f : HostSide → HostSide) (hf : Memory.wf (f s.host).sys = true) : Good (onHost s f) :=
  ⟨h.1, h.2.1, h.2.2.1, hf, h.2.2.2.2⟩
/-- An update of the host side that leaves host memory alone. -/
theorem Good.onHostMeta {s : State} (h : Good s) (f : HostSide → HostSide) (hf : (f s.host).sys = s.host.sys) : Good (Machine.onHost s f) :=
  h.onHost f (by rw [hf]; exact h.2.2.2.1)

theorem Good.foldl {β : Type} (f : State → β → State) (hf : ∀ s b, Good s → Good (f s b)) (l : List β) {s : State} (h : Good s) :
    Good (l.foldl f s) := by
  induction l generalizing s with
  | nil => exact h
  | cons b t ih => exact ih (hf s b h)

/-! ### Writes, one operation after another -/

theorem Good.bankedBy {s : State} (h : Good s) (w : Writer) : Good (bankedBy s w) := by
  cases w <;> simp only [Machine.bankedBy] <;> first | exact h | (split <;> first | exact h | exact h.onCore _ _)

theorem Good.bankEntry {s : State} (h : Good s) (k : Nat) : Good (bankEntry s k) := by
  unfold Machine.bankEntry
  split
  · exact (h.onDram _ (wf_putBytes h.2.2.1 _ _)).bankedBy _
  · exact h

theorem Good.bankWhere {s : State} (h : Good s) (hit : WqEnt → Bool) : Good (bankWhere s hit) :=
  Good.foldl _ (fun s e h => by split <;> first | exact h.bankEntry _ | exact h) _ h

theorem Good.bankAll {s : State} (h : Good s) : Good (bankAll s) := Good.foldl _ (fun _ _ h => h.bankEntry 0) _ h

/-- A write of bytes to the array. -/
theorem Good.bankBytes {s : State} (h : Good s) (loc : Nat) (bs : Dram → List Byte) :
    Good (Machine.onDram s (fun d => Machine.bankBytes d loc (bs d))) := h.onDram _ (wf_putBytes h.2.2.1 _ _)

/-- A block that comes alive as zeros keeps the form. -/
theorem Good.reviveRange {s : State} (h : Good s) (pa len : Nat) : Good (reviveRange s pa len) :=
  Good.foldl _ (fun _ _ h => by split; exacts [h.onDram _ (canon_filter _ h.2.2.1), h]) _ h

/-- A byte that a controller changes stands in the queue until it is banked. -/
theorem Good.acceptByte {s : State} (h : Good s) (loc : Nat) (f : Byte → Byte) : Good (acceptByte s loc f) := h.onDramMeta _ rfl

theorem Good.setDirty {s : State} (h : Good s) (w : Writer) (pa : Nat) : Good (setDirty s w pa) := by
  unfold Machine.setDirty
  split
  · exact h
  · dsimp only
    have h2 := fun p a b => (h.reviveRange p 1).acceptByte a b
    cases filterKey w with
    | none => dsimp only; split; exacts [h, (h2 _ _ _).onDramMeta _ rfl]
    | some k => dsimp only; split; exacts [h, (h2 _ _ _).setCluster _ _]

theorem Good.setLine {s : State} (h : Good s) (pa : Nat) (v : BitVec 2) : Good (setLine s pa v) := h.onDramMeta _ rfl
theorem Good.unpublish {s : State} (h : Good s) (w : Writer) (pa : Nat) : Good (unpublish s w pa) := by
  unfold Machine.unpublish; split; exacts [h, h.setLine _ _]

theorem Good.acceptAtom {s : State} (h : Good s) (w : Writer) (pa : Nat) (bs : List Byte) (carry : Bool) :
    Good (acceptAtom s w pa bs carry) := ((h.setDirty w pa).unpublish w pa).onDramMeta _ rfl

theorem Good.sliceAtom {s : State} (h : Good s) (c off : Nat) (bs : List Byte) (carry : Bool) : Good (sliceAtom s c off bs carry) :=
  ⟨wf_putBytes h.1 _ _, h.2⟩

theorem Good.istWrite {s : State} (h : Good s) (c off : Nat) (bs : List Byte) : Good (istWrite s c off bs) :=
  Good.onCore (s := { s with ists := putBytes s.ists (c * 2 ^ 15 + off) bs }) ⟨h.1, wf_putBytes h.2.1 _ _, h.2.2⟩ c _

theorem Good.dropMem {s : State} (h : Good s) (c id : Nat) : Good (dropMem s c id) := h.onCore _ _

theorem Good.flushFor {s : State} (h : Good s) (w : Writer) (ha : Nat) : Good (flushFor s w ha) := by
  unfold Machine.flushFor
  split
  · exact h
  · dsimp only
    split
    · exact h
    · exact (h.onHostMeta _ rfl).setCore _ _

theorem Good.postWrite {s : State} (h : Good s) (w : Writer) (ha mt : Nat) (bs : List Byte) : Good (postWrite s w ha mt bs) :=
  (h.flushFor w ha).onHost _ (wf_putBytes (h.flushFor w ha).2.2.2.1 _ _)

/-- Every write keeps the canonical form. -/
theorem Good.writePlace {s : State} (h : Good s) (w : Writer) (node : Option Nat) (p : Place) (bs : List Byte) (carry : Bool) :
    Good (writePlace s w node p bs carry) := by
  cases p with
  | slice c o => exact Good.foldl _ (fun _ _ h => h.sliceAtom _ _ _ _) _ h
  | ist c o => exact h.istWrite _ _ _
  | dmem pa => exact Good.foldl _ (fun _ _ h => h.acceptAtom _ _ _ _) _ h
  | sys ha mt => exact h.postWrite _ _ _ _

theorem Good.writePieces (w : Writer) (node : Option Nat) (ps : List Piece) : ∀ (bs : List Byte) (carry : Bool) {s : State}, Good s →
    Good (writePieces s w node ps bs carry) := by
  induction ps with
  | nil => exact fun _ _ _ h => h
  | cons p t ih => exact fun bs carry _ h => ih _ _ (h.writePlace _ _ _ _ _)

theorem Good.putCells {s : State} (h : Good s) (w : Writer) (node : Option Nat) (p : Piece) (cells : List (Byte × Bool)) :
    Good (putCells s w node p cells) := Good.foldl _ (fun _ _ h => h.writePlace _ _ _ _ _) _ h

theorem Good.putAll (w : Writer) (node : Option Nat) (ps : List Piece) : ∀ (cs : List (Byte × Bool)) {s : State}, Good s →
    Good (putAll w node ps cs s) := by
  induction ps with
  | nil => exact fun _ _ h => h
  | cons p t ih => exact fun cs _ h => ih _ (h.putCells _ _ _ _)

theorem Good.zeroBlock {s : State} (h : Good s) (k : Nat) : Good (Machine.onDram s (fun d => Machine.zeroBlock d k)) :=
  h.onDram _ (canon_filter _ h.2.2.1)

/-- Clearing a stretch of the slices. -/
theorem Good.clearSlice {s : State} (h : Good s) (a n : Nat) : Good { s with slices := mclear s.slices a n } :=
  ⟨canon_filter _ h.1, h.2⟩

theorem Good.emitBuf {s : State} (h : Good s) (k : Nat) : Good (emitBuf s k) := by
  unfold Machine.emitBuf
  split
  · next b _ =>
    have hd : Good (b.ents.foldl (fun s e => Machine.dropMem s e.1 e.2) s) := Good.foldl _ (fun _ _ h => h.dropMem _ _) _ h
    refine hd.onHost _ ?_
    have : ∀ (l : List (Nat × Byte)) (m : Bytes), Memory.wf m = true →
        Memory.wf (l.foldl (fun m e => mput 0 m (64 * b.line + e.1) e.2) m) = true := by
      intro l
      induction l with
      | nil => exact fun _ h => h
      | cons e t ih => exact fun m h => ih _ (canon_mput h _ _)
    exact this _ _ hd.2.2.2.1
  · exact h

theorem Good.settle {s : State} (h : Good s) (c id : Nat) (p : Piece) : Good (settle s c id p) := by
  unfold Machine.settle; split <;> exact h.onCore _ _
end Sys2Proof.Machine
end

