-- ==== Sys2Proof/Laws/Close.lean ====
section
/-! SUPPORT. Close.lean: closing a bundle of one legal instruction comes to `finishBundle`. -/

namespace Sys2Proof.Machine
open Sys2Proof

theorem slotBit_cover {b : BitVec 6} {n : Nat} (h : (b &&& ~~~slotBit n == 0) = true) (k : Nat) (hk : k < 6)
    (hb : b.getLsbD k = true) : (slotBit n).getLsbD k = true := by
  have h' : b &&& ~~~slotBit n = 0#6 := by simpa using h
  have := congrArg (fun v => v.getLsbD k) h'
  simp only [BitVec.getLsbD_and, BitVec.getLsbD_not, hb] at this
  simpa [hk] using this

theorem count_cnt_le (p : BitVec 7 → Bool) (l : List (BitVec 7)) : cnt p l ≤ l.length := List.length_filter_le _ _

theorem pairs_le (l : List (BitVec 7)) :
    (l.map (fun a => if a.toNat == 0 then 1 else if a.toNat < 64 then 2 else 0)).sum ≤ 2 * l.length := by
  induction l with
  | nil => simp
  | cons a t ih =>
    simp only [List.map_cons, List.sum_cons, List.length_cons]
    split
    · omega
    · split <;> omega

/-- A single slot keeps within every port budget (R69). -/
theorem oversub_lone {i : Instr} {n : Nat} {f : Frame}
    (hp : f.ports = (List.range 5).map (fun j =>
      (fileNum j, n, nth 0 (readPorts (uses i)) j, nth 0 (writePorts (uses i)) j))) : oversub f = [] := by
  have hu := usesOk_uses i
  generalize uses i = u at *
  simp only [usesOk, Bool.and_eq_true, Nat.ble_eq] at hu
  obtain ⟨⟨⟨⟨⟨⟨⟨⟨⟨h0, h1⟩, h2⟩, h3⟩, h4⟩, h5⟩, h6⟩, h7⟩, h8⟩, h9⟩ := hu
  have a0 := count_cnt_le named u.s
  have a1 := pairs_le u.sp
  have a2 := count_cnt_le (fun a => a.toNat < 64) (u.v.map (·.1))
  have a3 := count_cnt_le named u.ws
  have a4 := pairs_le u.wsp
  have a5 := count_cnt_le (fun a => a.toNat < 64) (u.wv.map (·.1))
  rw [List.length_map] at a2 a5
  simp only [beq_iff_eq] at a1 a4
  have r5 : List.range 5 = [0, 1, 2, 3, 4] := rfl
  unfold oversub
  rw [hp, r5]
  simp only [List.map_cons, List.map_nil, fileNum, readPorts, writePorts, nth, budget, readBudget, writeBudget]
  simp
  omega

theorem conflicts_lone {n : Nat} {f : Frame} (h : ∀ w ∈ f.writes, w.1 = n) : conflicts f = [] := by
  have : f.writes.filter (fun a => f.writes.any (fun b => b.1 != a.1 && b.2 == a.2)) = [] := by
    rw [List.filter_eq_nil_iff]
    intro a ha hany
    obtain ⟨b, hb, h2⟩ := List.any_eq_true.1 hany
    simp only [Bool.and_eq_true, bne_iff_ne, ne_eq] at h2
    exact h2.1 (by rw [h b hb, h a ha])
  unfold conflicts
  rw [this]
  rfl

theorem emptyBoost_lone {n : Nat} {f : Frame} (hu : f.used = slotBit n) (hb : (hdrBoost f.hdr &&& ~~~slotBit n == 0) = true) :
    emptyBoost f = [] := by
  have : (List.range 6).filter (fun k => boosted f k && !f.used.getLsbD k) = [] := by
    rw [List.filter_eq_nil_iff]
    intro k hk hbk
    simp only [Bool.and_eq_true, Bool.not_eq_true'] at hbk
    have := slotBit_cover hb k (List.mem_range.1 hk) hbk.1
    rw [hu] at hbk
    rw [this] at hbk
    exact absurd hbk.2 (by simp)
  unfold emptyBoost
  rw [this]
  rfl

/-- A frame whose slot changed nothing that the checks of R69-R74 and R102 look at. -/
structure Kept (i : Instr) (n : Nat) (k : Core) (hdr : BitVec 16) (f : Frame) : Prop where
  pre : f.pre = k
  hdr : f.hdr = hdr
  used : f.used = slotBit n
  enc : f.enc = []
  slots : f.slots = [(n, i)]
  writes : f.writes = (written (uses i)).map (fun e => (n, fileNum e.1, e.2))
  ports : f.ports = (List.range 5).map (fun j =>
      (fileNum j, n, nth 0 (readPorts (uses i)) j, nth 0 (writePorts (uses i)) j))

theorem kept_loneFrame (i : Instr) (n : Nat) (k : Core) (hdr : BitVec 16) :
    Kept i n k hdr (loneFrame i n (newFrame k hdr)) := ⟨rfl, rfl, rfl, rfl, rfl, rfl, rfl⟩

theorem illegal_lone {i : Instr} {n : Nat} {k : Core} {hdr : BitVec 16} {f : Frame} (h : Kept i n k hdr f)
    (hl : legalAlone hdr k i n = true) : illegal f = none := by
  unfold legalAlone at hl
  simp only [Bool.and_eq_true] at hl
  obtain ⟨⟨⟨-, hk⟩, hb⟩, -⟩ := hl
  have hc : conflicts f = [] := conflicts_lone (n := n) (by
    rw [h.writes]
    intro w hw
    obtain ⟨e, -, rfl⟩ := List.mem_map.1 hw
    rfl)
  have he : emptyBoost f = [] := emptyBoost_lone h.used (by rw [h.hdr]; exact hb)
  have : encAll f = [] := by unfold encAll; rw [h.enc, hc, oversub_lone h.ports, he]; rfl
  unfold illegal
  simp only [this, h.hdr, hk]
  rfl

theorem loopMark_lone {i : Instr} {n : Nat} {k : Core} {hdr : BitVec 16} {f : Frame} (h : Kept i n k hdr f)
    (hl : endOk hdr k i = true) : loopMark f = false := by
  unfold endOk at hl
  unfold loopMark
  rw [h.pre, h.hdr, h.slots]
  cases hq : k.loops.getLast? with
  | none => rw [hq] at hl; simpa using hl
  | some t =>
    rw [hq] at hl
    by_cases ht : t.stop = k.pc
    · simp [ht] at hl ⊢; exact hl
    · simp [ht] at hl ⊢; exact hl

/-- Closing the bundle: its deferred records, then the last word. -/
theorem closeBundle_lone {i : Instr} {n : Nat} {k : Core} {hdr : BitVec 16} {f : Frame} {s : State} (h : Kept i n k hdr f)
    (hl : legalAlone hdr k i n = true) (hm : endOk hdr k i = true) (hst : f.stall = false) (hw : f.walk = [])
    (hr : f.resolve = none) (ha : acquireHolds f = false) : closeBundle s f = finishBundle s f k := by
  unfold closeBundle
  rw [illegal_lone h hl, loopMark_lone h hm]
  have : redone s f = .done s k := by unfold redone resolves; rw [hr, h.pre]; rfl
  have hco : commitOwed f = false := by unfold commitOwed resolves; rw [hr]; rfl
  simp [hst, hw, hr, this, ha, hco]

/-- A bundle with no writes of its own that no system atomic parks holds for no acquire (R250). -/
theorem acquireHolds_of_late {f : Frame} (h : f.late = []) (hp : f.park = none) : acquireHolds f = false := by
  unfold acquireHolds; rw [h, hp]; rfl

/-- Nor does one that added nothing to the memory list. -/
theorem acquireHolds_of_mem {f : Frame} (h : f.now.mem.length ≤ f.pre.mem.length) : acquireHolds f = false := by
  unfold acquireHolds; rw [List.drop_eq_nil_of_le h]; simp

/-- What a lone bundle does: open, its effect, the last word. -/
theorem runSlot_lone {i : Instr} {n : Nat} {g : State → Frame → Frame} {s : State} (hs : slotOf i = some n)
    (hl : lone i s = true) (f : Frame) (hf : g (entered s) (loneFrame i n (reading s)) = f)
    (hk : Kept i n (boundary s) s.hdr f) (hst : f.stall = false) (hw : f.walk = []) (hr : f.resolve = none)
    (ha : acquireHolds f = false) : runSlot i g s = .next (finishBundle (entered s) f (boundary s)) := by
  unfold lone at hl
  simp only [hs, Bool.and_eq_true, Bool.not_eq_true'] at hl
  obtain ⟨⟨⟨⟨hc, hleg⟩, hwt⟩, ht⟩, he⟩ := hl
  obtain ⟨hp, hfr⟩ := canIssue_power hc
  unfold runSlot
  rw [hp, hfr, openBundle_of_canIssue hc]
  simp only [Bool.not_true]
  rw [show reading s = newFrame (boundary s) s.hdr from rfl, slotIn_lone hs hleg hwt ht]
  rw [show newFrame (boundary s) s.hdr = reading s from rfl, hf, closeBundle_lone hk hleg he hst hw hr ha]
  rfl

end Sys2Proof.Machine
end

