-- ==== Sys2Proof/Laws/Landing.lean ====
section
/-! SUPPORT. Landing.lean: what landing at a boundary leaves alone. -/

namespace Sys2Proof.Machine
open Sys2Proof

/-- What a late result cannot change: everything of the core but registers, shadow, CIR, exposed results and the destinations
of its memory list. -/
structure SameBut (k k' : Core) : Prop where
  node : k'.node = k.node
  num : k'.num = k.num
  running : k'.running = k.running
  retiring : k'.retiring = k.retiring
  pc : k'.pc = k.pc
  lat : k'.lat = k.lat
  latBoost : k'.latBoost = k.latBoost
  loops : k'.loops = k.loops
  calls : k'.calls = k.calls
  cspl : k'.cspl = k.cspl
  rb : k'.rb = k.rb
  rh : k'.rh = k.rh
  evl : k'.evl = k.evl
  level : k'.level = k.level
  tile : k'.tval = k.tval ∧ k'.tcnt = k.tcnt ∧ k'.busy = k.busy ∧ k'.mxq = k.mxq
  park : k'.park = k.park
  early : k'.early = k.early
  postTrap : k'.postTrap = k.postTrap
  fps : k'.csr.fps = k.csr.fps ∧ k'.csr.fpc = k.csr.fpc ∧ k'.csr.epc = k.csr.epc ∧ k'.csr.tvec = k.csr.tvec
  pub : k'.isA = k.isA ∧ k'.isB = k.isB

theorem SameBut.refl (k : Core) : SameBut k k := by constructor <;> simp
theorem SameBut.trans {a b c : Core} (h : SameBut a b) (h' : SameBut b c) : SameBut a c := by
  constructor <;> simp [h.node, h'.node, h.num, h'.num, h.running, h'.running, h.retiring, h'.retiring, h.pc, h'.pc,
    h.lat, h'.lat, h.latBoost, h'.latBoost, h.loops, h'.loops, h.calls, h'.calls, h.cspl, h'.cspl, h.rb, h'.rb, h.rh, h'.rh,
    h.evl, h'.evl, h.level, h'.level, h.tile, h'.tile, h.park, h'.park, h.early, h'.early, h.postTrap, h'.postTrap, h.fps, h'.fps, h.pub, h'.pub]

theorem sameBut_putS (k : Core) (b : Bool) (r : Nat) (v : Word) : SameBut k (putS k b r v) := by
  unfold putS; cases b
  · constructor <;> simp [onRegs]
  · by_cases h : r = 0
    · simp only [h, if_true]; exact .refl k
    · simp only [h, if_true, if_false]; constructor <;> simp [onShadow]
theorem sameBut_putV (k : Core) (b : Bool) (r : Nat) (v : Vec) : SameBut k (putV k b r v) := by
  unfold putV; cases b <;> constructor <;> simp [onRegs, onShadow]
theorem sameBut_putX (k : Core) (b : Bool) (r : Nat) (v : BitVec 12) : SameBut k (putX k b r v) := by
  unfold putX; cases b <;> constructor <;> simp [onRegs, onShadow]

theorem sameBut_foldl {β : Type} (f : Core → β → Core) (h : ∀ k b, SameBut k (f k b)) (l : List β) (k : Core) :
    SameBut k (l.foldl f k) := by
  induction l generalizing k with
  | nil => exact .refl k
  | cons a t ih => exact (h k a).trans (ih (f k a))

theorem sameBut_mergeV (o k : Core) (b : Bool) (d : LateDst) (es : List Nat) : SameBut k (mergeV o k b d es) := by
  unfold mergeV
  extract_lets n old os vs
  refine sameBut_foldl _ (fun k i => ?_) _ _
  dsimp only
  split
  · exact .refl k
  · exact sameBut_putV ..

theorem sameBut_ite (k : Core) {c : Prop} [Decidable c] {a b : Core} (ha : SameBut k a) (hb : SameBut k b) :
    SameBut k (if c then a else b) := by split <;> assumption

theorem sameBut_deliver (o k : Core) (d : LateDst) (bs : List Byte) : SameBut k (deliver o k d bs) := by
  unfold deliver
  split
  · exact .refl k
  · exact .refl k
  · exact .refl k
  · split
    · exact sameBut_ite k (.refl k) (sameBut_putS ..)
    · dsimp only
      split_ifs
      · exact .refl k
      · exact sameBut_putS ..
      · exact sameBut_putS ..
      · exact (sameBut_putS ..).trans (sameBut_putS ..)
    · exact .refl k
  · exact sameBut_mergeV ..
  · split
    · exact sameBut_ite k (.refl k) (sameBut_putX ..)
    · exact .refl k

theorem sameBut_consumeAt (k : Core) (d : LateDst) (b : Bool) : SameBut k (consumeAt d b k) := by
  unfold consumeAt
  cases b
  · exact .refl k
  · cases d.boost <;> constructor <;> simp [onShadow, consume]

theorem sameBut_overtake (k : Core) (d : LateDst) : SameBut k (overtake k d) := by
  unfold overtake; dsimp only; split <;> constructor <;> simp

theorem sameBut_landOne (o k : Core) (e : Exposed) : SameBut k (landOne o k e) := by
  unfold landOne
  split
  · exact .refl k
  · exact ((sameBut_overtake k _).trans (sameBut_consumeAt ..)).trans (sameBut_deliver ..)

/-- Landing leaves all of this alone (R197). -/
theorem sameBut_landDue (k : Core) : SameBut k (landDue k) := by
  unfold landDue
  refine SameBut.trans (b := { k with exposed := k.exposed.filter (fun e => e.off != 1) }) ?_
    (sameBut_foldl _ (sameBut_landOne k) _ _)
  constructor <;> simp

theorem sameBut_pruned (s : State) (c : Nat) (k : Core) : SameBut k (pruned s c k) := by
  unfold pruned; constructor <;> simp

/-- The boundary differs from the core only where late results go. -/
theorem sameBut_boundary (s : State) : SameBut (coreAt s s.cur) (boundary s) :=
  (sameBut_pruned s s.cur _).trans (sameBut_landDue _)

/-- A core that runs is listed, so it reads back. -/
theorem coreAt_setCore_running (s : State) (c : Nat) (k : Core) (h : k.running = true) : coreAt (setCore s c k) c = k := by
  unfold coreAt setCore
  refine mget_mput_of_ne _ _ _ _ (fun he => ?_)
  rw [he] at h
  exact absurd h (by decide)

theorem running_of_canIssue {s : State} (h : canIssue s = true) : (boundary s).running = true := by
  unfold canIssue at h
  simp only [Bool.and_eq_true] at h
  have hi : issues s (fenced s) = true := h.1.1.1.1.1.1.2
  unfold issues at hi
  simp only [Bool.and_eq_true] at hi
  rw [show boundary s = landDue (fenced s) from rfl, (sameBut_landDue (fenced s)).running]
  exact hi.1

end Sys2Proof.Machine
end

