-- ==== Sys2Proof/Laws/Retire.lean ====
section
/-! SUPPORT. Retire.lean: the commit of a bundle of one instruction that writes registers and raises flags. -/

namespace Sys2Proof.Machine
open Sys2Proof

/-- The core that slot results go to, before any slot has written. -/
def blank (k : Core) : Core := { k with lat := [], latBoost := 0, latWait := [], shadow := Shadow.none }

/-- A frame in which slot `n` wrote by `w`, loaded `lat`, raised `fl`, and met no fault, wait or stop. -/
structure Wrote (s : State) (n : Nat) (lat : SMap Vec) (w : Core → Core) (fl : Fl) (intDiv : Bool) (f : Frame) : Prop where
  now : f.now = { w (blank (boundary s)) with lat := lat }
  pre : f.pre = boundary s
  hdr : f.hdr = s.hdr
  used : f.used = slotBit n
  faults : f.faults = []
  flags : f.flags = if isBoosted s n = true ∨ fl = 0 then [] else [(n, fl, intDiv)]
  bflags : f.bflags = if isBoosted s n then fl else 0
  bfdz : f.bfdz = (isBoosted s n && fl.getLsbD 1 && !intDiv)
  csrw : f.csrw = none
  resolve : f.resolve = none
  chk : f.chkfail = none
  park : f.park = none

theorem allFlags_wrote {s n lat w fl d f} (h : Wrote s n lat w fl d f) :
    allFlags f = if isBoosted s n then 0 else fl := by
  unfold allFlags
  rw [h.flags]
  cases isBoosted s n with
  | true => simp
  | false =>
    by_cases hf : fl = 0#6
    · simp [hf]
    · simp [hf]

theorem flagTrap_wrote {s n lat w fl d f} (h : Wrote s n lat w fl d f) (hq : quiet s n fl = true) : flagTrap f = none := by
  unfold flagTrap
  have : f.flags.filter (fun e => e.2.1 &&& ((f.pre.csr.fpc.extractLsb' 0 5).setWidth 6 : Fl) != 0) = [] := by
    rw [h.flags, h.pre]
    unfold quiet at hq
    cases hb : isBoosted s n with
    | true => simp
    | false =>
      rw [hb, Bool.false_or] at hq
      by_cases hf : fl = 0#6
      · simp [hf]
      · have hq' : fl &&& ((boundary s).csr.fpc.extractLsb' 0 5).setWidth 6 = 0 := by simpa using hq
        simp [hf, hq']
  simp only [this]
  rfl

theorem slotFault_none {s : State} {f : Frame} (hf : f.faults = []) (hc : ∀ i, f.ctl ≠ .bswap i) : slotFault s f = none := by
  unfold slotFault
  rw [hf]
  cases h : f.ctl with
  | bswap i => exact absurd h (hc i)
  | _ => rfl

theorem bundleCore_wrote {s n lat w fl d f} (h : Wrote s n lat w fl d f) :
    bundleCore f (boundary s) = afterBundle s n lat w fl d := by
  unfold bundleCore
  rw [allFlags_wrote h, h.now, h.pre, h.hdr, h.used, h.csrw, h.resolve, h.bflags, h.bfdz]
  simp only [List.length_map]
  rfl

/-- The bundle commits: its core leaves it, and its writes follow. -/
theorem finishBundle_commits {s n lat w fl d f} (h : Wrote s n lat w fl d f) (hq : quiet s n fl = true)
    (hc : ∀ i, f.ctl ≠ .bswap i) (hy : f.ctl ≠ .yield) : finishBundle (entered s) f (boundary s) =
      f.late.foldl (fun t l => doLate t s.cur (hdrColour s.hdr) l)
        (setCore (entered s) s.cur (leave f (afterBundle s n lat w fl d))) := by
  unfold finishBundle
  rw [slotFault_none h.faults hc, flagTrap_wrote h hq]
  simp only [h.chk, h.park]
  unfold commit committed
  rw [bundleCore_wrote h, h.hdr]
  cases hx : f.ctl with
  | yield => exact absurd hx hy
  | _ => rfl

/-- The bundle commits and goes on in order. -/
theorem finishBundle_wrote {s n lat w fl d f} (h : Wrote s n lat w fl d f) (hq : quiet s n fl = true) (hc : f.ctl = .seq)
    (hl : f.late = []) : finishBundle (entered s) f (boundary s) = retire s (afterBundle s n lat w fl d) := by
  rw [finishBundle_commits h hq (by rw [hc]; simp) (by rw [hc]; simp), hl]
  unfold leave
  rw [hc, h.hdr]
  rfl

/-- A frame that a slot of the lone bundle may hand on: written, kept, and neither stalled nor waiting for a walk. -/
structure Clean (s : State) (i : Instr) (n : Nat) (lat : SMap Vec) (w : Core → Core) (fl : Fl) (d : Bool) (f : Frame) :
    Prop where
  wrote : Wrote s n lat w fl d f
  kept : Kept i n (boundary s) s.hdr f
  stall : f.stall = false
  walk : f.walk = []

theorem clean_loneFrame (s : State) (i : Instr) (n : Nat) :
    Clean s i n [] id 0 false (loneFrame i n (reading s)) where
  wrote := { now := rfl, pre := rfl, hdr := rfl, used := rfl, faults := rfl, flags := by simp; rfl,
             bflags := by cases isBoosted s n <;> rfl, bfdz := by simp; rfl, csrw := rfl, resolve := rfl, chk := rfl, park := rfl }
  kept := kept_loneFrame ..
  stall := rfl
  walk := rfl

/-- A bundle of one instruction commits, and its writes follow. -/
theorem Clean.runCtl {i : Instr} {n : Nat} {g : State → Frame → Frame} {s : State} {lat w fl d}
    (h : Clean s i n lat w fl d (g (entered s) (loneFrame i n (reading s)))) (hs : slotOf i = some n)
    (hl : lone i s = true) (hq : quiet s n fl = true) (hc : ∀ j, (g (entered s) (loneFrame i n (reading s))).ctl ≠ .bswap j)
    (hy : (g (entered s) (loneFrame i n (reading s))).ctl ≠ .yield)
    (ha : acquireHolds (g (entered s) (loneFrame i n (reading s))) = false) : runSlot i g s = .next
      ((g (entered s) (loneFrame i n (reading s))).late.foldl (fun t l => doLate t s.cur (hdrColour s.hdr) l)
        (setCore (entered s) s.cur (leave (g (entered s) (loneFrame i n (reading s))) (afterBundle s n lat w fl d)))) := by
  rw [runSlot_lone hs hl _ rfl h.kept h.stall h.walk h.wrote.resolve ha, finishBundle_commits h.wrote hq hc hy]

/-- A bundle of one instruction that only writes registers and raises flags. -/
theorem Clean.run {i : Instr} {n : Nat} {g : State → Frame → Frame} {s : State} {lat w fl d}
    (h : Clean s i n lat w fl d (g (entered s) (loneFrame i n (reading s)))) (hs : slotOf i = some n)
    (hl : lone i s = true) (hq : quiet s n fl = true) (hc : (g (entered s) (loneFrame i n (reading s))).ctl = .seq)
    (hla : (g (entered s) (loneFrame i n (reading s))).late = []) :
    runSlot i g s = .next (retire s (afterBundle s n lat w fl d)) := by
  rw [runSlot_lone hs hl _ rfl h.kept h.stall h.walk h.wrote.resolve (acquireHolds_of_late hla h.wrote.park), finishBundle_wrote h.wrote hq hc hla]

/-- Only what the bundle does next changes. -/
theorem Clean.goes {s i n lat w fl d f} (h : Clean s i n lat w fl d f) (c : Ctl) (l : List Late) (rd : List (Nat × List Byte × Bool)) :
    Clean s i n lat w fl d { f with ctl := c, late := l, reads := rd } :=
  ⟨{ h.wrote with }, { h.kept with }, h.stall, h.walk⟩

theorem boosted_clean {s i n lat w fl d f} (h : Clean s i n lat w fl d f) (k : Nat) : boosted f k = isBoosted s k := by
  unfold boosted isBoosted
  rw [h.wrote.hdr]

/-- Raising flags. -/
theorem Clean.raise {s i n lat w f} (h : Clean s i n lat w 0 false f) (fl : Fl) (d : Bool) :
    Clean s i n lat w fl d (Machine.raise f n fl d) := by
  obtain ⟨hw, hk, hs, hwk⟩ := h
  have hb : boosted f n = isBoosted s n := by unfold boosted isBoosted; rw [hw.hdr]
  have h0 : f.flags = [] := by rw [hw.flags]; simp
  have h1 : f.bflags = 0 := by rw [hw.bflags]; simp
  have h2 : f.bfdz = false := by rw [hw.bfdz]; simp
  unfold Machine.raise
  by_cases hf : fl = 0
  · subst hf
    simp only [if_true]
    exact ⟨{ hw with flags := by rw [h0]; simp, bfdz := by rw [h2]; simp }, hk, hs, hwk⟩
  · rw [if_neg hf, hb]
    cases hbb : isBoosted s n with
    | true =>
      exact ⟨{ hw with
          flags := by simp [h0, hbb],
          bflags := by simp [h1, hbb],
          bfdz := by simp [h2, hbb] }, { hk with }, hs, hwk⟩
    | false =>
      exact ⟨{ hw with
          flags := by rw [h0, hbb]; simpa using hf,
          bflags := by simp [h1, hbb],
          bfdz := by simp [h2, hbb] }, { hk with }, hs, hwk⟩

/-- Loading the latch of the slot, then writing the core. -/
theorem Clean.put {s i n lat w f} (h : Clean s i n lat w 0 false f) (lat' : SMap Vec) (w' : Core → Core)
    (g : Core → Core) (hg : g f.now = { w' (blank (boundary s)) with lat := lat' }) :
    Clean s i n lat' w' 0 false { f with now := g f.now } :=
  ⟨{ h.wrote with now := hg }, { h.kept with }, h.stall, h.walk⟩

/-- A bundle whose only report is one fault of its slot traps. -/
theorem finishBundle_fault {s : State} {f : Frame} {k : Core} {n cause info : Nat} (hn : n < 6)
    (h : f.faults = [(n, cause, info)]) (hc : ∀ i, f.ctl ≠ .bswap i) :
    finishBundle s f k = takeTrap s s.cur cause f.pre.pc (trec (slotBit n) info false) := by
  have : slotFault s f = some (n, cause, info) := by
    unfold slotFault
    rw [h]
    have r6 : List.range 6 = [0, 1, 2, 3, 4, 5] := rfl
    have hcases : n = 0 ∨ n = 1 ∨ n = 2 ∨ n = 3 ∨ n = 4 ∨ n = 5 := by omega
    cases hx : f.ctl with
    | bswap i => exact absurd hx (hc i)
    | _ => rcases hcases with rfl | rfl | rfl | rfl | rfl | rfl <;> simp [r6]
  unfold finishBundle
  rw [this]

end Sys2Proof.Machine
end

