-- ==== Sys2Proof/Laws/Scalar.lean ====
section
/-! SUPPORT. Scalar.lean: what writing a scalar result comes to, and the values of R124-R127 in two spellings. -/

namespace Sys2Proof.Machine
open Sys2Proof

theorem putS_lat (k : Core) (b : Bool) (d : Nat) (v : Word) (lat : SMap Vec) :
    putS { k with lat := lat } b d v = { putS k b d v with lat := lat } := by
  unfold putS; cases b
  · rfl
  · by_cases h : d = 0
    · simp [h]
    · simp only [h]; rfl

/-- A scalar result written by slot `n` (R57, R59). -/
theorem Clean.wrS {s i n w f} (h : Clean s i n [] w 0 false f) (d : BitVec 7) (v : Word) :
    Clean s i n (latS n v) (fun k => regS s n d v (w k)) 0 false (Machine.wrS f n d v) := by
  have hb := boosted_clean h n
  have hn := h.wrote.now
  unfold Machine.wrS
  by_cases hd : d.toNat < 64
  · simp only [hd, if_true]
    have h1 : boosted (setLat f n (v.setWidth 2048)) n = isBoosted s n := hb
    refine h.put _ _ (fun k => putS { k with lat := mput 0 k.lat n (v.setWidth 2048) }
      (boosted (setLat f n (v.setWidth 2048)) n) d.toNat v) ?_
    rw [h1, hn, putS_lat]
    unfold regS
    simp only [hd, if_true]
    rw [putS_lat]
    rfl
  · simp only [hd, if_false]
    refine h.put _ _ (fun k => { k with lat := mput 0 k.lat n (v.setWidth 2048) }) ?_
    rw [hn]
    unfold regS
    simp only [hd, if_false]
    rfl

@[simp] theorem ctl_wrS (f : Frame) (n : Nat) (d : BitVec 7) (v : Word) : (wrS f n d v).ctl = f.ctl := by
  unfold wrS; split <;> rfl
@[simp] theorem late_wrS (f : Frame) (n : Nat) (d : BitVec 7) (v : Word) : (wrS f n d v).late = f.late := by
  unfold wrS; split <;> rfl
@[simp] theorem ctl_raise (f : Frame) (n : Nat) (fl : Fl) (d : Bool) : (raise f n fl d).ctl = f.ctl := by
  unfold raise; split <;> [rfl; split <;> rfl]
@[simp] theorem late_raise (f : Frame) (n : Nat) (fl : Fl) (d : Bool) : (raise f n fl d).late = f.late := by
  unfold raise; split <;> [rfl; split <;> rfl]

/-- A bundle of one instruction of slot S that writes one scalar result. -/
theorem runCore_wrS {i : Instr} {s : State} {n : Nat} {g : Frame → Frame} {d : BitVec 7} {v : Word} (hs : slotOf i = some n)
    (hl : lone i s = true) (hg : g (loneFrame i n (reading s)) = wrS (loneFrame i n (reading s)) n d v) :
    runCore i g s = .next (retire s (afterBundle s n (latS n v) (regS s n d v) 0 false)) := by
  have h := (clean_loneFrame s i n).wrS d v
  rw [← hg] at h
  exact Clean.run (g := fun _ => g) h hs hl (by simp [quiet]) (by simp only [hg, ctl_wrS]; rfl) (by simp only [hg, late_wrS]; rfl)

theorem runCore_wrS_raise {i : Instr} {s : State} {n : Nat} {g : Frame → Frame} {d : BitVec 7} {v : Word} {fl : Fl}
    {id : Bool} (hs : slotOf i = some n) (hl : lone i s = true) (hq : quiet s n fl = true)
    (hg : g (loneFrame i n (reading s)) = raise (wrS (loneFrame i n (reading s)) n d v) n fl id) :
    runCore i g s = .next (retire s (afterBundle s n (latS n v) (regS s n d v) fl id)) := by
  have h := ((clean_loneFrame s i n).wrS d v).raise fl id
  rw [← hg] at h
  exact Clean.run (g := fun _ => g) h hs hl hq (by simp only [hg, ctl_raise, ctl_wrS]; rfl)
    (by simp only [hg, late_raise, late_wrS]; rfl)

/-! ### The values of R124-R128 in two spellings -/


theorem low6 (b : Word) : (b.extractLsb' 0 6).toNat = amt b := by simp [amt]

theorem clz_eq (a : Word) : BitVec.ofNat 64 (clz64 a) = a.clz := by
  apply BitVec.eq_of_toNat_eq
  unfold clz64
  by_cases h : a = 0
  · subst h; decide
  · rw [if_neg h]
    have h1 := BitVec.toNat_lt_two_pow_sub_clz (x := a)
    have h2 := BitVec.two_pow_sub_clz_le_toNat_of_ne_zero (x := a) (by omega) h
    have h3 : a.toNat ≠ 0 := fun hz => h (BitVec.eq_of_toNat_eq hz)
    have h4 : a.clz.toNat < 64 := by
      have := BitVec.clz_lt_iff_ne_zero (x := a)
      have := this.2 h
      simpa [BitVec.lt_def] using this
    have h5 : Nat.log2 a.toNat = 64 - a.clz.toNat - 1 := by
      rw [Nat.log2_eq_iff h3]
      exact ⟨by rwa [show 64 - a.clz.toNat - 1 = 64 - 1 - a.clz.toNat by omega], by rwa [show 64 - a.clz.toNat - 1 + 1 = 64 - a.clz.toNat by omega]⟩
    rw [h5, BitVec.toNat_ofNat]
    omega

theorem popc_eq (a : Word) : BitVec.ofNat 64 (popc64 a) = a.cpop := by
  have key : ∀ n acc, a.cpopNatRec n acc = acc + ((List.range n).filter (fun i => a.getLsbD i)).length := by
    intro n
    induction n with
    | zero => intro acc; simp
    | succ n ih =>
      intro acc
      rw [BitVec.cpopNatRec_succ, ih, List.range_succ, List.filter_append, List.length_append]
      cases hn : a.getLsbD n <;> simp [hn] <;> omega
  unfold BitVec.cpop popc64
  rw [key]; simp

theorem mulh_eq (a b : Word) : ofI (a.toInt * b.toInt / 2 ^ 64) = (a.signExtend 128 * b.signExtend 128).extractLsb' 64 64 := by
  have hp : a.signExtend 128 * b.signExtend 128 = BitVec.ofInt 128 (a.toInt * b.toInt) := by
    rw [BitVec.ofInt_mul]
    congr 1
  rw [hp]
  apply BitVec.eq_of_toNat_eq
  generalize a.toInt * b.toInt = P
  simp only [ofI, BitVec.extractLsb'_toNat, BitVec.toNat_ofInt, Nat.shiftRight_eq_div_pow]
  omega

theorem mulhn_eq (a b : Word) : BitVec.ofNat 64 (a.toNat * b.toNat / 2 ^ 64) = (a.setWidth 128 * b.setWidth 128).extractLsb' 64 64 := by
  apply BitVec.eq_of_toNat_eq
  have := a.isLt; have := b.isLt
  have h : a.toNat * b.toNat < 2 ^ 128 := by
    calc a.toNat * b.toNat < 2 ^ 64 * 2 ^ 64 := Nat.mul_lt_mul'' a.isLt b.isLt
      _ = 2 ^ 128 := by norm_num
  simp only [BitVec.toNat_ofNat, BitVec.extractLsb'_toNat, BitVec.toNat_mul, BitVec.toNat_setWidth, Nat.shiftRight_eq_div_pow]
  rw [Nat.mod_eq_of_lt (a := a.toNat) (by omega), Nat.mod_eq_of_lt (a := b.toNat) (by omega), Nat.mod_eq_of_lt h]

theorem min_eq (a b : Word) : (if b.toInt < a.toInt then b else a) = if a.sle b then a else b := by
  simp only [BitVec.sle, decide_eq_true_eq]; split <;> split <;> first | rfl | omega

theorem max_eq (a b : Word) : (if a.toInt < b.toInt then b else a) = if a.sle b then b else a := by
  simp only [BitVec.sle, decide_eq_true_eq]
  split <;> split <;> first | rfl | omega | (apply BitVec.eq_of_toInt_eq; omega)

theorem minn_eq (a b : Word) : (if b.toNat < a.toNat then b else a) = if a.ule b then a else b := by
  simp only [BitVec.ule, decide_eq_true_eq]; split <;> split <;> first | rfl | omega

theorem maxn_eq (a b : Word) : (if a.toNat < b.toNat then b else a) = if a.ule b then b else a := by
  simp only [BitVec.ule, decide_eq_true_eq]
  split <;> split <;> first | rfl | omega | (apply BitVec.eq_of_toNat_eq; omega)

theorem bfxs_eq (p w : Nat) (hw : 1 ≤ w) (h : p + w ≤ 64) (a : Word) :
   sextN w (a.toNat / 2 ^ p % 2 ^ w) = fieldOf true p w a := by
  have hs : ∀ v, sextN w v = (BitVec.ofNat w v).signExtend 64 := by
    intro v
    unfold sextN BitVec.signExtend
    congr 1
    rw [BitVec.toInt_eq_toNat_cond]
    simp only [BitVec.toNat_ofNat]
    have : 2 ^ w = 2 * 2 ^ (w - 1) := by rw [← Nat.pow_succ']; congr 1; omega
    by_cases hc : 2 ^ (w - 1) ≤ v % 2 ^ w
    · rw [if_pos hc, if_neg (by omega)]; push_cast; rfl
    · rw [if_neg hc, if_pos (by omega)]
  rw [hs]
  unfold fieldOf
  apply BitVec.eq_of_getLsbD_eq
  intro i hi
  simp only [if_true, BitVec.getLsbD_signExtend, BitVec.getLsbD_sshiftRight, BitVec.getLsbD_shiftLeft, BitVec.getLsbD_ofNat,
    BitVec.msb_eq_getLsbD_last, Nat.testBit_mod_two_pow, Nat.testBit_div_two_pow, hi, decide_true, Bool.true_and]
  have hlt : w - 1 < w := by omega
  by_cases hiw : i < w
  · have h1 : 64 - w + i < 64 := by omega
    have h2 : ¬ (64 - w + i < 64 - p - w) := by omega
    have h3 : 64 - w + i - (64 - p - w) = p + i := by omega
    simp only [hiw, h1, h2, h3, BitVec.getLsbD, decide_true, decide_false, Bool.true_and, Bool.not_false, Nat.add_comm i p]
    simp [h1, show ¬ 64 ≤ i by omega]
  · have h1 : ¬ 64 - w + i < 64 := by omega
    have h2 : ¬ (64 - 1 < 64 - p - w) := by omega
    have h3 : 64 - 1 - (64 - p - w) = p + (w - 1) := by omega
    simp [hiw, h1, h3, hlt, BitVec.getLsbD, show ¬ 64 ≤ i by omega, Nat.add_comm (w-1) p]
    omega

theorem bfxu_eq (p w : Nat) (h : p + w ≤ 64) (a : Word) :
   BitVec.ofNat 64 (a.toNat / 2 ^ p % 2 ^ w) = fieldOf false p w a := by
  unfold fieldOf
  apply BitVec.eq_of_getLsbD_eq
  intro i hi
  simp only [BitVec.getLsbD_ofNat, Bool.false_eq_true, if_false, BitVec.getLsbD_ushiftRight, BitVec.getLsbD_shiftLeft,
    Nat.testBit_mod_two_pow, Nat.testBit_div_two_pow, hi, decide_true, Bool.true_and]
  by_cases hiw : i < w
  · have h1 : 64 - w + i < 64 := by omega
    have h2 : ¬ (64 - w + i < 64 - p - w) := by omega
    have h3 : 64 - w + i - (64 - p - w) = p + i := by omega
    simp only [hiw, h1, h2, h3, BitVec.getLsbD, decide_true, decide_false, Bool.true_and, Bool.not_false, Nat.add_comm i p]
  · have h1 : ¬ 64 - w + i < 64 := by omega
    simp [hiw, h1]

theorem mask_eq (p w : Nat) : BitVec.ofNat 64 ((2 ^ w - 1) * 2 ^ p) = (BitVec.ofNat 64 (2 ^ w - 1) : Word) <<< p := by
  apply BitVec.eq_of_toNat_eq
  simp [Nat.shiftLeft_eq]

theorem cmp_eq (cc : Nat) (a b : Word) : b2w (cmpCond cc a b) = if cmpHolds cc a b then 1 else 0 := by
  have : cmpCond cc a b = cmpHolds cc a b := by
    unfold cmpCond cmpHolds
    split <;> simp [BitVec.slt, BitVec.sle, BitVec.ult, BitVec.ule]
  rw [this]; rfl

theorem lih_eq (imm : BitVec 24) (o : Word) : (imm.setWidth 64 <<< 24) ||| (o &&& 0xFFFFFF) = (0#16 : BitVec 16) ++ imm ++ o.extractLsb' 0 24 := by
  apply BitVec.eq_of_getLsbD_eq
  intro i hi
  simp only [BitVec.getLsbD_or, BitVec.getLsbD_and, BitVec.getLsbD_shiftLeft, BitVec.getLsbD_setWidth, BitVec.getLsbD_append,
    BitVec.getLsbD_extractLsb', BitVec.getLsbD_ofNat]
  have hm : ∀ j, j < 64 → (0xFFFFFF : Word).getLsbD j = decide (j < 24) := by decide
  have hz : ∀ j, (0#16).getLsbD j = false := by simp
  rw [hm i hi]
  by_cases h24 : i < 24
  · simp [h24, hi]
  · by_cases h48 : i - 24 < 24
    · simp [h24, h48, hi, show i - 24 < 64 by omega]
    · simp [h24, h48, hi, BitVec.getLsbD_of_ge imm (i - 24) (by omega)]

/-- A legal bit-field instruction names bits of a word (R127). -/
theorem field_legal {i : Instr} {s : State} {x : RF} (h : i = .bfx x ∨ i = .bfi x) (hl : lone i s = true) :
    bfPos x + bfWidth x ≤ 64 := by
  have key : ∀ hdr k, legalAlone hdr k i 0 = true → bfPos x + bfWidth x ≤ 64 := by
    intro hdr k hk
    unfold legalAlone at hk
    simp only [Bool.and_eq_true, List.isEmpty_iff] at hk
    have hc := hk.1.1.1
    by_cases hb : x.b.toNat % 64 + x.c.toNat % 64 + 1 ≤ 64
    · unfold bfPos bfWidth; omega
    · exfalso
      rcases h with rfl | rfl <;> · simp [causes, needImm, hb] at hc
  unfold lone at hl
  rcases h with rfl | rfl
  all_goals
    simp only [slotOf, Bool.and_eq_true] at hl
    exact key _ _ hl.1.1.1.2

end Sys2Proof.Machine
end

