-- ==== Sys2Proof/Laws/Control.lean ====
section
/-! SUPPORT. Control.lean: bundles of one instruction that go elsewhere, fault, or write memory of their own core. -/

namespace Sys2Proof.Machine
open Sys2Proof

/-- The core of a lone bundle can issue it. -/
theorem lone_canIssue {i : Instr} {s : State} (hl : lone i s = true) : canIssue s = true := by
  unfold lone at hl
  cases h : slotOf i with
  | none => rw [h] at hl; cases hl
  | some n => rw [h] at hl; simp only [Bool.and_eq_true] at hl; exact hl.1.1.1.1

/-- A transfer stands in no end bundle (R102). -/
theorem lone_not_le {i : Instr} {s : State} (ht : transfers i = true) (hl : lone i s = true) : hdrLe s.hdr = false := by
  have : endOk s.hdr (boundary s) i = true := by
    unfold lone at hl
    cases h : slotOf i with
    | none => rw [h] at hl; cases hl
    | some n => rw [h] at hl; simp only [Bool.and_eq_true] at hl; exact hl.2
  unfold endOk at this
  cases hq : (boundary s).loops.getLast? with
  | none => rw [hq] at this; simpa using this
  | some t =>
    rw [hq] at this
    by_cases hp : t.stop = (boundary s).pc
    · simp [hp, ht] at this
    · simpa [hp] using this

/-- A write of the own core. -/
theorem doLate_own (s : State) (c : Nat) (col : BitVec 3) (p : Piece) (bs : List Byte) (nib : Bool) :
  doLate s c col (.own p bs nib) = writePlace s (.core c 0 col) (coreAt s c).node p.pl (storeBytes s (coreAt s c).node p bs nib)
    (nibKeeps s (coreAt s c).node p nib) := rfl

/-- A lone bundle that leaves by `c` and writes `la`, having read `rd`. -/
theorem ctl_run {i : Instr} {n : Nat} {g : State → Frame → Frame} {s : State} {lat w c la rd} {f0 : Frame}
    (h0 : Clean s i n lat w 0 false f0)
    (hg : g (entered s) (loneFrame i n (reading s)) = { f0 with ctl := c, late := la, reads := rd }) (hs : slotOf i = some n)
    (hl : lone i s = true) (hc : ∀ j, c ≠ .bswap j) (hy : c ≠ .yield)
    (ha : acquireHolds { f0 with ctl := c, late := la, reads := rd } = false) : runSlot i g s = .next
      (la.foldl (fun t l => doLate t s.cur (hdrColour s.hdr) l)
        (setCore (entered s) s.cur (leave { f0 with ctl := c, late := la, reads := rd } (afterBundle s n lat w 0 false)))) := by
  have h := h0.goes c la rd
  rw [← hg] at h ⊢
  have := h.runCtl hs hl (by simp [quiet]) (by rw [hg]; exact hc) (by rw [hg]; exact hy) (by rw [hg]; exact ha)
  rw [this, hg]

/-- A lone bundle whose slot faults traps. -/
theorem fault_run {i : Instr} {n : Nat} {g : State → Frame → Frame} {s : State} {c info : Nat}
    (hg : g (entered s) (loneFrame i n (reading s)) = faultAt (loneFrame i n (reading s)) n c info) (hs : slotOf i = some n)
    (hl : lone i s = true) : runSlot i g s = .next (trapped s n c info) := by
  rw [runSlot_lone hs hl _ hg ⟨rfl, rfl, rfl, rfl, rfl, rfl, rfl⟩ rfl rfl rfl (acquireHolds_of_late rfl rfl), finishBundle_fault (slotOf_lt hs) rfl (by intro j; simp [faultAt, loneFrame, reading, newFrame])]
  rfl

/-- Leaving by a transfer. -/
theorem leave_goto {s : State} {f : Frame} {K : Core} {pc b} (hf : f.hdr = s.hdr) (hle : hdrLe s.hdr = false) (hc : f.ctl = .goto pc b) :
   leave f K = bump (1 + b) { K with pc := pc } := by
  unfold leave; simp only [hc, hf, hle]; rfl

/-- The target of format B (R96). -/
theorem target_eq (s : State) (i : Instr) (n : Nat) (x : BF) : brTarget (loneFrame i n (reading s)) x = targetOf s x := by
  unfold brTarget targetOf
  congr 1
  apply BitVec.eq_of_toNat_eq
  simp [Nat.shiftLeft_eq, Nat.mul_comm]

/-- A branch that resolves nothing. -/
theorem br_plain (s : State) (x : BF) (h : x.br = 0 ∨ (boundary s).level = true) (f : Frame) (hf : f.pre = boundary s) (a : Bool) :
  resolveBr x f a = f := by
  unfold resolveBr
  rw [hf]
  rcases h with h | h <;> simp [h]

/-- The conditions of BC. -/
theorem bc_eq (cc : BitVec 3) (a : Word) : bcCond cc a = bcHolds cc.toNat a := by
  unfold bcCond bcHolds
  split <;> simp_all [BitVec.slt, BitVec.sle]

/-- A lone transfer. -/
theorem go_run {i : Instr} {g : State → Frame → Frame} {s : State} {pc b} 
    (hg : g (entered s) (loneFrame i 0 (reading s)) = { loneFrame i 0 (reading s) with ctl := .goto pc b }) (hs : slotOf i = some 0)
    (hl : lone i s = true) (ht : transfers i = true) : runSlot i g s = .next (jumpTo s pc b (passed s 0)) := by
  rw [ctl_run (la := []) (rd := []) (clean_loneFrame s i 0) hg hs hl (by simp) (by simp) (acquireHolds_of_late rfl rfl), leave_goto (s := s) rfl (lone_not_le ht hl) rfl]
  rfl

/-- A misaligned register target (R97). -/
theorem bad_run {i : Instr} {g : State → Frame → Frame} {s : State}
    (hg : g (entered s) (loneFrame i 0 (reading s)) = badTarget (loneFrame i 0 (reading s))) (hs : slotOf i = some 0)
    (hl : lone i s = true) : runSlot i g s = .next (trapped s 0 0x0B 0) := by
  have hl' := hl
  unfold lone at hl
  simp only [hs, Bool.and_eq_true, Bool.not_eq_true'] at hl
  obtain ⟨⟨⟨⟨hc, hleg⟩, hwt⟩, ht⟩, he⟩ := hl
  obtain ⟨hp, hfr⟩ := canIssue_power hc
  unfold runSlot
  rw [hp, hfr, openBundle_of_canIssue hc]
  simp only [Bool.not_true]
  rw [show reading s = newFrame (boundary s) s.hdr from rfl, slotIn_lone hs hleg hwt ht]
  rw [show newFrame (boundary s) s.hdr = reading s from rfl, hg]
  have hk := kept_loneFrame i 0 (boundary s) s.hdr
  have hil : illegal (badTarget (loneFrame i 0 (reading s))) = some (0x0B, slotBit 0) := by
    unfold legalAlone at hleg
    simp only [Bool.and_eq_true] at hleg
    obtain ⟨⟨⟨-, hk'⟩, hb⟩, -⟩ := hleg
    have hcf : conflicts (badTarget (loneFrame i 0 (reading s))) = [] := conflicts_lone (n := 0) (by
      intro w hw
      obtain ⟨e, -, rfl⟩ := List.mem_map.1 hw
      rfl)
    have hem : emptyBoost (badTarget (loneFrame i 0 (reading s))) = [] := emptyBoost_lone (n := 0) rfl hb
    have : encAll (badTarget (loneFrame i 0 (reading s))) = [(0, 0x0B)] := by
      unfold encAll; rw [hcf, oversub_lone rfl, hem]; rfl
    have hh : hdrOk (badTarget (loneFrame i 0 (reading s))).hdr = true := hk'
    unfold illegal
    simp only [this, hh]
    rfl
  unfold closeBundle
  rw [hil]
  rfl

/-- A lone bundle that changes its core by `w`. -/
theorem put_run {i : Instr} {n : Nat} {g : State → Frame → Frame} {s : State} {w : Core → Core} {c la rd}
    (hg : g (entered s) (loneFrame i n (reading s)) =
      { loneFrame i n (reading s) with now := w (blank (boundary s)), ctl := c, late := la, reads := rd })
    (hw : { w (blank (boundary s)) with lat := [] } = w (blank (boundary s)))
    (hs : slotOf i = some n)
    (hl : lone i s = true) (hc : ∀ j, c ≠ .bswap j) (hy : c ≠ .yield)
    (hm : la = [] ∨ (w (blank (boundary s))).mem.length ≤ (boundary s).mem.length) : runSlot i g s = .next
      (la.foldl (fun t l => doLate t s.cur (hdrColour s.hdr) l)
        (setCore (entered s) s.cur (leave { loneFrame i n (reading s) with ctl := c } (afterBundle s n [] w 0 false)))) := by
  have h0 : Clean s i n [] w 0 false { loneFrame i n (reading s) with now := w (blank (boundary s)) } :=
    (clean_loneFrame s i n).put [] w (fun _ => w (blank (boundary s))) hw.symm
  rw [ctl_run h0 hg hs hl hc hy (hm.elim (fun h => acquireHolds_of_late h rfl) (fun h => acquireHolds_of_mem h))]
  unfold leave
  cases c <;> rfl

end Sys2Proof.Machine
end

