-- ==== Sys2Proof/Laws/Encoding.lean ====
section
/-! SUPPORT. Encoding.lean: the fields of each format and the words that hold them are one to one (R61, R62, R192, R194). -/

namespace Sys2Proof
open Sys2Proof.Machine

theorem toNat_append_eq {n m : Nat} (a : BitVec n) (b : BitVec m) : (a ++ b).toNat = a.toNat * 2 ^ m + b.toNat := by
  rw [BitVec.toNat_append, ← Nat.shiftLeft_add_eq_or_of_lt b.isLt, Nat.shiftLeft_eq]
theorem toNat_extract_eq {n : Nat} (a : BitVec n) (k m : Nat) : (a.extractLsb' k m).toNat = a.toNat / 2 ^ k % 2 ^ m := by
  rw [BitVec.extractLsb'_toNat, Nat.shiftRight_eq_div_pow]

/-- Two neighbouring stretches of bits are one. -/
theorem extract_glue {n : Nat} (w : BitVec n) (k a b : Nat) : w.extractLsb' (k + b) a ++ w.extractLsb' k b = w.extractLsb' k (a + b) := by
  apply BitVec.eq_of_toNat_eq
  rw [toNat_append_eq, toNat_extract_eq, toNat_extract_eq, toNat_extract_eq, Nat.pow_add, ← Nat.div_div_eq_div_mul,
    Nat.pow_add 2 a b, Nat.mul_comm (2 ^ a), Nat.mod_mul, Nat.mul_comm, Nat.add_comm]

theorem rfOf_encRF (op : BitVec 8) (x : RF) : rfOf (encRF op x) = x := by
  obtain ⟨f, c, b, a, d⟩ := x
  simp only [rfOf, encRF, RF.mk.injEq]
  refine ⟨?_, ?_, ?_, ?_, ?_⟩ <;> (apply BitVec.eq_of_toNat_eq; simp only [toNat_extract_eq, toNat_append_eq]; omega)
theorem op_encRF (op : BitVec 8) (x : RF) : (encRF op x).extractLsb' 0 8 = op := by
  apply BitVec.eq_of_toNat_eq; simp only [encRF, toNat_extract_eq, toNat_append_eq]; omega
theorem encRF_rfOf (w : BitVec 40) : encRF (w.extractLsb' 0 8) (rfOf w) = w := by
  apply BitVec.eq_of_toNat_eq; simp only [encRF, rfOf, toNat_extract_eq, toNat_append_eq]; omega

theorem ifOf_encIF (op : BitVec 8) (x : IF) : ifOf (encIF op x) = x := by
  obtain ⟨imm, a, d⟩ := x
  simp only [ifOf, encIF, IF.mk.injEq]
  refine ⟨?_, ?_, ?_⟩ <;> (apply BitVec.eq_of_toNat_eq; simp only [toNat_extract_eq, toNat_append_eq]; omega)
theorem op_encIF (op : BitVec 8) (x : IF) : (encIF op x).extractLsb' 0 8 = op := by
  apply BitVec.eq_of_toNat_eq; simp only [encIF, toNat_extract_eq, toNat_append_eq]; omega
theorem encIF_ifOf (w : BitVec 40) : encIF (w.extractLsb' 0 8) (ifOf w) = w := by
  apply BitVec.eq_of_toNat_eq; simp only [encIF, ifOf, toNat_extract_eq, toNat_append_eq]; omega

theorem lifOf_encLIF (op : BitVec 8) (x : LIF) : lifOf (encLIF op x) = x := by
  obtain ⟨z, imm, d⟩ := x
  simp only [lifOf, encLIF, LIF.mk.injEq]
  refine ⟨?_, ?_, ?_⟩ <;> (apply BitVec.eq_of_toNat_eq; simp only [toNat_extract_eq, toNat_append_eq]; omega)
theorem op_encLIF (op : BitVec 8) (x : LIF) : (encLIF op x).extractLsb' 0 8 = op := by
  apply BitVec.eq_of_toNat_eq; simp only [encLIF, toNat_extract_eq, toNat_append_eq]; omega
theorem encLIF_lifOf (w : BitVec 40) : encLIF (w.extractLsb' 0 8) (lifOf w) = w := by
  apply BitVec.eq_of_toNat_eq; simp only [encLIF, lifOf, toNat_extract_eq, toNat_append_eq]; omega

theorem bfOf_encBF (op : BitVec 8) (x : BF) : bfOf (encBF op x) = x := by
  obtain ⟨off, br, pd, cc, a⟩ := x
  simp only [bfOf, encBF, BF.mk.injEq]
  refine ⟨?_, ?_, ?_, ?_, ?_⟩ <;> (apply BitVec.eq_of_toNat_eq; simp only [toNat_extract_eq, toNat_append_eq]; omega)
theorem op_encBF (op : BitVec 8) (x : BF) : (encBF op x).extractLsb' 0 8 = op := by
  apply BitVec.eq_of_toNat_eq; simp only [encBF, toNat_extract_eq, toNat_append_eq]; omega
theorem encBF_bfOf (w : BitVec 40) : encBF (w.extractLsb' 0 8) (bfOf w) = w := by
  apply BitVec.eq_of_toNat_eq; simp only [encBF, bfOf, toNat_extract_eq, toNat_append_eq]; omega

theorem encVF_f (op : BitVec 8) (x : VF) : (encVF op x).extractLsb' 49 7 = x.f := by
  apply BitVec.eq_of_toNat_eq; simp only [encVF, toNat_extract_eq, toNat_append_eq]; omega
theorem encVF_rm (op : BitVec 8) (x : VF) : (encVF op x).extractLsb' 47 2 = x.rm := by
  apply BitVec.eq_of_toNat_eq; simp only [encVF, toNat_extract_eq, toNat_append_eq]; omega
theorem encVF_ty (op : BitVec 8) (x : VF) : (encVF op x).extractLsb' 42 5 = x.ty := by
  apply BitVec.eq_of_toNat_eq; simp only [encVF, toNat_extract_eq, toNat_append_eq]; omega
theorem encVF_gs (op : BitVec 8) (x : VF) : (encVF op x).extractLsb' 39 3 = x.gs := by
  apply BitVec.eq_of_toNat_eq; simp only [encVF, toNat_extract_eq, toNat_append_eq]; omega
theorem encVF_pr (op : BitVec 8) (x : VF) : (encVF op x).extractLsb' 36 3 = x.pr := by
  apply BitVec.eq_of_toNat_eq; simp only [encVF, toNat_extract_eq, toNat_append_eq]; omega
theorem encVF_c (op : BitVec 8) (x : VF) : (encVF op x).extractLsb' 29 7 = x.c := by
  apply BitVec.eq_of_toNat_eq; simp only [encVF, toNat_extract_eq, toNat_append_eq]; omega
theorem encVF_b (op : BitVec 8) (x : VF) : (encVF op x).extractLsb' 22 7 = x.b := by
  apply BitVec.eq_of_toNat_eq; simp only [encVF, toNat_extract_eq, toNat_append_eq]; omega
theorem encVF_a (op : BitVec 8) (x : VF) : (encVF op x).extractLsb' 15 7 = x.a := by
  apply BitVec.eq_of_toNat_eq; simp only [encVF, toNat_extract_eq, toNat_append_eq]; omega
theorem encVF_d (op : BitVec 8) (x : VF) : (encVF op x).extractLsb' 8 7 = x.d := by
  apply BitVec.eq_of_toNat_eq; simp only [encVF, toNat_extract_eq, toNat_append_eq]; omega
theorem vfOf_encVF (op : BitVec 8) (x : VF) : vfOf (encVF op x) = x := by
  simp only [vfOf, encVF_f, encVF_rm, encVF_ty, encVF_gs, encVF_pr, encVF_c, encVF_b, encVF_a, encVF_d]
theorem op_encVF (op : BitVec 8) (x : VF) : (encVF op x).extractLsb' 0 8 = op := by
  apply BitVec.eq_of_toNat_eq; simp only [encVF, toNat_extract_eq, toNat_append_eq]; omega
theorem encVF_vfOf (w : BitVec 56) : encVF (w.extractLsb' 0 8) (vfOf w) = w := by
  have e : encVF (w.extractLsb' 0 8) (vfOf w) = w.extractLsb' 0 56 := by
    unfold encVF vfOf
    rw [extract_glue w 47 7 2, extract_glue w 42 9 5, extract_glue w 39 14 3, extract_glue w 36 17 3, extract_glue w 29 20 7, extract_glue w 22 27 7, extract_glue w 15 34 7, extract_glue w 8 41 7,
      extract_glue w 0 48 8]
  rw [e, BitVec.extractLsb'_eq_self]

theorem mfOf_encMF (op : BitVec 8) (x : MF) : mfOf (encMF op x) = x := by
  obtain ⟨hi, a, d⟩ := x
  simp only [mfOf, encMF, MF.mk.injEq]
  refine ⟨?_, ?_, ?_⟩ <;> (apply BitVec.eq_of_toNat_eq; simp only [toNat_extract_eq, toNat_append_eq]; omega)
theorem op_encMF (op : BitVec 8) (x : MF) : (encMF op x).extractLsb' 0 8 = op := by
  apply BitVec.eq_of_toNat_eq; simp only [encMF, toNat_extract_eq, toNat_append_eq]; omega
theorem encMF_mfOf (w : BitVec 32) : encMF (w.extractLsb' 0 8) (mfOf w) = w := by
  apply BitVec.eq_of_toNat_eq; simp only [encMF, mfOf, toNat_extract_eq, toNat_append_eq]; omega

theorem xfOf_encXF (op : BitVec 8) (x : XF) : xfOf (encXF op x) = x := by
  obtain ⟨hi, a, x⟩ := x
  simp only [xfOf, encXF, XF.mk.injEq]
  refine ⟨?_, ?_, ?_⟩ <;> (apply BitVec.eq_of_toNat_eq; simp only [toNat_extract_eq, toNat_append_eq]; omega)
theorem op_encXF (op : BitVec 8) (x : XF) : (encXF op x).extractLsb' 0 8 = op := by
  apply BitVec.eq_of_toNat_eq; simp only [encXF, toNat_extract_eq, toNat_append_eq]; omega
theorem encXF_xfOf (w : BitVec 24) : encXF (w.extractLsb' 0 8) (xfOf w) = w := by
  apply BitVec.eq_of_toNat_eq; simp only [encXF, xfOf, toNat_extract_eq, toNat_append_eq]; omega

theorem lfOf_encLF (op : BitVec 8) (x : LF) : lfOf (encLF op x) = x := by
  obtain ⟨ty, m, c, b, a, d⟩ := x
  simp only [lfOf, encLF, LF.mk.injEq]
  refine ⟨?_, ?_, ?_, ?_, ?_, ?_⟩ <;> (apply BitVec.eq_of_toNat_eq; simp only [toNat_extract_eq, toNat_append_eq]; omega)
theorem op_encLF (op : BitVec 8) (x : LF) : (encLF op x).extractLsb' 0 8 = op := by
  apply BitVec.eq_of_toNat_eq; simp only [encLF, toNat_extract_eq, toNat_append_eq]; omega
theorem encLF_lfOf (w : BitVec 48) : encLF (w.extractLsb' 0 8) (lfOf w) = w := by
  apply BitVec.eq_of_toNat_eq; simp only [encLF, lfOf, toNat_extract_eq, toNat_append_eq]; omega

theorem mvOf_encMV (x : MV) (dst : BitVec 11) : mvOf (encMV x dst) = x := by
  obtain ⟨g, src⟩ := x
  simp only [mvOf, encMV, MV.mk.injEq]
  refine ⟨?_, ?_⟩ <;> (apply BitVec.eq_of_toNat_eq; simp only [toNat_extract_eq, toNat_append_eq]; omega)
theorem dst_encMV (x : MV) (dst : BitVec 11) : (encMV x dst).extractLsb' 0 11 = dst := by
  apply BitVec.eq_of_toNat_eq; simp only [encMV, toNat_extract_eq, toNat_append_eq]; omega
theorem encMV_mvOf (w : BitVec 24) : encMV (mvOf w) (w.extractLsb' 0 11) = w := by
  apply BitVec.eq_of_toNat_eq; simp only [encMV, mvOf, toNat_extract_eq, toNat_append_eq]; omega

end Sys2Proof
end

