-- ==== Sys2Proof/Laws/Events.lean ====
section
/-! SUPPORT. Events.lean: what an event and a Steward's move come to, said once. -/

namespace Sys2Proof.Machine
open Sys2Proof

/-- An event whose guard holds, in a powered module, answers its state. -/
theorem event_next {name : String} {c : Bool} {s t : State} (hp : s.host.power = true) (hc : c = true) :
    event name c s t = .next t := by simp [event, hp, hc]

/-- One whose guard fails does not occur. -/
theorem event_refused {name : String} {c : Bool} {s t : State} (hp : s.host.power = true) (hc : c = false) :
    event name c s t = .refused (.notEnabled name) := by simp [event, hp, hc]

theorem event_unpowered {name : String} {c : Bool} {s t : State} (hp : s.host.power = false) :
    event name c s t = .fault .unpowered := by simp [event, hp]

theorem eventO_some {name : String} {s t : State} {o : Option State} (hp : s.host.power = true) (ho : o = some t) :
    eventO name s o = .next t := by subst ho; exact event_next hp rfl

theorem eventO_none {name : String} {s : State} {o : Option State} (hp : s.host.power = true) (ho : o = none) :
    eventO name s o = .refused (.notEnabled name) := by subst ho; exact event_refused hp rfl

theorem schedO_some {name : String} {s t : State} {o : Option State} (hp : s.host.power = true) (ho : o = some t) :
    schedO name s o = .next (markReady (killNext t)) := by subst ho; exact event_next hp rfl

/-- A lone move of a running Steward: its effect on the frame that reads the Steward as it stands, its read of sem.res, then the
close. -/
theorem runMove_lone {x : MV} {s : State} {eff : Word → SFrame → SFrame} (h : loneMove x s = true) :
    runMove x eff s = .next (closeSteward s
      (semRead x.src (eff (moveValue s x) ⟨s.cur, steward s, steward s, false, false, none, none⟩))) := by
  simp only [loneMove, Bool.and_eq_true, Option.isNone_iff_eq_none] at h
  obtain ⟨⟨⟨⟨⟨hp, hf⟩, hr⟩, -⟩, hg⟩, hw⟩ := h
  have hr' : (stewardAt s s.cur).running = true := hr
  have ho : openSteward s = some ⟨s.cur, steward s, steward s, false, false, none, none⟩ := by
    simp only [openSteward, hr', if_true]; rfl
  simp only [runMove, hp, hf, ho, Bool.not_true, Bool.false_eq_true, if_false, moveIn, hg]
  cases hs : x.src.getLsbD 10 with
  | true => simp only [if_true, Bool.or_self, Bool.false_eq_true, if_false, srcOf, moveValue, hs]
  | false =>
    simp only [hs, Bool.false_or, Bool.and_eq_true, Bool.not_eq_true'] at hw
    simp only [Bool.false_eq_true, if_false, hw.1, hw.2, Bool.or_self, srcOf, moveValue, hs]

/-- A Steward bundle that neither stalls, halts nor ends the node commits what its moves wrote. -/
theorem closeSteward_commit {s : State} {f : SFrame} (h1 : f.semStall = false) (h2 : f.stall = false) (h3 : f.halt = none)
    (h4 : f.now.done = none) :
    closeSteward s f = setSteward (startClk s f.n) f.n (fun _ => { acquired f with
      pc := f.branch.getD (f.pre.pc + 1), stallSince := none, clk := (stewardAt (startClk s f.n) f.n).clk }) := by
  simp [closeSteward, h1, h2, h3, h4]

end Sys2Proof.Machine
end

