-- ==== Sys2Proof/Laws/Memory.lean ====
section
/-! SUPPORT. Memory.lean: what a lone bundle comes to that changes its core, writes after its commit, waits, or reads a card. -/

namespace Sys2Proof.Machine
open Sys2Proof

/-- A bundle whose slot changes the core by `w`, loads the latches `lat`, and writes `la` after the commit. -/
theorem wrote_run {i : Instr} {n : Nat} {g : State → Frame → Frame} {s : State} (w : Core → Core) (lat : SMap Vec)
    (la : List Late) (rd : List (Nat × List Byte × Bool))
    (hg : g (entered s) (loneFrame i n (reading s)) =
      { loneFrame i n (reading s) with now := { w (blank (boundary s)) with lat := lat }, late := la, reads := rd })
    (hs : slotOf i = some n) (hl : lone i s = true)
    (ha : acquireHolds
      { loneFrame i n (reading s) with now := { w (blank (boundary s)) with lat := lat }, late := la, reads := rd } = false) :
    runSlot i g s = .next (thenDo s la (retire s (afterBundle s n lat w 0 false))) := by
  have h0 : Clean s i n lat w 0 false { loneFrame i n (reading s) with now := { w (blank (boundary s)) with lat := lat } } :=
    ⟨{ (clean_loneFrame s i n).wrote with now := rfl }, { (clean_loneFrame s i n).kept with }, rfl, rfl⟩
  rw [ctl_run (c := .seq) (la := la) (rd := rd) h0 hg hs hl (by simp) (by simp) ha]
  rfl

/-- A held bundle that has added nothing to the memory list and read nothing issues nothing early. -/
theorem issueEarly_lone {s : State} {f : Frame} {p : Park} (hm : f.now.mem.length ≤ f.pre.mem.length) (hr : f.reads = []) :
    issueEarly s f p = s := by
  unfold issueEarly
  simp only [List.drop_eq_nil_of_le hm, hr, List.map_nil, List.filter_nil, List.append_nil, List.isEmpty_nil, Bool.or_true, if_true]

/-- A bundle whose slot parks. -/
theorem park_run {i : Instr} {n : Nat} {g : State → Frame → Frame} {s : State} (p : Park)
    (hg : g (entered s) (loneFrame i n (reading s)) = { loneFrame i n (reading s) with park := some p })
    (hs : slotOf i = some n) (hl : lone i s = true) :
    runSlot i g s = .next (onCore (entered s) s.cur (fun k => bump 1 { k with park := some p, xlFault := none })) := by
  rw [runSlot_lone hs hl _ hg ⟨rfl, rfl, rfl, rfl, rfl, rfl, rfl⟩ rfl rfl rfl (acquireHolds_of_mem le_rfl)]
  unfold finishBundle
  rw [slotFault_none rfl (by intro j; simp [loneFrame, reading, newFrame])]
  exact congrArg Host.Outcome.next (issueEarly_lone (f := loneFrame i n (reading s)) le_rfl rfl)

/-- The pieces of an access that is not held back. -/
theorem withPieces_ok {s : State} {i : Instr} {n : Nat} {acc : Acc} {align : Nat} {els : List (Nat × Nat)} {ps : List Piece}
    {flt : Nat → Nat → Frame} {g : List Piece → Frame} (h : reached s acc align els = some ps) :
    withPieces (entered s) (loneFrame i n (reading s)) acc align els flt g = g ps := by
  unfold reached reach at h
  unfold withPieces
  rw [show (loneFrame i n (reading s)).pre = boundary s from rfl, show (entered s).cur = s.cur from rfl]
  split at h
  · rename_i qs hq
    split at h
    · cases h
    · rename_i hr
      cases h
      rw [hq]
      exact if_neg hr
  · cases h

theorem withPieces_fault {s : State} {i : Instr} {n : Nat} {acc : Acc} {align : Nat} {els : List (Nat × Nat)} {c j : Nat}
    {flt : Nat → Nat → Frame} {g : List Piece → Frame} (h : reach s acc align els = .fault c j) :
    withPieces (entered s) (loneFrame i n (reading s)) acc align els flt g = flt c j := by
  unfold withPieces
  rw [show resolve (entered s) (entered s).cur (loneFrame i n (reading s)).pre acc align els = .fault c j from h]

theorem gateLoad_open {s : State} {i : Instr} {n : Nat} {g : Frame} (h : mayLoad s = true) :
    gateLoad (loneFrame i n (reading s)) g = g := by
  unfold gateLoad
  simp only [mayLoad, Bool.not_eq_true'] at h
  rw [show acqHolds (loneFrame i n (reading s)).pre (hdrColour (loneFrame i n (reading s)).hdr) false = false from h]
  rfl

theorem gateWrite_open {s : State} {i : Instr} {n : Nat} {g : Frame} (h : mayWrite s = true) :
    gateWrite (loneFrame i n (reading s)) g = g := by
  unfold gateWrite
  simp only [mayWrite, Bool.not_eq_true'] at h
  rw [show acqHolds (loneFrame i n (reading s)).pre (hdrColour (loneFrame i n (reading s)).hdr) true = false from h]
  rfl

/-- A bundle that no system atomic has held reads for itself. -/
theorem heldRead_none {s : State} (h : canIssue s = true) (i : Instr) (n m : Nat) (ok : Nat → Bool) :
    heldRead (loneFrame i n (reading s)) m ok = none := by
  have he : (boundary s).early = [] := by
    rw [show boundary s = landDue (fenced s) from rfl, (sameBut_landDue (fenced s)).early]
    simp only [canIssue, Bool.and_eq_true, List.isEmpty_iff] at h
    exact h.1.1.1.1.1.2.2
  unfold heldRead
  rw [show (loneFrame i n (reading s)).pre = boundary s from rfl, he]
  rfl

/-- A card that the bundle reads; its banks are left as the read leaves them. -/
theorem readCard_eq {s : State} {i : Instr} {n m : Nat} {ea : Word} {align len : Nat} {ps : List Piece} {r : List Byte × Bool}
    {g : List Byte × Bool → Frame} (hi : canIssue s = true)
    (h : cardAt s ea align len = some (ps, r)) :
    readCard (entered s) (loneFrame i n (reading s)) m ea align len g =
      { g r with late := .touch ps :: (g r).late, reads := (g r).reads ++ [(m, r)] } := by
  unfold cardAt at h
  obtain ⟨qs, hq, h⟩ := Option.bind_eq_some_iff.1 h
  split at h
  · rename_i hc
    simp only [Bool.and_eq_true] at hc
    obtain ⟨t, ht, h⟩ := Option.map_eq_some_iff.1 h
    cases h
    unfold readCard
    rw [heldRead_none hi]
    dsimp only
    rw [gateLoad_open hc.1, withPieces_ok hq]
    unfold readSync
    rw [if_pos (show ps.all (syncClear (entered s) (loneFrame i n (reading s))) = true from hc.2),
      show (loneFrame i n (reading s)).pre.node = (boundary s).node from rfl, ht]
    rfl
  · cases h

end Sys2Proof.Machine
end

