-- ==== Sys2Proof/Laws/Vector.lean ====
section
/-! SUPPORT. Vector.lean: what writing a vector group comes to. -/

namespace Sys2Proof.Machine
open Sys2Proof

theorem putV_lat (k : Core) (b : Bool) (d : Nat) (v : Vec) (lat : SMap Vec) :
    putV { k with lat := lat } b d v = { putV k b d v with lat := lat } := by
  unfold putV; cases b <;> rfl

theorem foldl_putV_lat (b : Bool) (r : Nat → Nat) (v : Nat → Vec) (lat : SMap Vec) (l : List Nat) (k : Core) :
    l.foldl (fun k i => putV k b (r i) (v i)) { k with lat := lat } =
      { l.foldl (fun k i => putV k b (r i) (v i)) k with lat := lat } := by
  induction l generalizing k with
  | nil => rfl
  | cons a t ih => simp only [List.foldl_cons]; rw [putV_lat, ih]

theorem regV_lat (s : State) (n : Nat) (d : BitVec 7) (vs : List Vec) (k : Core) (lat : SMap Vec) :
    regV s n d vs { k with lat := lat } = { regV s n d vs k with lat := lat } := by
  unfold regV
  split
  · exact foldl_putV_lat ..
  · rfl

/-- A vector group written by slot `n` (R57, R59, R104). -/
theorem Clean.wrV {s i n lat w f} (h : Clean s i n lat w 0 false f) (d : BitVec 7) (vs : List Vec) :
    Clean s i n (mput 0 lat n (vs.headD 0)) (fun k => regV s n d vs (w k)) 0 false (Machine.wrV f n d vs) := by
  have hb := boosted_clean h n
  have hn := h.wrote.now
  have hp := h.wrote.pre
  have hl : f.now.lat = lat := by rw [hn]
  unfold Machine.wrV
  by_cases hd : d.toNat < 64
  · simp only [hd, if_true]
    have h1 : boosted (setLat f n (vs.headD 0)) n = isBoosted s n := hb
    have h2 : (setLat f n (vs.headD 0)).pre.rb = (boundary s).rb := by show f.pre.rb = _; rw [hp]
    refine h.put _ _ (fun k => (List.range vs.length).foldl (fun k i => putV k (boosted (setLat f n (vs.headD 0)) n)
      (rotV (setLat f n (vs.headD 0)).pre.rb (d.toNat + i)) (nth 0 vs i)) { k with lat := mput 0 k.lat n (vs.headD 0) }) ?_
    rw [h1, h2, hl, hn]
    have := regV_lat s n d vs (w (blank (boundary s))) (mput 0 lat n (vs.headD 0))
    unfold regV at this ⊢
    simp only [hd, if_true] at this ⊢
    exact this
  · simp only [hd, if_false]
    refine h.put _ _ (fun k => { k with lat := mput 0 k.lat n (vs.headD 0) }) ?_
    rw [hl, hn]
    unfold regV
    simp only [hd, if_false]

@[simp] theorem ctl_wrV (f : Frame) (n : Nat) (d : BitVec 7) (vs : List Vec) : (wrV f n d vs).ctl = f.ctl := by
  unfold wrV; split <;> rfl
@[simp] theorem late_wrV (f : Frame) (n : Nat) (d : BitVec 7) (vs : List Vec) : (wrV f n d vs).late = f.late := by
  unfold wrV; split <;> rfl
@[simp] theorem ctl_wrP (f : Frame) (n p : Nat) (v : BitVec 16) : (wrP f n p v).ctl = f.ctl := rfl
@[simp] theorem late_wrP (f : Frame) (n p : Nat) (v : BitVec 16) : (wrP f n p v).late = f.late := rfl

theorem Clean.wrP {s i n lat w f} (h : Clean s i n lat w 0 false f) (p : Nat) (v : BitVec 16) :
    Clean s i n lat (fun k => putP (w k) (isBoosted s n) p v) 0 false (Machine.wrP f n p v) := by
  refine h.put _ _ (fun k => putP k (boosted f n) p v) ?_
  rw [boosted_clean h, h.wrote.now]
  unfold putP; cases isBoosted s n <;> rfl

/-- Reads of vector registers look only at the core before the bundle. -/
theorem rdV_of_pre {f : Frame} {s : State} (hp : f.pre = boundary s) (hh : f.hdr = s.hdr) (n : Nat) (d : BitVec 7) (G : Nat) :
    rdV f n d G = rdV (reading s) n d G := by
  unfold rdV rdVp latch boosted
  rw [hp, hh]
  rfl

theorem wrE_eq {f : Frame} {s : State} (hp : f.pre = boundary s) (hh : f.hdr = s.hdr) (n : Nat) (o : VecOut) :
    wrE f n o.d o.w o.G o.es = wrV f n o.d (newGroup s n o) := by
  unfold wrE newGroup
  rw [rdV_of_pre hp hh]

/-- A lone bundle that writes one vector group and raises flags. -/
theorem runCore_wrE {i : Instr} {s : State} {g : Frame → Frame} {o : VecOut} (hs : slotOf i = some 1) (hl : lone i s = true)
    (hq : quiet s 1 o.fl = true)
    (hg : g (loneFrame i 1 (reading s)) = raise (wrE (loneFrame i 1 (reading s)) 1 o.d o.w o.G o.es) 1 o.fl false) :
    runCore i g s = .next (vecRetired s o) := by
  rw [wrE_eq (s := s) rfl rfl 1] at hg
  have h := ((clean_loneFrame s i 1).wrV o.d (newGroup s 1 o)).raise o.fl false
  rw [← hg] at h
  exact Clean.run (g := fun _ => g) h hs hl hq (by simp only [hg, ctl_raise, ctl_wrV]; rfl)
    (by simp only [hg, late_raise, late_wrV]; rfl)

theorem raise_zero (f : Frame) (n : Nat) (d : Bool) : raise f n 0 d = f := by unfold raise; simp

end Sys2Proof.Machine
end

