-- ==== Sys2Proof/Tests/Base.lean ====
section
/-! SUPPORT. Base.lean: small states for the tests: a powered module, one running core or Steward, nothing else. -/

namespace Sys2Proof.Tests
open Sys2Proof Sys2Proof.Machine

set_option Elab.async false

/-- A powered module that is ready, with one core running and no node. -/
def powered : State := onHost State.reset (fun h => { h with power := true, state := 2 })
def runner : Core := { Core.idle with running := true, pc := 0x1000, num := 0 }
/-- The same with the core as given. -/
def withCore (k : Core) : State := setCore powered 0 k
/-- Registers s1, s2, s3 set. -/
def withRegs (x y z : Word) : State :=
  withCore { runner with regs := { runner.regs with s := mputs 0 [] [(1, x), (2, y), (3, z)] } }
/-- A node of one gang of one core, running on core 0; `d` is its descriptor. -/
def aNode (d : List Byte) : Node := { newNode State.reset 0 Queue.reset d with id := 1, st := .running, cores := [0] }
def inNode (s : State) : State :=
  onSched (onCore s 0 (fun k => { k with node := some 1 })) (fun h => { h with nodes := [aNode (List.replicate 256 0)], nodeNext := 2 })
/-- The core of a running node, whose slice holds bytes from an offset on, with s1 pointing there. -/
def withBytes (off : Nat) (bs : List Byte) : State :=
  { inNode (withRegs (BitVec.ofNat 64 (sliceWin + off)) 0 0) with slices := putBytes [] off bs }

/-- `n` bytes, zero but for the fields given: offset, length, value. -/
def fields (n : Nat) (fs : List (Nat × Nat × Nat)) : List Byte :=
  bytesAt (fs.foldl (fun m e => putBytes m e.1 (natLe e.2.1 e.2.2)) []) 0 n
/-- A card or descriptor in the slice at 0x400, with s1 pointing there. -/
def withCard (n : Nat) (fs : List (Nat × Nat × Nat)) : State := withBytes 0x400 (fields n fs)
/-- A translation of the first pages at 0x40000000, readable, writable and executable, to the leaf given. -/
def mapped (leaf : Word) (s : State) : State :=
  onCore s 0 (fun k => { k with tlb := [⟨k.csr.ctxid, 0x40000000, 4, leaf⟩] })
/-- Another base register. -/
def base1 (v : Word) (s : State) : State := onCore s 0 (fun k => onRegs k (·.wS 1 v))

end Sys2Proof.Tests
end

