-- ==== Sys2Proof/Tests/Scalar.lean ====
section
/-! SUPPORT. Scalar.lean: states that meet the hypotheses of the statements about slots S and V, clause by clause. -/

namespace Sys2Proof.Tests
open Sys2Proof Sys2Proof.Machine

set_option Elab.async false

theorem witness_IntegerResults : lone (.add ⟨0, 0, 2, 1, 3⟩) (withRegs 5 7 0) = true ∧
    aluResult (rdS (reading (withRegs 5 7 0)) 0) (.add ⟨0, 0, 2, 1, 3⟩) = some (3, 12) := by decide +kernel

/-- Boosted (header bit 0), to s0, and suppressed. -/
theorem witness_IntegerResults_forms : lone (.sub ⟨0, 0, 2, 1, 0⟩) { withRegs 5 7 0 with hdr := 1 } = true ∧
    lone (.xor ⟨0, 0, 2, 1, 64⟩) (withRegs 5 7 0) = true := by decide +kernel

theorem witness_DivisionAndFloatResults :
    lone (.div ⟨0, 0, 2, 1, 3⟩) (withRegs 100 7 0) = true ∧
    (divResult (rdS (reading (withRegs 100 7 0)) 0) (.div ⟨0, 0, 2, 1, 3⟩)).map (fun e => e.2) = some (14, BitVec.allOnes 64) ∧
    rdS (reading (withRegs 100 7 0)) 0 2 ≠ 0 ∧
    lone (.rem ⟨0, 0, 2, 1, 3⟩) (withRegs 100 0 0) = true ∧ rdS (reading (withRegs 100 0 0)) 0 2 = 0 ∧
    quiet (withRegs 100 0 0) 0 fDZ = true := by decide +kernel

/-- 1.0 + 1.0 in FP64. -/
theorem witness_FloatResults : lone (.fadd ⟨4, 0, 1, 1, 3⟩) (withRegs 0x3FF0000000000000 0 0) = true ∧
    fpResult (withRegs 0x3FF0000000000000 0 0) (rdS (reading (withRegs 0x3FF0000000000000 0 0)) 0) (.fadd ⟨4, 0, 1, 1, 3⟩) =
      some (3, 0x4000000000000000, 0) ∧ quiet (withRegs 0x3FF0000000000000 0 0) 0 0 = true := by decide +kernel

/-- Every flag enabled: 1.0 / 0.0, and 100 / 0. -/
def trapping : State := onCore (withRegs 0x3FF0000000000000 0 0) 0 (fun k => { k with csr := { k.csr with fpc := 0x1F } })
theorem witness_FlagTraps : lone (.fdiv ⟨4, 0, 2, 1, 3⟩) trapping = true ∧
    (fpResult trapping (rdS (reading trapping) 0) (.fdiv ⟨4, 0, 2, 1, 3⟩)).map (fun r => quiet trapping 0 r.2.2) = some false ∧
    lone (.div ⟨0, 0, 2, 1, 3⟩) trapping = true ∧ rdS (reading trapping) 0 2 = 0 ∧ quiet trapping 0 fDZ = false := by
  decide +kernel
/-- Infinities of both signs, every flag enabled: their sum in slot V, and the scale code of one in slot X. -/
def infinite : State := onCore trapping 0 (fun k => { k with
  regs := { k.regs with v := [(1, BitVec.ofNat 2048 0x7F800000), (2, BitVec.ofNat 2048 0xFF800000)] } })
theorem witness_FlagTraps_vector : lone (.vfadd ⟨0, 0, 11, 0, 0, 0, 2, 1, 3⟩) infinite = true ∧
    (vecArith infinite (.vfadd ⟨0, 0, 11, 0, 0, 0, 2, 1, 3⟩)).map (fun o => quiet infinite 1 o.fl) = some false ∧
    lone (.xsel ⟨1, 1, 2⟩) infinite = true ∧
    quiet infinite 5 (xselCode (xselBlock ⟨1, 1, 2⟩) (xselType ⟨1, 1, 2⟩)
      (nth 0 (elems (xselType ⟨1, 1, 2⟩).w 1 (rdV (reading infinite) 5 1 1)) 0)).2 = false := by decide +kernel

/-- FPC read and written; PSET, PSETS and PCNT of 32-bit elements. -/
theorem witness_CsrAndPredicates : lone (.csrr ⟨0, 0, 0, 0, 3⟩) (withRegs 5 7 0) = true ∧
    lone (.csrw ⟨0, 0, 0, 1, 0⟩) (withRegs 5 7 0) = true ∧ lone (.pset ⟨3, 1, 0, 1, 0⟩) (withRegs 5 7 0) = true ∧
    lone (.psets ⟨3, 1, 0, 1, 3⟩) (withRegs 5 7 0) = true ∧ lone (.pcnt ⟨3, 1, 0, 0, 3⟩) (withRegs 5 7 0) = true := by
  decide +kernel

/-- A branch that resolves nothing and one that resolves, forwards and backwards; an indirect jump, aligned or not. -/
theorem witness_BranchesAndJumps : lone (.br ⟨4, 0, 0, 0, 0⟩) (withRegs 5 64 0) = true ∧
    lone (.bc ⟨0xFFFFF, 0, 1, 1, 1⟩) (withRegs 5 64 0) = true ∧ lone (.jmpi ⟨0, 0, 0, 2, 0⟩) (withRegs 5 64 0) = true ∧
    lone (.jmpi ⟨0, 0, 0, 1, 0⟩) (withRegs 5 64 0) = true ∧
    (rdS (reading (withRegs 5 64 0)) 0 2).extractLsb' 0 5 = 0 ∧ (rdS (reading (withRegs 5 64 0)) 0 1).extractLsb' 0 5 ≠ 0 ∧
    lone (.br ⟨4, 1, 0, 0, 0⟩) (withRegs 5 64 0) = true ∧ (boundary (withRegs 5 64 0)).level = false ∧
    boostOut (reading (withRegs 5 64 0)) = false ∧ (boundary (withRegs 5 64 0)).shadow.recs = [] ∧
    lone (.bc ⟨4, 1, 1, 1, 1⟩) (withRegs 5 64 0) = true ∧ bcHolds 1 (rdS (reading (withRegs 5 64 0)) 0 1) = true ∧
    lone (.bc ⟨4, 1, 0, 1, 1⟩) (withRegs 5 64 0) = true := by decide +kernel

/-- A shadow with the deferred record of `LD s3, [s1]` at `va`, its trap taken or not. -/
def deferring (va : Nat) (retry : Bool) : State :=
  onCore (withBytes 0x40 [1, 2, 3, 4]) 0 (fun k => onShadow k (fun x => { x with
    retry := retry
    recs := [⟨3, BitVec.ofNat 48 ((encode (.ld ⟨9, 0, 0, 0, 1, 3⟩)).getD 0), 0x11, 0, BitVec.ofNat 64 va, 0, 0xE000,
      ⟨.s, [3], 64, 1, false, 3, true⟩, []⟩] }))
/-- The record traps; after the return it is performed, or traps again. -/
theorem witness_BranchesAndJumps_deferred :
    let s := deferring (sliceWin + 0x40) true
    let t := deferring (sliceWin + 2 ^ 20) true
    let u := deferring (sliceWin + 0x40) false
    (boundary s).level = false ∧ boostOut (reading s) = false ∧ (boundary s).shadow.recs.length = 1 ∧ (boundary s).shadow.retry = true ∧
      lone (.br ⟨4, 1, 0, 0, 0⟩) s = true ∧ (boundary u).shadow.retry = false ∧ lone (.br ⟨4, 1, 0, 0, 0⟩) u = true ∧
      (match redo 0 (boundary s).shadow.recs (entered s) (boundary s) with
        | .done _ k => k.shadow.s.map (·.2) | _ => []) = [0x04030201] ∧
      (match redo 0 (boundary t).shadow.recs (entered t) (boundary t) with
        | .fault c i => some (c, i) | _ => none) = some (0x11, 0) := by decide +kernel

/-- A load of the shadow under way, and a shadow copy of a register that an earlier load still owes its result. -/
theorem witness_BranchesAndJumps_waiting :
    let d : LateDst := ⟨.s, [3], 64, 1, false, 3, true⟩
    let s := onCore (withRegs 5 64 0) 0 (fun k => { k with mem := [⟨0, 0, .load [⟨.dmem 64, 8, false⟩] d [] false, false, 0⟩] })
    let t := onCore (withRegs 5 64 0) 0 (fun k => { onShadow k (fun x => { x with s := [(3, 7)] }) with pendS := [3] })
    boostOut (reading s) = true ∧ lone (.br ⟨4, 1, 0, 0, 0⟩) s = true ∧ lone (.bc ⟨4, 1, 0, 1, 1⟩) s = true ∧
      (boundary s).level = false ∧ boostOut (reading t) = false ∧ commitOwed { reading t with resolve := some true } = true ∧
      lone (.br ⟨4, 1, 0, 0, 0⟩) t = true ∧ lone (.bc ⟨4, 1, 1, 1, 1⟩) t = true ∧ lone (.bc ⟨4, 1, 0, 1, 1⟩) t = true ∧
      (boundary t).level = false := by decide +kernel

/-- A call with room and one with a full resident stack; a return from the resident stack and from the spill area. -/
def calling (n cspl : Nat) : State :=
  onCore (inNode (withRegs 0 64 0)) 0 (fun k => { k with calls := List.replicate n 0x2000, cspl := cspl })
theorem witness_CallsAndReturns : ownPending 0 (boundary (calling 0 0)) = false ∧ lone (.call ⟨4, 0, 0, 0, 0⟩) (calling 0 0) = true ∧
    lone (.call ⟨4, 0, 0, 0, 0⟩) (calling 8 0) = true ∧ lone (.call ⟨4, 0, 0, 0, 0⟩) (calling 8 512) = true ∧
    lone (.calli ⟨0, 0, 0, 2, 0⟩) (calling 0 0) = true ∧ lone (.ret ⟨0, 0, 0, 0, 0⟩) (calling 1 0) = true ∧
    lone (.ret ⟨0, 0, 0, 0, 0⟩) (calling 0 1) = true ∧ lone (.ret ⟨0, 0, 0, 0, 0⟩) (calling 0 0) = true := by decide +kernel

/-- A spill behind an earlier fence; a call with room and a return while an access to the own slice is left. -/
theorem witness_CallsAndReturns_pending :
    let out (op : MemOp) (n : Nat) : State := onCore (calling n 0) 0 (fun k => { k with
      mem := [⟨0, 0, .store ⟨.dmem 0, 8, false⟩ [1] false, false, 0⟩, ⟨1, 0, op, false, 0⟩], memNext := 2 })
    let s := out (.rel 3 0xFF 0) 8
    let st : MemOp := .store ⟨.slice 0 0x40, 8, false⟩ [1] false
    ownPending 0 (boundary s) = false ∧ mayLoad s = true ∧ fencePending (boundary s) = true ∧ lone (.call ⟨4, 0, 0, 0, 0⟩) s = true ∧
      ownPending 0 (boundary (out st 1)) = true ∧ lone (.call ⟨4, 0, 0, 0, 0⟩) (out st 1) = true ∧
      lone (.ret ⟨0, 0, 0, 0, 0⟩) (out st 1) = true ∧ mayLoad (calling 0 0) = true ∧ mayLoad (calling 8 0) = true := by decide +kernel

/-- No loop, one loop, six loops. -/
def looping (n : Nat) : State :=
  onCore (withRegs 5 0 0x100000000) 0 (fun k => { k with loops := List.replicate n ⟨0x900, 0x5000, 7, 3, false⟩ })
theorem witness_LoopsOpenAndClose : lone (.loop ⟨0, 0, 2, 1, 0⟩) (looping 0) = true ∧ lone (.loop ⟨0, 0, 2, 2, 0⟩) (looping 0) = true ∧
    lone (.loop ⟨0, 0, 2, 3, 0⟩) (looping 0) = true ∧ lone (.loopi ⟨0, 0, 2, 0, 4⟩) (looping 6) = true ∧
    lone (.loopi ⟨1, 0, 2, 0, 4⟩) (looping 1) = true ∧ lone (.lexit ⟨0, 0, 0, 0, 0⟩) (looping 1) = true ∧
    lone (.lexit ⟨1, 0, 0, 0, 0⟩) (looping 1) = true ∧ lone (.lidx ⟨0, 0, 0, 0, 3⟩) (looping 1) = true := by decide +kernel

def handling : State := onCore (withRegs 0 0 0) 0 (fun k => { k with level := true })
theorem witness_TrapReturnAndExit : (withRegs 0 0 0).host.power = true ∧
    { withRegs 0 0 0 with frame := some (newFrame runner 0) }.frame = some (newFrame runner 0) ∧
    canIssue (withRegs 0 0 0) = true ∧ hdrOk 0 = true ∧ hdrBoost 0 = 0 ∧ endOk 0 (boundary (withRegs 0 0 0)) .nop = true ∧
    lone (.trap ⟨0, 0, 0, 0, 5⟩) (withRegs 0 0 0) = true ∧ lone (.eret ⟨0, 0, 0, 0, 0⟩) handling = true ∧
    lone (.exit ⟨0, 0, 0, 0, 0⟩) (withRegs 0 0 0) = true ∧ lone (.exit ⟨0, 0, 0, 0, 0⟩) handling = true := by decide +kernel

/-- BSWAP; WAITE with its event there, with none and no time to wait, and parking; YIELD. -/
theorem witness_SwapsWaitsYields :
    let s := onCore (withRegs 0x30 0 100) 0 (fun k => { k with evl := 0x10 })
    let t := withRegs 0x30 0 100
    lone (.bswap ⟨0, 0, 3, 0, 0⟩) s = true ∧ ownPending 0 (boundary s) = false ∧
      lone (.waite ⟨0, 0, 3, 1, 4⟩) s = true ∧ (boundary s).evl &&& 0x30 ≠ 0 ∧ (boundary s).evl &&& 0x30 &&& 0x0C = 0 ∧
      lone (.waite ⟨0, 0, 2, 1, 4⟩) t = true ∧ (boundary t).evl &&& 0x30 = 0 ∧ rdS (reading t) 0 2 = 0 ∧
      lone (.waite ⟨0, 0, 3, 1, 4⟩) t = true ∧ rdS (reading t) 0 3 ≠ 0 ∧ (boundary t).park = none ∧
      lone (.yield ⟨0, 0, 0, 0, 0⟩) t = true := by decide +kernel

/-- A token event, an acquire; and a wait that has ended with none of its events. -/
theorem witness_SwapsWaitsYields_ended :
    let s := onCore (withRegs 4 0 100) 0 (fun k => { k with evl := 4 })
    let t := onCore (withRegs 0x30 0 100) 0 (fun k => { k with park := some ⟨.waite 0x30, 0, some 100, 0, some ⟨0, false, 0⟩, []⟩ })
    lone (.waite ⟨0, 0, 3, 1, 4⟩) s = true ∧ (boundary s).evl &&& 4 &&& 0x0C ≠ 0 ∧
      (rdS (reading s) 0 1).setWidth 8 = (4 : BitVec 8) ∧ lone (.waite ⟨0, 0, 3, 1, 4⟩) t = true ∧
      (boundary t).evl &&& 0x30 = 0 ∧ waitRes (reading t) 0 = some ⟨0, false, 0⟩ := by decide +kernel

/-! ### Slot V -/

/-- v1 and v2 hold bytes 1 and 2; every predicate is full. -/
def vectors : State := onCore (withRegs 3 0 0) 0 (fun k => { k with
  regs := { k.regs with v := [(1, BitVec.ofNat 2048 1), (2, BitVec.ofNat 2048 2)] } })

theorem witness_VectorResults : lone (.vadd ⟨0, 0, 8, 0, 0, 0, 2, 1, 3⟩) vectors = true ∧
    (vecArith vectors (.vadd ⟨0, 0, 8, 0, 0, 0, 2, 1, 3⟩)).map (fun o => quiet vectors 1 o.fl) = some true := by decide +kernel
theorem witness_VectorConversions : lone (.vcvt ⟨3, 0, 4, 0, 0, 0, 0, 1, 3⟩) vectors = true ∧
    (vecConvert vectors (.vcvt ⟨3, 0, 4, 0, 0, 0, 0, 1, 3⟩)).map (fun o => quiet vectors 1 o.fl) = some true := by decide +kernel
theorem witness_VectorShapes : lone (.viota ⟨0, 0, 9, 0, 0, 0, 0, 0, 3⟩) vectors = true ∧
    (vecShape vectors (.viota ⟨0, 0, 9, 0, 0, 0, 0, 0, 3⟩)).map (fun o => quiet vectors 1 o.fl) = some true ∧
    lone (.vextr ⟨0, 0, 9, 0, 0, 0, 1, 1, 3⟩) vectors = true ∧ lone (.vpart ⟨0, 0, 9, 0, 0, 1, 0, 1, 4⟩) vectors = true := by
  decide +kernel

theorem witness_WrittenElementsReadBack : (64 : Nat) ∈ [4, 8, 16, 32, 64] ∧ (List.replicate 32 9).length = 1 * 2048 / 64 ∧
    [some 5, none].length ≤ (List.replicate 32 9).length ∧ (∀ e ∈ List.replicate 32 9, e < 2 ^ 64) ∧ (5 : Nat) < 2 ^ 64 ∧
    (1 : BitVec 7).toNat + 2 ≤ 32 ∧ 65 < 2 * (2048 / 32) := by
  decide

/-- R142: elements 0, 1 and 64 of the group v1:2 as elements of 32 bits: v1 holds 1 and v2 holds 2. -/
theorem test_group_elements : let es := elems 32 2 (rdV (reading vectors) 1 1 2)
    nth 0 es 0 = 1 ∧ nth 0 es 1 = 0 ∧ nth 0 es 64 = 2 := by decide +kernel

end Sys2Proof.Tests
end

