-- ==== Sys2Proof/Tests/Async.lean ====
section
/-! SUPPORT. Async.lean: states that meet the hypotheses of the statements about the fabric instructions and slot A. -/

namespace Sys2Proof.Tests
open Sys2Proof Sys2Proof.Machine

set_option Elab.async false

/-- A good fabric address, a bad one (s2), and one that is misaligned for 8 bytes (s3). -/
def fabric : State := withRegs 8 0x4000000000000000 4
theorem witness_FabricAccess :
    mayLoad fabric = true ∧ mayWrite fabric = true ∧ writesOut (boundary fabric) < 64 ∧
      lone (.fld ⟨9, 0, 0, 0, 1, 4⟩) fabric = true ∧ faddrOk (entered fabric) (rdS (reading fabric) 3 1) = true ∧
      offOf (rdS (reading fabric) 3 1) % 8 = 0 ∧ lone (.fld ⟨9, 0, 0, 0, 2, 4⟩) fabric = true ∧
      faddrOk (entered fabric) (rdS (reading fabric) 3 2) = false ∧ lone (.fld ⟨9, 0, 0, 0, 3, 4⟩) fabric = true ∧
      faddrOk (entered fabric) (rdS (reading fabric) 3 3) = true ∧ offOf (rdS (reading fabric) 3 3) % 8 ≠ 0 := by decide +kernel
theorem witness_FabricAccess_writes :
    lone (.fst ⟨9, 0, 3, 0, 1, 4⟩) fabric = true ∧ lone (.fst ⟨9, 0, 3, 0, 2, 4⟩) fabric = true ∧
      lone (.fst ⟨9, 0, 3, 0, 3, 4⟩) fabric = true ∧ lone (.fatom ⟨9, 0, 3, 0, 1, 4⟩) fabric = true ∧
      lone (.fatom ⟨9, 0, 3, 0, 2, 4⟩) fabric = true ∧ lone (.fatom ⟨9, 0, 3, 0, 3, 4⟩) fabric = true := by decide +kernel

theorem witness_JobsAndLaunches_port :
    let s := withCard 64 [(0x10, 4, 8), (0x14, 2, 1), (0x16, 2, 1)]
    lone (.port ⟨0, 0, 0, 1, 5⟩) s = true ∧ (cardAt s (rdS (reading s) 4 1) 64 64).isSome = true ∧
      (cluster (entered s) (Config.clusterOf s.cur)).jobs = [] := by decide +kernel
theorem witness_JobsAndLaunches_launch :
    let s := withCard 256 [(0x41, 1, 1)]
    lone (.launch ⟨0, 0, 2, 1, 5⟩) s = true ∧ (cardAt s (rdS (reading s) 4 1) 64 256).isSome = true ∧
      lone (.ckpt ⟨0, 0, 0, 1, 5⟩) s = true ∧ (cardAt s (rdS (reading s) 4 1) 64 64).isSome = true := by decide +kernel

/-- A range as s1 and s2 give it, in a page whose leaf is given. -/
def publishing (leaf : Word) (a n : Word) : State := mapped leaf (withRegs a n 0)
/-- Misaligned; empty; in the slice window; over the end of the page; in a page that holds no code. -/
theorem witness_PublishCode_traps :
    let i : Instr := .cpub ⟨0xF, 0x78, 2, 1, 0⟩
    let go (s : State) : Nat × Nat := (va48 (rdS (reading s) 4 1), (rdS (reading s) 4 2).toNat)
    lone i (publishing 0x4001F 0x40000020 64) = true ∧ (go (publishing 0x4001F 0x40000020 64)).1 % 64 ≠ 0 ∧
      lone i (publishing 0x4001F 0x40000040 0) = true ∧ go (publishing 0x4001F 0x40000040 0) = (0x40000040, 0) ∧
      lone i (publishing 0x4001F 0xFEFFFFFFFFC0 128) = true ∧
      lone i (publishing 0x4001F 0x4003FFC0 128) = true ∧ 0x4003FFC0 / 2 ^ pageBits 4 ≠ (0x4003FFC0 + 127) / 2 ^ pageBits 4 ∧
      lone i (publishing 0x4000F 0x40000040 64) = true ∧ (0x4000F : Word).getLsbD 4 = false := by decide +kernel
/-- A range that is published, by CPUB of a page and by CPUB.W, and IPUB. -/
theorem witness_PublishCode :
    let s := publishing 0x4001F 0x40000040 64
    lone (.cpub ⟨0xF, 0x78, 2, 1, 0⟩) s = true ∧
      xlPub (entered s) s.cur (boundary s) 0x40000040 = .ok (.dmem 0x40040) false (some ⟨0, 0x40000000, 4, 0x4001F⟩) ∧
      (0x4001F : Word).getLsbD 4 = true ∧ lone (.cpub ⟨0, 4, 2, 1, 0⟩) s = true ∧
      (RF.cpubW ⟨0, 4, 2, 1, 0⟩) = true ∧ lone (.ipub ⟨0, 0, 0, 0, 0⟩) s = true ∧
      ipubHeld (entered s) s.cur (boundary s) = false ∧ ownPending s.cur (boundary s) = false := by decide +kernel

/-- A handler-level page, from user level. -/
theorem witness_PublishCode_refused :
    let s := publishing 0x4003F 0x40000040 64
    lone (.cpub ⟨0xF, 0x78, 2, 1, 0⟩) s = true ∧ xlPub (entered s) s.cur (boundary s) 0x40000040 = .fault 0x19 5 := by decide +kernel

/-- A word at 5 with threshold s2 and time-out s3. -/
def atWord (thr lim : Word) : State :=
  onCore (withBytes 0x40 [5, 0, 0, 0, 0, 0, 0, 0, 1]) 0 (fun k => onRegs k (fun r => (r.wS 2 thr).wS 3 lim))
theorem witness_SemaphoreWaits :
    let s := atWord 5 0
    let t := atWord 6 0
    let p : Piece := ⟨.slice 0 0x40, 8, false⟩
    lone (.swait ⟨0, 3, 2, 1, 4⟩) s = true ∧ mayLoad s = true ∧ targetFault (entered s) (reading s) (sliceWin + 0x40) 8 false false = none ∧
      reached s .rd 8 [(va48 (rdS (reading s) 4 1), 8)] = some [p] ∧ undisturbed s [p] = true ∧
      (readGate (entered s) (boundary s).node [p]).map (fun u => leNat (readPiece u (boundary s).node p).1) = some 5 ∧
      lone (.swait ⟨0, 3, 2, 1, 4⟩) t = true ∧ reached t .rd 8 [(sliceWin + 0x40, 8)] = some [p] ∧ undisturbed t [p] = true ∧
      (readGate (entered t) (boundary t).node [p]).map (fun u => leNat (readPiece u (boundary t).node p).1) = some 5 ∧ rdS (reading t) 4 2 = 6 := by decide +kernel
/-- A wait that must park, with the owner word of the lock, and one that has ended. -/
theorem witness_SemaphoreWaits_parked :
    let s := atWord 6 100
    let p : Piece := ⟨.slice 0 0x40, 8, false⟩
    let q : Piece := ⟨.slice 0 0x48, 8, false⟩
    let t := onCore s 0 (fun k => { k with park := some ⟨.swait (sliceWin + 0x40) p.pl 6 none, 4, some 100, 0, some ⟨4, true, 0⟩, []⟩ })
    lone (.swait ⟨1, 3, 2, 1, 4⟩) s = true ∧ (boundary s).park = none ∧
      reached s .rd 8 [(sliceWin + 0x40, 8), (sliceWin + 0x48, 8)] = some [p, q] ∧ undisturbed s [p, q] = true ∧
      lone (.swait ⟨0, 3, 2, 1, 4⟩) t = true ∧ waitRes (reading t) 4 = some ⟨4, true, 0⟩ ∧ undisturbed t [p] = true := by
  decide +kernel

/-- A node with one barrier register. -/
def withBars : State := onNode (inNode (withRegs 0 0 0)) 1 (fun n => { n with desc := fields 256 [(0x48, 1, 1)] })
theorem witness_BarriersGrantsChecks_gbar :
    let i : Instr := .gbar ⟨0, 0x18, 0, 0, 0⟩
    lone i withBars = true ∧ (((boundary withBars).node.bind (nodeOf (entered withBars))).map nGbarn).getD 0 = 1 ∧
      RF.gbarK ⟨0, 0x18, 0, 0, 0⟩ = 0 ∧ released (entered withBars) (reading withBars) 3 = true ∧
      RF.gbarScope ⟨0, 0x18, 0, 0, 0⟩ = 3 ∧ lone (.gbar ⟨0, 0x19, 0, 0, 0⟩) withBars = true ∧ RF.gbarK ⟨0, 0x19, 0, 0, 0⟩ = 1 := by
  decide +kernel
/-- A valid window entry at address 0 under a valid key; a grant draft with the read right in s1, device 0 in s2. -/
def minting (g : Word) : State :=
  let s := withRegs g 0 0
  let s := onFab s (fun h => { h with winbase := 1, keyctl := 1 })
  onDram s (fun d => { d with mem := putBytes [] (locOf s 0) (fields 32 [(8, 8, 0x40000), (0x12, 2, 0x8000), (0x14, 1, 0xF)]) })
theorem witness_BarriersGrantsChecks_grants :
    lone (.gset ⟨0, 0, 0, 1, 3⟩) (minting 7) = true ∧ lone (.gsetMint ⟨0, 1, 2, 1, 3⟩) (minting 0x1000000000) = true ∧
      mintFault (entered (minting 0x1000000000)) (boundary (minting 0x1000000000)) 0x1000000000 0 = none ∧
      lone (.gsetMint ⟨0, 1, 2, 1, 3⟩) (minting 0x1000000001) = true ∧
      mintFault (entered (minting 0x1000000001)) (boundary (minting 0x1000000001)) 0x1000000001 0 = some 0x84 := by
  decide +kernel
/-- The integrity register with a verdict, under each mode of CHKERR. -/
theorem witness_BarriersGrantsChecks_chkerr :
    let s := onCore (withRegs 0 0 0) 0 (fun k => { k with csr := { k.csr with cir := 1 } })
    checkOpen (entered s) s.cur (boundary s) = false ∧ lone (.chkerr ⟨0, 0, 0, 0, 3⟩) s = true ∧
      lone (.chkerr ⟨0, 2, 2, 0, 3⟩) s = true ∧ lone (.chkerr ⟨0, 2, 1, 0, 3⟩) s = true ∧ lone (.chkerr ⟨0, 4, 1, 0, 3⟩) s = true ∧
      (boundary s).csr.cir.extractLsb' 0 2 &&& RF.chkMask ⟨0, 2, 1, 0, 3⟩ ≠ 0 ∧
      (boundary s).csr.cir.extractLsb' 0 2 &&& RF.chkMask ⟨0, 2, 2, 0, 3⟩ = 0 := by decide +kernel

/-- A header with one member, with a bad member, and with none. -/
theorem witness_MulticastAndCaravans_mcst :
    let s := withCard 64 [(8, 4, 8), (0x0C, 1, 1)]
    let t := withCard 64 [(8, 4, 8), (0x0C, 1, 1), (0x28, 8, 2 ^ 62)]
    let i : Instr := .mcst ⟨0, 0, 0, 1, 5⟩
    lone i s = true ∧ (cardAt s (rdS (reading s) 4 1) 64 32).map (fun h => (mHead h.2.1, mNum h.2.1)) = some (true, 1) ∧
      (cardAt s (rdS (reading s) 4 1) 64 48).map (fun r => (mNum r.2.1, faddrOk (entered s) (mFaddr r.2.1 0))) = some (1, true) ∧
      lone i t = true ∧ (cardAt t (rdS (reading t) 4 1) 64 48).map (fun r => (mNum r.2.1, faddrOk (entered t) (mFaddr r.2.1 0))) =
        some (1, false) ∧
      (cardAt (withCard 64 []) (rdS (reading s) 4 1) 64 32).map (fun h => mHead h.2.1) = some false := by decide +kernel
/-- A member list whose page may not be read, after a header whose page may. -/
theorem witness_MulticastAndCaravans_fault :
    let s := onCore (withCard 64 []) 0 (fun k => { k with
      regs := { k.regs with s := mputs 0 [] [(1, 0x4003FFC0)] }
      tlb := [⟨k.csr.ctxid, 0x40000000, 4, 0x4001F⟩, ⟨k.csr.ctxid, 0x40040000, 4, 0x80003⟩] })
    let h : State := onDram s (fun d => { d with mem := putBytes [] (locOf s 0x7FFC0) (fields 32 [(8, 4, 8), (0x0C, 1, 8)]) })
    let i : Instr := .mcst ⟨0, 0, 0, 1, 5⟩
    lone i h = true ∧ (cardAt h (rdS (reading h) 4 1) 64 32).map (fun r => (mHead r.2.1, mNum r.2.1)) = some (true, 8) ∧
      reach h .rd 64 [(0x4003FFC0, 32 + 16 * 8)] = .fault 0x19 5 := by decide +kernel
/-- Two steps of offsets; and a pointer that is none. -/
theorem witness_MulticastAndCaravans_carav :
    let s := withCard 32 [(0, 8, 0x1000), (8, 2, 1), (10, 2, 2)]
    let t := withCard 32 [(0, 8, 2 ^ 63)]
    let i : Instr := .carav ⟨0, 8, 0, 1, 4⟩
    lone i s = true ∧ (cardAt s (rdS (reading s) 4 1) 32 32).map (fun r =>
      (carOk (BitVec.ofNat 64 (d64 r.2.1 0)), ((cOffs r.2.1).drop 2).all (· == 0))) = some (true, true) ∧
      lone i t = true ∧ (cardAt t (rdS (reading t) 4 1) 32 32).map (fun r => carOk (BitVec.ofNat 64 (d64 r.2.1 0))) = some false := by
  decide +kernel

/-! ### Illegal bundles and traps -/

/-- ERET at user level; the same with a reserved header bit; an empty bundle with a boost bit. -/
theorem witness_IllegalBundlesTrap :
    let s := withRegs 0 0 0
    let t := { withRegs 0 0 0 with hdr := 0x8000 }
    let u := { withRegs 0 0 0 with hdr := 1 }
    canIssue s = true ∧ slotOf (.eret ⟨0, 0, 0, 0, 0⟩) = some 0 ∧ ownCauses s (.eret ⟨0, 0, 0, 0, 0⟩) 0 ≠ [] ∧
      waits (boundary s) (.eret ⟨0, 0, 0, 0, 0⟩) = false ∧
      (ownCauses s (.eret ⟨0, 0, 0, 0, 0⟩) 0 ++ hdrCauses s (slotBit 0)).min? = some 0x0E ∧
      canIssue t = true ∧ waits (boundary t) (.eret ⟨0, 0, 0, 0, 0⟩) = false ∧
      (ownCauses t (.eret ⟨0, 0, 0, 0, 0⟩) 0 ++ hdrCauses t (slotBit 0)).min? = some 2 ∧
      canIssue u = true ∧ (hdrCauses u 0).min? = some 8 := by decide +kernel
/-- A bundle marked as a loop end with no loop open. -/
theorem witness_IllegalBundlesTrap_loopEnd :
    let s := { withRegs 5 7 0 with hdr := 0x40 }
    canIssue s = true ∧ endOk s.hdr (boundary s) .nop = false ∧ hdrOk s.hdr = true ∧ hdrBoost s.hdr = 0 ∧
      endOk s.hdr (boundary s) (.add ⟨0, 0, 2, 1, 3⟩) = false ∧
      aluResult (rdS (reading s) 0) (.add ⟨0, 0, 2, 1, 3⟩) = some (3, 12) ∧
      legalAlone s.hdr (boundary s) (.add ⟨0, 0, 2, 1, 3⟩) 0 = true ∧ waits (boundary s) (.add ⟨0, 0, 2, 1, 3⟩) = false ∧
      noToken (boundary s) (uses (.add ⟨0, 0, 2, 1, 3⟩)) = true := by decide +kernel

/-- Two slots that write one register; three that read five groups; and bundles of two slots that commit, fault, or fault twice. -/
theorem witness_IllegalBundlesTrap_slots :
    let s := withRegs 5 7 0
    let l : List Instr := [.add ⟨0, 0, 2, 1, 3⟩, .ld ⟨9, 0, 0, 0, 1, 3⟩]
    let m : List Instr := [.vfma ⟨0, 0, 0xB, 0, 0, 12, 8, 4, 0⟩, .mwr ⟨0, 1, 5⟩, .vst ⟨9, 0, 3, 0, 1, 0⟩]
    let fit (l : List Instr) : Bool := l.all (fun i => (slotOf i).isSome && (causes (boundary s).level i).isEmpty && !waits (boundary s) i)
    canIssue s = true ∧ hdrOk s.hdr = true ∧ hdrBoost s.hdr = 0 ∧ (l.map slotOf).Nodup ∧ (m.map slotOf).Nodup ∧ fit l = true ∧ fit m = true ∧
      (∃ i ∈ l, sharesWrite l i = true) ∧ (∀ i ∈ m, sharesWrite m i = false) ∧ (∃ i ∈ m, overBudget m i = true) := by decide +kernel
theorem witness_IllegalBundlesTrap_pair :
    let s := base1 (BitVec.ofNat 64 (sliceWin + 4)) (inNode vectors)
    let i : Instr := .add ⟨0, 0, 2, 1, 3⟩
    let j : Instr := .vadd ⟨0, 0, 8, 0, 0, 0, 2, 1, 3⟩
    let k : Instr := .ld ⟨9, 0, 0, 0, 1, 4⟩
    hdrBoost s.hdr = 0 ∧ lone i s = true ∧ lone j s = true ∧ (aluResult (rdS (reading s) 0) i).isSome = true ∧
      (vecArith s j).map (fun o => quiet s 1 o.fl) = some true ∧ lone k s = true ∧ mayLoad s = true ∧ (boundary s).mxq.length < 8 ∧
      (accessOf s k).map (fun a => (a.1, reach s a.2.1 a.2.2.1 a.2.2.2)) = some (3, .fault 0x10 0) ∧
      sharesWrite [i, k] i = false ∧ overBudget [i, k] i = false ∧ overBudget [i, k] k = false := by decide +kernel
theorem witness_IllegalBundlesTrap_two :
    let s := base1 (BitVec.ofNat 64 (sliceWin + 4)) (inNode vectors)
    let i : Instr := .ld ⟨9, 0, 0, 0, 1, 4⟩
    let j : Instr := .port ⟨0, 0, 0, 1, 5⟩
    lone i s = true ∧ lone j s = true ∧ (accessOf s i).map (fun a => (a.1, reach s a.2.1 a.2.2.1 a.2.2.2)) = some (3, .fault 0x10 0) ∧
      (accessOf s j).map (fun a => (a.1, reach s a.2.1 a.2.2.1 a.2.2.2)) = some (4, .fault 0x10 0) ∧
      (∀ k ∈ [i, j], sharesWrite [i, j] k = false ∧ overBudget [i, j] k = false) := by decide +kernel

/-- A core with a late result under way; at handler level; with a handler; with none; and with a trap due. -/
theorem witness_TrapEntry :
    let k (f : Core → Core) : Core := coreAt (withCore (f runner)) 0
    (k id).running = true ∧ landed (k (fun c => { c with latWait := [(3, 1)] })) = false ∧
      landed (k (fun c => { c with level := true })) = true ∧ (k (fun c => { c with level := true })).level = true ∧
      landed (k id) = true ∧ (k id).level = false ∧ (k (fun c => { c with csr := { c.csr with tvec := 0x100 } })).csr.tvec ≠ 0 ∧
      (k id).csr.tvec = 0 := by decide +kernel
theorem witness_TrapEntry_due :
    let s := withCore { runner with postTrap := [(false, 0x3F, 0)] }
    slotOf (.add ⟨0, 0, 2, 1, 3⟩) = some 0 ∧ s.host.power = true ∧ s.frame = none ∧ issues s (fenced s) = true ∧
      (fenced s).park = none ∧ (fenced s).gwait = none ∧
      (fenced s).postTrap.find? (fun e => e.1 == (fenced s).level) = some (false, 0x3F, 0) ∧ landed (fenced s) = true := by
  decide +kernel

/-! ### Steps -/

/-- Core 0 about to issue the bundle `w` from its instruction store. -/
def staged (w : BitVec 256) : State := placeBundle State.reset w
/-- ADD in slot S, alone; and with MWAIT in slot M; an unassigned opcode in slot S. -/
def addWord : BitVec 256 := (0x808301 : BitVec 256) <<< 16
theorem witness_StepRunsBundle :
    nextAct (staged addWord) = (.bundle 0, { staged addWord with agenda := [] }) ∧
      canIssue { staged addWord with agenda := [], cur := 0 } = true ∧
      fetchAt (entered { staged addWord with agenda := [] }) 0 (coreAt (entered { staged addWord with agenda := [] }) 0) =
        .bytes addWord ∧
      slotsOf (decBundle addWord) = [(0, .ins (.add ⟨0, 0, 2, 1, 3⟩))] ∧ slotsOf (decBundle 0) = [] ∧
      badOpcodes (slotsOf (decBundle ((0x1B : BitVec 256) <<< 16))) = 1 := by decide +kernel
theorem witness_StepRunsBundle_more :
    let w : BitVec 256 := addWord ||| ((0x1FF00 : BitVec 256) <<< 232)
    let out (pc : BitVec 48) : State := onCore { staged 0 with agenda := [] } 0 (fun k => { k with pc := pc })
    badOpcodes (slotsOf (decBundle w)) = 0 ∧ 2 ≤ (slotsOf (decBundle (addWord ||| (0xFFFF03 : BitVec 256) <<< 232))).length ∧
      canIssue (out 0xFE0000004000) = true ∧
      fetchAt (entered (out 0xFE0000004000)) 0 (coreAt (entered (out 0xFE0000004000)) 0) = .fault 0x33 0 ∧
      canIssue (out 0x1020) = true ∧ fetchAt (entered (out 0x1020)) 0 (coreAt (entered (out 0x1020)) 0) = .miss 0x1000 := by
  decide +kernel

/-- Steward 0 about to issue the bundle of bytes `w`. -/
def stewarding (w : Nat) : State := setSteward (placeMove State.reset 0) 0 (fun t => { t with imem := putBytes [] 0 (natLe 24 w) })
theorem witness_StepRunsMovesAndEvents :
    let w (n : Nat) : BitVec 192 := BitVec.ofNat 192 (leNat (bytesAt (stewardAt (stewarding n) 0).imem 0 24))
    (nextAct (stewarding 0)).1 = .steward 0 ∧ (stewardAt (stewarding 0) 0).running = true ∧ (stewardAt (stewarding 0) 0).pc = 0 ∧
      stewardIllegal (w 0) = 0 ∧ (decMoves (w 0)).filter (fun i => i != .stewardMove ⟨0, 0⟩ 0) = [] ∧
      stewardIllegal (w 0x602841) = 0 ∧ (decMoves (w 0x602841)).filter (fun i => i != .stewardMove ⟨0, 0⟩ 0) = [.aluAdd ⟨1, 0x405⟩] ∧
      stewardIllegal (w 0x602841602841) ≠ 0 ∧ stewardIllegal (w 0x602840602841) = 0 ∧
      ((decMoves (w 0x602840602841)).filter (fun i => i != .stewardMove ⟨0, 0⟩ 0)).length = 2 ∧
      isEvent (.mkatEnd 0 0) = true ∧ isEvent .ftimeTick = true := by decide +kernel

end Sys2Proof.Tests
end

