-- ==== Sys2Proof/Tests/Control.lean ====
section
/-! SUPPORT. Control.lean: states that meet the hypotheses of the statements about the control space, the host, power and the
whole machine. -/

namespace Sys2Proof.Tests
open Sys2Proof Sys2Proof.Machine

set_option Elab.async false

/-- The control space open to port 0; the same with semaphore `k` held by port 1. -/
def opened : State := onHost powered (fun h => { h with portUp := 3 })
def heldBy1 (k : Nat) : State := onHost opened (fun h => { h with hsem := mput none [] k (some 1) })
theorem witness_ControlSpaceWrites :
    opened.host.power = true ∧ portOk opened .port0 = true ∧ (regionRegs opened 15).pend = none ∧ discards opened .port0 0 = false ∧
      discards (heldBy1 3) .port0 3 = true ∧ portOk (heldBy1 3) .port0 = true ∧ discards opened .port0 8 = false ∧
      portNo .port1 = some 1 ∧ portOk opened .port1 = true ∧ (hsemOwner (heldBy1 3) 3) = portNo .port1 ∧
      (∀ r < 16, 0x28 ≠ 0x20120 + 0x200 * r) ∧ ((4 : Nat) ≠ 8 ∨ 0x28 % 8 ≠ 0) ∧ (regionRegs opened 0).pend = none ∧
      discards opened .port0 3 = false ∧ discards opened .port0 1 = false := by decide +kernel
/-- The checks of a commit: a matrix that installs, one that does not; a doorbell that is accepted; a booking that is refused. -/
theorem witness_ControlSpaceWrites_branches :
    let s := setRegs opened 2 (fun g => { g with ircfg := 0x126 })
    let b := setRegs opened 2 (fun g => { g with ircfg := 20 })
    let q := setQueue opened 255 (fun u => { u with en := true })
    (match checkRegion s 2 with | .ok (some _) => true | _ => false) = true ∧
      (match checkRegion b 2 with | .ok _ => 0 | .error x => x) = 0x22 ∧ 255 < 256 ∧ (queueAt q 255).en = true ∧ (queueAt q 255).dev = false ∧
      (0 : Nat) < (1#32 - (queueAt q 255).tail).toNat ∧ (1#32 - (queueAt q 255).tail).toNat ≤ ringSize (queueAt q 255) := by
  decide +kernel

/-- Plain registers with their bits; tables in canonical form; a pool that is free and one in use; writes behind no held semaphore. -/
theorem witness_ControlSpaceWrites_fields :
    let u := onSched opened (fun h => { h with shsize := 1 })
    tablesCanon opened = true ∧ (0x20, 8, 0x7F) ∈ plainRegs ∧ discards opened .port0 4 = false ∧ discards opened .port0 5 = false ∧
      discards opened .port0 7 = false ∧ opened.sched.shfree.length = opened.sched.shsize.toNat ∧
      u.sched.shfree.length ≠ u.sched.shsize.toNat ∧ discards u .port0 5 = false ∧ opened.host.d3hot.getLsbD 0 = false := by decide +kernel

theorem witness_HostSideRuns :
    let r := setRegs opened 2 (fun g => { g with pend := some none })
    let t := onHost opened (fun h => { h with tinv := some (1, 7, 0) })
    let u := onHost opened (fun h => { h with tinv := some (0, 7, 2 ^ 47) })
    let w := onFab opened (fun h => { h with winvOn := some 4095 })
    let k := onSched opened (fun h => { h with killing := some 4 })
    (regionRegs r 2).pend = some none ∧ r.cores = [] ∧ ingressHolds r (fun _ _ => true) = false ∧
      t.host.tinv = some (1, 7, 0) ∧ quietCtx t (fun x => 1 == 2 || x == 7) = true ∧
      u.host.tinv = some (0, 7, 2 ^ 47) ∧ quietCtx u (fun x => 0 == 2 || x == 7) = true ∧ w.fab.winvOn = some 4095 ∧
      ingressHolds w (fun v _ => v == 4095) = false ∧ k.sched.killing = some 4 ∧
      ended k (fun x => x == 4) = true ∧ powered.host.portUp.getLsbD 1 = false ∧ powered.host.state = 2 ∧
      opened.host.portUp.getLsbD 1 = true ∧ powered.host.portUp.getLsbD 0 = false := by decide +kernel
theorem witness_HostSideRuns_memory :
    let v := onHost opened (fun h => { h with pend := mput false [] 2047 true, vectors := mput 0 [] 2047 (1 <<< 96) })
    opened.host.state = 2 ∧ opened.host.portUp.getLsbD 0 = true ∧
      (newGate opened none (dmemPieces (2 ^ 39 - 8) 8)).isSome = true ∧
      (match writeGates opened none false (dmemPieces (2 ^ 39 - 8) 8) with | .go => true | .wait _ => false) = true ∧
      2 ^ 39 - 8 + 8 ≤ 2 ^ 39 ∧ opened.host.owned = [] ∧
      mget false v.host.pend 2047 = true ∧ vMasked (vector v.host 2047) = false ∧
      v.host.portUp.getLsbD (vPort (vector v.host 2047)) = true := by decide +kernel

/-- Each step of a start; the management port; a channel that carries SPDM. -/
theorem witness_PowerAndManagement :
    let b (step : Nat) : State := onHost powered (fun h => { h with state := 1, step := step })
    let m := onHost powered (fun h => { h with mgmtReady := true })
    State.reset.host.power = false ∧ powered.host.power = true ∧ powered.host.mgmtReady = false ∧
      20000000 ≤ ({ powered with now := 20000000 } : State).now ∧ (b 6).host.state = 1 ∧ 1 < (b 6).host.step ∧ (b 1).host.step = 1 ∧
      ended (b 1) (fun _ => true) = true ∧ (b 1).host.warm = false ∧ ([] : List FwImage).all fwValid = true ∧
      ((b 2).host.step = 2 ∧ (b 3).host.step = 3) ∧ (b 4).host.step = 4 ∧ (b 4).host.warm = false ∧
      (onHost (b 4) (fun h => { h with warm := true })).host.warm = true ∧ (b 5).host.step = 5 ∧ (b 6).host.step = 6 ∧ m.host.mgmtReady = true ∧
      channelUp m .mctp = true ∧ channelUp opened .doe0 = true ∧ channelUp opened .doe1 = true := by decide +kernel

/-- An image whose signature is no number below the modulus ends the boot at that image; the last entries of the logs. -/
theorem witness_PowerAndManagement_image :
    fwValid ⟨0, [], 0, 3, 1⟩ = false ∧ [⟨0, [], 0, 3, 1⟩] = ([] : List FwImage) ++ ⟨0, [], 0, 3, 1⟩ :: [] ∧
      (9 : Nat) < 10 ∧ (63 : Nat) < 64 ∧ (511 : Nat) < 512 ∧ (31 : Nat) < 32 := by
  simp [fwValid]

theorem witness_UnpoweredStops : State.reset.host.power = false ∧ Instr.add ⟨0, 0, 2, 1, 3⟩ ≠ .powerOn := by
  exact ⟨rfl, by simp⟩

/-- ADD and a vector instruction with their cores in canonical form. -/
theorem witness_CoreInstructionsKeepOthers :
    lone (.add ⟨0, 0, 2, 1, 3⟩) (withRegs 5 7 0) = true ∧ slotOf (.add ⟨0, 0, 2, 1, 3⟩) = some 0 ∧
      coresCanon (withRegs 5 7 0) = true ∧ lone (.vadd ⟨0, 0, 8, 0, 0, 0, 2, 1, 3⟩) (withRegs 5 7 0) = true ∧
      slotOf (.vadd ⟨0, 0, 8, 0, 0, 0, 2, 1, 3⟩) = some 1 := by decide +kernel
theorem witness_CoreInstructionsKeepOthers_next :
    (match exec (.add ⟨0, 0, 2, 1, 3⟩) (withRegs 5 7 0) with | .next t => (coreAt t 0).regs.rS 3 | _ => 0) = 12 := by decide +kernel

/-- A step from a canonical state: core 0 runs an empty bundle. -/
theorem witness_MemoryStaysCanonical :
    memCanon (placeBundle State.reset 0) = true ∧ coresCanon (placeBundle State.reset 0) = true ∧
      (match step (placeBundle State.reset 0) with | .next t => memCanon t && coresCanon t | _ => false) = true := by decide +kernel

theorem witness_EncodingsRoundTrip :
    Instr.wf (.add ⟨0, 0, 2, 1, 3⟩) = true ∧ encode (.add ⟨0, 0, 2, 1, 3⟩) = some 0x808301 ∧ Instr.add ⟨0, 0, 2, 1, 3⟩ ≠ .nop ∧
      slotOf (.add ⟨0, 0, 2, 1, 3⟩) = some 0 ∧ decS 0x808301 = .ins (.add ⟨0, 0, 2, 1, 3⟩) ∧
      Instr.wf (.bkeRed ⟨0, 0x10⟩ 2) = true ∧ encode (.bkeRed ⟨0, 0x10⟩ 2) = some 0x814D := by decide +kernel

end Sys2Proof.Tests
end

