-- ==== Sys2Proof/Tests/Decode.lean ====
section
/-! SUPPORT. Decode.lean: every instruction's decoding, by words put together field by field from the encoding tables (R61-R67,
R192, R194, R302), and the words that no table assigns. -/

namespace Sys2Proof.Tests
open Sys2Proof

set_option Elab.async false

theorem test_decode_scalar_1 :
    decS 0xA8E8890401 = .ins (.add ⟨10, 71, 34, 18, 4⟩) ∧
    decS 0xB908C98502 = .ins (.sub ⟨11, 72, 35, 19, 5⟩) ∧
    decS 0xC9290A0603 = .ins (.mul ⟨12, 73, 36, 20, 6⟩) ∧
    decS 0xD9494A8704 = .ins (.mulh ⟨13, 74, 37, 21, 7⟩) ∧
    decS 0x98C8488305 = .ins (.mulhn ⟨9, 70, 33, 17, 3⟩) ∧
    decS 0xA8E8890406 = .ins (.div ⟨10, 71, 34, 18, 4⟩) ∧
    decS 0xB908C98507 = .ins (.divn ⟨11, 72, 35, 19, 5⟩) ∧
    decS 0xC9290A0608 = .ins (.rem ⟨12, 73, 36, 20, 6⟩) ∧
    decS 0xD9494A8709 = .ins (.remn ⟨13, 74, 37, 21, 7⟩) ∧
    decS 0x98C848830A = .ins (.and ⟨9, 70, 33, 17, 3⟩) ∧
    decS 0xA8E889040B = .ins (.or ⟨10, 71, 34, 18, 4⟩) ∧
    decS 0xB908C9850C = .ins (.xor ⟨11, 72, 35, 19, 5⟩) := by
  decide

theorem test_decode_scalar_2 :
    decS 0xC9290A060D = .ins (.shl ⟨12, 73, 36, 20, 6⟩) ∧
    decS 0xD9494A870E = .ins (.shr ⟨13, 74, 37, 21, 7⟩) ∧
    decS 0x98C848830F = .ins (.sar ⟨9, 70, 33, 17, 3⟩) ∧
    decS 0xA8E8890410 = .ins (.rot ⟨10, 71, 34, 18, 4⟩) ∧
    decS 0xB908C98511 = .ins (.min ⟨11, 72, 35, 19, 5⟩) ∧
    decS 0xC9290A0612 = .ins (.max ⟨12, 73, 36, 20, 6⟩) ∧
    decS 0xD9494A8713 = .ins (.minn ⟨13, 74, 37, 21, 7⟩) ∧
    decS 0x98C8488314 = .ins (.maxn ⟨9, 70, 33, 17, 3⟩) ∧
    decS 0xA8E8890415 = .ins (.cmp ⟨10, 71, 34, 18, 4⟩) ∧
    decS 0xB908C98516 = .ins (.sel ⟨11, 72, 35, 19, 5⟩) ∧
    decS 0xC9290A0617 = .ins (.clz ⟨12, 73, 36, 20, 6⟩) ∧
    decS 0xD9494A8718 = .ins (.popc ⟨13, 74, 37, 21, 7⟩) := by
  decide

theorem test_decode_scalar_3 :
    decS 0x98C8488319 = .ins (.bfx ⟨9, 70, 33, 17, 3⟩) ∧
    decS 0xA8E889041A = .ins (.bfi ⟨10, 71, 34, 18, 4⟩) ∧
    decS 0xC9290A0630 = .ins (.fadd ⟨12, 73, 36, 20, 6⟩) ∧
    decS 0xD9494A8731 = .ins (.fsub ⟨13, 74, 37, 21, 7⟩) ∧
    decS 0x98C8488332 = .ins (.fmul ⟨9, 70, 33, 17, 3⟩) ∧
    decS 0xA8E8890433 = .ins (.fma ⟨10, 71, 34, 18, 4⟩) ∧
    decS 0xB908C98534 = .ins (.fdiv ⟨11, 72, 35, 19, 5⟩) ∧
    decS 0xC9290A0635 = .ins (.fsqrt ⟨12, 73, 36, 20, 6⟩) ∧
    decS 0xD9494A8736 = .ins (.fmin ⟨13, 74, 37, 21, 7⟩) ∧
    decS 0x98C8488337 = .ins (.fmax ⟨9, 70, 33, 17, 3⟩) ∧
    decS 0xA8E8890438 = .ins (.fcmp ⟨10, 71, 34, 18, 4⟩) ∧
    decS 0xB908C98539 = .ins (.fcvt ⟨11, 72, 35, 19, 5⟩) := by
  decide

theorem test_decode_scalar_4 :
    decS 0xC9290A063A = .ins (.fclass ⟨12, 73, 36, 20, 6⟩) ∧
    decS 0xD9494A8740 = .ins (.csrr ⟨13, 74, 37, 21, 7⟩) ∧
    decS 0x98C8488341 = .ins (.csrw ⟨9, 70, 33, 17, 3⟩) ∧
    decS 0xB908C98548 = .ins (.pset ⟨11, 72, 35, 19, 5⟩) ∧
    decS 0xC9290A0649 = .ins (.psets ⟨12, 73, 36, 20, 6⟩) ∧
    decS 0xD9494A874A = .ins (.pcnt ⟨13, 74, 37, 21, 7⟩) ∧
    decS 0xC9290A0653 = .ins (.calli ⟨12, 73, 36, 20, 6⟩) ∧
    decS 0xD9494A8754 = .ins (.ret ⟨13, 74, 37, 21, 7⟩) ∧
    decS 0x98C8488355 = .ins (.jmpi ⟨9, 70, 33, 17, 3⟩) ∧
    decS 0xA8E8890456 = .ins (.loop ⟨10, 71, 34, 18, 4⟩) ∧
    decS 0xB908C98557 = .ins (.loopi ⟨11, 72, 35, 19, 5⟩) ∧
    decS 0xC9290A0658 = .ins (.lexit ⟨12, 73, 36, 20, 6⟩) := by
  decide

theorem test_decode_scalar_5 :
    decS 0xD9494A8759 = .ins (.lidx ⟨13, 74, 37, 21, 7⟩) ∧
    decS 0x98C848835A = .ins (.bswap ⟨9, 70, 33, 17, 3⟩) ∧
    decS 0xA8E889045B = .ins (.trap ⟨10, 71, 34, 18, 4⟩) ∧
    decS 0xB908C9855C = .ins (.eret ⟨11, 72, 35, 19, 5⟩) ∧
    decS 0xC9290A065D = .ins (.waite ⟨12, 73, 36, 20, 6⟩) ∧
    decS 0xD9494A875E = .ins (.yield ⟨13, 74, 37, 21, 7⟩) ∧
    decS 0x98C848835F = .ins (.exit ⟨9, 70, 33, 17, 3⟩) := by
  decide

theorem test_decode_scalar_formats :
    decS 0xBC29488520 = .ins (.addi ⟨0x2F0A5, 17, 5⟩) ∧
    decS 0xBC29488521 = .ins (.logi ⟨0x2F0A5, 17, 5⟩) ∧
    decS 0xD2E1CB0522 = .ins (.li ⟨1, 0xA5C396, 5⟩) ∧
    decS 0xD2E1CB0523 = .ins (.lih ⟨1, 0xA5C396, 5⟩) ∧
    decS 0xC35A9A9350 = .ins (.br ⟨0xC35A9, 1, 0, 5, 19⟩) ∧
    decS 0xC35A9A9351 = .ins (.bc ⟨0xC35A9, 1, 0, 5, 19⟩) ∧
    decS 0xC35A9A9352 = .ins (.call ⟨0xC35A9, 1, 0, 5, 19⟩) ∧
    decS 0 = .nop ∧
    decS 0x100 = .bad 1 ∧
    decS 0x1B = .bad 0 ∧
    decS 0xFF = .bad 0 := by
  decide

theorem test_decode_vector_1 :
    decV 0xB731E8E8890401 = .ins (.vadd ⟨91, 2, 12, 3, 6, 71, 34, 18, 4⟩) ∧
    decV 0xB9B67908C98502 = .ins (.vsub ⟨92, 3, 13, 4, 7, 72, 35, 19, 5⟩) ∧
    decV 0xB4AD58C8488303 = .ins (.vadds ⟨90, 1, 11, 2, 5, 70, 33, 17, 3⟩) ∧
    decV 0xB731E8E8890404 = .ins (.vsubs ⟨91, 2, 12, 3, 6, 71, 34, 18, 4⟩) ∧
    decV 0xB9B67908C98505 = .ins (.vmul ⟨92, 3, 13, 4, 7, 72, 35, 19, 5⟩) ∧
    decV 0xB4AD58C8488306 = .ins (.vmulh ⟨90, 1, 11, 2, 5, 70, 33, 17, 3⟩) ∧
    decV 0xB731E8E8890407 = .ins (.vmin ⟨91, 2, 12, 3, 6, 71, 34, 18, 4⟩) ∧
    decV 0xB9B67908C98508 = .ins (.vmax ⟨92, 3, 13, 4, 7, 72, 35, 19, 5⟩) ∧
    decV 0xB4AD58C8488309 = .ins (.vand ⟨90, 1, 11, 2, 5, 70, 33, 17, 3⟩) ∧
    decV 0xB731E8E889040A = .ins (.vor ⟨91, 2, 12, 3, 6, 71, 34, 18, 4⟩) ∧
    decV 0xB9B67908C9850B = .ins (.vxor ⟨92, 3, 13, 4, 7, 72, 35, 19, 5⟩) ∧
    decV 0xB4AD58C848830C = .ins (.vshl ⟨90, 1, 11, 2, 5, 70, 33, 17, 3⟩) := by
  decide

theorem test_decode_vector_2 :
    decV 0xB731E8E889040D = .ins (.vshr ⟨91, 2, 12, 3, 6, 71, 34, 18, 4⟩) ∧
    decV 0xB9B67908C9850E = .ins (.vsar ⟨92, 3, 13, 4, 7, 72, 35, 19, 5⟩) ∧
    decV 0xB4AD58C848830F = .ins (.vabs ⟨90, 1, 11, 2, 5, 70, 33, 17, 3⟩) ∧
    decV 0xB731E8E8890410 = .ins (.vfadd ⟨91, 2, 12, 3, 6, 71, 34, 18, 4⟩) ∧
    decV 0xB9B67908C98511 = .ins (.vfsub ⟨92, 3, 13, 4, 7, 72, 35, 19, 5⟩) ∧
    decV 0xB4AD58C8488312 = .ins (.vfmul ⟨90, 1, 11, 2, 5, 70, 33, 17, 3⟩) ∧
    decV 0xB731E8E8890413 = .ins (.vfma ⟨91, 2, 12, 3, 6, 71, 34, 18, 4⟩) ∧
    decV 0xB9B67908C98514 = .ins (.vfmin ⟨92, 3, 13, 4, 7, 72, 35, 19, 5⟩) ∧
    decV 0xB4AD58C8488315 = .ins (.vfmax ⟨90, 1, 11, 2, 5, 70, 33, 17, 3⟩) ∧
    decV 0xB731E8E8890416 = .ins (.vfsgn ⟨91, 2, 12, 3, 6, 71, 34, 18, 4⟩) ∧
    decV 0xB9B67908C98520 = .ins (.vrcp ⟨92, 3, 13, 4, 7, 72, 35, 19, 5⟩) ∧
    decV 0xB4AD58C8488321 = .ins (.vrcpn ⟨90, 1, 11, 2, 5, 70, 33, 17, 3⟩) := by
  decide

theorem test_decode_vector_3 :
    decV 0xB731E8E8890422 = .ins (.vrsq ⟨91, 2, 12, 3, 6, 71, 34, 18, 4⟩) ∧
    decV 0xB9B67908C98523 = .ins (.vrsqn ⟨92, 3, 13, 4, 7, 72, 35, 19, 5⟩) ∧
    decV 0xB4AD58C8488324 = .ins (.vexp2 ⟨90, 1, 11, 2, 5, 70, 33, 17, 3⟩) ∧
    decV 0xB731E8E8890425 = .ins (.vlog2 ⟨91, 2, 12, 3, 6, 71, 34, 18, 4⟩) ∧
    decV 0xB4AD58C8488330 = .ins (.vcmp ⟨90, 1, 11, 2, 5, 70, 33, 17, 3⟩) ∧
    decV 0xB731E8E8890431 = .ins (.vsel ⟨91, 2, 12, 3, 6, 71, 34, 18, 4⟩) ∧
    decV 0xB9B67908C98532 = .ins (.vclass ⟨92, 3, 13, 4, 7, 72, 35, 19, 5⟩) ∧
    decV 0xB4AD58C8488333 = .ins (.vpres ⟨90, 1, 11, 2, 5, 70, 33, 17, 3⟩) ∧
    decV 0xB731E8E8890434 = .ins (.vabsnt ⟨91, 2, 12, 3, 6, 71, 34, 18, 4⟩) ∧
    decV 0xB9B67908C98535 = .ins (.vnrm ⟨92, 3, 13, 4, 7, 72, 35, 19, 5⟩) ∧
    decV 0xB4AD58C8488336 = .ins (.vred ⟨90, 1, 11, 2, 5, 70, 33, 17, 3⟩) ∧
    decV 0xB731E8E8890437 = .ins (.vscan ⟨91, 2, 12, 3, 6, 71, 34, 18, 4⟩) := by
  decide

theorem test_decode_vector_4 :
    decV 0xB731E8E8890440 = .ins (.vpart ⟨91, 2, 12, 3, 6, 71, 34, 18, 4⟩) ∧
    decV 0xB9B67908C98541 = .ins (.vperm ⟨92, 3, 13, 4, 7, 72, 35, 19, 5⟩) ∧
    decV 0xB4AD58C8488342 = .ins (.vgath ⟨90, 1, 11, 2, 5, 70, 33, 17, 3⟩) ∧
    decV 0xB731E8E8890443 = .ins (.vbcast ⟨91, 2, 12, 3, 6, 71, 34, 18, 4⟩) ∧
    decV 0xB9B67908C98544 = .ins (.vextr ⟨92, 3, 13, 4, 7, 72, 35, 19, 5⟩) ∧
    decV 0xB4AD58C8488345 = .ins (.vins ⟨90, 1, 11, 2, 5, 70, 33, 17, 3⟩) ∧
    decV 0xB731E8E8890446 = .ins (.vslide ⟨91, 2, 12, 3, 6, 71, 34, 18, 4⟩) ∧
    decV 0xB9B67908C98547 = .ins (.vzip ⟨92, 3, 13, 4, 7, 72, 35, 19, 5⟩) ∧
    decV 0xB4AD58C8488348 = .ins (.vunzip ⟨90, 1, 11, 2, 5, 70, 33, 17, 3⟩) ∧
    decV 0xB731E8E8890449 = .ins (.vexpand ⟨91, 2, 12, 3, 6, 71, 34, 18, 4⟩) ∧
    decV 0xB9B67908C9854A = .ins (.vcompress ⟨92, 3, 13, 4, 7, 72, 35, 19, 5⟩) ∧
    decV 0xB4AD58C848834B = .ins (.viota ⟨90, 1, 11, 2, 5, 70, 33, 17, 3⟩) := by
  decide

theorem test_decode_vector_5 :
    decV 0xB9B67908C98550 = .ins (.vcvt ⟨92, 3, 13, 4, 7, 72, 35, 19, 5⟩) ∧
    decV 0xB4AD58C8488351 = .ins (.vmaxa ⟨90, 1, 11, 2, 5, 70, 33, 17, 3⟩) ∧
    decV 0xB731E8E8890452 = .ins (.vqnt ⟨91, 2, 12, 3, 6, 71, 34, 18, 4⟩) ∧
    decV 0xB9B67908C98553 = .ins (.vdqnt ⟨92, 3, 13, 4, 7, 72, 35, 19, 5⟩) ∧
    decV 0x54 = .bad 0 := by
  decide

theorem test_decode_matrix :
    decM 0xA9C88501 = .ins (.mjob ⟨0x2A7, 17, 5⟩) ∧
    decM 0xA9C88502 = .ins (.mzero ⟨0x2A7, 17, 5⟩) ∧
    decM 0xA9C88503 = .ins (.mdrn ⟨0x2A7, 17, 5⟩) ∧
    decM 0xA9C88504 = .ins (.mkat ⟨0x2A7, 17, 5⟩) ∧
    decM 0xA9C88505 = .ins (.mrd ⟨0x2A7, 17, 5⟩) ∧
    decM 0xA9C88506 = .ins (.mwr ⟨0x2A7, 17, 5⟩) ∧
    decM 0xA9C88507 = .ins (.mwait ⟨0x2A7, 17, 5⟩) ∧
    decM 8 = .bad 0 := by
  decide

theorem test_decode_scale :
    decX 0x991501 = .ins (.scld ⟨0x13, 17, 5⟩) ∧
    decX 0x991502 = .ins (.xsel ⟨0x13, 17, 5⟩) ∧
    decX 0x991503 = .ins (.xset ⟨0x13, 17, 5⟩) ∧
    decX 4 = .bad 0 := by
  decide

theorem test_decode_load_store_1 :
    decL 0x4D38C8488501 = .ins (.ld ⟨9, 0x53, 70, 33, 17, 5⟩) ∧
    decL 0x4D38C8488502 = .ins (.st ⟨9, 0x53, 70, 33, 17, 5⟩) ∧
    decL 0x4D38C8488503 = .ins (.ldr ⟨9, 0x53, 70, 33, 17, 5⟩) ∧
    decL 0x4D38C8488508 = .ins (.vld ⟨9, 0x53, 70, 33, 17, 5⟩) ∧
    decL 0x4D38C8488509 = .ins (.vst ⟨9, 0x53, 70, 33, 17, 5⟩) ∧
    decL 0x4D38C848850A = .ins (.vlds ⟨9, 0x53, 70, 33, 17, 5⟩) ∧
    decL 0x4D38C848850B = .ins (.vgld ⟨9, 0x53, 70, 33, 17, 5⟩) ∧
    decL 0x4D38C848850C = .ins (.vsct ⟨9, 0x53, 70, 33, 17, 5⟩) ∧
    decL 0x4D38C848850D = .ins (.vldr ⟨9, 0x53, 70, 33, 17, 5⟩) ∧
    decL 0x4D38C8488510 = .ins (.atom ⟨9, 0x53, 70, 33, 17, 5⟩) ∧
    decL 0x4D38C8488511 = .ins (.acas ⟨9, 0x53, 70, 33, 17, 5⟩) ∧
    decL 0x4D38C8488512 = .ins (.acas128 ⟨9, 0x53, 70, 33, 17, 5⟩) := by
  decide

theorem test_decode_load_store_2 :
    decL 0x4D38C8488518 = .ins (.barv ⟨9, 0x53, 70, 33, 17, 5⟩) ∧
    decL 0x4D38C8488519 = .ins (.barw ⟨9, 0x53, 70, 33, 17, 5⟩) ∧
    decL 0x4D38C8488520 = .ins (.drain ⟨9, 0x53, 70, 33, 17, 5⟩) ∧
    decL 0x4D38C8488521 = .ins (.fence ⟨9, 0x53, 70, 33, 17, 5⟩) ∧
    decL 0x4D38C8488528 = .ins (.fld ⟨9, 0x53, 70, 33, 17, 5⟩) ∧
    decL 0x4D38C8488529 = .ins (.fst ⟨9, 0x53, 70, 33, 17, 5⟩) ∧
    decL 0x4D38C848852A = .ins (.fatom ⟨9, 0x53, 70, 33, 17, 5⟩) ∧
    decL 0x2B = .bad 0 := by
  decide

theorem test_decode_system_1 :
    decA 0x98C8488301 = .ins (.port ⟨9, 70, 33, 17, 3⟩) ∧
    decA 0x98C8488308 = .ins (.cpub ⟨9, 70, 33, 17, 3⟩) ∧
    decA 0x98C8488309 = .ins (.ipub ⟨9, 70, 33, 17, 3⟩) ∧
    decA 0x98C8488310 = .ins (.launch ⟨9, 70, 33, 17, 3⟩) ∧
    decA 0x98C8488311 = .ins (.ssig ⟨9, 70, 33, 17, 3⟩) ∧
    decA 0x98C8488312 = .ins (.swait ⟨9, 70, 33, 17, 3⟩) ∧
    decA 0x98C8488313 = .ins (.gbar ⟨9, 70, 33, 17, 3⟩) ∧
    decA 0x98C8488319 = .ins (.carav ⟨9, 70, 33, 17, 3⟩) ∧
    decA 0x98C848831A = .ins (.mcst ⟨9, 70, 33, 17, 3⟩) ∧
    decA 0x98C8488320 = .ins (.chkerr ⟨9, 70, 33, 17, 3⟩) ∧
    decA 0x98C8488321 = .ins (.ckpt ⟨9, 70, 33, 17, 3⟩) ∧
    decA 0x88318 = .ins (.gset ⟨0, 0, 0, 17, 3⟩) := by
  decide

theorem test_decode_system_2 :
    decA 0x28488318 = .ins (.gsetMint ⟨0, 1, 33, 17, 3⟩) ∧
    decA 0x22 = .bad 0 := by
  decide

theorem test_decode_steward_1 :
    decMove 0xAD3841 = .aluAdd ⟨2, 0x5A7⟩ ∧
    decMove 0xAD3842 = .aluSub ⟨2, 0x5A7⟩ ∧
    decMove 0xAD3843 = .aluAnd ⟨2, 0x5A7⟩ ∧
    decMove 0xAD3844 = .aluOr ⟨2, 0x5A7⟩ ∧
    decMove 0xAD3845 = .aluXor ⟨2, 0x5A7⟩ ∧
    decMove 0xAD3846 = .aluShl ⟨2, 0x5A7⟩ ∧
    decMove 0xAD3847 = .aluShr ⟨2, 0x5A7⟩ ∧
    decMove 0xAD3848 = .aluEq ⟨2, 0x5A7⟩ ∧
    decMove 0xAD3849 = .aluLt ⟨2, 0x5A7⟩ ∧
    decMove 0xAD384A = .aluLtn ⟨2, 0x5A7⟩ ∧
    decMove 0xAD3850 = .brJump ⟨2, 0x5A7⟩ ∧
    decMove 0xAD3851 = .brIf ⟨2, 0x5A7⟩ := by
  decide

theorem test_decode_steward_2 :
    decMove 0xAD3852 = .brCall ⟨2, 0x5A7⟩ ∧
    decMove 0xAD3853 = .brRet ⟨2, 0x5A7⟩ ∧
    decMove 0xAD3861 = .lsuLd ⟨2, 0x5A7⟩ ∧
    decMove 0xAD3862 = .lsuSt ⟨2, 0x5A7⟩ ∧
    decMove 0xAD3872 = .semSig ⟨2, 0x5A7⟩ ∧
    decMove 0xAD3873 = .semWait ⟨2, 0x5A7⟩ ∧
    decMove 0xAD3881 = .rowLease ⟨2, 0x5A7⟩ ∧
    decMove 0xAD3882 = .rowRelease ⟨2, 0x5A7⟩ ∧
    decMove 0xAD39A0 = .logRd ⟨2, 0x5A7⟩ ∧
    decMove 0xAD39B0 = .nmkDone ⟨2, 0x5A7⟩ ∧
    decMove 0x409108 = .bkeLd ⟨1, 0x012⟩ 0 ∧
    decMove 0x409129 = .bkeSt ⟨1, 0x012⟩ 1 := by
  decide

theorem test_decode_steward_3 :
    decMove 0x40914A = .bkeMv8 ⟨1, 0x012⟩ 2 ∧
    decMove 0x40916B = .bkeMv4 ⟨1, 0x012⟩ 3 ∧
    decMove 0x40910C = .bkeMvb ⟨1, 0x012⟩ 0 ∧
    decMove 0x40912D = .bkeRed ⟨1, 0x012⟩ 1 ∧
    decMove 0x40914E = .bkeClr ⟨1, 0x012⟩ 2 ∧
    decMove 0x409170 = .deqCol ⟨1, 0x012⟩ 3 ∧
    decMove 0x409111 = .accRd ⟨1, 0x012⟩ 0 ∧
    decMove 0x8040 = .stewardMove ⟨0, 0x010⟩ 0x40 := by
  decide

end Sys2Proof.Tests
end

