-- ==== Sys2Proof/Tests/Events.lean ====
section
/-! SUPPORT. Events.lean: states that meet the hypotheses of the statements about waits, memory and the engines. -/

namespace Sys2Proof.Tests
open Sys2Proof Sys2Proof.Machine

set_option Elab.async false

/-- Core 0 as given, at core cycle `now`; powered. -/
def core0 (now : Nat) (f : Core → Core) : State := { withCore (f runner) with now := now }
def at40 : Piece := ⟨.dmem 0x40000, 8, false⟩

/-! ### Waits -/

def parkedOn (kind : ParkKind) (dl : Option Nat) : State :=
  core0 100 (fun k => { k with evl := 0x10, park := some ⟨kind, 0, dl, 0, none, []⟩ })
theorem witness_ParkedWaitsEnd :
    let w := parkedOn (.waite 0x30) (some 100)
    let b := parkedOn (.barw (.slice 0 0) false) (some 100)
    let v := parkedOn (.swait sliceWin (.slice 0 0) 0 none) (some 100)
    parkOf w 0 = some ⟨.waite 0x30, 0, some 100, 0, none, []⟩ ∧ (coreAt w 0).evl &&& 0x30 ≠ 0 ∧
      expired w ⟨.waite 0x30, 0, some 100, 0, none, []⟩ = true ∧ (parkOf b 0).isSome = true ∧
      expired b ⟨.barw (.slice 0 0) false, 0, some 100, 0, none, []⟩ = true ∧ (parkOf v 0).isSome = true ∧
      (waitWord v 0 sliceWin (.slice 0 0)).isSome = true ∧ expired v ⟨.swait sliceWin (.slice 0 0) 0 none, 0, some 100, 0, none, []⟩ = true := by
  decide +kernel
theorem witness_ParkedWaitsEnd_system :
    let a := parkedOn (.sysAtom (.op 0) .n64 ⟨.sys 0x40008 1, 8, false⟩ 0 0) none
    let h := onHost powered (fun h => { h with owned := [7], wcb := [⟨0, 1, [], 1, 0, []⟩] })
    (parkOf a 0).isSome = true ∧ (parkOf a 0).map (·.prev) = some [] ∧ (pruned a 0 (coreAt a 0)).mem = [] ∧
      (pruned a 0 (coreAt a 0)).early = [] ∧ combining a ⟨.sys 0x40008 1, 8, false⟩ = false ∧
      7 ∈ h.host.owned ∧ h.host.wcb[0]? = some ⟨0, 1, [], 1, 0, []⟩ ∧ 0 + 2048 ≤ ({ h with now := 2048 } : State).now := by
  decide +kernel

/-! ### What memory returns -/

def dstS : LateDst := ⟨.s, [3], 64, 1, false, 3, false⟩
def loadEnt : MemEnt := ⟨1, 0, .load [at40] dstS [] false, false, 0⟩
def loadingFor (x : List Exposed) : State := core0 0 (fun k => { k with mem := [loadEnt], exposed := x, memNext := 2 })
theorem witness_MemoryAnswers_loads :
    let e (k : ExpKind) : Exposed := ⟨k, dstS, 1, 1, none, false, false⟩
    let ok (s : State) : Bool := memEnt (coreAt s 0) 1 == some loadEnt && mayPerform s 0 1 &&
      (gateAged (ageOf (coreAt s 0) loadEnt) s none [at40]).isSome
    nextAtom [at40] = some (at40, []) ∧
      (nextAtom [⟨.slice 0 0x3C, 8, false⟩]) = some (⟨.slice 0 0x3C, 4, false⟩, [⟨.slice 0 0x40, 4, false⟩]) ∧
      ok (loadingFor []) = true ∧ awaits (coreAt (loadingFor []) 0) none 1 = false ∧
      ok (loadingFor [e .ldr]) = true ∧ awaits (coreAt (loadingFor [e .ldr]) 0) (some .ldr) 1 = true ∧
      ok (loadingFor [e .scld]) = true ∧ awaits (coreAt (loadingFor [e .scld]) 0) (some .scld) 1 = true := by decide +kernel
theorem witness_MemoryAnswers_atoms :
    let m : MemEnt := ⟨1, 0, .atom (.op 0) .n64 at40 1 0 dstS none, false, 0⟩
    let s := core0 0 (fun k => { k with mem := [m] })
    memEnt (coreAt s 0) 1 = some m ∧ mayPerform s 0 1 = true ∧ awaits (coreAt s 0) none 1 = false ∧
      (gateAged (ageOf (coreAt s 0) m) s none [at40]).map (fun t => (match writeGate t none false at40.pl with
        | .go => true | .wait _ => false)) = some true := by decide +kernel
/-- LAUNCH into a queue that takes it, and into one that is off; CKPT. -/
theorem witness_MemoryAnswers_answers :
    let f (op : MemOp) : State := core0 0 (fun k => { k with mem := [⟨1, 0, op, false, 0⟩] })
    let l := f (.launch 3 false [] dstS)
    let q := setQueue l 3 (fun u => { u with en := true, dev := true, logn := 4 })
    let k := f (.ckpt [] dstS)
    memEnt (coreAt l 0) 1 = some ⟨1, 0, .launch 3 false [] dstS, false, 0⟩ ∧ mayPerform l 0 1 = true ∧ awaits (coreAt l 0) none 1 = false ∧
      (launchRefused l 0 3 false).isSome = true ∧ mayPerform q 0 1 = true ∧
      (match writeGate q none false (launchPiece q 3).pl with | .go => true | .wait _ => false) = true ∧
      launchRefused q 0 3 false = none ∧ mayPerform k 0 1 = true ∧ awaits (coreAt k 0) none 1 = false := by decide +kernel
/-- A freeze of 2^20 cycles, an XSEL result that is due, a CPUB that waits for nothing. -/
theorem witness_MemoryAnswers_frozen :
    let f := core0 0 (fun k => { k with exposed := [⟨.ldr, dstS, 1, 1, none, false, false⟩], freeze := 2 ^ 20 })
    let x : Exposed := ⟨.xsel, ⟨.x, [5], 12, 1, false, 5, false⟩, 1, 4, some [1, 0], false, false⟩
    let g := core0 0 (fun k => { k with exposed := [x], cpub := some ⟨[], 0x40000000, .dmem 0x40000, 64, 4, 0, 0, []⟩ })
    let h := core0 0 (fun k => { k with exposed := [x] })
    frozen (coreAt f 0) = true ∧ 2 ^ 20 ≤ (coreAt f 0).freeze ∧
      (coreAt h 0).exposed.filter (fun x => x.off == 1 && x.dst.file == .x) = [x] ∧ landable h 0 = true ∧
      (coreAt g 0).cpub.isSome = true ∧ (coreAt g 0).mem = [] ∧
      (coreAt g 0).cpub.map (jobsInto g 0) = some false ∧ (coreAt g 0).cpub.map (castsInto g 0) = some false ∧
      (coreAt g 0).cpub.map (leafHeld g 0) = some false := by decide +kernel
/-- A fetch whose page holds no code, and one whose line comes; a walk that ends and one that takes too long. -/
theorem witness_MemoryAnswers_fetch :
    let f (leaf : Word) := core0 0 (fun k => { k with fetchMiss := some 0x40000040, tlb := [⟨0, 0x40000000, 4, leaf⟩] })
    let ok := onDram (f 0x40413) (fun d => { d with pub := mput 0 [] (lineKey (f 0x40413) 0x40040) 2 })
    let e : TlbEnt := ⟨0, 0x40000000, 4, 0x40413⟩
    let w := setCluster (core0 (2 ^ 20) id) 0 (fun u => { u with walks := [⟨0, 0x40000000, [0], [], 0, 0, 0⟩] })
    (match xlCore (f 0x40003) 0 (coreAt (f 0x40003) 0) 0x40000040 .ex with | .fault c i => (c, i) | _ => (0, 0)) = (0x19, 37) ∧
      (match xlCore ok 0 (coreAt ok 0) 0x40000040 .ex with | .ok pl d r => (pl == .dmem 0x40040 && !d && r == some e) | _ => false) = true ∧
      (newGate ok none [Piece.mk (.dmem 0x40040) 64 false]).isSome = true ∧
      (match fetchLine ok none e 0x40000040 with | .ok r => r.2.length | .error _ => 0) = 64 ∧
      (match fetchLine (f 0x40413) none e 0x40000040 with | .ok _ => 0 | .error c => c) = 0x30 ∧
      (cluster w 0).walks[0]? = some ⟨0, 0x40000000, [0], [], 0, 0, 0⟩ ∧ 0 + 2 ^ 20 ≤ w.now := by decide +kernel

/-- A walk whose context entry is still to load; one whose context is not valid; one at level 4. -/
theorem witness_MemoryAnswers_walks :
    let f (lev : Nat) (root : Option Word) : State :=
      let s := setCluster (core0 0 id) 0 (fun u => { u with walks := [⟨7, 0x40000000, [0], [], lev, 0x1000, 0⟩] })
      onSched s (fun h => { h with ctxCache := root.toList.map (fun r => (7, r, 0)) })
    let a := f 0 none
    let b := f 0 (some 0)
    let d := f 4 (some 1)
    ctxHeld a 7 = false ∧ (newGate a none [Piece.mk (.dmem (ctxAddr a 7)) 64 true]).isSome = true ∧
      ctxHeld b 7 = true ∧ (ctxEntry b 7).1.getLsbD 0 = false ∧ ctxHeld d 7 = true ∧ (ctxEntry d 7).1.getLsbD 0 = true ∧
      levels[4]? = some (4, 18, 3) ∧ (newGate d none [Piece.mk (.dmem (walkAt 0x40000000 0x1000 (4, 18, 3))) 8 true]).isSome = true ∧
      (cluster d 0).walks[0]? = some ⟨7, 0x40000000, [0], [], 4, 0x1000, 0⟩ := by decide +kernel

/-! ### The Porter -/

/-- A fill of one run of 8 bytes at the start of the slice of core 0. -/
def fillJob (started : Bool) (run : Nat) (cause : Option Nat) : PJob :=
  ⟨0, 5, 0, fields 64 [(8, 8, sliceWin), (0x10, 4, 8), (0x14, 2, 1), (0x16, 2, 1), (0x30, 1, 1)], 0, started, run, 0, cause, false, 0⟩
def porting (j : PJob) : State := setCluster { inNode (withRegs 0 0 0) with now := 2 ^ 20 } 0 (fun u => { u with jobs := [j] })
theorem witness_PorterRuns :
    let a := fillJob false 0 none
    let b := fillJob true 0 none
    let c := fillJob true 1 none
    let d := fillJob true 0 (some 0x19)
    let s := porting b
    (cluster (porting a) 0).jobs = [a] ∧ jobHeld (porting a) a = false ∧ ownBefore (porting a) 0 a.after = false ∧
      (cluster s 0).jobs = [b] ∧ b.run < pRuns b.card ∧ jobMay s 0 b.after b.colour true = true ∧
      jobMay s 0 b.after b.colour false = true ∧ pFill b.card = true ∧ newGate s (some 1) [] = some s ∧ jobHeld (porting a) a = false ∧
      (match engParts s 0 0 false .wr (chunks (pDst b.card 0) (pRun b.card)) with
        | .hit dst x => x.isNone && (match writeGates s (some 1) true dst with | .go => true | .wait _ => false)
        | .miss _ => false) = true ∧
      b.since + 2 ^ 20 ≤ s.now ∧ pRuns c.card ≤ c.run ∧ unbanked (porting c) c.writer = false ∧
      jobMay (porting c) 0 c.after c.colour true = true ∧ d.cause ≠ none ∧ unbanked (porting d) d.writer = false := by
  decide +kernel

/-- A copy of one run of 8 bytes within the slice; one whose source page may not be read. -/
theorem witness_PorterRuns_copy :
    let j : PJob := { fillJob true 0 none with card := fields 64 [(0, 8, sliceWin), (8, 8, sliceWin + 64), (0x10, 4, 8), (0x14, 2, 1), (0x16, 2, 1)] }
    let w : PJob := { j with card := fields 64 [(0, 8, sliceWin + 2 ^ 20), (8, 8, sliceWin), (0x10, 4, 8), (0x14, 2, 1), (0x16, 2, 1)] }
    let s := porting j
    pFill j.card = false ∧ j.run < pRuns j.card ∧ (cluster s 0).jobs = [j] ∧
      (match engParts s 0 0 false .rd (chunks (pSrc j.card 0) (pRun j.card)) with
        | .hit src none => (newGate s (some 1) src).isSome | _ => false) = true ∧
      (match engParts s 0 0 false .wr (chunks (pDst j.card 0) (pRun j.card)) with
        | .hit dst none => !dst.isEmpty && (match writeGates s (some 1) true dst with | .go => true | .wait _ => false)
        | _ => false) = true ∧
      w.run < pRuns w.card ∧ (match engParts (porting w) 0 0 false .rd (chunks (pSrc w.card 0) (pRun w.card)) with
        | .hit [] (some x) => x | _ => 0) = 0x11 := by decide +kernel

/-! ### The matrix engine -/

def mxJob (started : Bool) (prog : Nat) (cause : Option Nat) : MxOp :=
  { (default : MxOp) with
    kind := .mjob, tok := 5, started := started, prog := prog, cause := cause, addr := BitVec.ofNat 64 (sliceWin + 0x400),
    card := fields 128 [(0, 8, sliceWin), (8, 8, sliceWin), (0x38, 4, 1), (0x3C, 2, 1), (0x3E, 2, 1), (0x40, 2, 1), (0x43, 1, 1),
      (0x44, 1, 1), (0x45, 1, 0x0C), (0x46, 1, 0x0C)] }
def array (o : MxOp) : State := { onCore (inNode (withRegs 0 0 0)) 0 (fun k => { k with mxq := [o] }) with now := 2 ^ 20 }
theorem witness_MatrixRuns_job :
    let a := mxJob false 0 none
    let b := mxJob true 1 none
    let c := mxJob true 0 none
    arrayHead (coreAt (array a) 0) = some a ∧ a.kind = .mjob ∧ a.started = false ∧
      edgeHeld (array a) 0 a.after (mxFoot a) = false ∧ ownBefore (array a) 0 a.after = false ∧
      runningJob (array b) 0 = some b ∧ cSlabs b.card ≤ b.prog ∧ b.rows = 0 ∧ cResumed b.card = false ∧
      runningJob (array c) 0 = some c ∧ c.prog < cSlabs c.card ∧ c.cause = none ∧ mxMay (array c) 0 c.after c.at_ c.colour false = true ∧
      rowDevs (array c) c.card = (none, none) ∧
      c.since + 2 ^ 20 ≤ (array c).now := by decide +kernel
theorem witness_MatrixRuns_slab :
    (match fetchSlab (array (mxJob true 0 none)) 0 (mxJob true 0 none) ⟨[], [], [], []⟩ with | .ok x => x.a.length | _ => 0) = 64 := by
  decide +kernel
/-- A job that has a cause: its progress is written, then its token. -/
theorem witness_MatrixRuns_stop :
    let a := mxJob true 0 (some 0x19)
    let b := { mxJob true 0 (some 0x19) with rows := 1 }
    runningJob (array a) 0 = some a ∧ a.prog < cSlabs a.card ∧ a.rows = 0 ∧ mxMay (array a) 0 a.after a.at_ a.colour true = true ∧
      (match progressWrite (array a) 0 a (cProgress a.card a.prog 0x19) with | (.ok .go, _) => true | _ => false) = true ∧
      runningJob (array b) 0 = some b ∧ b.prog < cSlabs b.card ∧ b.rows ≠ 0 ∧ unbanked (array b) (b.writer 0) = false := by
  decide +kernel
theorem witness_MatrixRuns_drain :
    let a : MxOp := { (default : MxOp) with kind := .mdrn, card := fields 32 [(0x0C, 1, 0x0B)] }
    let b := { a with started := true }
    let c := { b with rows := 64 }
    let k : MxOp := { (default : MxOp) with kind := .mkat, sig := 5 }
    drainHead (coreAt (array a) 0) = some a ∧ a.started = false ∧ edgeHeld (array a) 0 a.after (mxFoot a) = false ∧
      drainHead (coreAt (array b) 0) = some b ∧ b.started = true ∧ b.cause = none ∧ b.rows < 64 ∧ b.since + 2 ^ 20 ≤ (array b).now ∧
      drainHead (coreAt (array c) 0) = some c ∧ 64 ≤ c.rows ∧ unbanked (array c) (c.writer 0) = false ∧
      arrayHead (coreAt (array k) 0) = some k ∧ k.kind = .mkat ∧ katSig ^^^ 0 ≠ k.sig := by decide +kernel
/-- A drain of FP32 rows to the slice, with ACC and without; a job whose page of progress refuses the write. -/
theorem witness_MatrixRuns_rows :
    let d (acc : Nat) : MxOp := { (default : MxOp) with
      kind := .mdrn, started := true, card := fields 32 [(0, 8, sliceWin), (8, 4, 256), (0x0C, 1, 0x0B), (0x0E, 1, acc)] }
    let a := d 0
    let b := d 1
    let s := array a
    let f (o : MxOp) (x : Nat) : Bool := match drainPieces (array o) 0 o 0 with
      | .hit ps none => !ps.isEmpty && (newGate (array o) (some 1) ps).isSome && x == 0 && (match writeGates (array o) (some 1) true ps with
        | .go => true | .wait _ => false)
      | _ => false
    drainHead (coreAt s 0) = some a ∧ a.cause = none ∧ a.rows < 64 ∧ mxMay s 0 a.after a.at_ a.colour true = true ∧
      dAcc a.card = false ∧ f a 0 = true ∧ dAcc b.card = true ∧ mxMay (array b) 0 b.after b.at_ b.colour false = true ∧ f b 0 = true ∧
      (let o := { mxJob true 0 (some 0x19) with addr := BitVec.ofNat 64 (sliceWin + 2 ^ 20) }
       match progressWrite (array o) 0 o (cProgress o.card o.prog 0x19) with | (.error x, _) => x | _ => 0) = 0x11 := by
  decide +kernel

/-! ### Writes -/

theorem witness_WritesPerform :
    let e : MemEnt := ⟨1, 0, .store at40 [1, 0, 0, 0, 0, 0, 0, 0] false, false, 0⟩
    let s := core0 0 (fun k => { k with mem := [e] })
    let w : WqEnt := ⟨0, [1], .device, 0, 0⟩
    let q := onDram powered (fun d => { d with wq := [w] })
    let c : WcBuf := ⟨0, 1, List.replicate 64 (0, 1), 1, 0, []⟩
    let h := onHost powered (fun h => { h with wcb := [c] })
    memEnt (coreAt s 0) e.id = some e ∧ mayPerform s 0 e.id = true ∧
      (match writeGate s (coreAt s 0).node true at40.pl with | .go => true | .wait _ => false) = true ∧
      q.dram.wq[0]? = some w ∧ bankable q.dram 0 = true ∧ (hostOpen q (w.loc / 32)).isSome = true ∧ h.host.wcb[0]? = some c ∧
      c.bytes.length = 64 := by decide +kernel
/-- A store of 64 bytes at an address four bytes into an atom. -/
theorem witness_WritesPerform_atoms :
    let e : MemEnt := ⟨1, 0, .store ⟨.dmem 0x40004, 64, false⟩ (List.replicate 64 1) false, false, 0⟩
    let s := core0 0 (fun k => { k with mem := [e] })
    memEnt (coreAt s 0) e.id = some e ∧ mayPerform s 0 e.id = true ∧ s.host.dirtybase.getLsbD 0 = false ∧ memCanon s = true ∧
      (match writeGate s none true (.dmem 0x40004) with | .go => true | .wait _ => false) = true ∧
      (storeBytes s none ⟨.dmem 0x40004, 64, false⟩ (List.replicate 64 1) false).length = 64 ∧
      ((List.range 64).map (fun i => locOf s (redirect s none (0x40004 + i)))).Nodup := by decide +kernel

end Sys2Proof.Tests
end

