-- ==== Sys2Proof/Tests/Fabric.lean ====
section
/-! SUPPORT. Fabric.lean: states that meet the hypotheses of the statements about links, the ingress, multicasts and Caravans. -/

namespace Sys2Proof.Tests
open Sys2Proof Sys2Proof.Machine

set_option Elab.async false

/-- Module 0 of a row of eight with its port 3 to module 1 enabled, as far as `up` says. -/
def linked (up : BitVec 16) : State :=
  onFab powered (fun h => { h with fabcfg := 0x1C0000, lpcfg := mput 0 [] 3 0x4001, up := up })
/-- A request of core 0, with its entry of the memory list. -/
def asked (kind : FabKind) (fa g : Word) : FabReq := ⟨1, 0, 1, 4, kind, fa, some g, 0, 0, 0, 0, false, none, [], 0⟩
def asking (s : State) (r : FabReq) : State :=
  onFab (setCore s 0 { runner with mem := [⟨1, 0, .fab true true false [] ⟨.s, [3], 64, 1, false, 3, false⟩, false, 0⟩] }) (fun h => { h with reqs := [r], reqNext := 2 })

/-- The same with a port to module 2 as well. -/
def linked2 : State := onFab (linked 40) (fun h => { h with lpcfg := mput 0 h.lpcfg 5 0x4002 })
theorem witness_FabricLinks :
    let r := asked (.fld .n64) (1 <<< 56) 0
    let s := { asking (linked 8) r with now := 2048 }
    let o := onFab { linked2 with now := 1024 } (fun h => { h with off := mput 0 [] 24 1 })
    let m := onFab (linked 8) (fun h => { h with rx := mput 0 [] 24 2560 })
    (linked 0).fab.up.getLsbD 15 = false ∧ (linked 8).fab.up.getLsbD 3 = true ∧ portOn (linked 8) 3 = true ∧
      (linked 0).host.state = 2 ∧ mget 0 (linked 8).fab.off (8 * 3 + 2 * 3 + 1) = 0 ∧ mget 0 o.fab.off 24 ≠ 0 ∧
      starvedHead s 3 = none ∧ portQueue s 3 0 = [(r, 0, 1)] ∧ mget 0 s.fab.lastSend 12 = 0 ∧ mget 0 s.fab.onAt 12 = 0 ∧
      r.at_ + 2048 ≤ s.now ∧ mget 0 s.fab.off (8 * 3 + 2 * r.prio) = 0 ∧ (1 : Nat) ≠ myDev o ∧
      firstPort o 1 = some 3 ∧ mget 0 o.fab.off 24 + 1023 ≤ o.now ∧ mget false o.fab.detour 4 = false ∧ inFlight o 4 = false ∧
      routeBy o (detourHop o) 0 1 = some [2, 1] ∧ mget 0 (linked 8).fab.rx 24 + 2560 ≤ 2560 ∧ 2560 ≤ mget 0 m.fab.rx 24 ∧
      farPair o 1 63 = false ∧ farPair o 1 2 = true ∧ o.fab.farDown.contains (1, 2) = false ∧
      (onFab o (fun h => { h with farDown := [(1, 2)] })).fab.farDown.contains (1, 2) = true := by
  decide +kernel

/-- A valid window of context 0, which maps its first GiB; key 0 valid. -/
def windowed (s : State) : State :=
  let t := onDram s (fun d => { d with mem := putBytes (putBytes (putBytes [] 0 (fields 32 [(8, 8, 0x40000), (0x12, 2, 0x8000),
    (0x14, 1, 0xF)])) 0x1000 (natLe 8 0x2001)) 0x2000 (natLe 8 0x1F) })
  onFab (onSched t (fun h => { h with ctxCache := [(0, 0x1001, 63)] })) (fun h => { h with winbase := 1, keyctl := 1 })
/-- A grant of all rights for a device, with its tag. -/
def lowGrant : Nat := 0xF000400000
def granted (s : State) (dev : Nat) : Word := BitVec.ofNat 64 (macTag s 0 lowGrant dev * 2 ^ 40 + lowGrant)

theorem witness_FabricAnswers_loopback :
    let s0 := windowed (linked 8)
    let g := granted s0 0
    let r := asked (.fld .n64) 0x100 g
    let s := asking s0 r
    reqOf s 1 = some r ∧ fabOp r.kind = some (.read 8) ∧ isLoop s r = true ∧ r.resp = none ∧ mayPerform s 0 1 = true ∧
      flowFirst s r = true ∧
      (ingressGate s (myDev s) g (offOf r.faddr) 8 0).map (fun u => match ingressCheck u (myDev u) g (offOf r.faddr) 8 0 with
        | .ok ps => (ingressDo u (.fabric 0 0 1) none (.read 8) ps).isSome | .error _ => false) = some true := by decide +kernel
/-- A grant with no tag, at this module and from another; answers; requests that are late. -/
theorem witness_FabricAnswers :
    let s0 := windowed (linked 8)
    let r := asked (.fld .n64) 0x100 0x400000
    let a := { r with resp := some (0, 5, false) }
    let f := asked (.fld .n64) (1 <<< 56) 0
    let l := { asking s0 f with now := 2 ^ 22 }
    (ingressGate (asking s0 r) 0 0x400000 0x100 8 0).isSome = true ∧
      (match ingressCheck (asking s0 r) 0 0x400000 0x100 8 0 with | .ok _ => 0 | .error x => x) = 0x82 ∧
      reqOf (asking s0 a) 1 = some a ∧ isLoop (asking s0 a) a = true ∧ unbanked (asking s0 a) (.fabric 0 0 1) = false ∧
      (asking s0 a).now < a.at_ + 2 ^ 22 ∧ reqOf l 1 = some f ∧ (fabOp f.kind).isSome = true ∧ isLoop l f = false ∧
      f.at_ + 2 ^ 22 ≤ l.now ∧ routedSince l (devOf f.faddr) 0 = true ∧
      routedSince (onFab l (fun h => { h with up := 0, fabcfg := 0 })) (devOf f.faddr) 0 = false ∧
      reqOf (asking s0 { f with sent := [0] }) 1 = some { f with sent := [0] } ∧ (0x82 ∈ farCauses) ∧
      (rxTake (onFab l (fun h => { h with rx := mput 0 [] 25 (respFlits f) })) f.prio (respFlits f)).isSome = true := by decide +kernel
theorem witness_FabricAnswers_remote :
    let s := onFab (windowed (linked 8)) (fun h => { h with seqs := mput 0 [] 4 2, rx := mput 0 [] 24 2 })
    let g := granted s 1
    let w : IngressOp := .write [1, 2, 3, 4, 5, 6, 7, 8] []
    (1 : Nat) ≠ myDev s ∧ farOpOk (.read 8) = true ∧ farOpOk w = true ∧ farOpOk (.atom 0 9 1) = true ∧ portOn s 3 = true ∧
      s.fab.far.any (fun q => flowKey q.dev q.prio == flowKey 1 0 && !q.todo.isEmpty) = false ∧
      (rxLeave s 3 0 false (reqFlits (.read 8))).isSome = true ∧ (rxLeave s 3 0 false (reqFlits w)).isSome = true ∧
      mget 0 s.fab.seqs 4 = 2 ∧ (ingressGate s 1 g 0x100 8 1).isSome = true ∧ (ingressGate s 1 0 0x100 8 0).isSome = true ∧
      (match ingressCheck s 1 g 0x100 8 1 with | .ok ps => !(atomPieces ps).isEmpty | .error _ => false) = true ∧
      (match ingressCheck s 1 g 0x100 8 2 with
        | .ok ps => (ingressDo s (.ingress (2 ^ 32)) none (.atom 0 9 1) ps).isSome | .error _ => false) = true ∧
      (match ingressCheck s 1 0 0x100 8 0 with | .ok _ => 0 | .error x => x) = 0x82 ∧
      (match ingressCheck s 1 g 0x100 8 0 with
        | .ok ps => (ingressDo s (.ingress (2 ^ 32)) none (.read 8) ps).isSome | .error _ => false) = true := by decide +kernel

/-- An admitted write with one atom still to perform, and with none. -/
theorem witness_FabricAnswers_admitted :
    let q (ps : List Piece) : FarReq := ⟨5, 1, 0, 2, 0, 0, ps, [(7, false)], [], false⟩
    let f (ps : List Piece) : State := onFab (linked 8) (fun h => { h with far := [q ps] })
    let p : Piece := ⟨.dmem 0x40000, 1, false⟩
    (f [p]).fab.far.find? (fun e => e.tag == 5) = some (q [p]) ∧
      (match writeGates (f [p]) none false [p] with | .go => true | .wait _ => false) = true ∧
      (f []).fab.far.find? (fun e => e.tag == 5) = some (q []) ∧ unbanked (f []) (.ingress (2 ^ 32 + 5)) = false := by decide +kernel
/-- Two answers to module 1: the older, and of two young ones that of the higher priority, goes. -/
theorem witness_FabricAnswers_answer :
    let a : FarAns := ⟨1, 0, 0, 0, [7], false, 0⟩
    let b : FarAns := ⟨1, 2, 0, 0, [8], false, 0⟩
    let s (now : Nat) : State := onFab { linked 8 with now := now } (fun h => { h with answers := [b, a] })
    (s 0).fab.answers[0]? = some b ∧ ansPort (s 0) b = some 3 ∧ (s 0).fab.answers.take 0 = [] ∧ (s 2048).fab.answers[1]? = some a ∧
      (∀ e ∈ (s 0).fab.answers, (s 0).now < e.at_ + 2048 ∧ e.prio ≤ b.prio) ∧ ansPort (s 2048) a = some 3 ∧
      (∀ e ∈ (s 2048).fab.answers.take 1, e.prio ≠ a.prio) ∧ (∀ e ∈ (s 2048).fab.answers, a.at_ ≤ e.at_) := by decide +kernel

/-! ### Multicasts -/

/-- One member of 8 bytes from the slice of core 0; the member's fabric address as given. -/
def mcard (fa : Nat) : List Byte := fields 48 [(0, 8, sliceWin), (8, 4, 8), (0x0C, 1, 1), (0x28, 8, fa)]
def casting (pay : Option (List Byte × List Bool)) (fa : Nat) (st : List (Option Nat)) : FabReq :=
  asked (.mcst (mcard fa) pay st (st.map (fun _ => none))) 0 0
def castState (r : FabReq) : State :=
  onSched (onCore (asking (windowed (linked 8)) r) 0 (fun k => { k with node := some 1 })) (fun h => { h with nodes := [aNode []] })
theorem witness_MulticastAndCaravansRun_payload :
    let r := casting none 0 [none]
    let s := castState r
    let b := casting none 0 [none]
    let t := onSched s (fun h => { h with nodes := [] })
    reqOf s 1 = some r ∧ edgeHeld s 0 r.after [span (mSrc (mcard 0)) [] (mLen (mcard 0)) false] = false ∧
      ownBefore s 0 r.after = false ∧ jobMay s 0 r.after r.colour false = true ∧
      (match engParts s 0 1 false .rd (chunks (va48 (BitVec.ofNat 64 (mSrc (mcard 0)))) 8) with
        | .hit src none => (newGate s (some 1) src).isSome | _ => false) = true ∧
      reqOf t 1 = some b ∧ (match engParts t 0 1 false .rd (chunks (va48 (BitVec.ofNat 64 (mSrc (mcard 0)))) 8) with
        | .hit _ (some x) => x | _ => 0) = 0x11 := by
  decide +kernel
theorem witness_MulticastAndCaravansRun_members :
    let pay := (List.replicate 8 (0 : Byte), List.replicate 8 false)
    let r := casting (some pay) (2 ^ 56) [none]
    let l := casting (some pay) 0x100 [none]
    let e := casting (some pay) 0x100 [some 0]
    let p : Piece := ⟨.slice 0 0, 8, false⟩
    let go (ps : List Piece) : FabReq := { l with kind := .mcst (mcard 0x100) (some pay) [none] [some ps] }
    let late := { castState r with now := 2 ^ 22 }
    let sent := { r with sent := [0] }
    jobMay (castState r) 0 r.after r.colour true = true ∧ r.at_ + 2 ^ 22 ≤ late.now ∧ linkCause late (r.sent.contains 0) 1 r.at_ = 0x80 ∧
      (castState r).now < r.at_ + 2 ^ 22 ∧ devOf (mFaddr (mcard (2 ^ 56)) 0) ≠ myDev (castState r) ∧ reqOf (castState sent) 1 = some sent ∧
      flowFirst (castState l) l = true ∧
      (match ingressCheck (castState l) 0 (granted (castState l) 0) 0x100 8 1 with
        | .ok ps => !(atomPieces ps).isEmpty | .error _ => false) = true ∧
      reqOf (castState (go [p])) 1 = some (go [p]) ∧
      (match writeGates (castState (go [p])) (some 1) false [p] with | .go => true | .wait _ => false) = true ∧
      reqOf (castState (go [])) 1 = some (go []) ∧
      devOf (mFaddr (mcard 0x100) 0) = myDev (castState l) ∧
      (match ingressCheck (castState l) 0 (mGrant (mcard 0x100) 0) 0x100 8 1 with | .ok _ => 0 | .error x => x) = 0x82 ∧
      reqOf (castState e) 1 = some e ∧ unbanked (castState e) (.fabric 0 0 1) = false := by decide +kernel
theorem witness_MulticastAndCaravansRun_answers :
    let pay := (List.replicate 8 (0 : Byte), List.replicate 8 false)
    let r := { casting (some pay) (2 ^ 56) [none] with sent := [0] }
    let s := onFab (castState r) (fun h => { h with rx := mput 0 [] 25 9 })
    reqOf s 1 = some r ∧ (rxTake s r.prio (respFlits r)).isSome = true ∧
      (ingressGate (castState (casting (some pay) 0x100 [none])) 0 (mGrant (mcard 0x100) 0) 0x100 8 1).isSome = true := by decide +kernel

/-! ### Caravans -/

def caravan (p : Word) (k : Nat) (res : Option Nat) : FabReq :=
  asked (.carav p [0, 0] (BitVec.allOnes 64) 2 k 24 false res .core) p 0
def carState (r : FabReq) : State := castState r
theorem witness_MulticastAndCaravansRun_caravan :
    let bad := caravan 0x8000000000000000 0 none
    let mis := caravan 4 0 none
    let out := caravan 0xFE0000000000 0 none
    let ok := caravan (BitVec.ofNat 64 sliceWin) 0 none
    let fin := caravan 0 2 none
    let far := caravan (1 <<< 56) 0 none
    let cut := onFab (carState far) (fun h => { h with up := 0, fabcfg := 0 })
    carOk (0x8000000000000000 + (0 : BitVec 16).signExtend 64 * 8) = false ∧ mayPerform (carState bad) 0 1 = true ∧
      carOk 4 = true ∧ offOf 4 % 8 ≠ 0 ∧ mayPerform (carState mis) 0 1 = true ∧
      carHere (carState out) out .core (offOf 0xFE0000000000) = some (.fail 0 0x74) ∧ devOf 0xFE0000000000 = myDev (carState out) ∧
      (match carHere (carState ok) ok .core sliceWin with | some (.ok c _ _ _ _) => c | _ => 0) = 1 ∧
      (match carFar (carState far) { far with sent := [0] } .core 1 (.answer 9 false) with | some (.ok c _ _ _ _) => c | _ => 0) = 3 ∧
      (rxTake (onFab (carState fin) (fun h => { h with rx := mput 0 [] 25 9 })) fin.prio (respFlits fin)).isSome = true ∧
      carHeld { carState far with now := 2 ^ 22 } far = false ∧ carHeld { cut with now := 2 ^ 22 } far = true ∧
      (carState fin).now < fin.at_ + 2 ^ 22 ∧ reqOf (carState fin) 1 = some fin ∧ reqOf { carState ok with now := 2 ^ 22 } 1 = some ok ∧
      ok.at_ + 2 ^ 22 ≤ ({ carState ok with now := 2 ^ 22 } : State).now := by decide +kernel

end Sys2Proof.Tests
end

