-- ==== Sys2Proof/Tests/Memory.lean ====
section
/-! SUPPORT. Memory.lean: states that meet the hypotheses of the statements about slots M, X, L and A, clause by clause. -/

namespace Sys2Proof.Tests
open Sys2Proof Sys2Proof.Machine

set_option Elab.async false

/-- A leaf of device memory at physical address 0x40000, of host memory there, and of host memory of type 2. -/
def leafDev : Word := 0x4001F
def leafSys : Word := 0x4009F
def leafSys2 : Word := 0x4029F

/-! ### Slots M and X -/

/-- One BF16 slab into tile 0; the same with a reserved byte. -/
def jobCard : List (Nat × Nat × Nat) :=
  [(0x38, 4, 1), (0x3C, 2, 1), (0x3E, 2, 1), (0x40, 2, 1), (0x43, 1, 1), (0x44, 1, 1), (0x45, 1, 0x0C), (0x46, 1, 0x0C)]
theorem witness_MatrixIssue_mjob :
    let s := withCard 128 jobCard
    let t := withCard 128 ((0x5A, 1, 1) :: jobCard)
    (boundary s).mxq.length < 8 ∧ lone (.mjob ⟨0, 1, 5⟩) s = true ∧
      (cardAt s (rdS (reading s) 2 1) 64 128).map (fun r => (cardOk r.2.1, cAg r.2.1, tilesBusy (boundary s) (cTiles r.2.1))) =
        some (true, 0, false) ∧
      lone (.mjob ⟨0, 1, 5⟩) t = true ∧ (cardAt t (rdS (reading t) 2 1) 64 128).map (fun r => cardOk r.2.1) = some false := by
  decide +kernel
/-- Operand A behind a grant, at a fabric address that is none. -/
theorem witness_MatrixIssue_fabric :
    let s := withCard 128 ([(0, 8, 2 ^ 62), (0x58, 1, 1)] ++ jobCard)
    lone (.mjob ⟨0, 1, 5⟩) s = true ∧ (cardAt s (rdS (reading s) 2 1) 64 128).map (fun r =>
      (cardOk r.2.1, cAg r.2.1 != 0, faddrOk (entered s) (BitVec.ofNat 64 (d64 r.2.1 0)))) = some (true, true, false) := by decide +kernel
theorem witness_MatrixIssue_mdrn :
    let s := withCard 32 [(0x0C, 1, 0x0B)]
    lone (.mdrn ⟨0, 1, 5⟩) s = true ∧
      (cardAt s (rdS (reading s) 2 1) 32 32).map (fun r => (drainOk r.2.1 0, tilesBusy (boundary s) (dTiles r.2.1 0))) = some (true, false) ∧
      (cardAt (withCard 32 []) (rdS (reading s) 2 1) 32 32).map (fun r => drainOk r.2.1 0) = some false ∧
      lone (.mkat ⟨1, 2, 3⟩) s = true := by decide +kernel

theorem witness_TileAccess :
    let s := withRegs 3 0 0
    lone (.mzero ⟨0, 0, 0x11⟩) s = true ∧ tilesBusy (boundary s) [1, 2] = false ∧ lone (.mrd ⟨1, 1, 4⟩) s = true ∧
      tilesBusy (boundary s) (mxTiles ⟨1, 1, 4⟩) = false ∧ lone (.mrd ⟨0x22, 1, 4⟩) s = true ∧ lone (.mwr ⟨0x11, 1, 4⟩) s = true ∧
      mxMode ⟨0x11, 1, 4⟩ = 1 ∧ tilesBusy (boundary s) (mxTiles ⟨0x11, 1, 4⟩) = false ∧ quiet s 2 fCSAT = true ∧
      lone (.mwait ⟨0, 0, 0⟩) s = true ∧ (boundary s).mxq = [] ∧ lone (.mwait ⟨0, 0, 3⟩) s = true ∧ (boundary s).busy &&& 3 = 0 := by
  decide +kernel

theorem witness_ScaleRegisters :
    let s := withBytes 0x40 [0x34, 0x12]
    lone (.scld ⟨0, 1, 2⟩) s = true ∧ mayLoad s = true ∧
      reached s .rd 2 [(va48 (rdS (reading s) 5 1 + BitVec.ofNat 64 0), 2)] = some [⟨.slice 0 0x40, 2, false⟩] ∧
      lone (.xsel ⟨1, 1, 2⟩) s = true ∧ (let r := xselCode .bm8 .f32 (nth 0 (elems 32 1 (rdV (reading s) 5 1 1)) 0)
        quiet s 5 r.2) = true ∧ lone (.xset ⟨3, 1, 9⟩) s = true := by decide +kernel

/-! ### Loads and stores -/

theorem witness_Loads :
    let s := withBytes 0x40 [1, 2, 3, 4]
    let ps (n : Nat) : List Piece := [⟨.slice 0 0x40, n, false⟩]
    mayLoad s = true ∧ lone (.ld ⟨9, 0, 0, 0, 1, 3⟩) s = true ∧ reached s .rd 8 [(va48 (lsEa (reading s) ⟨9, 0, 0, 0, 1, 3⟩), 8)] = some (ps 8) ∧
      lone (.vld ⟨9, 0, 0, 0, 1, 3⟩) s = true ∧
      reached s .rd 32 (spanEl (reading s) ⟨9, 0, 0, 0, 1, 3⟩ (lvEa (reading s) ⟨9, 0, 0, 0, 1, 3⟩)) = some (ps 256) ∧
      lone (.vlds ⟨9, 0, 0, 2, 1, 3⟩) s = true ∧
      (reached s .rd 8 (strideEl (reading s) ⟨9, 0, 0, 2, 1, 3⟩)).map List.length = some 32 ∧
      lone (.vgld ⟨9, 0, 0, 2, 1, 3⟩) s = true ∧
      (reached s .rd 8 (indexEl (reading s) ⟨9, 0, 0, 2, 1, 3⟩)).map List.length = some 32 := by decide +kernel
/-- A load of device memory, whose value arrives later. -/
theorem witness_Loads_far :
    let s := mapped leafDev (base1 0x40000008 (withRegs 0 0 0))
    lone (.ld ⟨9, 0, 0, 0, 1, 3⟩) s = true ∧
      reached s .rd 8 [(va48 (lsEa (reading s) ⟨9, 0, 0, 0, 1, 3⟩), 8)] = some [⟨.dmem 0x40008, 8, false⟩] ∧
      ownNow s [⟨.dmem 0x40008, 8, false⟩] = false := by decide +kernel

theorem witness_ArrivalLoads :
    let s := withBytes 0x40 [1, 2, 3, 4]
    mayLoad s = true ∧ lone (.ldr ⟨9, 5, 0, 0, 1, 3⟩) s = true ∧
      reached s .rd 8 [(va48 (lsEa (reading s) ⟨9, 5, 0, 0, 1, 3⟩), 8)] = some [⟨.slice 0 0x40, 8, false⟩] ∧
      lone (.vldr ⟨9, 0, 0x0A, 0, 1, 3⟩) s = true ∧
      reached s .rd 32 (spanEl (reading s) ⟨9, 0, 0x0A, 0, 1, 3⟩ (vldrEa (reading s) ⟨9, 0, 0x0A, 0, 1, 3⟩)) =
        some [⟨.slice 0 0x40, 256, false⟩] := by decide +kernel

def landing (d : LateDst) : State :=
  onCore (withRegs 0 0 0) 0 (fun k => { k with exposed := [⟨.ldr, d, 1, 0, some [5, 0, 0, 0, 0, 0, 0, 0], false, false⟩] })
theorem witness_ExposedResultLands :
    let e (d : LateDst) : Exposed := ⟨.ldr, d, 1, 0, some [5, 0, 0, 0, 0, 0, 0, 0], false, false⟩
    let s : LateDst := ⟨.s, [3], 64, 1, false, 3, false⟩
    let x : LateDst := ⟨.x, [3], 12, 1, false, 5, false⟩
    (fenced (landing s)).exposed = [e s] ∧ (e s).off = 1 ∧ (e s).boosted = false ∧ (e s).dst.regs = [3] ∧ (e s).dst.file = .s ∧
      (fenced (landing x)).exposed = [e x] ∧ (e x).dst.file = .x := by decide +kernel

theorem witness_Stores :
    let s := withBytes 0x40 [1, 2, 3, 4]
    let i : Instr := .st ⟨9, 0, 0x40, 0, 1, 0⟩
    lone i s = true ∧ (accessOf s i).map (fun a => a.1) = some 3 ∧ (dataOf s i).map (fun d => d.2) = some false ∧ mayWrite s = true ∧
      reached s .wr 8 [(sliceWin + 0x40, 8)] = some [⟨.slice 0 0x40, 8, false⟩] ∧ writesOut (boundary s) < 64 ∧
      memCanon s = true ∧ ownNow s [⟨.slice 0 0x40, 8, false⟩] = true ∧ fencePending (boundary s) = false ∧
      lone (.vst ⟨9, 0, 1, 0, 1, 0⟩) s = true ∧ lone (.vsct ⟨9, 0, 1, 2, 1, 0⟩) s = true := by decide +kernel
theorem witness_StoredBytes :
    let s := withBytes 0x40 [1, 2, 3, 4]
    va48 (lsEa (reading s) ⟨9, 0, 0x40, 0, 1, 0⟩) = sliceWin + 0x40 ∧ lone (.st ⟨9, 0, 0x40, 0, 1, 0⟩) s = true := by decide +kernel

/-- A window that no core stands behind, a misaligned address, a page that may not be read. -/
theorem witness_AddressFaults :
    let i : Instr := .ld ⟨9, 0, 0, 0, 1, 3⟩
    let s := base1 (BitVec.ofNat 64 (sliceWin + 2 ^ 20)) (inNode (withRegs 0 0 0))
    let t := base1 (BitVec.ofNat 64 (sliceWin + 4)) (inNode (withRegs 0 0 0))
    let u := mapped 0x40003 (base1 0x40000000 (withRegs 0 0 0))
    lone i s = true ∧ (accessOf s i).map (fun a => (a.1, a.2.2.1, a.2.2.2)) = some (3, 8, [(sliceWin + 2 ^ 20, 8)]) ∧ isBoosted s 3 = false ∧ mayLoad s = true ∧
      window (entered s) (boundary s).node s.cur (sliceWin + 2 ^ 20) = .refused ∧
      lone i t = true ∧ (accessOf t i).map (fun a => (a.1, a.2.2.1, a.2.2.2)) = some (3, 8, [(sliceWin + 4, 8)]) ∧
      window (entered t) (boundary t).node t.cur (sliceWin + 4) ≠ .refused ∧ (sliceWin + 4) % 8 ≠ 0 ∧
      lone i u = true ∧ reach u .rd 8 [(0x40000000, 8)] = .fault 0x19 5 := by decide +kernel
theorem witness_AddressFaults_boosted :
    let i : Instr := .ld ⟨9, 0, 0, 0, 1, 3⟩
    let s := { base1 (BitVec.ofNat 64 (sliceWin + 2 ^ 20)) (inNode (withRegs 0 0 0)) with hdr := 8 }
    lone i s = true ∧ (defersOf s i).isSome = true ∧ isBoosted s 3 = true ∧ mayLoad s = true ∧
      reach s .rd 8 [(sliceWin + 2 ^ 20, 8)] = .fault 0x11 0 := by decide +kernel

/-- The reads of cards and descriptors: a refused window, a misaligned address, a page that may not be read. -/
theorem witness_AddressFaults_cards :
    let s := base1 (BitVec.ofNat 64 (sliceWin + 2 ^ 20)) (inNode (withRegs 0 0 0))
    let t := base1 (BitVec.ofNat 64 (sliceWin + 4)) (inNode (withRegs 0 0 0))
    let u := mapped 0x40003 (base1 0x40000000 (withRegs 0 0 0))
    let is : List (Instr × Nat) := [(.port ⟨0, 0, 0, 1, 5⟩, 64), (.mjob ⟨0, 1, 5⟩, 128), (.mdrn ⟨0, 1, 5⟩, 32),
      (.launch ⟨0, 0, 2, 1, 5⟩, 256), (.ckpt ⟨0, 0, 0, 1, 5⟩, 64), (.mcst ⟨0, 0, 0, 1, 5⟩, 32), (.carav ⟨0, 8, 0, 1, 4⟩, 32)]
    (∀ e ∈ is, lone e.1 s = true ∧ (accessOf s e.1).map (·.2.2.2) = some [(sliceWin + 2 ^ 20, e.2)] ∧ (defersOf s e.1).isNone = true ∧
      lone e.1 t = true ∧ (accessOf t e.1).map (fun a => (sliceWin + 4) % a.2.2.1 != 0) = some true ∧ lone e.1 u = true ∧
      (accessOf u e.1).map (fun a => reach u a.2.1 a.2.2.1 a.2.2.2) = some (.fault 0x19 5)) ∧
    mayLoad s = true ∧ (boundary s).mxq.length < 8 := by decide +kernel

/-- The words of an atomic, a semaphore and the barrier instructions: a refused window, a misaligned address, both halves of the
instruction store, a virtual address where only a slice will do, a page that may not be read. -/
theorem witness_AddressFaults_words :
    let at_ (a : Nat) : State := base1 (BitVec.ofNat 64 a) (inNode (withRegs 0 0 0))
    let u := mapped 0x40003 (base1 0x40000000 (withRegs 0 0 0))
    let is : List (Instr × Nat × Bool × Bool) := [(.atom ⟨9, 0, 2, 0, 1, 3⟩, 3, false, true), (.ssig ⟨0, 0, 2, 1, 3⟩, 4, false, true),
      (.swait ⟨0, 3, 2, 1, 4⟩, 4, false, false), (.barv ⟨0, 0, 0, 0, 1, 3⟩, 3, true, false), (.barw ⟨0, 0, 3, 2, 1, 4⟩, 3, true, false)]
    let names (s : State) (va : Nat) : Bool := is.all (fun e => lone e.1 s && (waitRes (reading s) e.2.1).isNone &&
      (wordOf s e.1).map (fun w => (w.1, w.2.1, w.2.2.1, w.2.2.2.2.2)) == some (e.2.1, va, 8, e.2.2))
    let found (s : State) (va : Nat) : Win := window (entered s) (boundary s).node s.cur va
    names (at_ (sliceWin + 2 ^ 20)) (sliceWin + 2 ^ 20) = true ∧ found (at_ (sliceWin + 2 ^ 20)) (sliceWin + 2 ^ 20) = .refused ∧
      names (at_ (sliceWin + 4)) (sliceWin + 4) = true ∧ found (at_ (sliceWin + 4)) (sliceWin + 4) ≠ .refused ∧
      names (at_ istWin) istWin = true ∧ found (at_ istWin) istWin = .at_ (.ist 0 0) ∧
      names (at_ (istWin + 2 ^ 14)) (istWin + 2 ^ 14) = true ∧ found (at_ (istWin + 2 ^ 14)) (istWin + 2 ^ 14) = .at_ (.ist 0 (2 ^ 14)) ∧
      (boundary (at_ istWin)).rh = false ∧ names u 0x40000000 = true ∧ found u 0x40000000 = .virt := by decide +kernel
theorem witness_AddressFaults_reach :
    let u := mapped 0x40003 (base1 0x40000000 (withRegs 0 0 0))
    targetFault (entered u) (reading u) 0x40000000 8 false true = none ∧ mayLoad u = true ∧
      reach u .rw 8 [(0x40000000, 8)] = .fault 0x19 21 ∧ reach u .rd 8 [(0x40000000, 8)] = .fault 0x19 5 := by decide +kernel

/-! ### Atomics and order -/

theorem witness_Atomics :
    let i : Instr := .atom ⟨9, 0, 2, 0, 1, 3⟩
    let s := withBytes 0x40 [1, 2, 3, 4]
    let t := mapped leafDev (base1 0x40000008 (withRegs 0 0 0))
    lone i s = true ∧ (atomOf? s i).isSome = true ∧ mayLoad s = true ∧ targetFault (entered s) (reading s) (sliceWin + 0x40) 8 false true = none ∧
      reached s .rw 8 [(sliceWin + 0x40, 8)] = some [⟨.slice 0 0x40, 8, false⟩] ∧ ownNow s [⟨.slice 0 0x40, 8, false⟩] = true ∧
      fencePending (boundary s) = false ∧
      lone i t = true ∧ targetFault (entered t) (reading t) 0x40000008 8 false true = none ∧
      reached t .rw 8 [(0x40000008, 8)] = some [⟨.dmem 0x40008, 8, false⟩] ∧ ownNow t [⟨.dmem 0x40008, 8, false⟩] = false ∧
      writesOut (boundary t) < 64 ∧ lone (.acas ⟨9, 0, 2, 3, 1, 3⟩) t = true ∧ lone (.ssig ⟨0, 0, 2, 1, 3⟩) t = true ∧
      lone (.acas128 ⟨0, 0, 2, 4, 1, 6⟩) s = true := by decide +kernel
/-- To host memory: a path that carries the operation, before and after the completion, and one that does not. -/
theorem witness_Atomics_system :
    let i : Instr := .atom ⟨9, 0, 2, 0, 1, 3⟩
    let s := mapped leafSys (base1 0x40000008 (withRegs 0 0 0))
    let t := mapped leafSys2 (base1 0x40000008 (withRegs 0 0 0))
    let w (ok : Bool) : State := onCore s 0 (fun k => { k with
      park := some ⟨.sysAtom (.op 0) .n64 ⟨.sys 0x40008 0, 8, false⟩ 0 0, 3, none, 0, some ⟨3, ok, 5⟩, []⟩ })
    let u := w true
    let v := w false
    lone i s = true ∧ reached s .rw 8 [(0x40000008, 8)] = some [⟨.sys 0x40008 0, 8, false⟩] ∧
      pathOk (entered s) (.op 0) .n64 0x40008 0 = true ∧ (boundary s).park = none ∧
      lone i t = true ∧ reached t .rw 8 [(0x40000008, 8)] = some [⟨.sys 0x40008 2, 8, false⟩] ∧
      pathOk (entered t) (.op 0) .n64 0x40008 2 = false ∧ waitRes (reading t) 3 = none ∧ lone i u = true ∧
      waitRes (reading u) 3 = some ⟨3, true, 5⟩ ∧ lone i v = true ∧ waitRes (reading v) 3 = some ⟨3, false, 5⟩ := by
  decide +kernel

/-- A barrier word with two of two arrivals to come, with one, and one that is none; its parity agrees with s2 = 0, not with 1. -/
theorem witness_OrderingWords_barv :
    let p : Piece := ⟨.slice 0 0x40, 8, false⟩
    let s := withBytes 0x40 [2, 0, 2, 0]
    let t := withBytes 0x40 []
    targetFault (entered s) (reading s) (sliceWin + 0x40) 8 true false = none ∧ undisturbed s [p] = true ∧
      lone (.barv ⟨0, 0, 0, 0, 1, 3⟩) s = true ∧ reached s .rw 8 [(sliceWin + 0x40, 8)] = some [p] ∧
      released (entered s) (reading s) 3 = true ∧ lone (.barv ⟨0, 0, 0, 0, 1, 3⟩) t = true ∧ undisturbed t [p] = true := by
  decide +kernel
theorem witness_OrderingWords_barw :
    let p : Piece := ⟨.slice 0 0x40, 8, false⟩
    let s := withBytes 0x40 [2, 0, 2, 0]
    let t := onCore s 0 (fun k => onRegs k (fun r => (r.wS 2 1).wS 3 9))
    let u := onCore t 0 (fun k => { k with park := some ⟨.barw p.pl true, 3, some 9, 0, some ⟨3, false, 0⟩, []⟩ })
    undisturbed s [p] = true ∧ lone (.barw ⟨0, 0, 3, 2, 1, 4⟩) s = true ∧ mayLoad s = true ∧
      targetFault (entered s) (reading s) (sliceWin + 0x40) 8 true false = none ∧
      reached s .rd 8 [(sliceWin + 0x40, 8)] = some [p] ∧ lone (.barw ⟨0, 0, 4, 2, 1, 4⟩) t = true ∧ undisturbed t [p] = true ∧
      rdS (reading t) 3 4 = 0 ∧ lone (.barw ⟨0, 0, 3, 2, 1, 4⟩) t = true ∧ rdS (reading t) 3 3 ≠ 0 ∧ (boundary t).park = none ∧
      lone (.barw ⟨0, 0, 3, 2, 1, 4⟩) u = true ∧ waitRes (reading u) 3 = some ⟨3, false, 0⟩ ∧
      lone (.drain ⟨0, 0, 0x10, 0, 0, 0⟩) s = true ∧ lone (.fence ⟨0, 0, 0x10, 0, 0, 0⟩) s = true := by decide +kernel

end Sys2Proof.Tests
end

