-- ==== Sys2Proof/Tests/Rows.lean ====
section
/-! SUPPORT. Rows.lean: a bank that nobody else uses opens every row of a granule, for the states of the tests on granules (R287,
R288, R292, R297). -/

namespace Sys2Proof.Tests
open Sys2Proof Sys2Proof.Machine

/-- A bank with no work but rows opened, each at most `n` times. -/
def calmBank (n : Nat) (k : Bank) : Prop :=
  k.watch = [] ∧ k.badPar = [] ∧ k.refAt = 0 ∧ k.parked = false ∧ (k.row = .closed ∨ ∃ r, k.row = .host r) ∧ canon 0 k.acts = true ∧
    ∀ r, (mget 0 k.acts r).toNat ≤ n
/-- Nothing but rows of bank 0 is in use, at cycle 0. -/
structure Calm (n : Nat) (s : State) : Prop where
  cores : s.cores = []
  wq : s.dram.wq = []
  now : s.now = 0
  limit : s.dram.actmax = []
  regions : s.dram.regions = []
  banks : (∃ k, s.dram.banks = [(0, k)]) ∨ s.dram.banks = []
  bank : calmBank n (bank s.dram 0)

theorem calm_other {n : Nat} {s : State} (h : Calm n s) (i : Nat) : Machine.bank s.dram (i + 1) = Bank.idle := by
  rcases h.banks with ⟨k, hk⟩ | hk <;> simp [Machine.bank, hk, mget]

theorem calm_setBank {n m : Nat} {s : State} (h : Calm n s) (f : Bank → Bank) (hf : calmBank m (f (bank s.dram 0))) :
    Calm m (onBank s 0 f) := by
  have hb : (onBank s 0 f).dram.banks = if f (bank s.dram 0) = Bank.idle then [] else [(0, f (bank s.dram 0))] := by
    rcases h.banks with ⟨k, hk⟩ | hk <;> simp [onBank, onDram, setBank, hk, mput, mins, mdel]
  refine ⟨h.cores, h.wq, h.now, h.limit, h.regions, ?_, ?_⟩
  · rw [hb]; split <;> simp
  · rw [Machine.bank, hb]
    split
    · next e => rw [e] at hf; simpa [mget] using hf
    · simpa [mget] using hf

theorem calm_activate {n : Nat} {s : State} (h : Calm n s) (row : Nat) : ∃ t, (if spaced s 0 row && decide (openRows s (0 / 64) <
      actmaxOf s (0 / 64)) then some (activate s 0 row (.host row)) else none) = some t ∧ Calm (n + 1) t := by
  have hs : spaced s 0 row = true := by simp [spaced, h.bank.1]
  have ho : openRows s 0 < 64 := by
    have := List.length_filter_lt_length_iff_exists (p := fun i => (bank s.dram (64 * 0 + i)).row != .closed) (l := List.range 64)
    simp only [List.length_range] at this
    refine this.2 ⟨1, by simp, ?_⟩
    have := calm_other h 0
    simp only [Nat.mul_zero, Nat.zero_add] at this ⊢
    rw [this]; decide
  have ha : actmaxOf s (0 / 64) = 64 := by simp [actmaxOf, h.limit, mget]
  refine ⟨_, if_pos (by rw [hs, ha]; simpa using ho), calm_setBank h _ ⟨?_, h.bank.2.1, h.bank.2.2.1, h.bank.2.2.2.1, .inr ⟨row, rfl⟩, ?_, ?_⟩⟩
  · simp [h.bank.1]
  · exact canon_mput h.bank.2.2.2.2.2.1 _ _
  · intro r
    have hc := h.bank.2.2.2.2.2.2
    simp only [mget_mput h.bank.2.2.2.2.2.1]
    split
    · split
      · exact Nat.le_succ_of_le (hc row)
      · have := hc row
        rw [BitVec.toNat_add]
        exact Nat.le_trans (Nat.mod_le _ _) (Nat.add_le_add_right this 1)
    · exact Nat.le_succ_of_le (hc r)

theorem calm_opens {n : Nat} {s : State} (h : Calm n s) (hn : n < 768) (g : Nat) (hg : gBank g = 0) :
    ∃ t, hostRead s 0 g = some t ∧ Calm (n + 1) t := by
  have hb : baseNow s = 0 := by simp [baseNow, h.now]
  have weak : ∀ {k}, calmBank n k → calmBank (n + 1) k := fun hk =>
    ⟨hk.1, hk.2.1, hk.2.2.1, hk.2.2.2.1, hk.2.2.2.2.1, hk.2.2.2.2.2.1, fun r => Nat.le_succ_of_le (hk.2.2.2.2.2.2 r)⟩
  have h0 : olderFirst s 0 0 = false := by simp [olderFirst, h.wq, h.cores]
  have h1 : refreshDue s 0 = false := by simp [refreshDue, h.bank.2.2.1, hb]
  simp only [hostRead, hg, h0, hostOpen, h1, Bool.false_eq_true, if_false, openRow]
  have same : Calm (n + 1) (onBank s 0 (fun k => { k with row := .host (gRow g), lastUse := baseNow s })) :=
    calm_setBank h _ (weak ⟨h.bank.1, h.bank.2.1, h.bank.2.2.1, h.bank.2.2.2.1, .inr ⟨_, rfl⟩, h.bank.2.2.2.2.2⟩)
  rcases h.bank.2.2.2.2.1 with hr | ⟨r, hr⟩
  · simp only [hr]
    exact calm_activate h _
  · simp only [hr]
    split
    · exact ⟨_, rfl, same⟩
    · have hp : preCheck s 0 r = s := by
        have := h.bank.2.2.2.2.2.2 r
        unfold preCheck
        rw [if_neg, if_neg]
        · omega
        · simp only [h.bank.2.1, List.contains_nil, Bool.false_eq_true, or_false]
          omega
      have hq : Calm n (precharge s 0 r) := by
        rw [precharge, hp]
        exact calm_setBank h _ ⟨h.bank.1, h.bank.2.1, h.bank.2.2.1, h.bank.2.2.2.1, .inl rfl, h.bank.2.2.2.2.2⟩
      exact calm_activate hq _

theorem calm_rows {l : List Nat} : ∀ {n : Nat} {s : State} {m : List Nat}, Calm n s → n + l.length ≤ 768 → (∀ g ∈ l, gBank g = 0) →
    ∃ t, ((l.foldl (openNext 0) (some (s, m))).map (·.1)) = some t ∧ Calm (n + l.length) t := by
  induction l with
  | nil => exact fun h _ _ => ⟨_, rfl, h⟩
  | cons g l ih =>
    intro n s m h hn hg
    simp only [List.length_cons] at hn ⊢
    obtain ⟨t, ht, hc⟩ := calm_opens h (by omega) g (hg g (by simp))
    simp only [List.foldl_cons, openNext, Option.bind_some, ht]
    obtain ⟨u, hu, hd⟩ := ih (m := m ++ [gBank g]) hc (by omega) fun x hx => hg x (by simp [hx])
    exact ⟨u, hu, by rw [show n + (l.length + 1) = n + 1 + l.length by omega]; exact hd⟩

/-- The rows of a granule of bank 0 open. -/
theorem calm_granule {n : Nat} {s : State} (h : Calm n s) (hn : n + 256 ≤ 768) (x : Nat) (hx : x < 64) :
    ∃ t, rawOpen s (x * 2 ^ 18) (2 ^ 18) = some t ∧ Calm (n + 256) t := by
  have ha : stretchAtoms s (fun a => a) (x * 2 ^ 18) (2 ^ 18) = (List.range 256).map (fun i => 8192 * x + 32 * i) := by
    have hp : s.dram.banks.any (fun e => e.2.parked) = false := by
      rcases h.banks with ⟨k, hk⟩ | hk
      · have := h.bank.2.2.2.1
        simp only [Machine.bank, hk, mget] at this
        simpa [hk] using this
      · simp [hk]
    simp only [stretchAtoms, h.regions, List.isEmpty_nil, hp, Bool.not_false, Bool.and_self, if_true]
    have e : (x * 2 ^ 18 % 1024 + 2 ^ 18 + 1023) / 1024 = 256 := by omega
    rw [e]
    refine List.map_congr_left fun i hi => ?_
    have hi := List.mem_range.1 hi
    have g : geom s.dram (x * 2 ^ 18 / 1024 * 1024 + 1024 * i) = 8192 * x + 32 * i := by
      simp only [geom, regionOf, h.regions, List.filterMap_nil, List.find?_nil]; omega
    have b : gBank (8192 * x + 32 * i) = 0 := by simp only [gBank]; omega
    simp only [atomOf, g, served, b, h.bank.2.2.2.1, Bool.false_eq_true, if_false]
  have hr : rowRuns ((List.range 256).map (fun i => 8192 * x + 32 * i)) = (List.range 256).map (fun i => 8192 * x + 32 * i) := by
    have key : ∀ m a, rowRuns ((List.range' a m).map (fun i => 8192 * x + 32 * i)) = (List.range' a m).map (fun i => 8192 * x + 32 * i) := by
      intro m
      induction m with
      | zero => intro a; rfl
      | succ m ih =>
        intro a
        cases m with
        | zero => rfl
        | succ m =>
          have := ih (a + 1)
          simp only [List.range'_succ, List.map_cons] at this ⊢
          rw [rowRuns, if_neg, this]
          simp only [gRow]; omega
    rw [List.range_eq_range']; exact key _ _
  obtain ⟨t, ht, hc⟩ := calm_rows (l := (List.range 256).map (fun i => 8192 * x + 32 * i)) (m := []) h (by simpa using hn)
    (by intro g hg; obtain ⟨i, hi, rfl⟩ := List.mem_map.1 hg; have := List.mem_range.1 hi; simp only [gBank]; omega)
  exact ⟨t, by rw [rawOpen, ha, openRowsOf, hr]; exact ht, by simpa using hc⟩

end Sys2Proof.Tests
end

