-- ==== Sys2Proof/Tests/Scheduler.lean ====
section
/-! SUPPORT. Scheduler.lean: states that meet the hypotheses of the statements about nodes, shadows and checkpoints. -/

namespace Sys2Proof.Tests
open Sys2Proof Sys2Proof.Machine

set_option Elab.async false

/-- Context 0 maps the first GiB of its addresses to the same physical addresses, the second to host memory, all accesses allowed. -/
def paged (now : Nat) (s : State) : State :=
  { onSched (onDram s (fun d => { d with mem := putBytes (putBytes d.mem 0x1000 (natLe 8 0x2001)) 0x2000 (natLe 8 0x1F ++ natLe 8 0x9F) }))
      (fun h => { h with ctxCache := [(0, 0x1001, 63)] }) with now := now }
/-- Descriptors of an array node of `gang` cores and of a near-memory node on Steward 0. -/
def arrayDesc (gang : Nat) (more : List (Nat × Nat × Nat) := []) : List Byte :=
  fields 256 ([(0x10, 8, 2 ^ 30), (0x41, 1, gang), (0x42, 1, 1), (0x43, 1, 5)] ++ more)
def nearDesc : List Byte := fields 256 [(0x40, 1, 1), (0x41, 1, 1), (0x42, 1, 1), (0x80, 1, 1)]
/-- Node 1 of queue 0 with a descriptor, as given. -/
def node1 (d : List Byte) (f : Node → Node := id) : Node := f { newNode State.reset 0 Queue.reset d with id := 1 }
def window1 (now : Nat) (n : Node) : State := onSched (paged now powered) (fun h => { h with nodes := [n], nodeNext := 2 })

/-- An eligible entry of queue 0 that holds a good descriptor. -/
theorem witness_NodesRun_capture :
    let u : Queue := { Queue.reset with en := true, tail := 1, base := 0x10000, pmax := 63 }
    let s0 := setQueue (paged 0 powered) 0 (fun _ => u)
    let s := onDram s0 (fun d => { d with mem := putBytes d.mem 0x10000 (arrayDesc 1) })
    let r := dRead s none (entryPa u u.head) 256 true
    let n := newNode s 0 u r.1
    eligible (queueAt s 0) = true ∧ (s.sched.nodes.filter (fun m => m.queue == 0 && !isDone m)).length < 64 ∧
      (newGate s none [⟨.dmem (entryPa u u.head), 256, true⟩]).isSome = true ∧ dB r.1 0x47 = 0 ∧
      r.2 = false ∧ descOk r.1 = true ∧ shapeOk s n = true ∧ s.sched.killing ≠ some n.ctx ∧ s.host.state ≠ 1 ∧
      (match footOf s n.ctx r.1 with | .ok f => f.length | _ => 9) = 0 ∧ lostBy s n = false := by decide +kernel
/-- The same with one footprint entry, which is good or not; and a malformed descriptor. -/
theorem witness_NodesRun_footprint :
    let u : Queue := { Queue.reset with en := true, tail := 1, base := 0x10000, pmax := 63 }
    let f (d : List Byte) (e : List Byte) : State := onDram (setQueue (paged 0 powered) 0 (fun _ => u)) (fun m =>
      { m with mem := putBytes (putBytes m.mem 0x10000 d) 0x20000 e })
    let d := arrayDesc 1 [(0x47, 1, 1), (0x58, 8, 0x20000)]
    let s := f d (fields 24 [(0, 8, 0x40000), (8, 8, 0x1000), (16, 1, 1)])
    let b := f d (fields 24 [(0, 8, 0x40000), (17, 1, 1)])
    let x := f (arrayDesc 1 [(0x47, 1, 17)]) []
    dB (dRead s none 0x10000 256 true).1 0x47 = 1 ∧ (ctxGate s 0 0x20000 24).isSome = true ∧
      (match footOf s 0 d with | .ok l => l | .error _ => []) = [(0x40000, 0x1000, 1)] ∧ (ctxGate b 0 0x20000 24).isSome = true ∧
      (match footOf b 0 d with | .ok _ => 0 | .error x => x) = 0x93 ∧ descOk (dRead x none 0x10000 256 true).1 = false ∧
      16 < dB (dRead x none 0x10000 256 true).1 0x47 := by decide +kernel
/-- A node that depends on one of its graph that has failed; one whose gang no cluster holds; one of a context that ends. -/
theorem witness_NodesRun_lost :
    let u : Queue := { Queue.reset with en := true, tail := 1, base := 0x10000, pmax := 63 }
    let n := { newNode (paged 0 powered) 0 u (arrayDesc 1) with id := 2, foot := [(0, 8, 2)] }
    let m := newNode (paged 0 powered) 0 u (arrayDesc 1)
    let s := onSched (paged 0 powered) (fun h => { h with nodes := [node1 (arrayDesc 1) (fun o => { o with foot := [(0, 8, 2)], st := .done false 0x45 })] })
    let k := onSched (paged 0 powered) (fun h => { h with killing := some 0 })
    lostBy s n = true ∧
      shapeOk (onSched (paged 0 powered) (fun h => { h with coreBad := List.range 216 })) m = false ∧
      k.sched.killing = some m.ctx := by decide +kernel
/-- A captured array node that fits and one whose context has no valid entry; a captured near-memory node. -/
theorem witness_NodesRun_dispatch :
    let n := node1 (arrayDesc 1)
    let s := window1 0 n
    let t := onSched s (fun h => { h with ctxCache := [(0, 0, 0)] })
    let m := node1 nearDesc
    nodeOf s 1 = some n ∧ n.st = .captured ∧ ctxLoad s n.ctx = s ∧ ready s n = true ∧ firstToGo s n = true ∧
      recordsFree s 1 = true ∧ refusedAt s n = none ∧ (imagesGate s n).map (fun v => placementOk v n [0]) = some true ∧ nKind n = 0 ∧
      ready t n = true ∧ firstToGo t n = true ∧ refusedAt t n = some 0x98 ∧ nKind m ≠ 0 ∧ ready (window1 0 m) m = true ∧
      firstToGo (window1 0 m) m = true ∧ (imagesGate (window1 0 m) m).map (fun v => stewardsFree v m) = some true := by
  decide +kernel
/-- An array node with a slice image of 8 bytes, and a near-memory node with a program and an argument. -/
theorem witness_NodesRun_start :
    let n := node1 (arrayDesc 1 [(0x30, 8, 0x30000), (0x38, 4, 64), (0x3C, 4, 8), (8, 8, 5)])
    let s := window1 0 n
    let m := node1 (fields 256 [(0x40, 1, 1), (0x41, 1, 1), (0x42, 1, 1), (0x80, 1, 1), (0x20, 8, 0x30000), (0x28, 8, 24), (8, 8, 0x40000)])
    let len (x : Except Nat (Option (List (Byte × Bool)))) : Nat := match x with | .ok (some l) => l.length | .ok none => 0 | .error _ => 9
    len (image s n (nImgA n) (2 ^ 14)) = 0 ∧ len (image s n (nImgB n) (2 ^ 14)) = 0 ∧ len (image s n (nSlimg n) (nSllen n)) = 8 ∧
      nSllen n = 8 ∧ nSloff n + nSllen n ≤ 2 ^ 20 ∧ [0].Nodup ∧ memCanon s = true ∧ coresCanon s = true ∧ canon false s.spoi = true ∧
      d64 m.desc 0x50 = 0 ∧ nImgB m = 24 ∧ (match ctxRead s m.ctx (nImgA m) (nImgB m) with | .ok l => l.length | .error _ => 0) = 24 ∧
      nArg m ≠ 0 ∧ (match xlCtx s [] m.ctx (nArg m % 2 ^ 48) .rd with | .ok (.dmem pa, _, _) => pa | _ => 0) = 0x40000 ∧
      canon Steward.idle s.stewards = true ∧ 0 ∈ nSmask m := by decide +kernel
theorem witness_NodesRun_aging :
    let n := node1 (arrayDesc 1) (fun n => { n with prio := 5, agingFrom := some 0 })
    let s := window1 256000 n
    nodeOf s 1 = some n ∧ n.agingFrom = some 0 ∧ ready s n = true ∧ 1 ≤ (s.now - 0) / 128000 - 1 ∧
      min (n.prio + ((s.now - 0) / 128000 - 1)) (ceilOf s n) ≠ n.aged := by decide +kernel
/-- A running band that offers its cores, and a draining one whose core has stopped. -/
theorem witness_NodesRun_preemption :
    let n := node1 (arrayDesc 1) (fun n => { n with st := .running, cores := [0], offer := true })
    let m := node1 (arrayDesc 1) (fun n => { n with st := .draining, cores := [0] })
    let s := window1 0 n
    let t := setCore (window1 0 m) 0 { runner with node := some 1 }
    nodeOf s 1 = some n ∧ n.st = .running ∧ nKind n = 0 ∧ preemptFor s n .yielded = true ∧ nodeOf t 1 = some m ∧
      m.st = .draining ∧ ctxLoad t m.ctx = t ∧
      (∀ e ∈ liveOf m, stoppedCore t e.2 = true ∧ (coreAt t e.2).mxq = []) ∧ recordsFree t 1 = true ∧ m.id = 1 ∧
      (areaGate t m .wr (((List.range 1).flatMap (coreSegs t m)).map Seg.span)).map (fun v =>
        match areaWrite m v ((List.range 1).flatMap (coreSegs t m)) with | .ok _ => true | .error _ => false) = some true := by decide +kernel
/-- A draining band whose area cannot be written. -/
theorem witness_NodesRun_unsaved :
    let m := node1 (arrayDesc 1 [(0x10, 8, 2 ^ 40)]) (fun n => { n with st := .draining, cores := [0] })
    let t := setCore (window1 0 m) 0 { runner with node := some 1 }
    (∀ e ∈ liveOf m, stoppedCore t e.2 = true ∧ (coreAt t e.2).mxq = []) ∧ recordsFree t 1 = true ∧ ctxLoad t m.ctx = t ∧
      (areaGate t m .wr (((List.range 1).flatMap (coreSegs t m)).map Seg.span)).map (fun v =>
        match areaWrite m v ((List.range 1).flatMap (coreSegs t m)) with | .ok _ => 0 | .error x => x) = some 0x18 := by decide +kernel
/-- A pre-empted band whose area is all zeros, one whose area is malformed, and one whose area cannot be reached. -/
theorem witness_NodesRun_resume :
    let n := node1 (arrayDesc 1) (fun n => { n with st := .preempted })
    let s := window1 0 n
    let bad := onHost s (fun h => { h with sys := putBytes h.sys 0x168C00 [1] })
    let off := node1 (arrayDesc 1 [(0x10, 8, 2 ^ 40)]) (fun n => { n with st := .preempted })
    let dead := onSched s (fun h => { h with ctxCache := [(0, 0, 0)] })
    let gated (s : State) : Bool := match readArea s n with
      | .ok r => (areaGate s n .rd (coreParts n ++ tagged n r.1)).isSome
      | .error _ => false
    nodeOf s 1 = some n ∧ n.st = .preempted ∧ ctxLoad s n.ctx = s ∧ ready s n = true ∧ firstToGo s n = true ∧ placementOk s n [0] = true ∧
      recordsFree s 1 = true ∧ refusedAt s n = none ∧ gated s = true ∧
      (match readArea s n with | .ok r => areaOk r.1 0 | .error _ => false) = true ∧
      n.gone.contains 0 = false ∧ gated bad = true ∧ (match readArea bad n with | .ok r => areaOk r.1 0 | .error _ => true) = false ∧
      ctxLoad dead n.ctx = dead ∧ ready dead n = true ∧ firstToGo dead n = true ∧ refusedAt dead n = some 0x98 ∧
      ready (window1 0 off) off = true ∧ placementOk (window1 0 off) off [0] = true ∧
      (match readArea (window1 0 off) off with | .ok _ => 0 | .error x => x) = 0x18 := by decide +kernel

/-! ### The ends of nodes -/

theorem witness_NodesEnd_waits :
    let w : Nat × SavedWait := (0, ⟨some (0x100, .dmem 0x100, 0, none), some 5⟩)
    let n := node1 (arrayDesc 1) (fun n => { n with st := .waiting, waits := [w] })
    let s := window1 5 n
    let b := onSched powered (fun h => { h with coreBad := [3] })
    3 ∈ b.sched.coreBad ∧ 3 % 9 ≠ 8 ∧ mget none b.sched.spareUsed (3 / 9) = none ∧ 9 * (3 / 9) + 8 ∉ b.sched.coreBad ∧
      nodeOf s 1 = some n ∧ n.st = .waiting ∧ n.waits = [] ++ w :: [] ∧ w.2.swait = some (0x100, .dmem 0x100, 0, none) ∧
      (newGate s (some 1) [Piece.mk (.dmem 0x100) 8 false]).isSome = true ∧ w.2.until_ = some 5 ∧ 5 ≤ s.now := by decide +kernel
/-- A band parked at a lock of context 0, whose holder is node 1 itself. -/
theorem witness_NodesEnd_victim :
    let n := node1 (arrayDesc 1) (fun n => { n with st := .running, cores := [0] })
    let p : Park := ⟨.swait sliceWin (.slice 0 0) 1 (some 0x8000000000000000), 4, none, 0, none, []⟩
    let s := setCore (window1 4000 n) 0 { runner with node := some 1, park := some p }
    nodeOf s 1 = some n ∧ n.st = .running ∧ nKind n = 0 ∧ n.victim = false ∧ liveOf n = [(0, 0)] ∧ longParked s 0 = true ∧
      waitsFor s n n.ctx = true := by decide +kernel
/-- A retiring core of no node, and one of a gang of two; a Steward that has ended without a node. -/
theorem witness_NodesEnd_counters :
    let a := withCore { runner with running := false, retiring := true }
    let n := node1 (arrayDesc 2) (fun n => { n with st := .running, cores := [0, 1] })
    let b := setCore (window1 0 n) 0 { runner with running := false, retiring := true, node := some 1 }
    let c := setSteward powered 7 (fun t => { t with done := some (0, none) })
    (coreAt a 0).retiring = true ∧ settled a 0 true = true ∧ sysUnflushed a 0xFF = false ∧ (coreAt a 0).node = none ∧
      (coreAt b 0).retiring = true ∧ settled b 0 true = true ∧ sysUnflushed b 0xFF = false ∧ (coreAt b 0).node = some 1 ∧
      nodeOf b 1 = some n ∧ n.st = .running ∧ (coreAt b 0).failed = none ∧ (coreAt b 0).csr.cir.extractLsb' 0 2 = 0 ∧ n.id = 1 ∧
      gangOver { n with gone := n.gone ++ [(coreAt b 0).num] } 0 = false ∧ 0 < nGangs n ∧
      (stewardAt c 7).done = some (0, none) ∧ (stewardAt c 7).node = none := by decide +kernel
theorem witness_NodesEnd_stops :
    let n := node1 (arrayDesc 1) (fun n => { n with st := .stopping 0x45 })
    let r := node1 (arrayDesc 1) (fun n => { n with st := .retry })
    let w := node1 (arrayDesc 1 [(0x4C, 4, 1)]) (fun n => { n with st := .running, cores := [0] })
    let s := onSched powered (fun h => { h with coreClear := [2] })
    nodeOf (window1 0 n) 1 = some n ∧ n.cores = [] ∧ recordsFree (window1 0 n) 1 = true ∧ n.id = 1 ∧
      nodeOf (window1 0 r) 1 = some r ∧ r.st = .retry ∧ r.testWait = [] ∧ 2 ∈ s.sched.coreClear ∧ s.sched.nodes = [] ∧
      memCanon s = true ∧ nodeOf (window1 2000 w) 1 = some w ∧ nWdog w ≠ 0 ∧ w.begun + nWdog w * 2000 ≤ (window1 2000 w).now ∧
      w.st = .running ∧ nKind w = 0 := by decide +kernel

/-! ### Shadows and checkpoints -/

def r5 (node : Nat) (ready glob : Bool) : Redirect := ⟨node, 5, 9, ready, glob⟩
def shadowed (r : List Redirect) (now : Nat) : State := onSched (window1 now (node1 (arrayDesc 1) (fun n => { n with st := .running })))
  (fun h => { h with redir := r, shwait := [⟨1, 5, !r.isEmpty, 0⟩],
                     nodes := h.nodes ++ [{ node1 (arrayDesc 1) (fun n => { n with st := .running }) with id := 2 }] })
theorem witness_ShadowsAndCheckpoints_copies :
    let s := shadowed [r5 1 false false] 0
    let f := shadowed [] 2000000
    let c := shadowed [r5 2 true false] 2000000
    let g := shadowed [⟨1, 9, 5, true, true⟩] 0
    s.sched.redir.find? (fun r => r.node == 1 && r.gran == 5 && !r.ready) = some (r5 1 false false) ∧ waitedLong f 1 5 false = true ∧ f.sched.redir = [] ∧ f.sched.shfree = [] ∧ (nodeOf f 1).isSome = true ∧
      c.sched.redir.find? (fun r => r.gran == 5 && r.node != 1 && !r.global) = some (r5 2 true false) ∧ waitedLong c 1 5 true = true ∧
      (nodeOf c 1).map (fun a => (nodeOf c 2).map (fun b => (younger a b).st)) = some (some .running) ∧
      g.sched.redir.find? (fun r => r.gran == 9 && r.global) = some ⟨1, 9, 5, true, true⟩ := by decide +kernel
/-- Two granules that no bank, commit or checkpoint holds back. -/
theorem witness_ShadowsAndCheckpoints_granules :
    (∃ u, granuleGate (shadowed [r5 1 false false] 0) 5 9 = some u) ∧ ∃ u, granuleGate (shadowed [⟨1, 9, 5, true, true⟩] 0) 5 9 = some u := by
  have key : ∀ r, (granuleGate (shadowed r 0) 5 9 = (rawOpen (shadowed r 0) (5 * 2 ^ 18) (2 ^ 18)).bind
      (fun s => rawOpen s (9 * 2 ^ 18) (2 ^ 18))) → ∃ u, granuleGate (shadowed r 0) 5 9 = some u := fun r e => by
    have h : Calm 0 (shadowed r 0) :=
      ⟨rfl, rfl, rfl, rfl, rfl, .inr rfl, rfl, rfl, rfl, rfl, .inl rfl, rfl, fun _ => Nat.le_refl 0⟩
    obtain ⟨t, ht, hc⟩ := calm_granule h (by omega) 5 (by omega)
    obtain ⟨u, hu, -⟩ := calm_granule hc (by omega) 9 (by omega)
    exact ⟨u, by rw [e, ht]; exact hu⟩
  exact ⟨key _ (by unfold granuleGate; exact if_neg (by decide +kernel)), key _ (by unfold granuleGate; exact if_neg (by decide +kernel))⟩
theorem witness_ShadowsAndCheckpoints_commit :
    let n := node1 (arrayDesc 1) (fun n => { n with st := .commit })
    let s := onSched (window1 0 n) (fun h => { h with redir := [r5 1 true false] })
    nodeOf s 1 = some n ∧ n.st = .commit ∧ recordsFree s 1 = true ∧ (r5 1 true false).ready = true ∧
      granuleQuiet s (r5 1 true false).gran = true := by decide +kernel
/-- A checkpoint whose destination is a system page, with its port up and down, and one whose granule has no place; its end. -/
theorem witness_ShadowsAndCheckpoints_ckpt :
    let d := fields 64 [(8, 8, 2 ^ 18), (0x10, 8, 2 ^ 30), (0x20, 8, 0x100)]
    let k (l : List (Nat × Option Nat)) : Ckpt := ⟨0, d, 1, l, [], 0, [], none, 0⟩
    let s (l : List (Nat × Option Nat)) : State := onSched (paged 0 powered) (fun h => { h with ckpt := some (k l) })
    let t := s [(0, some 3)]
    let u := onHost t (fun h => { h with portUp := 1 })
    (s [(0, none)]).sched.ckpt = some (k [(0, none)]) ∧ t.sched.ckpt = some (k [(0, some 3)]) ∧
      (k [(0, some 3)]).chosen.find? (fun g => g.1 == 0) = some (0, some 3) ∧ (∀ e ∈ (k [(0, some 3)]).chosen, 0 ≤ e.1) ∧
      (match ctxPieces t 0 (kDest d + 2 ^ 18 * 0) (2 ^ 18) .wr with
        | .ok ps => ps == [Piece.mk (.sys 0 0) (2 ^ 18) false] | .error _ => false) = true ∧ t.host.portUp.getLsbD (hostPortOf t 0) = false ∧
      u.host.portUp.getLsbD (hostPortOf u 0) = true ∧
      (ctxGateOf u 0 (kDest d + 2 ^ 18 * 0) (2 ^ 18) .wr).isSome = true ∧
      (s []).sched.ckpt = some (k []) ∧ kMan (k []).desc = 0 ∧
      (match ctxPieces (s []) 0 (kDone d) 32 .wr with | .ok ps => writableNow (s []) ps | .error _ => false) = true := by
  decide +kernel
/-- The walk of the destination opens rows 4 and 8 of bank 0, and then those of the granule open. -/
theorem witness_ShadowsAndCheckpoints_stream :
    let u := onHost (paged 0 powered) (fun h => { h with portUp := 1 })
    ∃ v w, ctxGateOf u 0 (2 ^ 30) (2 ^ 18) .wr = some v ∧ rawOpen v (3 * 2 ^ 18) (2 ^ 18) = some w := by
  intro u
  let k : Bank := { Bank.idle with row := .host 8, acts := [(4, 1), (8, 1)] }
  have e : ctxGateOf u 0 (2 ^ 30) (2 ^ 18) .wr = some (onDram u (fun d => { d with banks := [(0, k)] })) := by decide +kernel
  have h : Calm 1 (onDram u (fun d => { d with banks := [(0, k)] })) :=
    ⟨rfl, rfl, rfl, rfl, rfl, .inl ⟨_, rfl⟩, rfl, rfl, rfl, rfl, .inr ⟨8, rfl⟩, rfl, fun r => by
      show (mget 0 [(4, 1), (8, (1 : BitVec 11))] r).toNat ≤ 1
      simp only [mget]
      repeat' split
      all_goals decide⟩
  obtain ⟨w, hw, -⟩ := calm_granule h (by omega) 3 (by omega)
  exact ⟨_, w, e, hw⟩
/-- A granule that a write waits for, behind a lower one; a checkpoint with a manifest that can be written, and one whose page
refuses it; its two granules' bits. -/
theorem witness_ShadowsAndCheckpoints_manifest :
    let d (man : Nat) := fields 64 [(8, 8, 2 ^ 19), (0x10, 8, 2 ^ 30), (0x18, 8, man), (0x20, 8, 0x100)]
    let k (man : Nat) (l : List (Nat × Option Nat)) : Ckpt := ⟨0, d man, 1, l, [3], 1, [(1, true)], none, 0⟩
    let s (man : Nat) (l : List (Nat × Option Nat)) : State := onSched (paged 0 powered) (fun h => { h with ckpt := some (k man l) })
    writeWaits (s 64 [(0, some 2), (1, some 3)]) (k 64 [(0, some 2), (1, some 3)]) 3 = true ∧
      (k 64 [(0, some 2), (1, some 3)]).chosen.find? (fun g => g.1 == 1) = some (1, some 3) ∧ kMan (d 64) ≠ 0 ∧
      1 < kLen (d 64) / 2 ^ 18 ∧
      (match ctxPieces (s 64 []) 0 (kMan (d 64)) (manifest (k 64 [])).length .wr with
        | .ok ms => writableNow (s 64 []) ms | .error _ => false) = true ∧
      (match ctxPieces (s (2 ^ 40) []) 0 (kMan (d (2 ^ 40))) (manifest (k (2 ^ 40) [])).length .wr with
        | .ok _ => 0 | .error x => x) = 0x18 := by decide +kernel

end Sys2Proof.Tests
end

