-- ==== Sys2Proof/Tests/Slice0.lean ====
section
/-! SUPPORT. Slice0.lean: the smoke test of well-formedness, with an ill-formed instruction for every check and the cause that R73
gives it; the slots of a bundle; and single steps whose results are worked out by hand from the rules. -/

namespace Sys2Proof.Tests
open Sys2Proof Sys2Proof.Machine

set_option Elab.async false

/-! ### Well-formed and ill-formed (R73) -/

theorem test_wf : Instr.wf (.add ⟨0, 0, 2, 1, 3⟩) = true ∧ Instr.wf (.add ⟨0, 0, 2, 0x70, 64⟩) = true ∧
    Instr.wf (.stewardMove ⟨0, 0⟩ 0x10) = true ∧ Instr.wf .nop = true ∧ Instr.wf (.fatom ⟨9, 0, 3, 0, 1, 4⟩) = true := by decide
/-- An unused field that is not zero: ILLEGAL_ENCODING. -/
theorem test_ill_field : causes true (.add ⟨0, 1, 2, 1, 3⟩) = [1] ∧ Instr.wf (.add ⟨0, 1, 2, 1, 3⟩) = false := by decide
/-- A source code that names nothing, and a destination past the suppressing code. -/
theorem test_ill_source : causes true (.add ⟨0, 0, 0x60, 1, 3⟩) = [3] ∧ causes true (.add ⟨0, 0, 2, 0x76, 3⟩) = [3] := by decide
theorem test_ill_destination : causes true (.add ⟨0, 0, 2, 1, 65⟩) = [1] := by decide
/-- A group that runs past v31, and an odd register where a pair starts: ILLEGAL_REGISTER. -/
theorem test_ill_register : causes true (.vadd ⟨0, 0, 8, 1, 0, 0, 2, 1, 31⟩) = [4] ∧ causes true (.acas128 ⟨0, 0, 2, 4, 1, 5⟩) = [4] := by
  decide
/-- A type that the instruction does not take, a type code that names none: ILLEGAL_TYPE. -/
theorem test_ill_type : causes true (.vfadd ⟨0, 0, 3, 0, 0, 0, 2, 1, 3⟩) = [5] ∧ causes true (.vadd ⟨0, 0, 31, 0, 0, 0, 2, 1, 3⟩) = [5] := by
  decide
/-- A condition code past the last: ILLEGAL_IMMEDIATE; a group code past the last: ILLEGAL_GROUP. -/
theorem test_ill_immediate : causes true (.cmp ⟨10, 0, 2, 1, 3⟩) = [0x0C] := by decide
theorem test_ill_group : causes true (.vadd ⟨0, 0, 8, 6, 0, 0, 2, 1, 3⟩) = [0x0F] := by decide
/-- A CSR that does not exist, and a level that may not. -/
theorem test_ill_csr : causes true (.csrr ⟨0, 0x30, 0, 0, 3⟩) = [0x0D] ∧ causes false (.csrr ⟨0, 0x10, 0, 0, 3⟩) = [0x0E] ∧
    causes false (.eret ⟨0, 0, 0, 0, 0⟩) = [0x0E] := by decide
/-- A destination that is no port, a trigger written as a plain move, a bundle of unassigned opcodes. -/
theorem test_ill_move : Instr.wf (.stewardMove ⟨0, 0⟩ 0x400) = false ∧ Instr.wf (.stewardMove ⟨0, 0⟩ 0x41) = false ∧
    Instr.wf (.illegalOpcode 1) = false := by decide

/-! ### The slots of a bundle (R50) -/

/-- ADD in slot S, VFMA in V, MJOB in M, LD in L, GSET.MINT in A and XSET in X, each at its own bits; colour 5 in the header. -/
theorem test_bundle : decBundle (0x280 ||| (0x808301 <<< 16) ||| (0xAD3182020013 <<< 56) ||| (0x38601 <<< 112) ||| (0x2003FE008601 <<< 144) |||
      (0x20C10118 <<< 192) ||| (0xFFFF03 <<< 232)) =
    ⟨0x280, [.ins (.add ⟨0, 0, 2, 1, 3⟩), .ins (.vfma ⟨0, 1, 0xB, 2, 3, 12, 8, 4, 0⟩), .ins (.mjob ⟨0, 7, 6⟩),
      .ins (.ld ⟨4, 0, 0x1F, 0x78, 1, 6⟩), .ins (.gsetMint ⟨0, 1, 3, 2, 1⟩), .ins (.xset ⟨0x1F, 0x7F, 15⟩)]⟩ ∧
    hdrColour 0x280 = 5 := by decide +kernel

/-! ### Single steps -/

/-- s3 after the bundle. -/
def s3 (o : Host.Outcome State Fault Refusal) : Option Word :=
  match o with
  | .next t => some ((coreAt t 0).regs.rS 3)
  | _ => none
/-- 64-bit wrap of ADD; MULH of -1 and -1 gives 0 and MULHN all ones but one (R124). -/
theorem test_add_wraps : s3 (exec (.add ⟨0, 0, 2, 1, 3⟩) (withRegs 0xFFFFFFFFFFFFFFFF 2 0)) = some 1 := by decide +kernel
theorem test_mulh : s3 (exec (.mulh ⟨0, 0, 2, 1, 3⟩) (withRegs 0xFFFFFFFFFFFFFFFF 0xFFFFFFFFFFFFFFFF 0)) = some 0 ∧
    s3 (exec (.mulhn ⟨0, 0, 2, 1, 3⟩) (withRegs 0xFFFFFFFFFFFFFFFF 0xFFFFFFFFFFFFFFFF 0)) = some 0xFFFFFFFFFFFFFFFE := by
  decide +kernel
/-- Division by zero gives all ones, and the remainder its dividend (R125); -2^63 / -1 wraps. -/
theorem test_div_zero : s3 (exec (.div ⟨0, 0, 2, 1, 3⟩) (withRegs 7 0 0)) = some 0xFFFFFFFFFFFFFFFF ∧
    s3 (exec (.rem ⟨0, 0, 2, 1, 3⟩) (withRegs 7 0 0)) = some 7 := by decide +kernel
theorem test_div_wraps : s3 (exec (.div ⟨0, 0, 2, 1, 3⟩) (withRegs 0x8000000000000000 0xFFFFFFFFFFFFFFFF 0)) = some 0x8000000000000000 := by
  decide +kernel
/-- A write to s0 changes nothing; s0 reads as zero (R55). -/
theorem test_s0 : s3 (exec (.add ⟨0, 0, 2, 1, 0⟩) (withRegs 5 7 9)) = some 9 ∧
    (match exec (.add ⟨0, 0, 2, 1, 0⟩) (withRegs 5 7 9) with | .next t => (coreAt t 0).regs.rS 0 | _ => 1) = 0 := by decide +kernel
/-- A store and the bytes it leaves, least significant first (R3, R193). -/
theorem test_store : (match exec (.st ⟨9, 0, 0x40, 0, 1, 0⟩) (onCore (withBytes 0x40 []) 0 (fun k => onRegs k (·.wS 2 0x0102030405060708))) with
    | .next t => bytesAt t.slices 0x40 8 | _ => []) = [8, 7, 6, 5, 4, 3, 2, 1] := by decide +kernel

/-! ### Standards that the spec names (R360) -/

/-- The example of FIPS 197, appendix C.1, and the empty message of RFC 4493. -/
theorem test_aes : aes128 ((List.range 16).map (BitVec.ofNat 8)) ((List.range 16).map (fun i => BitVec.ofNat 8 (17 * i))) =
    (natLe 16 0x69c4e0d86a7b0430d8cdb78070b4c55a).reverse := by decide +kernel
theorem test_cmac : cmacShort (natLe 16 0x2b7e151628aed2a6abf7158809cf4f3c).reverse [] =
    (natLe 16 0xbb1d6929e95937287fa37d129b756746).reverse := by decide +kernel

end Sys2Proof.Tests
end

