-- ==== Sys2Proof/Tests/Steward.lean ====
section
/-! SUPPORT. Steward.lean: states that meet the hypotheses of the statements about Stewards and banks, clause by clause. -/

namespace Sys2Proof.Tests
open Sys2Proof Sys2Proof.Machine

set_option Elab.async false

/-- Steward 0 running alone, as given. -/
def onSteward0 (f : Steward → Steward) : State := setSteward powered 0 (fun t => f { t with running := true })
/-- Register q0 holds a value. -/
def withQ0 (v : Word) (f : Steward → Steward := id) : State := onSteward0 (fun t => f { t with q := mput 0 [] 0 v })
def fromQ0 : MV := ⟨0, 0x10⟩

/-- An ALU trigger and a comparison. -/
theorem witness_StewardMoves :
    let s := withQ0 7
    loneMove fromQ0 s = true ∧ stewardAlu (moveValue s fromQ0) (port (steward s) 0x40) (.aluAdd fromQ0) = some (fromQ0, 7) ∧
      stewardCmp (moveValue s fromQ0) (port (steward s) 0x40) (.aluLt fromQ0) = some (fromQ0, false) := by decide +kernel

/-- A move whose guard holds and one whose guard fails; destinations g, q5, an operand port, and none of them. -/
theorem witness_PlainMoves :
    let s := withQ0 7
    s.host.power = true ∧ s.sframe = none ∧ (steward s).running = true ∧ (steward s).done = none ∧
      guardOk (steward s) 1 = false ∧ loneMove fromQ0 s = true ∧ (1 : BitVec 11).toNat = 1 ∧
      0x10 ≤ (0x15 : BitVec 11).toNat ∧ (0x15 : BitVec 11).toNat < 0x30 ∧ isOperand (0x40 : BitVec 11).toNat = true ∧
      isOperand (0x300 : BitVec 11).toNat = false ∧ moveValue s fromQ0 = 7 := by decide +kernel

/-- A branch to the last bundle and past it; the g-flag set; a full call stack and an empty one. -/
theorem witness_StewardBranches :
    loneMove fromQ0 (withQ0 681) = true ∧ loneMove fromQ0 (withQ0 682) = true ∧
      loneMove fromQ0 (withQ0 5 (fun t => { t with g := true })) = true ∧
      loneMove fromQ0 (withQ0 5 (fun t => { t with calls := List.replicate 8 3 })) = true ∧
      loneMove fromQ0 (withQ0 5 (fun t => { t with calls := [3] })) = true := by decide +kernel

/-- The last local word, one past it, a device word, a misaligned one; a busy unit; the last log entry and one past it. -/
theorem witness_StewardUnits :
    ([0x1FF8, 0x2000, 0x8000000000000040, 4, 31, 32, 255, 256].all (fun v => loneMove fromQ0 (withQ0 v))) = true ∧
      loneMove fromQ0 (withQ0 0 (fun t => { t with lsu := some ⟨false, 0, 0, 0⟩ })) = true ∧
      loneMove fromQ0 (withQ0 0 (fun t => { t with sem := some ⟨true, 0, 0, none, 0⟩, logop := some 0 })) = true := by
  decide +kernel

/-- Two banks named, one request of theirs open, one queue full; an engine trigger within its limits and one outside. -/
def leasing : State := withQ0 1 (fun t =>
  { t with ports := mput 0 [] 0x80 3, leases := [⟨0, 0, 5, false, true, 16, false, 0, false⟩], leaseNext := 1 })
theorem witness_StewardLeasesAndEngines :
    let e : EngOp := ⟨14, 0, 0, 0, 0, none, 0, 0⟩
    let full := setSteward leasing 0 (fun t => setEng t 0 (fun g => { g with q := [e, e, e, e] }))
    loneMove fromQ0 leasing = true ∧ (moveValue leasing fromQ0).toNat < 2 ^ 14 ∧ loneMove fromQ0 (withQ0 (2 ^ 14)) = true ∧
      ((steward leasing).leases.map (·.id)).Nodup ∧ loneMove ⟨0, 0x400⟩ leasing = true ∧
      engineTrigger (.bkeLd ⟨0, 0x400⟩ 0) = some (⟨0, 0x400⟩, 0, 8) ∧ engineCheck 8 0 0 0 0 0 = (false, some 0) ∧
      ((some 0).bind (newestLease (steward leasing))).isSome = true ∧ (newestLease (steward leasing) 1).isNone = true ∧
      (engineCheck 8 0 1 0x100000 0 0).1 = true ∧ loneMove fromQ0 full = true ∧ 4 ≤ (eng (steward full) 0).q.length := by
  decide +kernel

/-! ### Events of Stewards and banks -/

/-- The same at core cycle `now`. -/
def later (now : Nat) (s : State) : State := { s with now := now }

theorem witness_StewardOperationsEnd :
    let a := later (2 ^ 21) (withQ0 0 (fun t => { t with stallSince := some 0 }))
    let b := later 20 (withQ0 0 (fun t => { t with sem := some ⟨true, 0x8000000000000040, 0, some 10, 0⟩ }))
    let c := withQ0 0 (fun t => { t with lsu := some ⟨true, 0x1FF8, 9, 0⟩, logop := some 31 })
    (stewardAt a 0).stallSince = some 0 ∧ (stewardAt a 0).running = true ∧ 0 + 2 ^ 20 ≤ baseNow a ∧
      (stewardAt b 0).sem = some ⟨true, 0x8000000000000040, 0, some 10, 0⟩ ∧ stewardAddr 0x8000000000000040 = some (true, 0x40) ∧
      10 ≤ baseNow b ∧ (stewardAt c 0).lsu = some ⟨true, 0x1FF8, 9, 0⟩ ∧ stewardAddr 0x1FF8 = some (false, 0x1FF8) ∧
      (stewardAt c 0).logop = some 31 := by decide +kernel
/-- An engine operation without a lease, and a column load under a held one. -/
theorem witness_StewardOperationsEnd_engines :
    let o : EngOp := ⟨14, 0, 0, 0, 0, none, 0, 0⟩
    let p : EngOp := ⟨8, 0x20, 0, 0, 0, some 0, 0, 0⟩
    let l : Lease := ⟨0, 0, 5, false, true, 16, false, 0, false⟩
    let s (o : EngOp) := setSteward leasing 0 (fun t => setEng t 0 (fun g => { g with q := [o] }))
    (eng (stewardAt (s o) 0) 0).q = [o] ∧ o.lease = none ∧ (eng (stewardAt (s p) 0) 0).q = [p] ∧ p.lease = some l.id ∧
      leaseOf (stewardAt (s p) 0) l.id = some l ∧ l.held = true ∧ (engineUnits p).1 - p.prog ≤ 16 ∧
      ((engineUnits p).1 - p.prog) * (engineUnits p).2 ≤ l.budget ∧ lsuBefore (s p) 0 p.seq (0, l.row) = false ∧
      live (s p).dram (served (s p) (rowAtom 0 l.row 0)) = true ∧
      gBlock (served (s p) (rowAtom 0 l.row 0)) ∉ (s p).dram.reviving ∧ acqBlocks (stewardAt (s p) 0) 0 = false ∧
      (let q : EngOp := { p with trig := 9 }
       (engineUnits q).1 - q.prog ≤ 16 ∧ ((engineUnits q).1 - q.prog) * (engineUnits q).2 ≤ l.budget ∧
         (match storeGate (s q) 0 l.row with | .go => true | .wait _ => false) = true) := by decide +kernel

/-- sem.sig, and lsu operations of device memory: with a lease of its row, and with none. -/
theorem witness_StewardOperationsEnd_device :
    let row := (gBank (geom powered.dram 0x40), gRow (geom powered.dram 0x40))
    let n := gHc (geom powered.dram 0x40)
    let l : Lease := ⟨0, row.1 % 64, row.2, false, true, 16, false, 0, false⟩
    let f (g : Steward → Steward) : State := setSteward powered n (fun t => g { t with running := true })
    let at_ : List Piece := [⟨.dmem 0x40, 8, false⟩]
    let a := f (fun t => { t with sem := some ⟨false, 0x8000000000000040, 1, none, 2⟩ })
    let o (st : Bool) : LsuOp := ⟨st, 0x8000000000000040, 9, 0⟩
    let b (st : Bool) (ls : List Lease) := f (fun t => { t with lsu := some (o st), leases := ls, leaseNext := 1 })
    (stewardAt a n).sem = some ⟨false, 0x8000000000000040, 1, none, 2⟩ ∧ (stewardAt a n).eng = Steward.idle.eng ∧ a.dram.wq = [] ∧
      (stewardAt a n).lsu = none ∧ (match writeGates a none false at_ with | .go => true | .wait _ => false) = true ∧
      (newGate a none at_).isSome = true ∧ acqBlocks (stewardAt (b true [l]) n) 0 = false ∧
      ownRow (b true [l]) n 0x40 = some row ∧ enginesBefore (b true [l]) n 0 row = false ∧ ownLease (stewardAt (b true [l]) n) n row = true ∧
      ckptHolds (b true [l]) 0x40 = false ∧ needsRevival (b true [l]) none (.dmem 0x40) = none ∧
      beingRevived (b true [l]) none (.dmem 0x40) = false ∧
      (let e := onDram (b true [l]) (fun d => { d with elided := mput false [] (gBlock (geom d 0x40)) true })
       needsRevival e none (.dmem 0x40) = some (gBlock (geom e.dram 0x40)) ∧ gBlock (geom e.dram 0x40) ∉ e.dram.reviving) ∧ ownLease (stewardAt (b true []) n) n row = false ∧
      (match writeGates (b true []) none false at_ with | .go => true | .wait _ => false) = true ∧
      (hostOpenAll (b true []) none at_).isSome = true ∧ (stewardAt (b false []) n).lsu = some (o false) ∧
      (newGate (b false []) none at_).isSome = true := by decide +kernel

/-- A waiting request, a spent one, a lost one with an operation bound to it. -/
theorem witness_BanksServe_leases :
    let l : Lease := ⟨0, 0, 5, false, false, 0, false, 0, true⟩
    let m : Lease := ⟨0, 0, 5, false, true, 0, false, 0, false⟩
    let r : Lease := ⟨0, 0, 5, false, false, 0, false, 0, false⟩
    let p : EngOp := ⟨8, 0x20, 0, 0, 0, some 0, 0, 0⟩
    let s (l : Lease) := later 200 (withQ0 1 (fun t => { setEng t 0 (fun g => { g with q := [p] }) with leases := [l], leaseNext := 1 }))
    leaseOf (stewardAt (s l) 0) 0 = some l ∧ grantable (s l) 0 l = true ∧ writesWait (s l) 0 = false ∧
      (openRow (s l) 0 5 (.engine 5)).isSome = true ∧ leaseOf (stewardAt (s m) 0) 0 = some m ∧ m.held = true ∧ m.budget = 0 ∧
      leaseOf (stewardAt (s r) 0) 0 = some r ∧ r.held = false ∧ r.asked = false ∧ boundOps (stewardAt (s r) 0) 0 = true ∧
      (mget (0, 64) (s l).dram.window 0).1 + 64 ≤ baseNow (s l) ∧ nextLease (s l) 0 = some l ∧ agedWrite (s l) 0 = false ∧
      (grantLease (s l) 0 0).isSome = true ∧ refreshDue (s l) 0 = false ∧ agedRead (s l) 0 = false ∧ readWaits (s l) 0 none = false := by decide +kernel
/-- A queued write of bank 0; an idle open row; a watched row whose spacing has passed; a refresh that is due. -/
theorem witness_BanksServe_rows :
    let q := onDram powered (fun d => { d with wq := [⟨0, [1], .device, 0, 0⟩] })
    let r := later 300000 (onDram powered (fun d => setBank d 0 (fun k => { k with row := .host 3, refAt := 150000, watch := [(7, 5)] })))
    q.dram.wq.findIdx? (fun e => gBank (e.loc / 32) == 0) = some 0 ∧ (hostOpen q 0).isSome = true ∧ agedWrite q 0 = false ∧
      writeOldest q 0 = true ∧ readWaits r 0 (some 3) = false ∧ (nextLease q 0).any (urgent q) = false ∧ refreshDue q 0 = false ∧ (bank q.dram 0).testing = false ∧
      (bank r.dram 0).row = .host 3 ∧ (bank r.dram 0).lastUse + 64 ≤ baseNow r ∧ r.dram.wq = [] ∧
      (7, 5) ∈ (bank r.dram 0).watch ∧ 5 + 126000 ≤ baseNow r ∧ (bank r.dram 1).row = .closed ∧
      (bank r.dram 1).refAt + 15625 ≤ baseNow r := by decide +kernel

/-- A bank that a lease has left, which nobody wants, and whose refresh is due; a lease that has waited long; bad parity. -/
theorem witness_BanksServe_ended :
    let r (now : Nat) := later now (onDram powered (fun d => setBank d 0 (fun k => { k with row := .ended 3, badPar := [7] })))
    let l : Lease := ⟨0, 0, 5, false, false, 0, false, 0, true⟩
    let w := later 5000 (withQ0 1 (fun t => { t with leases := [l], leaseNext := 1 }))
    let o : Lease := { l with released := true }
    (bank (r 0).dram 0).row = .ended 3 ∧ agedWrite (r 0) 0 = false ∧ agedRead (r 0) 0 = false ∧ nextLease (r 0) 0 = none ∧
      writesWait (r 0) 0 = false ∧ readWaits (r 0) 0 none = false ∧ refreshDue (r 0) 0 = false ∧ 16383 < 2 ^ 14 ∧
      16383 ∉ (bank (r 0).dram 0).badPar ∧ (bank (r 300000).dram 0).refAt + 15625 ≤ baseNow (r 300000) ∧
      readWaits (r 300000) 0 (some 3) = false ∧ nextLease w 0 = some l ∧ urgent w l = true ∧ grantable w 0 l = true ∧
      (grantLease w 0 0).isSome = true ∧ boundOps (stewardAt w 0) 0 = false ∧ o.released = true := by decide +kernel

/-- A park area for stack 0; a die that migrates; a bank whose test was asked for, with and without the area. -/
theorem witness_UpkeepRuns_banks :
    let s := onDram powered (fun d => { setBank d 0 (fun k => { k with testReq := true }) with reviving := [0], elided := [(0, true)] })
    let p := onSched s (fun h => { h with parkbase := mput 0 [] 0 0x40000001 })
    let t := onDram p (fun d => setBank d 0 (fun k => { k with testing := true }))
    let m := onDram powered (fun d => { d with spare := mput none [] 0 (some 3) })
    live powered.dram 5 = true ∧ writesWait powered (gBank 5) = false ∧ (hostOpen powered 5).isSome = true ∧ 0 ∈ s.dram.reviving ∧
      (migrating m 0).isSome = true ∧ (migrating m 0).map (fun e => (bank m.dram e.1).row) = some .closed ∧
      (bank s.dram 0).testReq = true ∧ (bank s.dram 0).testing = false ∧ (bank s.dram 0).parked = false ∧
      (stewardAt s 0).leases = [] ∧ parkBase s (bankStack 0) = none ∧ parkTaken p 0 = false ∧ (parkBase p (bankStack 0)).isSome = true ∧
      (bank t.dram 0).testing = true ∧ (parkBase t (bankStack 0)).isSome = true ∧
      (mget none (onDram t (fun d => { d with spare := mput none [] 0 (some 3) })).dram.spare (bankStack 0)).isSome = true := by
  decide +kernel
theorem witness_UpkeepRuns_cores :
    let s := onSched powered (fun h => { h with coreTest := [4] })
    4 ∈ s.sched.coreTest ∧ (coreAt s 4).node = none ∧ (0 : Nat) < Config.cores ∧ 0 ∉ s.sched.coreParity ∧ 0 ∉ s.sched.coreBad ∧
      (coreAt (inNode (withRegs 0 0 0)) 0).node = some 1 ∧ 0 ∉ (inNode (withRegs 0 0 0)).sched.coreBad := by decide +kernel

end Sys2Proof.Tests
end

section
/-! SUPPORT. The canonical form as an invariant (R3, R187, R239, R411), part 1: what it means for an answer of the model to be in
canonical form, and the controllers' rows and reads. Each lemma says of one function of the model that it keeps the form; the
four memories and the table of cores change only through the writes of Laws/Canon.lean. -/

namespace Sys2Proof.Machine
open Sys2Proof

/-! ### Answers that hold states -/

/-- Whatever value an option holds satisfies `P`. -/
structure Each {α : Type} (P : α → Prop) (o : Option α) : Prop where
  of_eq : ∀ {a}, o = some a → P a

namespace Each
variable {α β : Type} {P : α → Prop} {Q : β → Prop}

theorem none : Each P none := ⟨fun h => by cases h⟩
theorem some {a : α} (h : P a) : Each P (some a) := ⟨fun e => by cases e; exact h⟩
theorem ite {c : Prop} [Decidable c] {a b : Option α} (ha : Each P a) (hb : Each P b) : Each P (if c then a else b) := by
  split <;> assumption
theorem bind {o : Option β} {f : β → Option α} (ho : Each Q o) (hf : ∀ b, Q b → Each P (f b)) : Each P (o.bind f) := by
  cases o with
  | none => exact none
  | some b => exact hf b (ho.of_eq rfl)
/-- A bind over an option about which nothing is known. -/
theorem bind_any {o : Option β} {f : β → Option α} (hf : ∀ b, Each P (f b)) : Each P (o.bind f) :=
  bind (Q := fun _ => True) ⟨fun _ => trivial⟩ (fun b _ => hf b)
theorem map {o : Option β} {f : β → α} (ho : Each Q o) (hf : ∀ b, Q b → P (f b)) : Each P (o.map f) := by
  cases o with
  | none => exact none
  | some b => exact some (hf b (ho.of_eq rfl))
/-- A map over an option about which nothing is known. -/
theorem map_any {o : Option β} {f : β → α} (hf : ∀ b, P (f b)) : Each P (o.map f) :=
  map (Q := fun _ => True) ⟨fun _ => trivial⟩ (fun b _ => hf b)
theorem getD {o : Option α} {a : α} (ho : Each P o) (ha : P a) : P (o.getD a) := by
  cases o with
  | none => exact ha
  | some b => exact ho.of_eq rfl
theorem findSome? {f : β → Option α} {l : List β} (hf : ∀ b, Each P (f b)) : Each P (l.findSome? f) := by
  refine ⟨fun ha => ?_⟩
  obtain ⟨b, -, hb⟩ := List.exists_of_findSome?_eq_some ha
  exact (hf b).of_eq hb
/-- A fold that may fail keeps what each of its steps keeps. -/
theorem foldl {f : Option α → β → Option α} (hf : ∀ o b, Each P o → Each P (f o b)) (l : List β) {o : Option α} (ho : Each P o) :
    Each P (l.foldl f o) := by
  induction l generalizing o with
  | nil => exact ho
  | cons b t ih => exact ih (hf o b ho)
end Each

/-- What a gate waits with is in canonical form. -/
def Gate.good : Gate → Prop
  | .go => True
  | .wait t => Good t

theorem Gate.good.of_wait {g : Gate} {t : State} (hg : g.good) (e : g = .wait t) : Good t := by
  subst e; exact hg

/-- The state of an outcome is in canonical form. -/
def outGood : Out → Prop
  | .next t => Good t
  | _ => True

/-- The state in which a bundle opens, or stops, is in canonical form. -/
def Opened.good : Opened → Prop
  | .stop t => Good t
  | .run t _ => Good t

theorem Good.ite {c : Prop} [Decidable c] {s t : State} (hs : Good s) (ht : Good t) : Good (if c then s else t) := by
  split <;> assumption
theorem Gate.good_ite {c : Prop} [Decidable c] {a b : Gate} (ha : a.good) (hb : b.good) : (if c then a else b).good := by
  split <;> assumption

/-- Bytes taken away, and others written over what is left. -/
theorem wf_filter {m : Bytes} (hm : Memory.wf m = true) (p : Nat × Byte → Bool) : Memory.wf (m.filter p) = true := canon_filter p hm
theorem wf_refill {m : Bytes} (hm : Memory.wf m = true) (p : Nat × Byte → Bool) (es : List (Nat × Byte)) :
    Memory.wf (mputs 0 (m.filter p) es) = true := canon_mputs (canon_filter p hm) es

variable {s : State} (h : Good s)
include h

/-! ### The memories and the table of cores, one by one -/

theorem Good.wf_slices : Memory.wf s.slices = true := h.1
theorem Good.wf_ists : Memory.wf s.ists = true := h.2.1
theorem Good.wf_mem : Memory.wf s.dram.mem = true := h.2.2.1
theorem Good.wf_sys : Memory.wf s.host.sys = true := h.2.2.2.1
theorem Good.canon_cores : canon Core.idle s.cores = true := h.2.2.2.2

theorem Good.withSlices {m : Bytes} (hm : Memory.wf m = true) (p : SMap Bool) : Good { s with slices := m, spoi := p } := ⟨hm, h.2⟩
theorem Good.withIsts {m : Bytes} (hm : Memory.wf m = true) : Good { s with ists := m } := ⟨h.wf_slices, hm, h.2.2⟩
/-- Bytes of an instruction store, its publish state aside. -/
theorem Good.putIst (a : Nat) (bs : List Byte) : Good { s with ists := putBytes s.ists a bs } := h.withIsts (wf_putBytes h.wf_ists ..)
/-- Every listed core through `f` (R89). -/
theorem Good.mapCores (f : Nat → Core → Core) (cl : SMap Cluster) :
    Good { s with cores := mmap Core.idle s.cores f, clusters := cl } :=
  ⟨h.wf_slices, h.wf_ists, h.wf_mem, h.wf_sys, canon_mmap f h.canon_cores⟩
theorem Good.setBooking (b : Nat) (f : Booking → Booking) : Good (setBooking s b f) := h.onSched _
theorem Good.setReq (id : Nat) (f : FabReq → FabReq) : Good (setReq s id f) := h.onFab _

/-! ### Logs and interrupts -/

theorem Good.raiseVec (v : Nat) : Good (raiseVec s v) := h.onHostMeta _ rfl
theorem Good.raiseRas : Good (raiseRas s) := .ite (h.raiseVec _) h
theorem Good.onVec (b : Bool) (v : Nat) : Good (onVec s b v) := .ite (h.raiseVec v) h
theorem Good.stewardLog (n code info pc : Nat) (a : At) : Good (stewardLog s n code info pc a) :=
  .ite (((h.setSteward _ _).setSteward _ _).onHostMeta _ rfl).raiseRas (h.setSteward _ _)
theorem Good.rasLog (code unit num : Nat) : Good (rasLog s code unit num) := (h.onSched _).raiseRas
theorem Good.haltSteward (n cause info : Nat) (a : At) : Good (haltSteward s n cause info a) := (h.stewardLog ..).setSteward _ _

/-! ### Rows of the banks (R288-R294) -/

theorem Good.onBank (b : Nat) (f : Bank → Bank) : Good (onBank s b f) := h.onDramMeta _ rfl
theorem Good.activate (b row : Nat) (st : RowState) : Good (activate s b row st) := h.onBank _ _
theorem Good.guardRow (b row code : Nat) : Good (guardRow s b row code) := (h.onBank _ _).stewardLog ..
theorem Good.preCheck (b row : Nat) : Good (preCheck s b row) :=
  .ite (h.guardRow ..) (.ite (.ite (h.onBank _ _) (h.guardRow ..)) h)
theorem Good.precharge (b row : Nat) : Good (precharge s b row) := (h.preCheck b row).onBank _ _

theorem Good.openRow (b row : Nat) (st : RowState) : Each Good (openRow s b row st) := by
  unfold Machine.openRow
  extract_lets act
  have hact : ∀ t, Good t → Each Good (act t) := fun t ht => .ite (.some (ht.activate ..)) .none
  split
  · exact .none
  · exact .ite (.some (h.onBank _ _)) (hact _ (h.precharge ..))
  · exact .ite (.some (h.onBank _ _)) (hact _ (h.precharge ..))
  · exact hact s h

theorem Good.hostOpen (g : Nat) : Each Good (hostOpen s g) := .ite .none (h.openRow ..)
theorem Good.hostRead (age g : Nat) : Each Good (hostRead s age g) := .ite .none (h.hostOpen g)

omit h in
theorem Good.openNext (age g : Nat) {o : Option (State × List Nat)} (ho : Each (fun e => Good e.1) o) :
    Each (fun e => Good e.1) (openNext age o g) := by
  refine ho.bind (fun e he => ?_)
  split
  · next t ht => exact .some ((he.hostRead age g).of_eq ht)
  · refine .bind_any (fun b => ?_)
    split
    · exact ((he.precharge ..).hostRead age g).map (fun _ ht => ht)
    · exact .none

theorem Good.openRowsOf (age : Nat) (atoms : List Nat) : Each Good (openRowsOf age s atoms) :=
  (Each.foldl (fun _ g ho => Good.openNext age g ho) _ (.some (a := (s, [])) h)).map (fun _ ht => ht)
theorem Good.openAged (age : Nat) (node : Option Nat) (ps : List Piece) : Each Good (openAged age s node ps) := h.openRowsOf ..
theorem Good.gateAged (age : Nat) (node : Option Nat) (ps : List Piece) : Each Good (gateAged age s node ps) :=
  .ite .none (h.openAged ..)
theorem Good.readGate (node : Option Nat) (ps : List Piece) : Each Good (readGate s node ps) := h.gateAged ..
theorem Good.newGate (node : Option Nat) (ps : List Piece) : Each Good (newGate s node ps) := .ite .none (h.readGate ..)
theorem Good.hostOpenAll (node : Option Nat) (ps : List Piece) : Each Good (hostOpenAll s node ps) := h.openAged ..
theorem Good.rawOpen (pa len : Nat) : Each Good (rawOpen s pa len) := h.openRowsOf ..

/-! ### What a write waits for (R278, R296, R393-R396, R404) -/

theorem Good.awaitGranule (id gran : Nat) (held : Bool) : Good (awaitGranule s id gran held) := h.onSched _
theorem Good.noteAhead (pa : Nat) : Good (noteAhead s pa) := h.onSched _

/-- A block asked to be revived. -/
theorem Good.askRevival (b : Nat) :
    Good (Machine.onDram s (fun d => if d.reviving.contains b then d else { d with reviving := d.reviving ++ [b] })) :=
  h.onDramMeta _ (by split <;> rfl)

theorem Good.shadowGate (id gran : Nat) : (shadowGate s id gran).good := by
  unfold Machine.shadowGate
  dsimp only
  split
  · exact Gate.good_ite (Gate.good_ite trivial h) (h.awaitGranule ..)
  · split
    · exact h.awaitGranule ..
    · exact Gate.good_ite (h.awaitGranule ..) (h.onSched _)

theorem Good.writeGate (node : Option Nat) (sh : Bool) (p : Place) : (writeGate s node sh p).good := by
  cases p with
  | dmem pa =>
    unfold Machine.writeGate
    dsimp -zeta only
    extract_lets g
    have hg : g.good := by
      unfold g
      split
      · exact h.shadowGate ..
      · exact Gate.good_ite h trivial
    cases hgo : g with
    | wait t => rw [hgo] at hg; exact hg
    | go =>
      refine Gate.good_ite h (Gate.good_ite (h.noteAhead _) (Gate.good_ite (.ite (h.noteAhead _) h) ?_))
      split
      · exact h.askRevival _
      · trivial
  | _ => trivial

theorem Good.writeGates (node : Option Nat) (sh : Bool) (ps : List Piece) : (writeGates s node sh ps).good := by
  induction ps with
  | nil => trivial
  | cons p t ih =>
    refine Gate.good_ite h ?_
    split
    · next e => exact (h.writeGate ..).of_wait e
    · exact ih

theorem Good.storeGate (b row : Nat) : (storeGate s b row).good :=
  Gate.good_ite (h.askRevival _) (Gate.good_ite h trivial)

end Sys2Proof.Machine
end

section
/-! SUPPORT. The canonical form as an invariant, part 2: bundles of the cores (R54, R74, R95, R381) and of the Stewards (R77, R304),
and the outcomes of their instructions and of the events. -/

namespace Sys2Proof.Machine
open Sys2Proof

variable {s : State} (h : Good s)
include h

/-! ### Traps and waits of a core -/

theorem Good.barArrive (id gang cl : Nat) (arr : Nat → BitVec 8) : Good (barArrive s id gang cl arr) := h.setCluster _ _

theorem Good.gbarArrive (c j : Nat) : Good (gbarArrive s c j) := by
  unfold Machine.gbarArrive
  dsimp only
  split
  · exact h.barArrive ..
  · exact h

theorem Good.dropEarly (c : Nat) : Good (dropEarly s c) := .ite h ((h.onCore _ _).onFab _)

theorem Good.stopNode (c cause : Nat) : Good (stopNode s c cause) := by
  unfold Machine.stopNode
  split
  · exact h.onCore _ _
  · exact h.onNode _ _

theorem Good.takeTrap (c cause : Nat) (epc : BitVec 48) (tr : Word) : Good (takeTrap s c cause epc tr) :=
  have he := h.dropEarly c
  .ite (h.setCore _ _) (.ite ((he.setCore _ _).stopNode ..) (.ite ((he.setCore _ _).stopNode ..) (he.setCore _ _)))

/-- What opening a bundle on core `k` answers (R108, R198, R248, R349, R381). -/
theorem Good.openOn (k : Core) : (openOn s k).good := by
  unfold Machine.openOn
  split
  · exact h
  · split
    · exact h.setCore _ _
    · split
      · exact .ite (h.setCore _ _) ((h.setCore _ _).gbarArrive ..)
      · split
        · split <;> exact h.setCore _ _
        · exact h.setCore _ _
    · split
      · exact .ite ((h.setCore _ _).takeTrap ..) (h.setCore _ _)
      · split
        · exact h.setCore _ _
        · split <;> exact h.setCore _ _

theorem Good.openBundle : (openBundle s).good := h.openOn _

theorem Good.askWalk (c : Nat) (eng : Option Nat) (va : Nat) : Good (askWalk s c eng va) := h.setCluster _ _
theorem Good.stallBundle (c : Nat) (va : List Nat) : Good (stallBundle s c va) :=
  Good.foldl _ (fun _ _ h => h.askWalk ..) _ (h.onCore _ _)

/-! ### The writes of a bundle that commits (R54, R243) -/

theorem Good.setEvent (node : Option Nat) (n bit : Nat) : Good (setEvent s node n bit) := by
  unfold Machine.setEvent
  split
  · exact h.onCore _ _
  · exact h

theorem Good.doLate (c : Nat) (col : BitVec 3) (l : Late) : Good (doLate s c col l) := by
  cases l with
  | own p bs nib => exact h.writePlace ..
  | porter j => exact h.setCluster _ _
  | fabric r => exact h.onFab _
  | gbar j =>
    unfold Machine.doLate
    dsimp only
    split
    · exact .ite (h.setCore _ _) ((h.setCore _ _).gbarArrive ..)
    · exact h
  | cpubX j =>
    unfold Machine.doLate
    dsimp only
    split
    · exact Good.foldl _ (fun _ _ h => h.setLine ..) _ (h.onCore _ _)
    · exact h.onCore _ _
  | cpubW j => exact h.onCore _ _
  | ev n => exact h.setEvent ..
  | touch ps => exact (h.readGate ..).getD h

theorem Good.issueEarly (f : Frame) (p : Park) : Good (issueEarly s f p) := by
  refine .ite h (Good.foldl _ (fun t a ht => ?_) _ (h.onCore _ _))
  split
  · exact ht.doLate ..
  · split
    · exact ht.doLate ..
    · exact ht
  · exact ht

theorem Good.commit (c : Nat) (f : Frame) (k : Core) : Good (commit s c f k) := by
  have hl := Good.foldl _ (fun _ l h => h.doLate c (hdrColour f.hdr) l) f.late (h.setCore c (committed f k))
  unfold Machine.commit
  dsimp only
  split
  · exact .ite (hl.onNode _ _) hl
  · exact hl

theorem Good.finishBundle (f : Frame) (k : Core) : Good (finishBundle s f k) := by
  unfold Machine.finishBundle
  dsimp only
  split
  · exact h.takeTrap ..
  · split
    · exact (h.onCore _ _).takeTrap ..
    · split
      · exact (h.onCore _ _).stopNode ..
      · split
        · exact (h.onCore _ _).issueEarly ..
        · exact h.commit ..

omit h in
/-- The state of a redone load is in canonical form. -/
def Redo.good : Redo → Prop
  | .done t _ => Good t
  | _ => True

theorem Good.redo (c : Nat) (l : List DefRec) (k : Core) : (redo c l s k).good := by
  induction l generalizing s k with
  | nil => exact h
  | cons r t ih =>
    unfold Machine.redo
    dsimp only
    split
    · trivial
    · trivial
    · next ps _ =>
      have hg : Each Good (if loadMay c k ps then Machine.newGate s k.node ps else none) := .ite (h.newGate ..) .none
      split
      · trivial
      · next u hu => exact ih (hg.of_eq hu) _

theorem Good.redone (f : Frame) : (redone s f).good := by
  unfold Machine.redone
  dsimp only
  split
  · split
    · exact h.redo ..
    · trivial
  · exact h

theorem Good.closeBundle (f : Frame) : Good (closeBundle s f) := by
  unfold Machine.closeBundle
  dsimp only
  split
  · exact .ite (h.stallBundle ..) (h.takeTrap ..)
  · refine .ite (h.takeTrap ..) (.ite (h.stallBundle ..) ?_)
    have hr := h.redone f
    split
    · exact h.stallBundle ..
    · exact (h.onCore _ _).takeTrap ..
    · next t k e => rw [e] at hr; exact hr.finishBundle ..

theorem Good.closeCore : Good (closeCore s) := by
  unfold Machine.closeCore
  split
  · exact Good.closeBundle (s := { s with frame := none }) h _
  · exact h

/-! ### Stewards -/

theorem Good.startClk (n : Nat) : Good (startClk s n) := .ite h (h.same rfl rfl rfl rfl rfl)

theorem Good.closeSteward (f : SFrame) : Good (closeSteward s f) := by
  have hc := h.startClk f.n
  unfold Machine.closeSteward
  dsimp only
  refine .ite (hc.setSteward _ _) (.ite (hc.setSteward _ _) ?_)
  split
  · exact hc.haltSteward ..
  · split
    · exact .ite (hc.setSteward _ _) ((hc.setSteward _ _).stewardLog ..)
    · exact hc.setSteward _ _

theorem Good.closeStewardFrame : Good (closeStewardFrame s) := by
  unfold Machine.closeStewardFrame
  split
  · exact Good.closeSteward (s := { s with sframe := none }) h _
  · exact h

/-! ### Outcomes -/

omit h in
theorem outGood_ite {c : Prop} [Decidable c] {a b : Out} (ha : outGood a) (hb : outGood b) : outGood (if c then a else b) := by
  split <;> assumption

/-- Every instruction of a slot, whatever it does to its frame (R54). -/
theorem Good.runSlot (i : Instr) (g : State → Frame → Frame) : outGood (runSlot i g s) := by
  refine outGood_ite trivial ?_
  have ho := h.openBundle
  split
  · exact h
  · split
    · next e => rw [e] at ho; exact ho
    · next e => rw [e] at ho; exact ho.closeBundle _

theorem Good.runCore (i : Instr) (g : Frame → Frame) : outGood (runCore i g s) := h.runSlot ..

theorem Good.execIllegalOpcode (slots : BitVec 6) : outGood (execIllegalOpcode slots s) := by
  refine outGood_ite trivial ?_
  have ho := h.openBundle
  split
  · exact h
  · split
    · next e => rw [e] at ho; exact ho
    · next e => rw [e] at ho; exact ho.closeBundle _

/-- Every move of a Steward, whatever it does to its frame (R304). -/
theorem Good.runMove (x : MV) (eff : Word → SFrame → SFrame) : outGood (runMove x eff s) := by
  refine outGood_ite trivial ?_
  split
  · exact h
  · split
    · exact h
    · exact h.closeSteward _

omit h in
theorem Good.event {t : State} (ht : Good t) (name : String) (ok : Bool) : outGood (event name ok s t) :=
  outGood_ite trivial (outGood_ite ht trivial)

theorem Good.eventO (name : String) {o : Option State} (ho : Each Good o) : outGood (eventO name s o) :=
  (ho.getD h).event name _

end Sys2Proof.Machine
end

section
/-! SUPPORT. The canonical form as an invariant, part 3: the operations of the Stewards and their bank engines (R309-R322), and the
controllers' leases, errors, tests and spare dies (R287-R299, R398-R400). -/

namespace Sys2Proof.Machine
open Sys2Proof

variable {s : State} (h : Good s)
include h

/-! ### Bank engines (R314-R320) -/

theorem Good.endWait (n : Nat) (ok : Bool) : Good (endWait s n ok) := h.setSteward _ _
theorem Good.onEng (n e : Nat) (f : Engine → Engine) : Good (onEng s n e f) := h.setSteward _ _
theorem Good.setStat (n : Nat) (b : BitVec 8) : Good (setStat s n b) := h.setSteward _ _
theorem Good.engFlags (n e : Nat) (fl : Fl) : Good (engFlags s n e fl) := h.setSteward _ _

theorem Good.taint (n : Nat) (a : At) : Good (taint s n a) :=
  .ite (h.setSteward _ _) (((h.setSteward _ _).stewardLog ..).setSteward _ _)

theorem Good.ldCol (n e b row : Nat) (o : EngOp) (k : Nat) : Good (ldCol s n e b row o k) := by
  unfold Machine.ldCol
  dsimp only
  split
  · exact h.onEng ..
  · exact h

/-- A write to a leased row is banked at once (R311). -/
theorem Good.rowWrite (n pa : Nat) (bs : List Byte) (carry : Bool) : Good (rowWrite s n pa bs carry) :=
  (h.acceptAtom ..).bankEntry _

theorem Good.stCol (n e b row : Nat) (o : EngOp) (k : Nat) : Good (stCol s n e b row o k) :=
  Good.foldl _ (fun _ _ h => h.rowWrite ..) _ h

theorem Good.bkeRed (n e : Nat) (o : EngOp) : Good (bkeRed s n e o) := by
  unfold Machine.bkeRed
  dsimp only
  exact .ite ((Good.ite ((h.onEng ..).setStat ..) (h.onEng ..)).engFlags ..)
    (((Good.ite ((h.onEng ..).setStat ..) (h.onEng ..)).onEng ..).engFlags ..)

theorem Good.bkeClr (n e : Nat) (o : EngOp) : Good (bkeClr s n e o) := h.onEng ..
theorem Good.deqCol (n e : Nat) (o : EngOp) : Good (deqCol s n e o) := (h.onEng ..).engFlags ..
theorem Good.accRd (n e : Nat) (o : EngOp) : Good (accRd s n e o) :=
  .ite ((h.setSteward _ _).taint ..) (h.setSteward _ _)

theorem Good.mvGroup (n e b row : Nat) (o : EngOp) (j : Nat) : Good (mvGroup s n e b row o j) :=
  have he := h.onEng n e _
  .ite he (.ite (he.setStat ..) (((he.setStat ..).stewardLog ..).onEng ..))

theorem Good.runUnits (n e b row : Nat) (o : EngOp) (k m : Nat) : Good (runUnits s n e b row o k m) :=
  Good.foldl _ (fun _ _ h => .ite (h.ldCol ..) (.ite (h.stCol ..) (.ite (h.bkeRed ..) (.ite (h.bkeClr ..)
    (.ite (h.deqCol ..) (.ite (h.accRd ..) (h.mvGroup ..))))))) _ h

/-! ### Errors of the array (R291) -/

theorem Good.corrected (g : Nat) : Good (corrected s g) := h.onDramMeta _ rfl
theorem Good.uncorrectable (g : Nat) (bits : BitVec 256) : Good (uncorrectable s g bits) :=
  ((h.onDram _ (wf_putBytes h.wf_mem ..)).onDramMeta _ rfl).rasLog ..

theorem Good.cellFault (e : Option CellFault) : Good (cellFault s e) := by
  unfold Machine.cellFault
  split
  · exact h.corrected _
  · exact h.uncorrectable ..
  · exact h

theorem Good.engineErr (n e b row : Nat) (o : EngOp) (k m : Nat) (err : Option CellFault) :
    Each Good (engineErr s n e b row o k m err) := by
  unfold Machine.engineErr
  dsimp only
  split
  · exact .some h
  · exact .ite (.some (h.cellFault _)) .none
  · exact .ite (.some ((h.cellFault _).stewardLog ..)) .none
  · exact .none

theorem Good.engineRun (n e m : Nat) (err : Option CellFault) : Each Good (engineRun s n e m err) := by
  unfold Machine.engineRun
  dsimp only
  split
  · exact .none
  · next o _ _ =>
    refine .ite .none ?_
    split
    · exact .ite (.some ((h.runUnits ..).onEng ..)) .none
    · split
      · exact .none
      · next l _ =>
        refine .ite .none ?_
        split
        · next e => exact .ite .none (.some ((Gate.good_ite (h.storeGate ..) (Gate.good_ite (a := .wait s) (b := .go) h trivial)).of_wait e))
        · refine (h.engineErr ..).map (fun t ht => ?_)
          have hu := ht.runUnits n e (64 * n + l.bank) l.row o o.prog
          exact ((Good.ite ((hu _).stewardLog ..) (hu _)).setSteward _ _).onEng ..

/-! ### The one-at-a-time units of a Steward (R309, R310, R327) -/

theorem Good.stewardRead (n pa : Nat) : Good (stewardRead s n pa).2 :=
  have hl : Good (if live s.dram (atomOf s (redirect s none pa)) then s else _) := .ite h (h.stewardLog n 0x66 0 0 _)
  .ite (hl.taint ..) hl

theorem Good.lsuEnd (n : Nat) : Each Good (lsuEnd s n) := by
  unfold Machine.lsuEnd
  dsimp only
  split
  · exact .none
  · next o _ =>
    refine .ite .none ?_
    split
    · exact .none
    · exact .ite (.some (h.setSteward _ _)) (.some (h.setSteward _ _))
    · next pa _ =>
      refine .ite .none (.ite (.ite (.ite .none ?_) (.ite .none (.some ((h.stewardRead n pa).setSteward _ _)))) (.ite ?_ ?_))
      · split
        · exact .ite .none (.some (h.onDramMeta _ rfl))
        · exact .some ((h.rowWrite ..).setSteward _ _)
      · split
        · next e => exact .some ((h.writeGates ..).of_wait e)
        · exact (h.hostOpenAll ..).map (fun _ ht => (ht.writePlace ..).setSteward _ _)
      · exact (h.newGate ..).map (fun _ ht => (ht.stewardRead n pa).setSteward _ _)

theorem Good.sigEnd (n : Nat) : Each Good (sigEnd s n) := by
  unfold Machine.sigEnd
  dsimp only
  split
  · split
    · next pa _ =>
      refine .ite .none ?_
      split
      · next e => exact .some ((h.writeGates ..).of_wait e)
      · exact (h.newGate ..).map (fun _ ht => ((ht.stewardRead n pa).writePlace ..).setSteward _ _)
    · exact .none
  · exact .none

theorem Good.logEnd (n : Nat) : Each Good (logEnd s n) :=
  .map_any (fun _ => h.setSteward _ _)

/-! ### Leases and arbitration (R288, R289, R311, R312) -/

theorem Good.bankRow (b row : Nat) : Good (bankRow s b row) :=
  Good.foldl _ (fun _ _ h => by split; exacts [h.bankEntry _, h]) _ h

theorem Good.grantLease (n rq : Nat) : Each Good (grantLease s n rq) := by
  unfold Machine.grantLease
  split
  · exact .none
  · exact (h.openRow ..).map (fun _ ht => (ht.bankRow ..).setSteward _ _)

theorem Good.leaseGranted (n rq : Nat) : Each Good (leaseGranted s n rq) := by
  unfold Machine.leaseGranted
  split
  · exact .none
  · exact .ite (h.grantLease ..) .none

theorem Good.endLease (n rq : Nat) : Good (endLease s n rq) := by
  unfold Machine.endLease
  split
  · exact h
  · exact .ite ((h.setSteward _ _).onBank ..) (h.setSteward _ _)

theorem Good.serveWrite (b : Nat) : Each Good (serveWrite s b) := by
  unfold Machine.serveWrite
  split
  · exact .none
  · split
    · exact (h.hostOpen _).map (fun _ ht => ht.bankEntry _)
    · exact .none

theorem Good.arbitrate (b : Nat) : Each Good (arbitrate s b) := by
  unfold Machine.arbitrate
  extract_lets lease
  have hl : Each Good lease := .bind_any (fun _ => .ite (h.grantLease ..) .none)
  refine .ite .none (.ite (.ite (h.serveWrite b) .none) (.ite hl (.ite (h.serveWrite b) (.ite .none ?_))))
  split
  · next t _ e => exact .some (hl.of_eq e)
  · exact .some (h.precharge ..)
  · exact .none

/-! ### Bank tests, parking and spare dies (R298, R399) -/

theorem Good.reread (b : Nat) (decoded : List Nat) : Good (reread s b decoded) :=
  (Good.foldl _ (fun _ _ h => .ite (h.onDram _ (wf_putBytes h.wf_mem ..)) h) _ h).onBank ..

omit h in
theorem wf_moveAtoms {d : Dram} (hd : Memory.wf d.mem = true) (hit gone : Nat → Bool) (f : Nat → Nat) :
    Memory.wf (moveAtoms d hit gone f).mem = true := wf_refill hd ..

theorem Good.parkCopy (b park : Nat) (back : Bool) : Good (parkCopy s b park back) := by
  refine h.bankAll.onDram _ ?_
  split <;> exact wf_moveAtoms h.bankAll.wf_mem ..

theorem Good.closeBank (b : Nat) : Good (closeBank s b) := by
  unfold Machine.closeBank
  split
  · exact h.precharge ..
  · exact h.precharge ..
  · exact h

theorem Good.testEnded (k : TestKey) : Good (testEnded s k) := h.onSched _
theorem Good.holdCore (c : Nat) : Good (holdCore s c) := h.onSched _

theorem Good.lasting (b : Nat) : Good (lasting s b).1 := by
  unfold Machine.lasting
  dsimp only
  split
  · exact (h.onDramMeta _ rfl).rasLog ..
  · exact h.rasLog ..

end Sys2Proof.Machine
end

section
/-! SUPPORT. The canonical form as an invariant, part 4: what memory answers and performs for the cores (R193-R201, R241-R244), the
Porters (R205-R208), publication (R264-R269), instruction fetch and table walks (R265, R282). -/

namespace Sys2Proof.Machine
open Sys2Proof

variable {s : State} (h : Good s)
include h

/-! ### Loads, atomics and stores of the cores -/

theorem Good.readNext (c id : Nat) (ps : List Piece) (d : LateDst) (got : List Byte) (poi : Bool)
    (fin : List Byte → Bool → Core → Core) : Each Good (readNext s c id ps d got poi fin) := by
  unfold Machine.readNext
  split
  · exact .some (h.onCore _ _)
  · exact (h.gateAged ..).map (fun _ ht => ht.onCore _ _)

theorem Good.arrivalData (c id : Nat) (kind : ExpKind) : Each Good (arrivalData s c id kind) := by
  unfold Machine.arrivalData
  dsimp only
  split
  · exact .ite (h.readNext ..) .none
  · exact .none

theorem Good.performAtom (w : Writer) (node : Option Nat) (k : AtomKind) (t : ETy) (p : Piece) (x y : Nat) :
    Good (performAtom s w node k t p x y).2.2 := by
  unfold Machine.performAtom
  dsimp only
  split
  · exact h.writePlace ..
  · exact h

theorem Good.respondAtom (c : Nat) (e : MemEnt) (a : AtomKind) (ty : ETy) (p : Piece) (x y : Nat) (d : LateDst) (ev : Option Nat) :
    Each Good (respondAtom s c e a ty p x y d ev) := by
  unfold Machine.respondAtom
  dsimp only
  split
  · exact .none
  · next t ht =>
    have hg : Good t := (h.gateAged ..).of_eq ht
    split
    · next e => exact .some ((hg.writeGate ..).of_wait e)
    · have ha := fun f => (hg.performAtom (.core c e.id e.colour) (coreAt s c).node a ty p x y).onCore c f
      refine .some ?_
      split
      · exact Good.setEvent (.ite ((ha _).settle ..) ((ha _).dropMem ..)) ..
      · exact .ite ((ha _).settle ..) ((ha _).dropMem ..)

theorem Good.performLaunch (c q : Nat) (handler : Bool) (desc : List Byte) : Good (performLaunch s c q handler desc).2 := by
  unfold Machine.performLaunch
  dsimp only
  split
  · exact h
  · exact (h.writePlace ..).setQueue _ _

theorem Good.ctxLoad (ctx : BitVec 16) : Good (ctxLoad s ctx) := .ite h (h.onSched _)
theorem Good.clearDirty (n : Nat) : Good (clearDirty s n) := .ite h ((h.reviveRange ..).acceptByte ..)
theorem Good.emptyFilters : Good (emptyFilters s) := h.same rfl rfl rfl rfl rfl

theorem Good.takeCut (ctx : BitVec 16) (d : List Byte) : Good (takeCut s ctx d) :=
  (Good.emptyFilters (Good.foldl _ (fun _ _ h => by split; exacts [h.clearDirty _, h]) _ h)).onSched _

theorem Good.performCkpt (c : Nat) (d : List Byte) : Good (performCkpt s c d).2 := by
  unfold Machine.performCkpt
  split
  · exact h
  · split
    · exact h
    · exact h.takeCut ..

theorem Good.respond (c id : Nat) : Each Good (respond s c id) := by
  unfold Machine.respond
  dsimp only
  split
  · exact .none
  · refine .ite .none ?_
    split
    · exact h.readNext ..
    · exact h.respondAtom ..
    · split
      · next e => exact .ite .none (.some ((Gate.good_ite (a := .go) trivial (h.writeGate ..)).of_wait e))
      · exact .some (((h.performLaunch ..).onCore _ _).dropMem ..)
    · have hl := h.ctxLoad (coreAt s c).csr.ctxid
      exact (Each.ite (.some hl) (hl.newGate ..)).map (fun _ ht => ((ht.performCkpt ..).onCore _ _).dropMem ..)
    · exact .none

theorem Good.combine (w : Writer) (ha : Nat) (bs : List Byte) (col : BitVec 3) : Good (combine s w ha bs col) :=
  h.onHostMeta _ (by split <;> rfl)

theorem Good.performStore (w : Writer) (node : Option Nat) (col : BitVec 3) (p : Piece) (bs : List Byte) (nib carry : Bool) :
    Good (performStore s w node col p bs nib carry) := by
  unfold Machine.performStore
  split
  · exact (h.flushFor ..).combine ..
  · exact h.writePlace ..

theorem Good.storePerform (c id : Nat) : Each Good (storePerform s c id) := by
  refine .bind_any (fun e => ?_)
  split
  · refine .ite .none ?_
    split
    · next e => exact .ite .none (.some ((h.writeGate ..).of_wait e))
    · exact .some ((h.performStore ..).settle ..)
  · exact .ite (.some ((h.writePlace ..).settle ..)) .none
  · exact .none

theorem Good.queueBank (i : Nat) : Each Good (queueBank s i) :=
  .bind_any (fun _ => .ite ((h.hostOpen _).map (fun _ ht => ht.bankEntry _)) .none)
theorem Good.bufferOut (port i : Nat) : Each Good (bufferOut s port i) := .bind_any (fun _ => .ite (.some (h.emitBuf i)) .none)

/-! ### Porters -/

theorem Good.setJob (cl i : Nat) (f : PJob → PJob) : Good (setJob s cl i f) := h.setCluster _ _
theorem Good.porterStart (cl i : Nat) : Each Good (porterStart s cl i) := .bind_any (fun _ => .ite .none (.some (h.setJob ..)))

theorem Good.porterArrive (j : PJob) : Good (porterArrive s j).2 := by
  unfold Machine.porterArrive
  dsimp only
  split
  · exact h
  · split
    · split
      · exact h
      · exact h.writePlace ..
    · exact h

theorem Good.writeToken (c reg bit : Nat) (w : Word) : Good (writeToken s c reg bit w) := h.onCore _ _

theorem Good.porterEnd (cl i : Nat) : Each Good (porterEnd s cl i) := by
  refine .bind_any (fun j => .ite .none (.some (Good.writeToken (Good.setCluster ?_ _ _) ..)))
  split
  · exact h.porterArrive j
  · exact h

theorem Good.endWaits (node : Option Nat) (ps : List Piece) : Good (endWaits s node ps) := h.onSched _
theorem Good.engTold (c j : Nat) : Good (engTold s c j) := h.onCore _ _

theorem Good.engWalk (c j va : Nat) : Each Good (engWalk s c j va) := .ite .none (.some (h.askWalk ..))

theorem Good.porterRun (cl i : Nat) : Each Good (porterRun s cl i) := by
  refine .bind_any (fun j => .ite .none ?_)
  split
  · exact h.engWalk ..
  · exact .some ((h.engTold ..).setJob ..)
  · split
    · exact .none
    · next t ht =>
      have hg : Good t := (h.newGate ..).of_eq ht
      extract_lets cells
      split
      · exact h.engWalk ..
      · split
        · next e => exact .some ((hg.writeGates ..).of_wait e)
        · exact .some (Good.setJob (Good.putAll _ _ _ _ (.ite (hg.engTold ..) hg)) ..)

/-! ### Waits of the cores (R108, R204, R348) -/

theorem Good.endPark (c : Nat) (p : Park) (ok : Bool) (v : Nat) : Good (endPark s c p ok v) := h.onCore _ _
theorem Good.waitWord (c va : Nat) (pl : Place) : Each (fun e => Good e.2.2) (waitWord s c va pl) :=
  (h.newGate ..).map (fun _ ht => ht)

/-! ### Publication -/

theorem Good.dropLines (c : Nat) (j : Cpub) : Good (dropLines s c j) := h.mapCores _ _
theorem Good.refreshTlbs (leaf : Word) (level : Nat) (x : Bool) : Good (refreshTlbs s leaf level x) :=
  (h.mapCores _ _).onFab _

theorem Good.setPage (c : Nat) (j : Cpub) (x : Bool) : Good (setPage s c j x) := by
  unfold Machine.setPage
  dsimp only
  split
  · exact h
  · exact ((h.reviveRange ..).writePlace ..).refreshTlbs ..

theorem Good.cpubEnd (c : Nat) (j : Cpub) : Good (cpubEnd s c j) := by
  have hd := h.dropLines c j
  have hw : Good (if j.gone.isEmpty then Machine.setPage (Machine.dropLines s c j) c j true else Machine.dropLines s c j) :=
    .ite (hd.setPage ..) hd
  exact Good.onCore (.ite (hw.onDramMeta _ rfl) (((hd.setPage ..).onDramMeta _ rfl).mapCores _ _)) c _

/-! ### Instruction fetch and table walks -/

theorem Good.icacheFill (c : Nat) : Each Good (icacheFill s c) := by
  refine .bind_any (fun va => ?_)
  split
  · exact .some (h.setCore _ _)
  · exact .some (h.stallBundle ..)
  · exact .none
  · refine (h.newGate ..).map (fun t ht => ?_)
    split
    · exact ht.setCore _ _
    · exact ht.setCore _ _

theorem Good.walkEnd (cl : Nat) (w : Walk) (r : Except (Nat × Nat) (Nat × Word)) : Good (walkEnd s cl w r) := by
  unfold Machine.walkEnd
  dsimp only
  split
  · exact Good.foldl _ (fun _ _ h => h.onCore _ _) _ ((h.setCluster _ _).setCluster _ _)
  · exact Good.foldl _ (fun _ _ h => h.onCore _ _) _ (Good.foldl _ (fun _ _ h => h.onCore _ _) _ (h.setCluster _ _))

theorem Good.walkNext (cl : Nat) (w : Walk) : Each Good (walkNext s cl w) := by
  unfold Machine.walkNext
  dsimp only
  refine .ite ((h.newGate ..).map (fun _ ht => (ht.ctxLoad _).setCluster _ _)) (.ite (.some (h.walkEnd ..)) (.bind_any (fun lev => ?_)))
  refine (h.newGate ..).map (fun t ht => ?_)
  split
  · exact ht.walkEnd ..
  · exact ht.walkEnd ..
  · exact ht.setCluster _ _

theorem Good.ctxGateOf (ctx : BitVec 16) (va n : Nat) (acc : Acc) : Each Good (ctxGateOf s ctx va n acc) := h.newGate ..
theorem Good.ctxGate (ctx : BitVec 16) (va n : Nat) : Each Good (ctxGate s ctx va n) := h.ctxGateOf ..

end Sys2Proof.Machine
end

section
/-! SUPPORT. The canonical form as an invariant, part 5: the own ingress and the receive buffers (R357-R361), and the matrix engines
with their drains (R214-R229, R367). -/

namespace Sys2Proof.Machine
open Sys2Proof

/-- The state after reading slab rows is in canonical form. -/
def Fetch.good : Fetch → Prop
  | .rows _ t => Good t
  | _ => True

/-- The state after fetching a slab is in canonical form. -/
def SlabRes.good : SlabRes → Prop
  | .ok x => Good x.st
  | _ => True

/-- The gate and the state of a progress record are in canonical form. -/
def progressGood : Except Nat Gate × State → Prop
  | (.ok g, t) => g.good ∧ Good t
  | (.error _, t) => Good t

theorem Fetch.good_ite {c : Prop} [Decidable c] {a b : Fetch} (ha : a.good) (hb : b.good) : (if c then a else b).good := by
  split <;> assumption
theorem Fetch.good.of_rows {r : Fetch} {l : List (List Byte × Bool)} {t : State} (hr : r.good) (e : r = .rows l t) : Good t := by
  subst e; exact hr
theorem SlabRes.good.of_ok {r : SlabRes} {x : Slab} (hr : r.good) (e : r = .ok x) : Good x.st := by
  subst e; exact hr

variable {s : State} (h : Good s)
include h

/-! ### Requests and receive buffers -/

theorem Good.tidyRoutes : Good (tidyRoutes s) := h.onFab _
theorem Good.dropReq (id : Nat) : Good (dropReq s id) := (h.onFab _).tidyRoutes
theorem Good.rxSet (key n : Nat) : Good (rxSet s key n) := h.onFab _
theorem Good.rxLeave (port prio : Nat) (resp : Bool) (n : Nat) : Each Good (rxLeave s port prio resp n) :=
  .ite (.some (h.rxSet ..)) .none
theorem Good.rxArrive (port prio : Nat) (resp : Bool) (n : Nat) : Each Good (rxArrive s port prio resp n) :=
  .ite (.some (h.rxSet ..)) .none
theorem Good.rxTake (prio n : Nat) : Each Good (rxTake s prio n) := .findSome? (fun _ => h.rxLeave ..)

/-! ### The ingress (R359-R361) -/

theorem Good.ingressGate (dev : Nat) (g : Word) (off len right : Nat) : Each Good (ingressGate s dev g off len right) :=
  .ite (.some h) (h.newGate ..)
theorem Good.winLoad (w : Nat) : Good (winLoad s w) := .ite h (h.onFab _)

theorem Good.ingressNote (g : Word) (off len right : Nat) : Good (ingressNote s g off len right) :=
  Good.foldl _ (fun _ _ h => by split; exacts [h.onFab _, h]) _ ((h.winLoad _).ctxLoad _)

/-! ### Slabs -/

theorem Good.dropRows (c j : Nat) : Good (dropRows s c j) := by
  unfold Machine.dropRows
  split
  · exact h.dropReq _
  · exact h

theorem Good.askRows (c : Nat) (o : MxOp) : Good (askRows s c o) := .ite (h.dropRows ..) ((h.dropRows ..).onFab _)

theorem Good.localRows (c j : Nat) (hd : Bool) (align len : Nat) (as : List Word) : (localRows s c j hd align len as).good := by
  induction as generalizing s with
  | nil => exact h
  | cons a t ih =>
    unfold Machine.localRows
    split
    · trivial
    · split
      · trivial
      · trivial
      · split
        · trivial
        · next u hu =>
          have hr := ih ((h.newGate ..).of_eq hu)
          split
          · next e => exact hr.of_rows e
          · exact hr

theorem Good.grantRows (c j base dev : Nat) (g : Word) (align len : Nat) (far : List Byte) (poi : List Bool) (as : List Word) :
    (grantRows s c j base dev g align len far poi as).good := by
  induction as generalizing s with
  | nil => exact h
  | cons a t ih =>
    unfold Machine.grantRows
    dsimp only
    split
    · trivial
    · split
      · split
        · trivial
        · have hr := ih h
          split
          · next e => exact hr.of_rows e
          · exact hr
      · split
        · trivial
        · next v hv =>
          have hg : Good v := (h.ingressGate ..).of_eq hv
          split
          · trivial
          · split
            · trivial
            · next u hu =>
              have hr := ih (Good.ingressNote ((hg.newGate ..).of_eq hu) g (a - BitVec.ofNat 64 (dev * 2 ^ 56)).toNat len 0)
              split
              · next e => exact hr.of_rows e
              · exact hr

theorem Good.operand (c : Nat) (o : MxOp) (g : Nat) (gr base : Word) (t : ETy) (first : Nat) (far : List Byte) (poi : List Bool)
    (as : List Word) : (operand s c o g gr base t first far poi as).good := by
  unfold Machine.operand
  split
  · exact h.localRows ..
  · exact h.grantRows ..

theorem Good.fetchSlab (c : Nat) (o : MxOp) (far : FarOperands) : (fetchSlab s c o far).good := by
  unfold Machine.fetchSlab
  dsimp only
  split
  · trivial
  · trivial
  · trivial
  · next ea =>
    have ha := (h.operand ..).of_rows ea
    split
    · trivial
    · trivial
    · trivial
    · next eb =>
      have hb := (ha.operand ..).of_rows eb
      split
      · trivial
      · trivial
      · trivial
      · next ec =>
        have hc := (Fetch.good_ite (a := .rows [] _) hb (hb.localRows ..)).of_rows ec
        split
        · trivial
        · trivial
        · trivial
        · next ed => exact (Fetch.good_ite (a := .rows [] _) hc (hc.localRows ..)).of_rows ed

/-! ### Jobs and drains -/

theorem Good.setMx (c : Nat) (o : MxOp) (f : MxOp → MxOp) : Good (setMx s c o f) := h.onCore _ _
theorem Good.dropMx (c : Nat) (o : MxOp) : Good (dropMx s c o) := h.onCore _ _

theorem Good.mjobStart (c : Nat) : Each Good (mjobStart s c) :=
  .bind_any (fun _ => .ite .none (.some (Good.askRows (.ite ((h.setMx ..).onCore _ _) (h.setMx ..)) ..)))

theorem Good.slabEnd (c : Nat) (far : FarOperands) : Each Good (slabEnd s c far) := by
  refine .bind_any (fun o => .ite .none ?_)
  split
  · next x e =>
    have hx := (h.fetchSlab ..).of_ok e
    refine (Each.foldl (fun u _ hu => ?_) _ (.some (hx.setCore _ _))).map (fun _ ht => (ht.setMx ..).askRows ..)
    exact hu.bind (fun _ ht => ht.rxTake ..)
  · exact h.engWalk ..
  · exact .none

theorem Good.mjobToken (c : Nat) (o : MxOp) (cause : Option Nat) : Good (mjobToken s c o cause) :=
  (((((h.dropRows ..).engTold ..).dropMx ..).onCore _ _)).writeToken ..

theorem Good.progressWrite (c : Nat) (o : MxOp) (bs : List Byte) : progressGood (progressWrite s c o bs) := by
  unfold Machine.progressWrite
  dsimp only
  split
  · exact ⟨h.askWalk .., h⟩
  · exact h.engTold ..
  · split
    · next e => exact ⟨(h.writeGates ..).of_wait e, h⟩
    · exact ⟨trivial, Good.putAll _ _ _ _ h⟩

theorem Good.mjobFinish (c : Nat) (o : MxOp) (cause : Option Nat) (bs : Option (List Byte)) :
    Each Good (mjobFinish s c o cause bs) := by
  unfold Machine.mjobFinish
  split
  · split
    · exact .some (h.mjobToken ..)
    · next b =>
      refine .ite .none ?_
      have hp := h.progressWrite c o b
      split
      · next e => rw [e] at hp; exact .some (Good.setMx hp ..)
      · next e => rw [e] at hp; exact .some hp.1
      · next e => rw [e] at hp; exact .some (hp.2.setMx ..)
  · exact .ite .none (.some (h.mjobToken ..))

theorem Good.mjobStop (c : Nat) (far : Option Nat) : Each Good (mjobStop s c far) := by
  refine .bind_any (fun o => .ite .none (.ite (h.mjobFinish ..) ?_))
  split
  · exact h.mjobFinish ..
  · split
    · exact .ite ((h.rxTake ..).bind (fun _ ht => ht.mjobFinish ..)) (.ite (h.mjobFinish ..) .none)
    · exact .none
    · dsimp only
      split
      · exact h.mjobFinish ..
      · exact .none

theorem Good.drainRead (c : Nat) : Each Good (drainRead s c) :=
  .bind_any (fun _ => .ite .none (.some ((h.setMx ..).onCore _ _)))
theorem Good.mdrnEnd (c : Nat) : Each Good (mdrnEnd s c) :=
  .bind_any (fun _ => .ite .none (.some (((h.dropMx ..).onCore _ _).writeToken ..)))

theorem Good.drainRow (c : Nat) : Each Good (drainRow s c) := by
  refine .bind_any (fun o => .ite .none ?_)
  dsimp only
  split
  · exact h.engWalk ..
  · exact .some ((h.engTold ..).setMx ..)
  · next ps _ =>
    have hg : Each Good (if dAcc o.card then Machine.newGate s (coreAt s c).node ps else some s) := .ite (h.newGate ..) (.some h)
    split
    · exact .none
    · next t ht =>
      have hn := hg.of_eq ht
      split
      · next e => exact .some ((hn.writeGates ..).of_wait e)
      · refine .some (Good.setMx (Good.onCore (.ite ?_ (Good.writePieces _ _ _ _ _ hn)) c _) c o _)
        exact Good.foldl _ (fun _ _ hu => by split; exacts [hu.writePlace .., hu]) _ hn

end Sys2Proof.Machine
end

section
/-! SUPPORT. The canonical form as an invariant, part 6: the nodes of the scheduler (R330-R351), save areas (R119-R121), shadows
(R391-R396), and checkpoints (R401-R405). -/

namespace Sys2Proof.Machine
open Sys2Proof

variable {s : State} (h : Good s)
include h

/-! ### Ready and ended nodes -/

theorem Good.markReady : Good (markReady s) := h.onSched _
theorem Good.killSteward (k cause : Nat) : Good (killSteward s k cause) := h.setSteward _ _

theorem Good.killNext : Good (killNext s) :=
  have hk : ∀ l : List Nat, Good (l.foldl (fun s k => Machine.killSteward s k 0x98) _) := fun l =>
    Good.foldl _ (fun _ _ h => h.killSteward ..) l (h.onSched _)
  .ite h (.ite h (.ite (h.onSched _) (.ite (hk _) ((hk _).onSched _))))

theorem Good.schedO (name : String) {o : Option State} (ho : Each Good o) : outGood (schedO name s o) :=
  h.eventO name (ho.map (fun _ ht => ht.killNext.markReady))

/-- A block that a device write finds dead comes alive as zeros (R296). -/
theorem Good.reviveNow (p : Place) : Good (reviveNow s p) := by
  unfold Machine.reviveNow
  split
  · exact h.onDram _ (wf_filter h.wf_mem _)
  · exact h

theorem Good.deviceWrite (ps : List Piece) (bs : List Byte) : Good (deviceWrite s ps bs) :=
  Good.writePieces _ _ _ _ _ (Good.foldl _ (fun _ _ h => h.reviveNow _) _ h)
theorem Good.systemFlush (ps : List Piece) : Good (systemFlush s ps) := h.onHostMeta _ rfl

theorem Good.writeRecord (n : Node) (ok : Bool) (cause : Nat) : Good (writeRecord s n ok cause) := by
  refine .ite h ?_
  have hl := ((h.ctxGateOf n.ctx (nDone n) 32 .wr).getD h).ctxLoad n.ctx
  dsimp only
  split
  · exact hl
  · exact (hl.systemFlush _).deviceWrite ..

theorem Good.postEvent (l : Option (Nat × Nat)) (bit : Nat) : Good (postEvent s l bit) := by
  unfold Machine.postEvent
  split
  · exact h
  · split
    · exact h
    · exact .ite (h.onNode _ _) (.ite h (h.setEvent ..))

theorem Good.endOne (n : Node) (ok : Bool) (cause : Nat) : Good (endOne s n ok cause) :=
  have hr := (h.writeRecord n ok cause).onNode n.id _
  Good.onVec (.ite (hr.postEvent ..) hr) ..

theorem Good.endGraph (q graph : Nat) : Good (endGraph s q graph) := by
  unfold Machine.endGraph
  dsimp only
  split
  · exact h
  · exact .ite h (Good.onSched (Good.onVec (.ite (h.postEvent ..) h) ..) _)

theorem Good.endNode (id : Nat) (ok : Bool) (cause : Nat) : Good (endNode s id ok cause) := by
  unfold Machine.endNode
  dsimp only
  split
  · exact h
  · exact ((Good.foldl _ (fun _ _ h => h.endOne ..) _ (h.endOne ..)).endGraph ..).markReady

theorem Good.failRun (id cause : Nat) : Good (failRun s id cause) := by
  unfold Machine.failRun
  dsimp only
  split
  · exact h
  · exact .ite ((h.onSched _).onNode _ _) ((h.onSched _).endNode ..)

theorem Good.markFail (id cause : Nat) (steward : Option Nat) : Good (markFail s id cause steward) := h.onNode _ _

theorem Good.endRun (id : Nat) : Good (endRun s id) := by
  unfold Machine.endRun
  split
  · exact h
  · split
    · exact h.failRun ..
    · exact .ite ((h.onSched _).onNode _ _) ((h.onSched _).endNode ..)

/-! ### Capture and dispatch -/

theorem Good.checkNode (n : Node) (poisoned : Bool) : Each Good (checkNode s n poisoned) := by
  have hf : ∀ {t}, Good t → ∀ x, Each Good (if recordsFree t n.id then some (Machine.endNode t n.id false x) else none) :=
    fun ht _ => .ite (.some (ht.endNode ..)) .none
  refine .ite (hf h _) (.ite (hf h _) ?_)
  split
  · exact hf h _
  · exact .ite (hf (h.onNode _ _) _) (.ite (hf (h.onNode _ _) _) (.some (h.onNode _ _)))

theorem Good.captureNode (q : Nat) : Each Good (captureNode s q) := by
  refine .ite .none (Each.bind (Q := Good) ((h.newGate ..).bind (fun _ ht => .ite (.some ht) (ht.ctxGate ..))) (fun _ ht => ?_))
  exact Good.checkNode (.ite ((ht.setQueue _ _).onSched _) (((ht.setQueue _ _).onSched _).ctxLoad _)) ..

theorem Good.imagesGate (n : Node) : Each Good (imagesGate s n) := by
  have hi : ∀ {t}, Good t → ∀ va len, Each Good (if va = 0 then some t else Machine.ctxGate t n.ctx va len) :=
    fun ht _ _ => .ite (.some ht) (ht.ctxGate ..)
  have hw : ∀ {t}, Good t → ∀ va, Each Good (if va = 0 then some t else Machine.ctxGateOf t n.ctx va 1 .wr) :=
    fun ht _ => .ite (.some ht) (ht.ctxGateOf ..)
  exact .ite ((hi h _ _).bind (fun _ ht => (hi ht _ _).bind (fun _ hu => hi hu _ _)))
    ((hw h _).bind (fun _ ht => (hw ht _).bind (fun _ hu => .ite (.some hu) (hu.ctxGate ..))))

theorem Good.allotBars (n : Node) (cores : List Nat) (init : Nat → Nat → Bool × BitVec 8) : Good (allotBars s n cores init) :=
  Good.foldl _ (fun _ _ h => .ite h (h.setCluster _ _)) _ h

theorem Good.startArray (n : Node) (cores : List Nat) : Good (startArray s n cores) := by
  unfold Machine.startArray
  split
  · exact h.failRun ..
  · exact h.failRun ..
  · exact h.failRun ..
  · next a b _ _ _ _ =>
    refine Good.allotBars (Good.foldl _ (fun t e ht => ?_) _ (h.onNode _ _)) ..
    have hc : Good { t with ists := mclear t.ists (e.2 * 2 ^ 15) (2 ^ 15), slices := mclear t.slices (e.2 * 2 ^ 20) (2 ^ 20),
                            spoi := mclear t.spoi (e.2 * 2 ^ 15) (2 ^ 15) } :=
      (ht.withIsts (wf_filter ht.wf_ists _)).withSlices (wf_filter ht.wf_slices _) _
    refine Good.onCore (Good.foldl _ (fun _ _ h => h.sliceAtom ..) _ ?_) ..
    cases a <;> cases b
    exacts [hc, hc.putIst _ _, hc.putIst _ _, (hc.putIst _ _).putIst _ _]

theorem Good.startNear (n : Node) : Good (startNear s n) := by
  unfold Machine.startNear
  dsimp only
  split
  · exact h.failRun ..
  · exact h.failRun ..
  · exact h.failRun ..
  · exact Good.foldl _ (fun _ _ h => h.setSteward _ _) _ (h.onNode _ _)

theorem Good.dispatch (id : Nat) (cores : List Nat) : Each Good (dispatch s id cores) := by
  refine .bind_any (fun n => .ite .none ?_)
  have hl := h.ctxLoad n.ctx
  split
  · exact .some (hl.failRun ..)
  · exact (hl.imagesGate n).bind (fun _ ht => .ite (.ite (.some (ht.startArray ..)) .none) (.ite (.some (ht.startNear _)) .none))

end Sys2Proof.Machine
end

section
/-! SUPPORT. The canonical form as an invariant, part 7: save areas, pre-emption and resumption (R109, R119-R121, R341, R350), the ends of
runs (R115, R324, R389, R390), shadows (R393-R396) and checkpoints (R401-R405). -/

namespace Sys2Proof.Machine
open Sys2Proof

variable {s : State} (h : Good s)
include h

/-! ### Save areas -/

/-- The progress records of a band's jobs: the gate they may wait at, and the state they leave (R341). -/
theorem Good.recordProgress (l : List (Nat × MxOp)) : (recordProgress s l).1.good ∧ Good (recordProgress s l).2 := by
  induction l generalizing s with
  | nil => exact ⟨trivial, h⟩
  | cons e t ih =>
    obtain ⟨c, o⟩ := e
    unfold Machine.recordProgress
    split
    · exact ih h
    · have hp := h.progressWrite c o (cProgress o.card o.prog 0)
      split
      · next e => rw [e] at hp; exact ⟨hp.1, h⟩
      · next e => rw [e] at hp; exact ih (hp.2.bankWhere _)
      · exact ih h

theorem Good.areaGate (n : Node) (acc : Acc) (gs : List (Nat × Nat)) : Each Good (areaGate s n acc gs) := by
  refine Each.foldl (fun o g ho => ho.bind (fun t ht => ?_)) _ (.some h)
  dsimp only
  split
  · exact .ite .none (ht.newGate ..)
  · exact ht.newGate ..

theorem Good.bankInside (pa len : Nat) : Good (bankInside s pa len) := h.bankWhere _

/-- Filling a stretch of device memory past the queues (R403). -/
theorem Good.rawFill (off pa len : Nat) (g : Seg) : Good (rawFill s off pa len g) :=
  have hb := (h.reviveRange pa len).bankInside pa len
  hb.onDram _ (wf_refill hb.wf_mem ..)

theorem Good.pieceFill (off : Nat) (p : Piece) (g : Seg) : Good (pieceFill s off p g) := by
  unfold Machine.pieceFill
  split
  · exact (h.setDirty ..).rawFill ..
  · exact h.onHost _ (wf_refill h.wf_sys ..)
  · exact h

theorem Good.segFill (g : Seg) (off : Nat) (ps : List Piece) : Good (segFill g s off ps) := by
  induction ps generalizing s off with
  | nil => exact h
  | cons p t ih => exact ih (h.pieceFill ..) _

theorem Good.areaWrite (n : Node) (gs : List Seg) {t : State} (e : areaWrite n s gs = .ok t) : Good t := by
  induction gs generalizing s with
  | nil => cases e; exact h
  | cons g gs ih =>
    unfold Machine.areaWrite at e
    split at e
    · cases e
    · exact ih (h.segFill ..) e

/-! ### Cores that a band leaves and takes -/

theorem Good.freeBarriers (id : Nat) (gang : Option Nat) : Good (freeBarriers s id gang) :=
  Good.foldl _ (fun _ _ h => h.setCluster _ _) _ h
theorem Good.idleCore (c : Nat) : Good (idleCore s c) := h.onCore _ _
theorem Good.freeCore (c : Nat) : Good (freeCore s c) := (((h.setCluster _ _).onFab _).idleCore c).onSched _
theorem Good.freeBand (n : Node) : Good (freeBand s n) := (Good.foldl _ (fun _ _ h => h.freeCore _) _ h).freeBarriers ..

theorem Good.saveBand (n : Node) : Each Good (saveBand s n) := by
  have hl := h.ctxLoad n.ctx
  refine .ite .none ?_
  have hr := hl.recordProgress ((liveOf n).flatMap (fun e => (coreAt (Machine.ctxLoad s n.ctx) e.2).mxq.map (fun o => (e.2, o))))
  split
  · next e => rw [e] at hr; exact .some hr.1
  · next u e =>
    rw [e] at hr
    refine (hr.2.areaGate ..).bind (fun v hv => ?_)
    dsimp only
    split
    · exact .some ((((Good.foldl _ (fun _ _ h => h.rasLog ..) _ (hv.onSched _)).freeBand n).onNode _ _).failRun ..)
    · next e => exact .some ((((hv.onSched _).areaWrite n _ e).freeBand n).onNode _ _)

theorem Good.preempt (id : Nat) (why : PreemptWhy) : Each Good (preempt s id why) := by
  refine .bind_any (fun n => ?_)
  split
  · exact .ite (.some (h.onNode _ _)) .none
  · exact h.saveBand n
  · exact .none

theorem Good.restoreCore (m : Bytes) (poi : List Nat) (n : Node) (e : Nat × Nat) : Good (restoreCore m poi n s e) := by
  refine .ite (Good.onSched (h.withSlices ?_ _) _) (Good.onCore (Good.withIsts (h.withSlices ?_ _) ?_) _ _)
  · exact wf_refill h.wf_slices ..
  · exact wf_refill h.wf_slices ..
  · exact wf_refill h.wf_ists ..

theorem Good.resume (id : Nat) (cores : List Nat) : Each Good (resume s id cores) := by
  refine .bind_any (fun n => .ite .none (.ite (.map_any (fun _ => (h.ctxLoad _).failRun ..)) (.ite .none ?_)))
  have hl := h.ctxLoad n.ctx
  split
  · exact .some (hl.failRun ..)
  · refine (hl.areaGate ..).bind (fun t ht => .ite (.some (ht.failRun ..)) (.some ?_))
    exact Good.foldl _ (fun _ _ h => h.setEvent ..) _
      (Good.allotBars (Good.foldl _ (fun _ _ h => h.restoreCore ..) _ (ht.onNode _ _)) ..)

/-! ### The ends of runs -/

theorem Good.coreRetires (c : Nat) : Each Good (coreRetires s c) := by
  refine .ite .none ?_
  split
  · exact .some (h.idleCore c)
  · next n _ =>
    refine .ite .none (.ite .none ?_)
    have hm : Good (match verdict (coreAt s c) with
        | some x => Machine.markFail s n.id x none
        | none => s) := by split; exacts [h.markFail .., h]
    have hb := fun f g => (((hm.idleCore c).onSched f).onNode n.id g).barArrive n.id ((coreAt s c).num / nGang n)
      (Config.clusterOf c) (fun _ => 0)
    have hg := fun f g => Good.ite (c := gangOver { n with gone := n.gone ++ [(coreAt s c).num] } ((coreAt s c).num / nGang n) = true)
      (((hb f g).freeBarriers n.id (some ((coreAt s c).num / nGang n))).onVec (nNotify n 2) (nIvec n)) (hb f g)
    exact .ite (.some (hg _ _)) (.some ((((hg _ _).onVec ..).onNode _ _).endRun _))

theorem Good.stewardRetires (k : Nat) : Each Good (stewardRetires s k) := by
  unfold Machine.stewardRetires
  dsimp only
  split
  · have hi := fun f l g => (Good.foldl _ (fun _ rq h => h.endLease k rq) l (h.setSteward k f)).setSteward k g
    refine .ite .none (.ite (.some (Good.onNode ?_ _ _)) (.some (Good.endRun (Good.onNode (Good.onNode ?_ _ _) _ _) _)))
    all_goals
      split
      · exact (hi _ _ _).markFail ..
      · exact hi _ _ _
  · exact .some (h.setSteward _ _)
  · exact .none

/-! ### Shadows -/

theorem Good.copyGranule (src dst : Nat) : Good (copyGranule s src dst) := (h.rawFill ..).onDramMeta _ rfl
theorem Good.granuleGate (src dst : Nat) : Each Good (granuleGate s src dst) :=
  .ite .none ((h.rawOpen ..).bind (fun _ ht => ht.rawOpen ..))

/-! ### Checkpoints -/

theorem Good.onCkpt (f : Ckpt → Ckpt) : Good (onCkpt s f) := h.onSched _
theorem Good.ckptFail (cause : Nat) : Good (ckptFail s cause) := h.onCkpt _

theorem Good.streamGranule (k : Ckpt) (g : Nat × Option Nat) : Each Good (streamGranule s k g) := by
  unfold Machine.streamGranule
  split
  · refine .ite (.some (h.ckptFail _)) (Each.bind (Q := Good) ((h.ctxGateOf ..).bind (fun _ ht => ht.rawOpen ..)) (fun t ht => ?_))
    exact .some (Good.onCkpt (ht.onHost _ (wf_refill ht.wf_sys ..)) _)
  · exact .some (h.ckptFail _)

theorem Good.ckptEnd (ok : Bool) : Each Good (ckptEnd s ok) := by
  refine .bind_any (fun k0 => ?_)
  extract_lets k s1 bs man rec_ free walked
  have hw : ∀ {o}, Each Good o → ∀ va len, Each Good (walked o va len) := fun ho _ _ =>
    ho.bind (fun _ ht => .ite (.some ht) (ht.ctxGateOf ..))
  refine .ite .none ((hw (hw (.some (h.onSched _)) _ _) _ _).bind (fun t ht => ?_))
  clear_value man rec_
  refine .some (Good.onSched ?_ _)
  cases man <;> cases rec_
  exacts [ht, (ht.systemFlush _).deviceWrite .., ht.deviceWrite .., ((ht.deviceWrite ..).systemFlush _).deviceWrite ..]

end Sys2Proof.Machine
end

section
/-! SUPPORT. The canonical form as an invariant, part 8: the control space (R276-R285, R328-R361, R407-R417), start-up, power and the
management port (R416-R420), and host accesses to memory (R406, R414). -/

namespace Sys2Proof.Machine
open Sys2Proof

variable {s : State} (h : Good s)
include h

/-! ### Translations and contexts -/

theorem Good.setRegs (r : Nat) (f : RegionRegs → RegionRegs) : Good (setRegs s r f) := h.onDramMeta _ rfl
theorem Good.newTranslations (p : BitVec 16 → Bool) : Good (newTranslations s p) := (h.onSched _).mapCores _ _
theorem Good.dropTlbs (gone : TlbEnt → Bool) : Good (dropTlbs s gone) := (h.mapCores _ _).onFab _

theorem Good.commitRegion (r : Nat) : Good (commitRegion s r) := by
  unfold Machine.commitRegion
  split <;> exact h.setRegs ..

theorem Good.writeTinv (v : Word) : Good (writeTinv s v) := .ite h (h.onHostMeta _ rfl)
theorem Good.endContexts (p : BitVec 16 → Bool) : Good (endContexts s p) := .ite ((h.onSched _).ckptFail _) (h.onSched _)
theorem Good.writeCtxkill (v : Word) : Good (writeCtxkill s v) :=
  .ite h (.ite ((((h.onSched _).onHostMeta _ rfl).onSched _).endContexts _).killNext ((h.onSched _).onHostMeta _ rfl))

/-! ### Queues, bookings, windows and semaphores -/

theorem Good.doorbell (q : Nat) (v : Word) : Good (doorbell s q v) := .ite (h.setQueue _ _) (h.setQueue _ _)
theorem Good.writeQcfg (q : Nat) (v : Word) : Good (writeQcfg s q v) := h.setQueue _ _
theorem Good.writeBkcfg (b : Nat) (v : Word) : Good (writeBkcfg s b v) :=
  have hs := h.setBooking b _
  .ite hs (.ite (hs.setBooking ..) (hs.setBooking ..))
theorem Good.writeWinv (v : Word) : Good (writeWinv s v) := .ite h (h.onFab _)
theorem Good.setHsem (k : Nat) (o : Option Nat) : Good (setHsem s k o) := h.onHostMeta _ rfl
theorem Good.claimHsem (k : Nat) (p0 p1 : Bool) : Good (claimHsem s k p0 p1) :=
  .ite h (.ite ((h.setHsem ..).onHostMeta _ rfl) (.ite (h.setHsem ..) (.ite (h.setHsem ..) h)))
theorem Good.releaseHsem (p : HostPort) (k : Nat) : Good (releaseHsem s p k) := .ite (h.setHsem ..) h

/-! ### Start-up requests, logs, routes and pools -/

theorem Good.beginStart (warm : Bool) : Good (beginStart s warm) := .ite h ((h.endContexts _).onHostMeta _ rfl).killNext
theorem Good.parkRelease (k : Nat) : Good (parkRelease s k) := h.onDramMeta _ rfl
theorem Good.clearLog (n : Nat) : Good (clearLog s n) := (h.setSteward _ _).onHostMeta _ rfl
theorem Good.writePwrlim (v : Word) : Good (writePwrlim s v) := .ite (h.onHostMeta _ rfl) h
theorem Good.writeStartctl (v : Word) : Good (writeStartctl s v) := .ite (h.beginStart _) (.ite (h.beginStart _) h)
omit h in
theorem Good.reroute {t : State} (ht : Good t) : Good (reroute s t) := (ht.onFab _).onFab _
theorem Good.writePool (base : Word) (size : BitVec 16) : Good (writePool s base size) := .ite h (h.onSched _)

/-- A write of a control register: the branches of R407, one to a line, in the order of their offsets. -/
theorem Good.writeOwn (p : HostPort) (off : Nat) (v : Word) : Good (writeOwn s p off v) := by
  unfold Machine.writeOwn
  extract_lets hp tr fb il rel
  have hhp : ∀ f, (f s.host).sys = s.host.sys → Good (hp f) := fun f hf => .ite h (h.onHostMeta f hf)
  have htr : ∀ f, (f s.host).sys = s.host.sys → Good (tr f) := fun f hf => .ite h (h.onHostMeta f hf)
  have hfb : ∀ f, Good (fb f) := fun f => .ite h (h.onFab f)
  have hil : ∀ r f, Good (il r f) := fun r f => .ite h (h.setRegs r f)
  have hrel : ∀ {t}, Good t → Good (rel t) := fun ht => .ite h ht
  have hsem : ∀ k, Good (if v.getLsbD 1 then Machine.releaseHsem s p k else s) := fun k => .ite (h.releaseHsem p k) h
  exact .ite (.ite h (h.writeStartctl v))
    <| .ite (.ite h (h.writePwrlim v))
    <| .ite (hhp _ rfl) <| .ite (hhp _ rfl) <| .ite (hhp _ rfl) <| .ite (hhp _ rfl)
    <| .ite (.ite ((hsem _).setHsem ..) (hsem _))
    <| .ite (.ite (hil ..) (.ite (hil ..) (.ite (hil ..) (.ite (h.commitRegion _) h))))
    <| .ite (htr _ rfl)
    <| .ite (.ite h (h.writeTinv v))
    <| .ite (htr _ rfl) <| .ite (htr _ rfl)
    <| .ite (.ite h (h.writeCtxkill v))
    <| .ite (htr _ rfl)
    <| .ite (.ite (h.doorbell ..) (.ite h (.ite (h.setQueue _ _) (.ite (h.writeQcfg ..) (.ite (h.setQueue _ _) h)))))
    <| .ite (.ite (h.writeBkcfg ..) h)
    <| .ite (.ite h (h.onFab _).reroute)
    <| .ite (hfb _) <| .ite (hfb _)
    <| .ite (.ite h (h.writeWinv v))
    <| .ite (hfb _) <| .ite (hfb _)
    <| .ite (.ite h (h.onFab _).reroute)
    <| .ite (hrel (h.writePool ..)) <| .ite (hrel (h.writePool ..)) <| .ite (hrel (h.onSched _)) <| .ite (hrel (h.onSched _))
    <| .ite (hrel (.ite (h.parkRelease _) h))
    <| .ite (.ite (h.clearLog _) h)
    <| .ite (.ite h (.ite (h.onHostMeta _ rfl) (h.onHostMeta _ rfl))) h

theorem Good.writeLive (hc word : Nat) (v : Word) : Good (writeLive s hc word v) := by
  refine Good.foldl _ (fun t _ ht => .ite ht (Good.onDram (ht.bankWhere _) _ ?_)) _ h
  exact wf_filter (ht.bankWhere _).wf_mem _

/-! ### Power, start-up and the management port -/

/-- What lies outside the module stays: its host's memory (R416, R420). -/
theorem Good.outside {t : State} (ht : Good t) : Good (outside s t) := 
  ⟨ht.wf_slices, ht.wf_ists, ht.wf_mem, h.wf_sys, ht.canon_cores⟩

omit h in
theorem good_reset : Good State.reset := ⟨rfl, rfl, rfl, rfl, rfl⟩

theorem Good.measureAll (images : List FwImage) : Good (measureAll s images) :=
  Good.foldl _ (fun _ _ h => .ite (h.onHostMeta _ rfl) h) _ h

theorem Good.startReset : Good (startReset s) := by
  have hc := Good.foldl _ (fun _ r h => h.copyGranule r.pool r.gran) (s.sched.redir.filter (fun r => r.global && r.ready)) h
  refine Good.onHost (Good.onSched ?_ _) _ ?_
  · exact ⟨rfl, rfl, hc.wf_mem, hc.wf_sys, rfl⟩
  · exact hc.wf_sys

theorem Good.endMigrations : Good (endMigrations s) := h.onDramMeta _ rfl
theorem Good.stepWork (n : Nat) (images : List FwImage) : Good (stepWork s n images) :=
  .ite (h.startReset.measureAll _) (.ite h.endMigrations (.ite (h.onDram _ rfl) h))
theorem Good.answer (w : Word) : Good (answer s w) := h.onHostMeta _ rfl

theorem Good.management (rq : MgmtRequest) : Each Good (management s rq) := by
  cases rq with
  | temperature k => exact .ite (.some (h.answer _)) .none
  | power | devid | bootstat => exact .some (h.answer _)
  | rasLog i => exact .ite .none (.some ((h.answer _).onSched _))
  | stewardLog n i => exact .ite .none (.some ((h.answer _).onHostMeta _ rfl))
  | writePwrlim v => exact .some (h.writePwrlim v)
  | writeStartctl v => exact .some (h.writeStartctl v)

theorem Good.hostAccess (a : HostAccess) : Each Good (hostAccess s a) := by
  cases a with
  | read port cxl pa len => exact .ite .none ((h.newGate ..).map (fun _ ht => ht.onHostMeta _ rfl))
  | write port cxl pa bs =>
    refine .ite .none ?_
    split
    · next e => exact .ite .none (.some ((h.writeGates ..).of_wait e))
    · exact .some (Good.writePieces _ _ _ _ _ h)
  | ownWrite ha bs => exact .ite .none (.some (h.onHost _ (wf_putBytes h.wf_sys ..)))
  | powerState port d3 => exact .ite .none (.some (h.onHostMeta _ rfl))

end Sys2Proof.Machine
end

section
/-! SUPPORT. The canonical form as an invariant, part 9: the fabric (R352-R376), its ingress, multicasts and Caravans, and packets that
leave. -/

namespace Sys2Proof.Machine
open Sys2Proof

/-- The state that a Caravan step leaves, or waits with, is in canonical form. -/
def CarStep.good : CarStep → Prop
  | .fail .. => True
  | .ok _ _ _ _ t => Good t
  | .wait t => Good t

variable {s : State} (h : Good s)
include h

/-! ### The ingress (R354, R361, R365) -/

theorem Good.ingressAnswer (dev prio seq : Nat) (a : Answer) : Good (ingressAnswer s dev prio seq a) := h.onFab _

theorem Good.ingressDo (w : Writer) (node : Option Nat) (op : IngressOp) (ps : List Piece) :
    Each (fun e => Good e.2) (ingressDo s w node op ps) := by
  cases op with
  | read len => exact (h.newGate ..).map (fun _ ht => ht)
  | step => exact (h.newGate ..).map (fun _ ht => ht)
  | write bs poi =>
    unfold Machine.ingressDo
    dsimp only
    split
    · exact .none
    · exact .some (Good.putAll _ _ _ _ h)
  | atom o ty v =>
    unfold Machine.ingressDo
    dsimp only
    split
    · refine (h.newGate ..).bind (fun t ht => ?_)
      split
      · exact .none
      · exact .some (ht.performAtom ..)
    · exact .none

theorem Good.ingressWait (node : Option Nat) (op : IngressOp) (ps : List Piece) : Each Good (ingressWait s node op ps) := by
  unfold Machine.ingressWait
  split
  · exact .none
  · exact .none
  · split
    · next e => exact .ite .none (.some ((h.writeGates ..).of_wait e))
    · exact .none

theorem Good.farRequest (port dev prio seq : Nat) (g : Word) (off : Nat) (op : IngressOp) :
    Each Good (farRequest s port dev prio seq g off op) := by
  refine .ite .none ((h.rxLeave ..).bind (fun t ht => .ite (.some ht) ?_))
  extract_lets next admitted
  have hn : ∀ {u}, Good u → Good (next u) := fun hu => hu.onFab _
  have ha : ∀ {u}, Good u → ∀ ps cells a, Good (admitted u ps cells a) := fun hu _ _ _ => ((hn hu).ingressNote ..).onFab _
  refine (ht.ingressGate ..).bind (fun v hv => ?_)
  split
  · exact .some ((hn hv).ingressAnswer ..)
  · split
    · exact .some (ha hv ..)
    · split
      · next e => exact .some (ha ((hv.ingressDo ..).of_eq e) ..)
      · exact ht.ingressWait ..
    · exact (hv.ingressDo ..).map (fun _ hr => ((hn hr).ingressNote ..).ingressAnswer ..)

theorem Good.loopRequest (id : Nat) : Each Good (loopRequest s id) := by
  refine .bind_any (fun r => ?_)
  split
  · exact .none
  · refine .ite .none ((h.ingressGate ..).bind (fun v hv => ?_))
    split
    · exact .some (hv.setReq ..)
    · split
      · next e => exact .some (Good.setReq (Good.ingressNote ((hv.ingressDo ..).of_eq e) ..) ..)
      · exact h.ingressWait ..

theorem Good.farAtom (tag : Nat) : Each Good (farAtom s tag) := by
  refine .bind_any (fun q => ?_)
  split
  · exact .none
  · split
    · next e => exact .ite .none (.some ((h.writeGates ..).of_wait e))
    · exact .some ((h.putCells ..).onFab _)

theorem Good.farAck (tag : Nat) : Each Good (farAck s tag) :=
  .bind_any (fun _ => .ite .none (.some ((h.onFab _).ingressAnswer ..)))

theorem Good.ansLeaves (i : Nat) : Each Good (ansLeaves s i) :=
  .bind_any (fun _ => .bind_any (fun _ => .ite .none (.ite .none (.some (h.onFab _)))))

/-! ### Answers to the cores -/

theorem Good.fabAnswer (r : FabReq) (cause : Nat) (v : Word) (poi : Bool) : Good (fabAnswer s r cause v poi) := by
  unfold Machine.fabAnswer
  dsimp only
  split
  · exact ((h.dropReq _).dropMem ..).writeToken ..
  · exact (h.dropReq _).onCore _ _
  · exact (h.dropReq _).onCore _ _
  · exact h.dropReq _

theorem Good.carDeliver (r : FabReq) (p : Word) (k budget : Nat) (poi : Bool) (res : Option Nat) :
    Good (carDeliver s r p k budget poi res) := (((h.dropReq _).dropMem ..).onCore _ _).writeToken ..

theorem Good.linkFail (id cause : Nat) : Each Good (linkFail s id cause) := by
  refine .bind_any (fun r => .ite .none ?_)
  split
  · exact .ite .none (.ite (.some (h.carDeliver ..)) (.some (h.carDeliver ..)))
  · exact .none
  · exact .none
  · exact .ite .none (.some (h.fabAnswer ..))

/-! ### Multicasts (R370, R371) -/

theorem Good.mcstRead (r : FabReq) (d : List Byte) (st : List (Option Nat)) : Each Good (mcstRead s r d st) := by
  refine .ite .none ?_
  split
  · exact h.engWalk ..
  · exact .some ((h.engTold ..).setReq ..)
  · exact (h.newGate ..).map (fun _ ht => (ht.onFab _).onCore _ _)

theorem Good.memberWrite (r : FabReq) (d : List Byte) (pay : List Byte × List Bool) (st : List (Option Nat))
    (todo : List (Option (List Piece))) (m cause : Nat) : Each Good (memberWrite s r d pay st todo m cause) := by
  unfold Machine.memberWrite
  extract_lets fa note go
  have hn : ∀ {t}, Good t → ∀ x, Good (note t x) := fun ht _ => (ht.setReq ..).tidyRoutes
  have hg : ∀ {t}, Good t → ∀ ps, Good (go t ps) := fun ht _ => ht.setReq ..
  refine .ite .none (.ite (.ite (.some (hn h _)) .none) (.ite ?_ (.ite ((h.rxTake ..).map (fun _ ht => hn ht _)) .none)))
  split
  · refine .ite .none ((h.ingressGate ..).map (fun t ht => ?_))
    split
    · exact hn ht _
    · exact hg (ht.ingressNote ..) _
  · exact .some (hn h _)
  · dsimp only
    split
    · next e => exact .ite .none (.some ((h.writeGates ..).of_wait e))
    · exact .some (hg (h.putCells ..) _)

theorem Good.mcstDone (r : FabReq) (st : List Nat) : Good (mcstDone s r st) :=
  have hw := (((h.dropReq r.id).dropMem r.core r.mid).writeToken r.core r.tok 2 _)
  .ite (hw.onCore _ _) hw

/-! ### Caravans (R372-R376) -/

theorem Good.setCar (r : FabReq) (p : Word) (k budget : Nat) (poi : Bool) (res : Option Nat) (pos : CarPos) :
    Good (setCar s r p k budget poi res pos) := h.setReq ..

theorem Good.carHere (r : FabReq) (pos : CarPos) (a : Nat) : Each CarStep.good (carHere s r pos a) := by
  unfold Machine.carHere
  extract_lets k hc load
  have hl : ∀ cost pl disc pos, Each CarStep.good (load cost pl disc pos) := fun _ _ _ _ => (h.newGate ..).map (fun _ ht => ht)
  refine .ite (.some trivial) ?_
  split
  · exact .some trivial
  · exact hl ..
  · exact .some trivial
  · split
    · exact .some trivial
    · exact (h.engWalk ..).map (fun _ ht => ht)
    · exact hl ..
    · exact .some trivial

theorem Good.carFar (r : FabReq) (pos : CarPos) (dev : Nat) (remote : CaravanRemote) :
    Each CarStep.good (carFar s r pos dev remote) := by
  unfold Machine.carFar
  split
  · exact .none
  · refine .ite .none ?_
    split
    · exact .none
    · exact .ite .none (.some h)
    · exact .ite (.some trivial) (.ite (.some trivial) .none)

/-- What serves a step: this module, or the one that the address names (R374, R376). -/
theorem Good.carServed (r : FabReq) (pos : CarPos) (a dev budget : Nat) (here : Bool) (remote : CaravanRemote) :
    Each CarStep.good (if here then (if remote == .here then Machine.carHere s r pos a else none)
      else if budget = 0 then (if remote == .here then some (.fail 0 0x73) else none) else Machine.carFar s r pos dev remote) := by
  refine .ite (.ite (h.carHere ..) .none) (.ite (.ite (.some ?_) .none) (h.carFar ..))
  trivial

theorem Good.carStep (id : Nat) (remote : CaravanRemote) : Each Good (carStep s id remote) := by
  refine .bind_any (fun r => ?_)
  split
  · refine .ite .none ?_
    extract_lets a here stop
    have hstop : ∀ {t}, Good t → ∀ cost cause, Good (stop cost cause t) := fun ht _ _ => .ite (ht.setCar ..) (ht.setCar ..)
    refine .ite (.some (hstop h _ _)) (.ite (.some (hstop h _ _)) ?_)
    split
    · exact .none
    · next e => exact .some ((h.carServed ..).of_eq e)
    · exact .some (hstop (h.engTold ..) _ _)
    · next t e =>
      have ht : Good t := (h.carServed ..).of_eq e
      exact .ite (.some (hstop h _ _)) (.some (ht.setCar ..).tidyRoutes)
  · exact .none

/-! ### Packets and errors from outside -/

theorem Good.countBookings : Good (countBookings s) := Good.foldl _ (fun _ _ h => .ite h (h.setBooking ..)) _ h

theorem Good.sendPacket (id m : Nat) : Good (sendPacket s id m) := by
  unfold Machine.sendPacket
  split
  · exact h
  · split
    · exact .ite ((h.setReq ..).onFab _) h
    · exact h

theorem Good.sliceError (c a : Nat) (bits : BitVec 256) : Good (sliceError s c a bits) :=
  .ite (h.withSlices (wf_putBytes h.wf_slices ..) _) h

end Sys2Proof.Machine
end

section
/-! SUPPORT. The canonical form as an invariant, part 10: the events whose next state is more than one operation of the parts before. -/

namespace Sys2Proof.Machine
open Sys2Proof

variable {s : State} (h : Good s)
include h

/-! ### Stewards and leases -/

theorem Good.execStewardTimeout (n : Nat) : outGood (execStewardTimeout n s) := by
  refine h.eventO _ ?_
  split
  · exact .ite (.some (h.haltSteward ..)) .none
  · exact .none

theorem Good.execSemWaitExpiry (n : Nat) : outGood (execSemWaitExpiry n s) := by
  refine h.eventO _ ?_
  split
  · exact .ite (.some (h.endWait ..)) .none
  · exact .none

theorem Good.execSemWaitSatisfied (n : Nat) : outGood (execSemWaitSatisfied n s) := by
  refine h.eventO _ ?_
  split
  · exact .ite (.some (h.endWait ..)) .none
  · exact .none

theorem Good.execStewardOperationEnd (n : Nat) (u : StewardUnit) : outGood (execStewardOperationEnd n u s) := by
  refine h.eventO _ ?_
  cases u
  exacts [h.lsuEnd n, h.sigEnd n, h.logEnd n]

theorem Good.execLeaseEnd (n rq : Nat) : outGood (execLeaseEnd n rq s) := by
  refine h.eventO _ ?_
  split
  · exact .none
  · refine .ite (.some (h.endLease ..)) (.ite .none (.ite (.some (h.endLease ..)) ?_))
    split
    · exact .ite .none (.ite (.some (h.endLease ..)) ((h.engineRun ..).bind (fun _ ht => .ite .none (.some (ht.endLease ..)))))
    · exact .none

theorem Good.execLeaseRenewal (n rq : Nat) : outGood (execLeaseRenewal n rq s) := by
  refine h.eventO _ ?_
  split
  · exact .ite (.some (h.setSteward _ _)) .none
  · exact .none

theorem Good.execWaveWindow (hc : Nat) : outGood (execWaveWindow hc s) :=
  Good.event (Good.foldl _ (fun _ _ h => (h.leaseGranted ..).getD h) _ (h.onDramMeta _ rfl)) _ _

/-! ### Banks and dies -/

theorem Good.execBankArbitration (b : Nat) (err : Option CellFault) : outGood (execBankArbitration b err s) := by
  refine h.eventO _ (.ite .none ?_)
  split
  · exact h.arbitrate b
  · exact .ite (.some (h.onBank ..)) .none
  · exact .ite ((h.cellFault _).arbitrate b) .none
  · exact .ite ((h.cellFault _).arbitrate b) .none

theorem Good.execOpenHostIdle (b : Nat) : outGood (execOpenHostIdle b s) := by
  refine h.eventO _ ?_
  split
  · exact .ite (.some (h.precharge ..)) .none
  · exact .none

theorem Good.execPerBankRefresh (b : Nat) : outGood (execPerBankRefresh b s) := by
  unfold Machine.execPerBankRefresh
  extract_lets k closed rows
  have hc : Each Good closed := by
    unfold closed
    split
    · exact .none
    · exact .some (h.precharge ..)
    · exact .some (h.precharge ..)
    · exact .some h
  exact h.eventO _ (.ite .none (hc.map (fun _ ht => ht.onBank ..)))

theorem Good.execPatrolScrub (g : Nat) (err : Option CellFault) : outGood (execPatrolScrub g err s) :=
  h.eventO _ (.ite .none ((h.hostOpen g).map (fun _ ht => ht.cellFault err)))

theorem Good.execBlockRevival (hc block : Nat) : outGood (execBlockRevival hc block s) := by
  exact Good.event (h.onDram _ (wf_filter h.wf_mem _)) _ _

theorem Good.execDieMigrationUnit (stack : Nat) : outGood (execDieMigrationUnit stack s) := by
  refine h.eventO _ ?_
  split
  · exact .none
  · split
    · exact .none
    · exact .some (h.onDramMeta _ rfl)

theorem Good.execBankTest (b : Nat) (decoded : List Nat) : outGood (execBankTest b decoded s) := by
  have hr := fun f => (h.bankAll.reread b decoded).onBank b f
  refine Good.event ?_ _ _
  split
  · exact (((hr _).closeBank b).parkCopy ..).onBank ..
  · exact Good.testEnded (.ite ((hr _).rasLog ..) ((hr _).lasting b)) _

theorem Good.execBankTestEnd (b : Nat) (passed : Bool) : outGood (execBankTestEnd b passed s) := by
  unfold Machine.execBankTestEnd
  extract_lets k home
  have hh : ∀ {t}, Good t → Good (home t) := by
    intro t ht
    unfold home
    split
    · exact (ht.parkCopy ..).onBank ..
    · exact ht.onBank ..
  exact Good.event (Good.testEnded (.ite ((hh h).rasLog ..) (.ite (hh (h.lasting b)) ((h.lasting b).onBank ..))) _) _ _

theorem Good.execCoreBistEnd (c : Nat) (passed : Bool) : outGood (execCoreBistEnd c passed s) :=
  Good.event (((h.onSched _).testEnded _).rasLog ..) _ _

/-! ### Landings and time-outs of the cores -/

theorem Good.execXselLanding (c id : Nat) : outGood (execXselLanding c id s) := by
  refine h.eventO _ ?_
  split
  · exact .ite (.some (h.setCore _ _)) .none
  · exact .none

theorem Good.execPortTimeout (cl i : Nat) : outGood (execPortTimeout cl i s) :=
  h.eventO _ (.bind_any (fun _ => .ite (.some ((h.setJob ..).endWaits ..)) .none))

theorem Good.execMjobEnd (c : Nat) : outGood (execMjobEnd c s) :=
  h.eventO _ (.bind_any (fun _ => .ite (h.mjobFinish ..) .none))

theorem Good.execMatrixTimeout (c : Nat) (drain : Bool) : outGood (execMatrixTimeout c drain s) :=
  h.eventO _ (.bind_any (fun _ => .ite (.some (((h.dropRows ..).setMx ..).endWaits ..)) .none))

theorem Good.execMkatEnd (c : Nat) (fault : BitVec 24) : outGood (execMkatEnd c fault s) := by
  refine h.eventO _ (.bind_any (fun o => .ite .none (.ite (.some (h.dropMx ..)) (.some ?_))))
  have hk := fun f => (((h.dropMx c o).onCore c katMark).rasLog 0x53 1 c).onSched f
  split
  · exact (hk _).onNode _ _
  · exact hk _

/-- A wake of a parked core: the park ends, or nothing happens. -/
theorem Good.wakes (c : Nat) {f : Park → Option State} (hf : ∀ p, Each Good (f p)) (name : String) :
    outGood (Machine.eventO name s ((parkOf s c).bind f)) := h.eventO _ (.bind_any hf)

theorem Good.execWaiteWake (c : Nat) : outGood (execWaiteWake c s) :=
  h.wakes c (fun p => by split; exacts [.ite (.some (h.endPark ..)) .none, .none]) _
theorem Good.execWaiteTimeout (c : Nat) : outGood (execWaiteTimeout c s) :=
  h.wakes c (fun p => by split; exacts [.ite (.some (h.endPark ..)) .none, .none]) _
theorem Good.execBarwWake (c : Nat) : outGood (execBarwWake c s) :=
  h.wakes c (fun p => by split; exacts [.ite (.some (h.endPark ..)) .none, .none]) _
theorem Good.execBarwTimeout (c : Nat) : outGood (execBarwTimeout c s) :=
  h.wakes c (fun p => by split; exacts [.ite (.some (h.endPark ..)) .none, .none]) _
theorem Good.execSwaitReread (c : Nat) : outGood (execSwaitReread c s) :=
  h.wakes c (fun p => by split; exacts [(h.waitWord ..).map (fun _ hr => .ite (hr.endPark ..) hr), .none]) _
theorem Good.execSwaitTimeout (c : Nat) : outGood (execSwaitTimeout c s) :=
  h.wakes c (fun p => by split; exacts [.ite ((h.waitWord ..).map (fun _ hr => hr.endPark ..)) .none, .none]) _

theorem Good.execSystemAtomicCompletion (c : Nat) (ok : Bool) : outGood (execSystemAtomicCompletion c ok s) := by
  refine h.wakes c (fun p => ?_) _
  split
  · have hs := h.setCore c (pruned s c (coreAt s c))
    refine .ite .none (.ite (.some (hs.endPark ..)) (.some (Good.endPark (.ite ?_ ?_) ..)))
    · exact (hs.performAtom ..).onHostMeta _ rfl
    · exact hs.performAtom ..
  · exact .none

theorem Good.execCpubEnd (c : Nat) : outGood (execCpubEnd c s) :=
  h.eventO _ (.bind_any (fun _ => .ite .none (.some (h.cpubEnd ..))))
theorem Good.execPageWalk (cl i : Nat) : outGood (execPageWalk cl i s) :=
  h.eventO _ (.ite .none (.bind_any (fun _ => h.walkNext ..)))
theorem Good.execWalkTimeout (cl i : Nat) : outGood (execWalkTimeout cl i s) :=
  h.eventO _ (.ite (.some (h.onSched _)) (.ite .none (.bind_any (fun _ => .ite (.some (h.walkEnd ..)) .none))))

/-! ### The scheduler -/

theorem Good.execNodeWatchdog (id : Nat) : outGood (execNodeWatchdog id s) := by
  refine h.schedO _ (.bind_any (fun n => ?_))
  dsimp only
  split
  · exact .ite (.some (h.onNode _ _))
      (.ite .none (.some (Good.foldl _ (fun _ _ h => (h.stewardLog ..).killSteward ..) _ h)))
  · exact .some (h.onNode _ _)
  · exact .some (h.onNode _ _)
  · exact .some (h.onNode _ _)
  · exact .none

theorem Good.execPriorityAging (id : Nat) : outGood (execPriorityAging id s) := by
  refine h.schedO _ (.bind_any (fun n => ?_))
  split
  · exact .none
  · exact .ite (.some (h.onNode _ _)) .none

theorem Good.execLockWaitCheck (id : Nat) : outGood (execLockWaitCheck id s) := by
  refine h.schedO _ (.bind_any (fun n => .ite (Each.map (Q := Good) (.findSome? (fun w => ?_)) (fun _ ht => ht.onNode _ _)) .none))
  split
  · exact .ite (h.newGate ..) .none
  · exact .none

theorem Good.execCounterDecrement (who : Unit4) : outGood (execCounterDecrement who s) := by
  refine h.schedO _ ?_
  cases who
  exacts [h.coreRetires _, h.stewardRetires _]

theorem Good.execNodeStop (id : Nat) : outGood (execNodeStop id s) := by
  refine h.schedO _ (.bind_any (fun n => ?_))
  split
  · exact .ite (.some (((h.onNode _ _).freeBand n).failRun ..)) .none
  · exact .none

theorem Good.execSliceClear (c : Nat) : outGood (execSliceClear c s) :=
  h.schedO _ (.ite (.some ((h.withSlices (wf_filter h.wf_slices _) _).onSched _)) .none)

theorem Good.execShadowCopy (id gran : Nat) : outGood (execShadowCopy id gran s) :=
  h.schedO _ (.bind_any (fun _ => (h.granuleGate ..).map (fun _ ht => (ht.copyGranule ..).onSched _)))

theorem Good.execShadowFallback (id gran : Nat) : outGood (execShadowFallback id gran s) :=
  h.schedO _ (.bind_any (fun _ => .ite
    (.some (((Good.foldl _ (fun _ _ h => h.onCore _ _) _ h).onNode _ _).onSched _)) .none))

theorem Good.execShadowConflict (id gran : Nat) : outGood (execShadowConflict id gran s) := by
  refine h.schedO _ (.bind_any (fun r => ?_))
  split
  · dsimp only
    split
    · exact .none
    · exact .none
    · exact .ite (.some (h.onNode _ _)) .none
  · exact .none

theorem Good.execShadowCommit (id : Nat) : outGood (execShadowCommit id s) :=
  h.schedO _ (.bind_any (fun _ => .ite
    (.some (((Good.foldl _ (fun _ _ h => h.setDirty ..) _ h).onSched _).endNode ..)) .none))

theorem Good.execShadowCopyBack (gran : Nat) : outGood (execShadowCopyBack gran s) :=
  h.schedO _ (.bind_any (fun _ => (h.granuleGate ..).map (fun _ ht => ((ht.setDirty ..).copyGranule ..).onSched _)))

theorem Good.execCkptGranule (i : Nat) : outGood (execCkptGranule i s) :=
  h.eventO _ (.bind_any (fun _ => .bind_any (fun _ => .ite (h.streamGranule ..) .none)))

/-! ### The control space, start-up and the host -/

theorem Good.execInterleaveCommitEnd (r : Nat) : outGood (execInterleaveCommitEnd r s) :=
  h.eventO _ (.bind_any (fun _ => .ite .none (.some ((h.onDramMeta _ rfl).setRegs ..))))
theorem Good.execTinvEnd : outGood (execTinvEnd s) :=
  h.eventO _ (.bind_any (fun _ => .ite (.some (((h.dropTlbs _).newTranslations _).onHostMeta _ rfl)) .none))
theorem Good.execWinvEnd : outGood (execWinvEnd s) := h.eventO _ (.bind_any (fun _ => .ite .none (.some (h.onFab _))))
theorem Good.execCtxkillEnd : outGood (execCtxkillEnd s) :=
  h.eventO _ (.bind_any (fun _ => .ite (.some (((h.dropTlbs _).onSched _).onHostMeta _ rfl)) .none))

theorem Good.execRegisterWrite (port : HostPort) (t : RegTarget) (v : Word) : outGood (execRegisterWrite port t v s) := by
  refine Good.event ?_ _ _
  cases t
  exacts [.ite (h.writeOwn ..) h, .ite (h.writeLive ..) h]

theorem Good.execStartStepEnd (passed : Bool) (images : List FwImage) : outGood (execStartStepEnd passed images s) :=
  have ht := h.stepWork s.host.step images
  Good.event (.ite (Good.onHostMeta (.ite ht h) _ rfl) (.ite (ht.onHostMeta _ rfl) (ht.onHostMeta _ rfl))) _ _

theorem Good.execFabricLinkDown (l : FabLink) : outGood (execFabricLinkDown l s) := by
  cases l <;> exact Good.event (Good.reroute (h.onFab _)) _ _
theorem Good.execFabricLinkUp (l : FabLink) : outGood (execFabricLinkUp l s) := by
  cases l <;> exact Good.event (h.onFab _) _ _

/-! ### The fabric -/

theorem Good.execIngressRequest (rq : IngressSource) : outGood (execIngressRequest rq s) := by
  refine h.eventO _ ?_
  cases rq with
  | remote => exact h.farRequest ..
  | loopback id => exact h.loopRequest id
  | atom tag => exact h.farAtom tag
  | acknowledge tag => exact h.farAck tag
  | answer i => exact h.ansLeaves i
  | arrive => exact h.rxArrive ..
  | leave => exact h.rxLeave ..

theorem Good.execFabricResponse (id cause : Nat) (v : Word) (poison : Bool) : outGood (execFabricResponse id cause v poison s) :=
  h.eventO _ (.bind_any (fun _ => .ite .none (.ite (.bind_any (fun _ => .ite .none (.some (h.fabAnswer ..))))
    (.ite ((h.rxTake ..).map (fun _ ht => ht.fabAnswer ..)) .none))))

theorem Good.execMcstMemberWrite (id m cause : Nat) : outGood (execMcstMemberWrite id m cause s) := by
  refine h.eventO _ (.bind_any (fun r => ?_))
  split
  · exact h.mcstRead ..
  · exact h.memberWrite ..
  · exact .none

theorem Good.execMcstEnd (id : Nat) : outGood (execMcstEnd id s) := by
  refine h.eventO _ (.bind_any (fun r => ?_))
  split
  · exact .ite (.some (h.mcstDone ..)) .none
  · exact .none

theorem Good.execCaravanReturn (id : Nat) : outGood (execCaravanReturn id s) := by
  refine h.eventO _ (.bind_any (fun r => ?_))
  split
  · refine .ite ?_ .none
    split
    · exact (h.rxTake ..).map (fun _ ht => ht.carDeliver ..)
    · exact .some (h.carDeliver ..)
  · exact .none

theorem Good.execWritePerformed (src : WriteSource) : outGood (execWritePerformed src s) := by
  refine h.eventO _ ?_
  cases src with
  | core c id => exact h.storePerform c id
  | bank i => exact h.queueBank i
  | porter cl j => exact h.porterRun cl j
  | drain c => exact h.drainRow c
  | combine port i => exact h.bufferOut port i

theorem Good.execFtimeTick : outGood (execFtimeTick s) := by
  refine Good.event (Good.onFab (s := { Machine.countBookings s with now := s.now + 2 }) ?_ _) _ _
  exact h.countBookings

theorem Good.execCoreFaultNotContained (c : Nat) : outGood (execCoreFaultNotContained c s) := by
  have ht := ((h.stopNode c 0xA4).rasLog 0xA4 1 c).holdCore c
  refine Good.event ?_ _ _
  split
  · exact ht.onNode _ _
  · exact ht

end Sys2Proof.Machine
end

section
/-! The canonical form is an invariant: every instruction and event keeps it, so every step does (O57). -/

namespace Sys2Proof.Machine
open Sys2Proof

/-- The state that an act hands to its instructions is in canonical form. -/
def Todo.good : Todo → Prop
  | .stop t | .one t _ | .many t _ => Good t

variable {s : State} (h : Good s)
include h

/-- Every instruction and every event keeps the canonical form. What a slot or a move does to its frame plays no part, so they share a
case each; an event has the case of its own operation. -/
theorem Good.exec (i : Instr) : outGood (exec i s) := by
  cases i with
  | illegalOpcode slots => exact h.execIllegalOpcode slots
  | stewardMove | aluAdd | aluSub | aluAnd | aluOr | aluXor | aluShl | aluShr | aluEq | aluLt | aluLtn | brJump | brIf | brCall | brRet
  | lsuLd | lsuSt | semSig | semWait | rowLease | rowRelease | bkeLd | bkeSt | bkeMv8 | bkeMv4 | bkeMvb | bkeRed | bkeClr | deqCol
  | accRd | logRd | nmkDone => exact h.runMove ..
  | stewardTimeout n => exact h.execStewardTimeout n
  | semWaitExpiry n => exact h.execSemWaitExpiry n
  | semWaitSatisfied n => exact h.execSemWaitSatisfied n
  | engineOperationEnd n e err => exact h.eventO _ (h.engineRun n e 16 err)
  | stewardOperationEnd n u => exact h.execStewardOperationEnd n u
  | nodeWatchdog id => exact h.execNodeWatchdog id
  | leaseGrant n rq => exact h.eventO _ (h.leaseGranted n rq)
  | leaseEnd n rq => exact h.execLeaseEnd n rq
  | leaseRenewal n rq => exact h.execLeaseRenewal n rq
  | waveWindow hc => exact h.execWaveWindow hc
  | bankArbitration b err => exact h.execBankArbitration b err
  | openHostIdle b => exact h.execOpenHostIdle b
  | watchedRowSpacing b row => exact Good.event (h.onBank ..) _ _
  | perBankRefresh b => exact h.execPerBankRefresh b
  | patrolScrub g err => exact h.execPatrolScrub g err
  | blockRevival hc block => exact h.execBlockRevival hc block
  | thermalReadout hc limit => exact Good.event (h.onDramMeta _ rfl) _ _
  | dieMigrationUnit stack => exact h.execDieMigrationUnit stack
  | bankTest b decoded => exact h.execBankTest b decoded
  | bankTestEnd b passed => exact h.execBankTestEnd b passed
  | coreBistEnd c passed => exact h.execCoreBistEnd c passed
  | coreParityError c => exact Good.event ((h.holdCore c).onSched _) _ _
  | landingDataArrival c id => exact h.eventO _ (h.arrivalData c id .ldr)
  | landingTimeout c => exact Good.event (h.setCore _ _) _ _
  | scldArrival c id => exact h.eventO _ (h.arrivalData c id .scld)
  | xselLanding c id => exact h.execXselLanding c id
  | loadResponse c id => exact h.eventO _ (h.respond c id)
  | porterJobStart cl j => exact h.eventO _ (h.porterStart cl j)
  | porterJobEnd cl j => exact h.eventO _ (h.porterEnd cl j)
  | portTimeout cl j => exact h.execPortTimeout cl j
  | mjobStart c => exact h.eventO _ (h.mjobStart c)
  | slabEnd c far => exact h.eventO _ (h.slabEnd c far)
  | mjobEnd c => exact h.execMjobEnd c
  | mjobFaultStop c far => exact h.eventO _ (h.mjobStop c far)
  | matrixTimeout c drain => exact h.execMatrixTimeout c drain
  | drainReadEnd c => exact h.eventO _ (h.drainRead c)
  | mdrnEnd c => exact h.eventO _ (h.mdrnEnd c)
  | mkatEnd c fault => exact h.execMkatEnd c fault
  | waiteWake c => exact h.execWaiteWake c
  | waiteTimeout c => exact h.execWaiteTimeout c
  | barwWake c => exact h.execBarwWake c
  | barwTimeout c => exact h.execBarwTimeout c
  | swaitReread c => exact h.execSwaitReread c
  | swaitTimeout c => exact h.execSwaitTimeout c
  | cpubEnd c => exact h.execCpubEnd c
  | icacheFill c => exact h.eventO _ (h.icacheFill c)
  | pageWalk cl k => exact h.execPageWalk cl k
  | walkTimeout cl k => exact h.execWalkTimeout cl k
  | writeCombineTimeout port k => exact Good.event (h.emitBuf k) _ _
  | systemAtomicCompletion c ok => exact h.execSystemAtomicCompletion c ok
  | nodeCapture q => exact h.schedO _ (h.captureNode q)
  | nodeDispatch id cores => exact h.schedO _ (h.dispatch id cores)
  | priorityAging id => exact h.execPriorityAging id
  | preemption id why => exact h.schedO _ (h.preempt id why)
  | resume id cores => exact h.schedO _ (h.resume id cores)
  | spareTakeover c => exact h.schedO _ (.ite (.some (h.onSched _)) .none)
  | lockWaitCheck id => exact h.execLockWaitCheck id
  | parkedBandVictim id holder => exact h.schedO _ (.bind_any (fun _ => .ite (.some (h.onNode _ _)) .none))
  | counterDecrement who => exact h.execCounterDecrement who
  | nodeStop id => exact h.execNodeStop id
  | nodeRetry id => exact h.schedO _ (.bind_any (fun _ => .ite (.some (h.onNode _ _)) .none))
  | sliceClear c => exact h.execSliceClear c
  | shadowCopy id gran => exact h.execShadowCopy id gran
  | shadowFallback id gran => exact h.execShadowFallback id gran
  | shadowConflict id gran => exact h.execShadowConflict id gran
  | shadowCommit id => exact h.execShadowCommit id
  | shadowCopyBack gran => exact h.execShadowCopyBack gran
  | ckptGranule k => exact h.execCkptGranule k
  | ckptEnd ok => exact h.eventO _ (h.ckptEnd ok)
  | interleaveCommitEnd r => exact h.execInterleaveCommitEnd r
  | tinvEnd => exact h.execTinvEnd
  | winvEnd => exact h.execWinvEnd
  | ctxkillEnd => exact h.execCtxkillEnd
  | ircmdCommit port r v => exact Good.event (.ite h (h.commitRegion r)) _ _
  | tinvGo port v => exact Good.event (.ite h (h.writeTinv v)) _ _
  | ctxkillGo port v => exact Good.event (.ite h (h.writeCtxkill v)) _ _
  | qdbDoorbell port q v => exact Good.event (h.doorbell q v) _ _
  | qcfgWrite port q v => exact Good.event (.ite h (h.writeQcfg q v)) _ _
  | bkcfgCommit port b v => exact Good.event (.ite h (h.writeBkcfg b v)) _ _
  | winvGo port v => exact Good.event (.ite h (h.writeWinv v)) _ _
  | hsemClaim k p0 p1 => exact Good.event (h.claimHsem k p0 p1) _ _
  | hsemRel port k => exact Good.event (h.releaseHsem port k) _ _
  | startctlCold port => exact Good.event (.ite h (h.beginStart false)) _ _
  | startctlWarm port => exact Good.event (.ite h (h.beginStart true)) _ _
  | parkrelGo port k => exact Good.event (.ite h (h.parkRelease k)) _ _
  | logclrGo port n => exact Good.event (.ite h (h.clearLog n)) _ _
  | pwrlimWrite port v => exact Good.event (.ite h (h.writePwrlim v)) _ _
  | registerWrite port t v => exact h.execRegisterWrite port t v
  | powerOn => exact outGood_ite trivial ((h.outside good_reset).onHostMeta _ rfl)
  | powerRemoved => exact Good.event (h.outside good_reset) _ _
  | startStepEnd passed images => exact h.execStartStepEnd passed images
  | managementReady => exact Good.event (h.onHostMeta _ rfl) _ _
  | managementRequest rq => exact h.eventO _ (.ite (h.management rq) .none)
  | getVersion | getCapabilities | negotiateAlgorithms | getDigests | getCertificate | challenge | getMeasurements =>
    exact Good.event (h.onHostMeta _ rfl) _ _
  | hostLinkDown port => exact Good.event (h.onHostMeta _ rfl) _ _
  | hostMemoryAccess acc => exact h.eventO _ (h.hostAccess acc)
  | interruptSend v => exact Good.event (h.onHostMeta _ rfl) _ _
  | fabricLinkDown l => exact h.execFabricLinkDown l
  | flowOff port prio resp => exact Good.event (h.onFab _) _ _
  | flowOn port prio resp => exact Good.event (h.onFab _) _ _
  | flitStarvation port => exact h.eventO _ (.ite (.map_any (fun _ => h.onFab _)) .none)
  | flowDetour dev prio => exact Good.event (h.onFab _) _ _
  | ingressRequest rq => exact h.execIngressRequest rq
  | fabricResponse id cause v poison => exact h.execFabricResponse id cause v poison
  | linkNoRoute id => exact h.eventO _ (h.linkFail id 0x81)
  | linkTimeout id => exact h.eventO _ (h.linkFail id 0x80)
  | mcstMemberWrite id m cause => exact h.execMcstMemberWrite id m cause
  | mcstEnd id => exact h.execMcstEnd id
  | caravanStep id remote => exact h.eventO _ (h.carStep id remote)
  | caravanReturn id => exact h.execCaravanReturn id
  | ftimeTick => exact h.execFtimeTick
  | writePerformed src => exact h.execWritePerformed src
  | fabricLinkUp l => exact h.execFabricLinkUp l
  | hostLinkUp port => exact Good.event (h.onHostMeta _ rfl) _ _
  | coreFaultNotContained c => exact h.execCoreFaultNotContained c
  | waitingBandTimeout id => exact h.schedO _ (.bind_any (fun _ => .ite (.some (h.onNode _ _)) .none))
  | homeAgentSnoop line => exact Good.event (h.onHostMeta _ rfl) _ _
  | ld | st | ldr | vld | vst | vlds | vgld | vsct | vldr | atom | acas | acas128 | barv | barw | fence | port | cpub | ipub | launch
  | ssig | swait | gbar | chkerr | ckpt | fld | fst | fatom | gsetMint | mcst | carav | mjob | mdrn | call | calli | ret | bswap | waite
  | scld => exact h.runSlot ..
  | _ => exact h.runCore ..

/-! ### Acts -/

theorem Good.runList (l : List Instr) : outGood (runList l s) := by
  induction l generalizing s with
  | nil => exact h
  | cons i t ih =>
    have hi := h.exec i
    unfold Machine.runList
    split
    · next e => rw [e] at hi; exact ih hi
    · exact hi

omit h in
/-- Running what an act found keeps the form, where closing its bundle does. -/
theorem outGood_runTodo {close : State → State} (hc : ∀ t, Good t → Good (close t)) {d : Todo} (hd : d.good) :
    outGood (runTodo close d) := by
  cases d with
  | stop t => exact hd
  | one t i => exact Good.exec hd i
  | many t l =>
    have hl := Good.runList hd l
    unfold Machine.runTodo
    dsimp only
    split
    · next e => rw [e] at hl; exact hc _ hl
    · exact hl

theorem Good.fetchCore (c : Nat) : (fetchCore s c).good := by
  have ho : (Machine.openBundle { s with cur := c }).good := Good.openBundle (s := { s with cur := c }) h
  unfold Machine.fetchCore
  dsimp only
  split
  · next e => rw [e] at ho; exact ho
  · next t f e =>
    rw [e] at ho
    have ht : Good t := ho
    split
    · exact ht.takeTrap ..
    · exact ht.onCore _ _
    · split
      · exact ht
      · split <;> exact ht

theorem Good.fetchSteward (n : Nat) : (fetchSteward s n).good := by
  unfold Machine.fetchSteward
  dsimp only
  split
  · exact h
  · split
    · exact Good.haltSteward (s := { s with cur := n }) h ..
    · split
      · exact Good.haltSteward (s := { s with cur := n }) h ..
      · split <;> exact h

theorem Good.runEvent (i : Instr) : outGood (runEvent i s) := by
  have hi := h.exec i
  unfold Machine.runEvent
  split
  · split
    · exact h
    · exact hi
  · exact h

theorem Good.nextAct : Good (nextAct s).2 := by
  unfold Machine.nextAct
  split <;> exact h

/-- Every step keeps the canonical form, whichever act comes next. -/
theorem Good.step : outGood (step s) := by
  have hn := h.nextAct
  unfold Machine.step
  split
  · next e => rw [e] at hn; exact outGood_runTodo (fun _ ht => ht.closeCore) (Good.fetchCore hn _)
  · next e => rw [e] at hn; exact outGood_runTodo (fun _ ht => ht.closeStewardFrame) (Good.fetchSteward hn _)
  · next e => rw [e] at hn; exact Good.runEvent hn _
  · next e => rw [e] at hn; exact Good.sliceError hn ..
  · next t e => rw [e] at hn; exact Good.ite (Good.sendPacket hn ..) hn

omit h in
/-- Settles O57: `Good` is an invariant of `step`. -/
theorem memoryStaysCanonical : Obligations.MemoryStaysCanonical := by
  intro s t hm hc e
  have hs := ((good_iff s).2 ⟨hm, hc⟩).step
  rw [e] at hs
  exact (good_iff t).1 hs

end Sys2Proof.Machine
end

section
/-! The trap of an enabled flag in slots S, V and X (O3): what each instruction writes and raises, and what the bundle then comes to. -/

namespace Sys2Proof.Machine
open Sys2Proof

/-! ### The trap of an enabled flag (R41, R381) -/

/-- The flags that FPC enables at the boundary (R41). -/
def enabledFlags (s : State) : Fl := ((boundary s).csr.fpc.extractLsb' 0 5).setWidth 6

/-- The trap entry that slot `n` takes for flags `fl` instead of committing: FPS has them, nothing else of the bundle is kept. -/
def flagTrapped (s : State) (n cause : Nat) (fl : Fl) : State :=
  takeTrap (onCore (entered s) s.cur (fun k => { k with csr := { k.csr with fps := k.csr.fps ||| fl } })) s.cur cause
    (boundary s).pc (trec (slotBit n) 0 false)

/-- Flags that are not quiet come from an unboosted slot, and one of them is enabled. -/
theorem quiet_eq_false {s : State} {n : Nat} {fl : Fl} :
    quiet s n fl = false ↔ isBoosted s n = false ∧ fl &&& enabledFlags s ≠ 0 := by
  simp [quiet, enabledFlags]

theorem flags_ne_zero {s : State} {n : Nat} {fl : Fl} (hq : quiet s n fl = false) : fl ≠ 0 := by
  rintro rfl
  exact (quiet_eq_false.1 hq).2 (BitVec.zero_and ..)

theorem flags_of_wrote {s : State} {n : Nat} {lat w fl d f} (h : Wrote s n lat w fl d f) (hq : quiet s n fl = false) :
    f.flags = [(n, fl, d)] := by
  rw [h.flags, if_neg]
  rintro (hb | hz)
  · exact Bool.false_ne_true ((quiet_eq_false.1 hq).1.symm.trans hb)
  · exact flags_ne_zero hq hz

theorem orSlots_singleton (n : Nat) : orSlots [n] = slotBit n := by simp [orSlots]

theorem flagTrap_of_wrote {s : State} {n : Nat} {lat w fl d f} (h : Wrote s n lat w fl d f) (hq : quiet s n fl = false) :
    flagTrap f = some (flagCause (fl &&& enabledFlags s) (fl.getLsbD 1 && !d), slotBit n) := by
  have hhot : f.flags.filter (fun e => e.2.1 &&& enabledFlags s != 0) = [(n, fl, d)] := by
    rw [flags_of_wrote h hq, List.filter_eq_self]
    intro e he
    rw [List.mem_singleton.1 he]
    exact bne_iff_ne.2 (quiet_eq_false.1 hq).2
  unfold flagTrap
  rw [h.pre]
  simp only [show ((boundary s).csr.fpc.extractLsb' 0 5).setWidth 6 = enabledFlags s from rfl, hhot]
  simp [orSlots_singleton]

/-- A bundle whose one slot raises an enabled flag traps. -/
theorem finishBundle_flagTrap {s : State} {n : Nat} {lat w fl d f} (h : Wrote s n lat w fl d f) (hq : quiet s n fl = false)
    (hc : f.ctl = .seq) : finishBundle (entered s) f (boundary s) =
      flagTrapped s n (flagCause (fl &&& enabledFlags s) (fl.getLsbD 1 && !d)) fl := by
  have hall : allFlags f = fl := by rw [allFlags_wrote h, (quiet_eq_false.1 hq).1]; rfl
  unfold finishBundle
  rw [slotFault_none h.faults (by simp [hc]), flagTrap_of_wrote h hq, hall, h.pre]
  rfl

/-- The same from the start of the bundle. -/
theorem Clean.runTrap {i : Instr} {n : Nat} {g : Frame → Frame} {s : State} {lat w fl d}
    (h : Clean s i n lat w fl d (g (loneFrame i n (reading s)))) (hs : slotOf i = some n) (hl : lone i s = true)
    (hq : quiet s n fl = false) (hc : (g (loneFrame i n (reading s))).ctl = .seq)
    (hla : (g (loneFrame i n (reading s))).late = []) : runCore i g s =
      .next (flagTrapped s n (flagCause (fl &&& enabledFlags s) (fl.getLsbD 1 && !d)) fl) := by
  unfold runCore
  rw [runSlot_lone hs hl _ rfl h.kept h.stall h.walk h.wrote.resolve (acquireHolds_of_late hla h.wrote.park),
    finishBundle_flagTrap h.wrote hq hc]

/-- The DZ that a floating-point operation raises is its own, so the cause is that of the enabled flags (R41). -/
theorem flagCause_float (fl en : Fl) : flagCause (fl &&& en) (fl.getLsbD 1 && !false) = flagCause (fl &&& en) true := by
  by_cases h : fl[1] = true <;> simp [flagCause, h]

/-- An enabled DZ of an integer division has a cause of its own (R41). -/
theorem flagCause_intDiv : ∀ en : Fl, fDZ &&& en ≠ 0 → flagCause (fDZ &&& en) (fDZ.getLsbD 1 && !true) = 0x45 := by decide

/-! ### Instructions that write one result and raise flags (R40, R125, R129-R133, R143-R183) -/

/-- Slot S issues `i` by writing the scalar `v` to `d` and raising `fl`. -/
def ScalarIssues (s : State) (i : Instr) (d : BitVec 7) (v : Word) (fl : Fl) (intDiv : Bool) : Prop :=
  slotOf i = some 0 ∧ ∃ g : Frame → Frame, exec i s = runCore i g s ∧
    g (loneFrame i 0 (reading s)) = raise (wrS (loneFrame i 0 (reading s)) 0 d v) 0 fl intDiv

/-- Slot V issues `i` by writing the elements of `o` and raising its flags. -/
def VecIssues (s : State) (i : Instr) (o : VecOut) : Prop :=
  slotOf i = some 1 ∧ ∃ g : Frame → Frame, exec i s = runCore i g s ∧
    g (loneFrame i 1 (reading s)) = raise (wrE (loneFrame i 1 (reading s)) 1 o.d o.w o.G o.es) 1 o.fl false

/-- An enabled flag of such an instruction of slot S traps. -/
theorem ScalarIssues.exec_trap {s : State} {i : Instr} {d v fl intDiv} (h : ScalarIssues s i d v fl intDiv)
    (hl : lone i s = true) (hq : quiet s 0 fl = false) :
    exec i s = .next (flagTrapped s 0 (flagCause (fl &&& enabledFlags s) (fl.getLsbD 1 && !intDiv)) fl) := by
  obtain ⟨hs, g, hx, hg⟩ := h
  have hc := ((clean_loneFrame s i 0).wrS d v).raise fl intDiv
  rw [← hg] at hc
  rw [hx]
  exact hc.runTrap hs hl hq (by rw [hg, ctl_raise, ctl_wrS]; rfl) (by rw [hg, late_raise, late_wrS]; rfl)

/-- An enabled flag of such an instruction of slot V traps. -/
theorem VecIssues.exec_trap {s : State} {i : Instr} {o : VecOut} (h : VecIssues s i o) (hl : lone i s = true)
    (hq : quiet s 1 o.fl = false) :
    exec i s = .next (flagTrapped s 1 (flagCause (o.fl &&& enabledFlags s) true) o.fl) := by
  obtain ⟨hs, g, hx, hg⟩ := h
  rw [wrE_eq (s := s) rfl rfl 1] at hg
  have hc := ((clean_loneFrame s i 1).wrV o.d (newGroup s 1 o)).raise o.fl false
  rw [← hg] at hc
  rw [hx, ← flagCause_float]
  exact hc.runTrap hs hl hq (by rw [hg, ctl_raise, ctl_wrV]; rfl) (by rw [hg, late_raise, late_wrV]; rfl)

/-- The answer of FCMP (R131) as the model and as the rule write it. -/
theorem compareWord_eq (o : Option Bool) : (match o with | none => (0x8000000000000000 : Word) | some b => b2w b) =
    (match o with | none => 0x8000000000000000 | some true => 1 | some false => 0) := by
  rcases o with _ | _ | _ <;> rfl

theorem scalarIssues_of_fpResult {s : State} {i : Instr} {d v fl} (h : fpResult s (rdS (reading s) 0) i = some (d, v, fl)) :
    ScalarIssues s i d v fl false := by
  unfold fpResult at h
  dsimp only at h
  split at h <;> cases h
  -- FCLASS raises no flag.
  case h_9 => exact ⟨rfl, _, rfl, (raise_zero ..).symm⟩
  -- FCMP and its rule spell the three answers differently.
  case h_10 x =>
    exact ⟨rfl, _, rfl, congrArg (fun v => raise (wrS (loneFrame (.fcmp x) 0 (reading s)) 0 x.d v) 0 _ false) (compareWord_eq _)⟩
  all_goals exact ⟨rfl, _, rfl, rfl⟩

/-- A division by zero writes the result of R125 and raises DZ as an integer division. -/
theorem scalarIssues_of_divResult {s : State} {i : Instr} {x q z} (h : divResult (rdS (reading s) 0) i = some (x, q, z))
    (hb : rdS (reading s) 0 x.b = 0) : ScalarIssues s i x.d z fDZ true := by
  unfold divResult at h
  split at h <;> cases h
  all_goals exact ⟨rfl, _, rfl, if_pos hb⟩

theorem vecIssues_of_vecConvert {s : State} {i : Instr} {o : VecOut} (h : vecConvert s i = some o) : VecIssues s i o := by
  unfold vecConvert at h
  split at h <;> cases h
  all_goals exact ⟨rfl, _, rfl, rfl⟩

theorem vecIssues_of_vecArith {s : State} {i : Instr} {o : VecOut} (h : vecArith s i = some o) : VecIssues s i o := by
  unfold vecArith at h
  dsimp only at h
  split at h
  -- The shifts, by one scalar or by an element each (R150).
  case h_12 x | h_13 x | h_14 x =>
    split at h <;> cases h
    case isTrue hsb => exact ⟨rfl, _, rfl, if_pos hsb⟩
    case isFalse hsb => exact ⟨rfl, _, rfl, if_neg hsb⟩
  all_goals cases h
  all_goals exact ⟨rfl, _, rfl, rfl⟩

theorem vecIssues_of_vecShape {s : State} {i : Instr} {o : VecOut} (h : vecShape s i = some o) : VecIssues s i o := by
  unfold vecShape at h
  dsimp only at h
  split at h
  -- VBCAST and VSLIDE have two forms each.
  case h_6 x | h_8 x =>
    split at h <;> cases h
    case isTrue hsb => exact ⟨rfl, _, rfl, (if_pos hsb).trans (raise_zero ..).symm⟩
    case isFalse hsb => exact ⟨rfl, _, rfl, (if_neg hsb).trans (raise_zero ..).symm⟩
  all_goals cases h
  -- VRED, VSCAN and VMAXA raise flags, the rearrangements none.
  case h_1 | h_2 | h_3 => exact ⟨rfl, _, rfl, rfl⟩
  all_goals exact ⟨rfl, _, rfl, (raise_zero ..).symm⟩

/-! ### XSEL (R235) -/

/-- XSEL raises the flags of the scale code at once; the code itself is a result exposed to a later bundle. -/
theorem issueXsel_raises (x : XF) (f : Frame) : ∃ es, issueXsel x f = raise { f with now := { f.now with exposed := es } } 5
    (xselCode (xselBlock x) (xselType x) (nth 0 (elems (xselType x).w 1 (rdV f 5 x.a 1)) 0)).2 false := by
  unfold issueXsel
  extract_lets bt t r
  have hb : bt = xselBlock x := by
    have hbits : (x.hi.extractLsb' 2 2).toNat = x.hi.toNat / 4 % 4 := by
      simp [BitVec.extractLsb'_toNat, Nat.shiftRight_eq_div_pow]
    simp only [bt, xselBlock, hbits]
    split <;> simp_all
  have ht : t = xselType x := by
    have hbits : (x.hi.extractLsb' 0 2).toNat = x.hi.toNat % 4 := by simp [BitVec.extractLsb'_toNat]
    simp only [t, xselType, hbits]
    split <;> simp_all
  clear_value bt t
  subst hb ht
  exact ⟨_, rfl⟩

/-- An enabled flag of XSEL traps. -/
theorem xsel_exec_trap {s : State} {x : XF} {fl : Fl} (hl : lone (.xsel x) s = true)
    (hfl : (xselCode (xselBlock x) (xselType x) (nth 0 (elems (xselType x).w 1 (rdV (reading s) 5 x.a 1)) 0)).2 = fl)
    (hq : quiet s 5 fl = false) :
    exec (.xsel x) s = .next (flagTrapped s 5 (flagCause (fl &&& enabledFlags s) true) fl) := by
  obtain ⟨es, hg⟩ := issueXsel_raises x (loneFrame (.xsel x) 5 (reading s))
  rw [show rdV (loneFrame (.xsel x) 5 (reading s)) 5 x.a 1 = rdV (reading s) 5 x.a 1 from rfl, hfl] at hg
  have hc := ((clean_loneFrame s (.xsel x) 5).put [] (fun k => { k with exposed := es })
    (fun k => { k with exposed := es }) rfl).raise fl false
  rw [← flagCause_float]
  refine Clean.runTrap (g := issueXsel x) (hg ▸ hc) rfl hl hq ?_ ?_
  · rw [hg, ctl_raise]; rfl
  · rw [hg, late_raise]; rfl

/-- Settles O3: each of these instructions writes its result and raises its flags in one frame (`ScalarIssues`, `VecIssues`,
`issueXsel_raises`), and a bundle whose slot raises an enabled flag ends in the trap entry instead of its commit. -/
theorem flagTraps : Obligations.FlagTraps := by
  intro s i hl en traps
  refine ⟨fun d v fl h hq => ?_, fun x q z h hb hq => ?_, fun o h hq => ?_, ?_⟩
  · have ht := (scalarIssues_of_fpResult h).exec_trap hl hq
    rwa [flagCause_float] at ht
  · have ht := (scalarIssues_of_divResult h hb).exec_trap hl hq
    rwa [flagCause_intDiv _ (quiet_eq_false.1 hq).2] at ht
  · rcases h with h | h | h
    · exact (vecIssues_of_vecArith h).exec_trap hl hq
    · exact (vecIssues_of_vecConvert h).exec_trap hl hq
    · exact (vecIssues_of_vecShape h).exec_trap hl hq
  · rintro x rfl fl hq
    exact xsel_exec_trap hl rfl hq

end Sys2Proof.Machine
end

section
/-! A write that performs where an interleave region ends inside an atom (O42). -/

namespace Sys2Proof.Machine
open Sys2Proof

/-! ### A store of one atom that crosses the edge of a region (R274, R277) -/

/-- Two bytes of device memory from 0x40000 on, and a store to them. -/
def twoBytes : Piece := ⟨.dmem 0x40000, 2, false⟩
def twoByteStore : MemEnt := ⟨1, 0, .store twoBytes [1, 1] false, false, 0⟩

/-- A powered module in which core 0 holds that store, and whose one interleave region is the byte at 0x40001, which a zero matrix
maps to atom 0. A commit admits no region below 2^30 bytes (R277), but the statement quantifies over every canonical state. -/
def byteRegionState : State :=
  onDram (setCore (onHost State.reset (fun h => { h with power := true })) 0
      { Core.idle with running := true, mem := [twoByteStore] })
    (fun d => { d with regions := [(0, some ⟨0x40001, 0, [], []⟩)] })

/-- Where byte `i` of the store lies. -/
def twoByteLoc (i : Nat) : Nat :=
  locOf byteRegionState (redirect byteRegionState (coreAt byteRegionState 0).node (0x40000 + i))

/-- The two bytes of one atom have locations in two atoms. -/
theorem twoByteLoc_apart : twoByteLoc 0 = 0x40000 ∧ twoByteLoc 1 = 1 := by decide +kernel

theorem twoByteLoc_inj (i j : Nat) (hi : i < 2) (hj : j < 2) (h : twoByteLoc i = twoByteLoc j) : i = j := by
  obtain ⟨h0, h1⟩ := twoByteLoc_apart
  interval_cases i <;> interval_cases j <;> omega

theorem twoByteStore_may : mayPerform byteRegionState 0 twoByteStore.id = true := by decide +kernel

theorem twoByteStore_goes : writeGate byteRegionState (coreAt byteRegionState 0).node true twoBytes.pl = .go := by rfl

/-- The state after the store has performed. -/
def twoBytesStored : State :=
  settle (performStore byteRegionState (.core 0 twoByteStore.id 0) (coreAt byteRegionState 0).node 0 twoBytes [1, 1] false false) 0
    twoByteStore.id twoBytes

/-- The store is accepted as one write to the atom of its first byte: the location of its second byte reads as before. -/
theorem twoBytesStored_second : dByte twoBytesStored.dram (twoByteLoc 1) = 0 := by decide +kernel

/-- Refutes O42: of a store within one atom that crosses the edge of a region of one byte, the second byte does not land at the
location of its address. The statement asks for no region of at least an atom, which every region that R277 admits is. -/
theorem not_writesPerform : ¬ Obligations.WritesPerform := by
  intro h
  obtain ⟨hperforms, -, -, -, hreads⟩ := h byteRegionState rfl
  obtain ⟨hstores, -, -⟩ := hreads rfl
  obtain ⟨-, -, hatoms, -, -⟩ := hstores 0 twoByteStore (.dmem 0x40000) 2 false [1, 1] false rfl rfl twoByteStore_may (by decide)
  obtain ⟨t, ht, hbytes, -⟩ := hatoms 0x40000 rfl rfl twoByteStore_goes twoByteLoc_inj
  have hstored := hperforms 0 twoByteStore twoBytes [1, 1] false rfl rfl twoByteStore_may twoByteStore_goes
  obtain rfl : t = twoBytesStored := Host.Outcome.next.inj (ht.symm.trans hstored)
  exact absurd (twoBytesStored_second.symm.trans (hbytes 1 (by decide))) (by decide)

end Sys2Proof.Machine
end

section
/-! The state at reset (O58). -/

namespace Sys2Proof.Machine
open Sys2Proof

/-- An interrupt vector that no write has touched is masked (R415): the table holds vectors with the mask bit flipped. -/
theorem vMasked_vector_of_unlisted {h : HostSide} {v : Nat} (hv : mget 0 h.vectors v = 0) : (vector h v).getLsbD 96 = true := by
  rw [vector, hv]
  decide

/-- At reset no core is listed, so each reads as one that is idle. -/
theorem coreAt_reset (c : Nat) : coreAt State.reset c = Core.idle := rfl

/-- Settles O58: every table of the reset state is empty, so each key reads as its default. -/
theorem resetState : Obligations.ResetState := by
  have hown : readOwn State.reset 0x08 = 0 ∧ readOwn State.reset 0x18 = 1600 ∧ readOwn State.reset 0x20 = 0 ∧
      readOwn State.reset 0x28 = 0 := by decide
  obtain ⟨hboot, hlim, hpath0, hpath1⟩ := hown
  exact ⟨rfl, rfl, rfl, hboot, hlim, hpath0, hpath1, fun e he => absurd he List.not_mem_nil,
    fun v _ => vMasked_vector_of_unlisted rfl, fun k _ => rfl, fun c => by rw [coreAt_reset]; decide⟩

end Sys2Proof.Machine
end

section
/-! Words and instructions are one to one (O59): per slot, decoding undoes encoding, and a word that decodes to an instruction is its
encoding. -/

namespace Sys2Proof.Machine
open Sys2Proof

/-! ### Decoding an encoding (R61-R67) -/

theorem decS_of_encode {i : Instr} {w : Nat} (hs : slotOf i = some 0) (he : encode i = some w) :
    decS (BitVec.ofNat 40 w) = .ins i := by
  cases i <;> cases hs <;> cases he
  all_goals rw [BitVec.ofNat_toNat, BitVec.setWidth_eq]; unfold decS
  case addi | logi => rw [op_encIF, ifOf_encIF]; rfl
  case li | lih => rw [op_encLIF, lifOf_encLIF]; rfl
  case br | bc | call => rw [op_encBF, bfOf_encBF]; rfl
  all_goals rw [op_encRF, rfOf_encRF]; rfl

theorem decV_of_encode {i : Instr} {w : Nat} (hs : slotOf i = some 1) (he : encode i = some w) :
    decV (BitVec.ofNat 56 w) = .ins i := by
  cases i <;> cases hs <;> cases he
  all_goals rw [BitVec.ofNat_toNat, BitVec.setWidth_eq]; unfold decV; rw [op_encVF, vfOf_encVF]; rfl

theorem decM_of_encode {i : Instr} {w : Nat} (hs : slotOf i = some 2) (he : encode i = some w) :
    decM (BitVec.ofNat 32 w) = .ins i := by
  cases i <;> cases hs <;> cases he
  all_goals rw [BitVec.ofNat_toNat, BitVec.setWidth_eq]; unfold decM; rw [op_encMF, mfOf_encMF]; rfl

theorem decL_of_encode {i : Instr} {w : Nat} (hs : slotOf i = some 3) (he : encode i = some w) :
    decL (BitVec.ofNat 48 w) = .ins i := by
  cases i <;> cases hs <;> cases he
  all_goals rw [BitVec.ofNat_toNat, BitVec.setWidth_eq]; unfold decL; rw [op_encLF, lfOf_encLF]; rfl

/-- Bit 29 tells GSET from GSET.MINT, which share an opcode (R362): a well-formed GSET has it clear, a GSET.MINT set. -/
theorem decA_of_encode {i : Instr} {w : Nat} (hs : slotOf i = some 4) (hw : i.wf = true) (he : encode i = some w) :
    decA (BitVec.ofNat 40 w) = .ins i := by
  cases i <;> cases hs <;> cases he
  all_goals rw [BitVec.ofNat_toNat, BitVec.setWidth_eq]; unfold decA; rw [op_encRF, rfOf_encRF]
  case gset x =>
    simp [Instr.wf, causes, rest0, need] at hw
    rw [hw.2.1]
    rfl
  case gsetMint x =>
    simp [Instr.wf, causes, need] at hw
    rw [hw.1.2]
    rfl
  all_goals rfl

theorem decX_of_encode {i : Instr} {w : Nat} (hs : slotOf i = some 5) (he : encode i = some w) :
    decX (BitVec.ofNat 24 w) = .ins i := by
  cases i <;> cases hs <;> cases he
  all_goals rw [BitVec.ofNat_toNat, BitVec.setWidth_eq]; unfold decX; rw [op_encXF, xfOf_encXF]; rfl

/-! ### Steward moves (R75, R302) -/

/-- The port of trigger code `t` of engine `n`. -/
theorem toNat_enginePort (n : BitVec 2) (t : BitVec 5) : ((2#4 : BitVec 4) ++ n ++ t).toNat = 0x100 + 0x20 * n.toNat + t.toNat := by
  rw [toNat_append_eq, toNat_append_eq]
  simp only [BitVec.toNat_ofNat]
  omega

theorem decMove_encEng {x : MV} {n : BitVec 2} {t : BitVec 5} {i : Instr} (h : engTrig x n t.toNat = some i) :
    decMove (encEng x n t) = i := by
  have hport := toNat_enginePort n t
  have hn : n.toNat < 4 := n.isLt
  have ht : t.toNat < 32 := t.isLt
  unfold decMove encEng
  rw [mvOf_encMV, dst_encMV]
  dsimp only
  split
  case h_23 =>
    have hengine : BitVec.ofNat 2 ((0x100 + 0x20 * n.toNat + t.toNat - 0x100) / 0x20) = n := by
      apply BitVec.eq_of_toNat_eq
      rw [BitVec.toNat_ofNat]
      omega
    have hcode : (0x100 + 0x20 * n.toNat + t.toNat) % 0x20 = t.toNat := by omega
    rw [hport, if_pos (by omega), hengine, hcode, h]
    rfl
  all_goals omega

theorem engTrig_of_not_isTrigger {x : MV} {n : BitVec 2} {p : Nat} (h : isTrigger p = false) (hp : 0x100 ≤ p ∧ p < 0x180) :
    engTrig x n (p % 0x20) = none := by
  simp only [isTrigger, Bool.or_eq_false_iff, Bool.and_eq_false_iff, decide_eq_false_iff_not] at h
  obtain ⟨-, (h | h) | hcode⟩ := h
  · exact absurd hp.1 h
  · exact absurd hp.2 h
  · unfold engTrig
    split
    case h_10 => rfl
    all_goals simp_all

theorem decMove_stewardMove {x : MV} {dst : BitVec 11} (h : isTrigger dst.toNat = false) :
    decMove (encMV x dst) = .stewardMove x dst := by
  unfold decMove
  rw [mvOf_encMV, dst_encMV]
  dsimp only
  split
  case h_23 =>
    split
    case isTrue hp => rw [engTrig_of_not_isTrigger h hp]; rfl
    case isFalse => rfl
  all_goals simp_all [isTrigger]

theorem decMove_of_encode {i : Instr} {w : Nat} (hs : slotOf i = none) (hw : i.wf = true) (hn : i ≠ .nop)
    (he : encode i = some w) : decMove (BitVec.ofNat 24 w) = i := by
  cases i <;> cases hs <;> cases he
  case nop => exact absurd rfl hn
  all_goals rw [BitVec.ofNat_toNat, BitVec.setWidth_eq]
  case stewardMove x dst =>
    simp only [Instr.wf, Bool.and_eq_true, Bool.not_eq_true'] at hw
    exact decMove_stewardMove hw.2
  case bkeLd | bkeSt | bkeMv8 | bkeMv4 | bkeMvb | bkeRed | bkeClr | deqCol | accRd => exact decMove_encEng rfl
  all_goals unfold decMove; rw [mvOf_encMV, dst_encMV]; rfl

/-! ### Encoding what was decoded -/

/-- A field of `n` bits is named by its number. -/
theorem eq_ofNat_of_toNat {n : Nat} {b : BitVec n} {k : Nat} (h : b.toNat = k) : BitVec.ofNat n k = b := by
  rw [← h, BitVec.ofNat_toNat, BitVec.setWidth_eq]

/-- An opcode that no map assigns holds no instruction (R53, R68). -/
theorem noOp_ne_ins {n : Nat} (w : BitVec n) (i : Instr) : noOp w ≠ .ins i := by
  unfold noOp
  split_ifs <;> simp

theorem encode_of_decS {i : Instr} {w : BitVec 40} (h : decS w = .ins i) : encode i = some w.toNat := by
  have hrf {n : Nat} (hop : (w.extractLsb' 0 8).toNat = n) : (encRF (BitVec.ofNat 8 n) (rfOf w)).toNat = w.toNat := by
    rw [eq_ofNat_of_toNat hop, encRF_rfOf]
  have hif {n : Nat} (hop : (w.extractLsb' 0 8).toNat = n) : (encIF (BitVec.ofNat 8 n) (ifOf w)).toNat = w.toNat := by
    rw [eq_ofNat_of_toNat hop, encIF_ifOf]
  have hlif {n : Nat} (hop : (w.extractLsb' 0 8).toNat = n) : (encLIF (BitVec.ofNat 8 n) (lifOf w)).toNat = w.toNat := by
    rw [eq_ofNat_of_toNat hop, encLIF_lifOf]
  have hbf {n : Nat} (hop : (w.extractLsb' 0 8).toNat = n) : (encBF (BitVec.ofNat 8 n) (bfOf w)).toNat = w.toNat := by
    rw [eq_ofNat_of_toNat hop, encBF_bfOf]
  unfold decS at h
  split at h
  case h_63 => exact absurd h (noOp_ne_ins w i)
  all_goals cases h
  -- ADDI and LOGI, then LI and LIH, then BR, BC and CALL; the others have format R.
  case h_27 hop | h_28 hop => exact congrArg some (hif hop)
  case h_29 hop | h_30 hop => exact congrArg some (hlif hop)
  case h_47 hop | h_48 hop | h_49 hop => exact congrArg some (hbf hop)
  all_goals exact congrArg some (hrf ‹_›)

theorem encode_of_decV {i : Instr} {w : BitVec 56} (h : decV w = .ins i) : encode i = some w.toNat := by
  have hvf {n : Nat} (hop : (w.extractLsb' 0 8).toNat = n) : (encVF (BitVec.ofNat 8 n) (vfOf w)).toNat = w.toNat := by
    rw [eq_ofNat_of_toNat hop, encVF_vfOf]
  unfold decV at h
  split at h
  case h_53 => exact absurd h (noOp_ne_ins w i)
  all_goals cases h; exact congrArg some (hvf ‹_›)

theorem encode_of_decM {i : Instr} {w : BitVec 32} (h : decM w = .ins i) : encode i = some w.toNat := by
  have hmf {n : Nat} (hop : (w.extractLsb' 0 8).toNat = n) : (encMF (BitVec.ofNat 8 n) (mfOf w)).toNat = w.toNat := by
    rw [eq_ofNat_of_toNat hop, encMF_mfOf]
  unfold decM at h
  split at h
  case h_8 => exact absurd h (noOp_ne_ins w i)
  all_goals cases h; exact congrArg some (hmf ‹_›)

theorem encode_of_decL {i : Instr} {w : BitVec 48} (h : decL w = .ins i) : encode i = some w.toNat := by
  have hlf {n : Nat} (hop : (w.extractLsb' 0 8).toNat = n) : (encLF (BitVec.ofNat 8 n) (lfOf w)).toNat = w.toNat := by
    rw [eq_ofNat_of_toNat hop, encLF_lfOf]
  unfold decL at h
  split at h
  case h_20 => exact absurd h (noOp_ne_ins w i)
  all_goals cases h; exact congrArg some (hlf ‹_›)

theorem encode_of_decA {i : Instr} {w : BitVec 40} (h : decA w = .ins i) : encode i = some w.toNat := by
  have hrf {n : Nat} (hop : (w.extractLsb' 0 8).toNat = n) : (encRF (BitVec.ofNat 8 n) (rfOf w)).toNat = w.toNat := by
    rw [eq_ofNat_of_toNat hop, encRF_rfOf]
  unfold decA at h
  split at h
  case h_13 => exact absurd h (noOp_ne_ins w i)
  case h_8 hop => split at h <;> (cases h; exact congrArg some (hrf hop))
  all_goals cases h; exact congrArg some (hrf ‹_›)

theorem encode_of_decX {i : Instr} {w : BitVec 24} (h : decX w = .ins i) : encode i = some w.toNat := by
  have hxf {n : Nat} (hop : (w.extractLsb' 0 8).toNat = n) : (encXF (BitVec.ofNat 8 n) (xfOf w)).toNat = w.toNat := by
    rw [eq_ofNat_of_toNat hop, encXF_xfOf]
  unfold decX at h
  split at h
  case h_4 => exact absurd h (noOp_ne_ins w i)
  all_goals cases h; exact congrArg some (hxf ‹_›)

theorem encode_of_engTrig {x : MV} {n : BitVec 2} {t : Nat} {i : Instr} (h : engTrig x n t = some i) :
    encode i = some (encEng x n (BitVec.ofNat 5 t)).toNat := by
  unfold engTrig at h
  split at h <;> cases h
  all_goals rfl

theorem encode_decMove (w : BitVec 24) : encode (decMove w) = some w.toNat := by
  have hmv {n : Nat} (hdst : (w.extractLsb' 0 11).toNat = n) : (encMV (mvOf w) (BitVec.ofNat 11 n)).toNat = w.toNat := by
    rw [eq_ofNat_of_toNat hdst, encMV_mvOf]
  have hplain : encode (.stewardMove (mvOf w) (w.extractLsb' 0 11)) = some w.toNat :=
    congrArg (fun v : BitVec 24 => some v.toNat) (encMV_mvOf w)
  unfold decMove
  dsimp only
  split
  case h_23 =>
    split
    case isTrue hp =>
      generalize hi : engTrig _ _ _ = o
      cases o with
      | none => exact hplain
      | some i =>
        have hport : (2#4 : BitVec 4) ++ BitVec.ofNat 2 (((w.extractLsb' 0 11).toNat - 0x100) / 0x20) ++
            BitVec.ofNat 5 ((w.extractLsb' 0 11).toNat % 0x20) = w.extractLsb' 0 11 := by
          apply BitVec.eq_of_toNat_eq
          rw [toNat_enginePort]
          simp only [BitVec.toNat_ofNat]
          omega
        rw [Option.getD_some, encode_of_engTrig hi, encEng, hport, encMV_mvOf]
    case isFalse => exact hplain
  all_goals exact congrArg some (hmv ‹_›)

/-- Settles O59: per slot, the decoder finds the opcode and the fields that the encoder put there, and an assigned opcode with its
fields is the whole word. -/
theorem encodingsRoundTrip : Obligations.EncodingsRoundTrip := by
  refine ⟨fun i w hw he hn => ⟨fun hs => decS_of_encode hs he, fun hs => decV_of_encode hs he, fun hs => decM_of_encode hs he,
      fun hs => decL_of_encode hs he, fun hs => decA_of_encode hs hw he, fun hs => decX_of_encode hs he,
      fun hs => decMove_of_encode hs hw hn he⟩,
    fun i => ⟨fun _ => encode_of_decS, fun _ => encode_of_decV, fun _ => encode_of_decM, fun _ => encode_of_decL,
      fun _ => encode_of_decA, fun _ => encode_of_decX, ?_⟩⟩
  rintro w rfl
  exact encode_decMove w

end Sys2Proof.Machine
end

section
/-! A resolving branch that performs a deferred load of device memory (O56). -/

namespace Sys2Proof.Machine
open Sys2Proof

/-! ### A deferred record at a row of device memory (R113, R287, R288) -/

/-- The deferred record of `LD s3, [s1]`, boosted, at 0x40000000. -/
def deferredLoad : DefRec :=
  ⟨3, encLF 1 ⟨9, 0, 0, 0, 1, 3⟩, 0x18, 1, 0x40000000, 0, 0xE000, ⟨.s, [3], 64, 1, false, 3, true⟩, []⟩

/-- A powered module whose core 0 is back from the trap of that record, with a readable page of device memory at its address: the page
at 0, whose atoms lie in bank 0, with every row closed. -/
def deferredState : State :=
  setCore (onHost State.reset (fun h => { h with power := true })) 0
    { Core.idle with
      running := true, tlb := [⟨0, 0x40000000, 4, 0x7⟩],
      shadow := { Shadow.none with retry := true, recs := [deferredLoad] } }

/-- A branch by four bundles that resolves as predicted. -/
def resolvingBranch : Instr := .br ⟨4, 1, 0, 0, 0⟩

theorem deferredState_meets : lone resolvingBranch deferredState = true ∧ slotOf resolvingBranch = some 0 ∧
    coresCanon deferredState = true := by decide +kernel

theorem deferredState_closed : (bank deferredState.dram 0).row = .closed := by rfl

/-- The branch reads the record's address again, and so opens its row for the hosts. -/
theorem resolvingBranch_opens : ∃ t, exec resolvingBranch deferredState = .next t ∧ (bank t.dram 0).row = .host 0 := by
  have hrow : (match exec resolvingBranch deferredState with
      | .next t => (bank t.dram 0).row
      | _ => .closed) = .host 0 := by decide +kernel
  split at hrow
  case h_1 t ht => exact ⟨t, ht, hrow⟩
  case h_2 => cases hrow

/-- Refutes O56: a branch that resolves as predicted performs the deferred records of the shadow again, and the read of one in device
memory opens a row of the DRAM. -/
theorem not_coreInstructionsKeepOthers : ¬ Obligations.CoreInstructionsKeepOthers := by
  intro h
  obtain ⟨hlone, hslot, hcanon⟩ := deferredState_meets
  obtain ⟨t, ht, hrow⟩ := resolvingBranch_opens
  obtain ⟨-, -, -, hdram, -⟩ := h deferredState t resolvingBranch 0 hlone hslot (by decide) hcanon (by simp [resolvingBranch])
    (by simp [resolvingBranch]) ht
  rw [hdram, deferredState_closed] at hrow
  cases hrow

end Sys2Proof.Machine
end

section
/-! A step runs what the next act names (O32, O33), and words written out from the encoding tables (O60). -/

namespace Sys2Proof.Machine
open Sys2Proof

/-! ### A core's bundle (R54, R74, R93, R98) -/

section
variable {t : State} {c : Nat} (hcan : canIssue { t with cur := c } = true)
include hcan

theorem fetchCore_of_fault {cause info : Nat}
    (hf : fetchAt (entered { t with cur := c }) c (coreAt (entered { t with cur := c }) c) = .fault cause info) :
    fetchCore t c = .stop (takeTrap (entered { t with cur := c }) c cause (coreAt (entered { t with cur := c }) c).pc
      (trec 0 info false)) := by
  simp only [fetchCore, openBundle_of_canIssue hcan, hf]

theorem fetchCore_of_miss {l : Nat}
    (hf : fetchAt (entered { t with cur := c }) c (coreAt (entered { t with cur := c }) c) = .miss l) :
    fetchCore t c = .stop (onCore (entered { t with cur := c }) c (fun k => bump 1 { k with fetchMiss := some l })) := by
  simp only [fetchCore, openBundle_of_canIssue hcan, hf]

section
variable {w : BitVec 256}
    (hf : fetchAt (entered { t with cur := c }) c (coreAt (entered { t with cur := c }) c) = .bytes w)
include hf

theorem fetchCore_of_badOpcodes (hbad : badOpcodes (slotsOf (decBundle w)) ≠ 0) :
    fetchCore t c = .one { entered { t with cur := c } with hdr := (decBundle w).hdr }
      (.illegalOpcode (badOpcodes (slotsOf (decBundle w)))) := by
  simp only [fetchCore, openBundle_of_canIssue hcan, hf, if_pos hbad]

theorem fetchCore_of_empty (hl : slotsOf (decBundle w) = []) :
    fetchCore t c = .one { entered { t with cur := c } with hdr := (decBundle w).hdr } .nop := by
  simp only [fetchCore, openBundle_of_canIssue hcan, hf, hl]
  rfl

theorem fetchCore_of_single {n : Nat} {i : Instr} (hl : slotsOf (decBundle w) = [(n, .ins i)]) :
    fetchCore t c = .one { entered { t with cur := c } with hdr := (decBundle w).hdr } i := by
  simp only [fetchCore, openBundle_of_canIssue hcan, hf, hl]
  rfl

theorem fetchCore_of_several (hgood : badOpcodes (slotsOf (decBundle w)) = 0) (hne : slotsOf (decBundle w) ≠ [])
    (hmany : ∀ n i, slotsOf (decBundle w) ≠ [(n, .ins i)]) :
    fetchCore t c = .many
      { entered { t with cur := c } with
        hdr := (decBundle w).hdr
        frame := some { reading { t with cur := c } with
          hdr := (decBundle w).hdr, enc := badFields (slotsOf (decBundle w)),
          used := orSlots ((badFields (slotsOf (decBundle w))).map (·.1)) } }
      (instrsOf (memOrder (slotsOf (decBundle w)))) := by
  simp only [fetchCore, openBundle_of_canIssue hcan, hf, if_neg (not_not.2 hgood)]

end
end

/-- Settles O32: once the boundary is past, the step runs what `fetchCore` finds at the pc. -/
theorem stepRunsBundle : Obligations.StepRunsBundle := by
  intro s t c hact u hcan v
  have hstep : step s = runTodo closeCore (fetchCore t c) := by rw [step, hact]
  rw [hstep]
  refine ⟨fun cause info hf => ?_, fun l hf => ?_, fun w hf => ⟨fun hbad => ?_, fun hl => ?_, fun n i hl => ?_, fun hgood hne hmany => ?_⟩⟩
  · rw [fetchCore_of_fault hcan hf]; rfl
  · rw [fetchCore_of_miss hcan hf]; rfl
  · rw [fetchCore_of_badOpcodes hcan hf hbad]; rfl
  · rw [fetchCore_of_empty hcan hf hl]; rfl
  · rw [fetchCore_of_single hcan hf hl]; rfl
  · rw [fetchCore_of_several hcan hf hgood hne hmany]; rfl

/-! ### A Steward's bundle, and events (R75, R78) -/

/-- The bundle at a Steward's pc, and its moves but for the null moves (R75). -/
def nextBundle (k : Steward) : BitVec 192 := BitVec.ofNat 192 (leNat (bytesAt k.imem (24 * k.pc) 24))
def nextMoves (k : Steward) : List Instr := (decMoves (nextBundle k)).filter (fun i => i != .stewardMove ⟨0, 0⟩ 0)

section
variable {t : State} {n : Nat} (hrun : (stewardAt { t with cur := n } n).running = true)
include hrun

theorem openSteward_of_running : openSteward { t with cur := n } =
    some ⟨n, stewardAt { t with cur := n } n, stewardAt { t with cur := n } n, false, false, none, none⟩ := if_pos hrun

theorem fetchSteward_of_pc (hpc : 682 ≤ (stewardAt { t with cur := n } n).pc) :
    fetchSteward t n = .stop (haltSteward { t with cur := n } n 0x61 0 nowhere) := by
  simp only [fetchSteward, openSteward_of_running hrun, if_pos hpc]

variable (hpc : (stewardAt { t with cur := n } n).pc < 682)
include hpc

theorem fetchSteward_of_illegal (hill : stewardIllegal (nextBundle (stewardAt { t with cur := n } n)) ≠ 0) :
    fetchSteward t n =
      .stop (haltSteward { t with cur := n } n 0x0A (stewardIllegal (nextBundle (stewardAt { t with cur := n } n))) nowhere) := by
  unfold nextBundle at hill ⊢
  simp only [fetchSteward, openSteward_of_running hrun, if_neg (not_le.2 hpc), if_pos hill]

variable (hleg : stewardIllegal (nextBundle (stewardAt { t with cur := n } n)) = 0)
include hleg

theorem fetchSteward_of_empty (hl : nextMoves (stewardAt { t with cur := n } n) = []) :
    fetchSteward t n = .one { t with cur := n } (.stewardMove ⟨0, 0⟩ 0) := by
  unfold nextMoves nextBundle at hl
  unfold nextBundle at hleg
  simp only [fetchSteward, openSteward_of_running hrun, if_neg (not_le.2 hpc), if_neg (not_not.2 hleg), hl]

theorem fetchSteward_of_single {i : Instr} (hl : nextMoves (stewardAt { t with cur := n } n) = [i]) :
    fetchSteward t n = .one { t with cur := n } i := by
  unfold nextMoves nextBundle at hl
  unfold nextBundle at hleg
  simp only [fetchSteward, openSteward_of_running hrun, if_neg (not_le.2 hpc), if_neg (not_not.2 hleg), hl]

theorem fetchSteward_of_several {l : List Instr} (hl : nextMoves (stewardAt { t with cur := n } n) = l) (htwo : 2 ≤ l.length) :
    fetchSteward t n = .many
      { t with
        cur := n
        sframe := some ⟨n, stewardAt { t with cur := n } n, stewardAt { t with cur := n } n, false, false, none, none⟩ }
      (l.filter isPlainMove ++ l.filter (fun i => !isPlainMove i)) := by
  rcases l with _ | ⟨i, _ | ⟨j, l⟩⟩
  · cases htwo
  · exact absurd htwo (by simp)
  unfold nextMoves nextBundle at hl
  unfold nextBundle at hleg
  simp only [fetchSteward, openSteward_of_running hrun, if_neg (not_le.2 hpc), if_neg (not_not.2 hleg), hl]

end

theorem runEvent_of_next {i : Instr} {t u : State} (hi : isEvent i = true) (h : exec i t = .next u) : runEvent i t = .next u := by
  simp only [runEvent, if_pos hi, h]

/-- An event that is not enabled is passed over. -/
theorem runEvent_of_notEnabled {i : Instr} {t : State} {e : String} (hi : isEvent i = true)
    (h : exec i t = .refused (.notEnabled e)) : runEvent i t = .next t := by
  simp only [runEvent, if_pos hi, h]

/-- Settles O33: a Steward's bundle runs as `fetchSteward` finds it at the pc, an event of the agenda as `runEvent` says. -/
theorem stepRunsMovesAndEvents : Obligations.StepRunsMovesAndEvents := by
  intro s t
  refine ⟨?_, fun i hact hi => ?_, fun c a bits hact => ?_, fun id m hact => ?_⟩
  · intro n hact u k w ms hrun
    have hstep : step s = runTodo closeStewardFrame (fetchSteward t n) := by rw [step, hact]
    rw [hstep]
    refine ⟨fun hpc => ?_, fun hpc hill => ?_, fun hpc hleg => ⟨fun hl => ?_, fun i hl => ?_, fun htwo => ?_⟩⟩
    · rw [fetchSteward_of_pc hrun hpc]; rfl
    · rw [fetchSteward_of_illegal hrun hpc hill]; rfl
    · rw [fetchSteward_of_empty hrun hpc hleg hl]; rfl
    · rw [fetchSteward_of_single hrun hpc hleg hl]; rfl
    · rw [fetchSteward_of_several (l := ms) hrun hpc hleg rfl htwo]; clear_value ms; rfl
  · have hstep : step s = runEvent i t := by rw [step, hact]
    rw [hstep]
    exact ⟨fun u => runEvent_of_next hi, fun e => runEvent_of_notEnabled hi⟩
  · rw [step, hact]
  · rw [step, hact]

/-! ### Words of the encoding tables -/

/-- Settles O60: each word decodes by its opcode's row and its fields. -/
theorem decodedWords : Obligations.DecodedWords := by
  unfold Obligations.DecodedWords
  decide

end Sys2Proof.Machine
end

section
/-! What the effect of a slot leaves for the checks of its bundle (R69-R74): the core before the bundle, the header, and what each slot
names. -/

namespace Sys2Proof.Machine
open Sys2Proof

/-! ### What the checks look at -/

/-- What the checks of R69-R74 and R102 see of a frame. -/
def checks (f : Frame) : Core × BitVec 16 × BitVec 6 × List (Nat × Nat) × List (Nat × RFile × Nat) ×
    List (RFile × Nat × Nat × Nat) × List (Nat × Instr) := (f.pre, f.hdr, f.used, f.enc, f.writes, f.ports, f.slots)

theorem checks_eq_iff {f g : Frame} : checks f = checks g ↔ f.pre = g.pre ∧ f.hdr = g.hdr ∧ f.used = g.used ∧ f.enc = g.enc ∧
    f.writes = g.writes ∧ f.ports = g.ports ∧ f.slots = g.slots := by
  simp only [checks, Prod.mk.injEq]

/-- They see no result, fault, wait or write of a slot. -/
@[simp] theorem checks_update (f : Frame) (now : Core) (faults : List (Nat × Nat × Nat)) (stall : Bool)
    (flags : List (Nat × BitVec 6 × Bool)) (bflags : BitVec 6) (bfdz : Bool) (csrw : Option (Nat × Word)) (late : List Late) (ctl : Ctl)
    (resolve : Option Bool) (park : Option Park) (walk : List (Nat × Bool)) (chkfail : Option Nat)
    (reads : List (Nat × List Byte × Bool)) (eaten : Nat) :
    checks { f with
      now := now, faults := faults, stall := stall, flags := flags, bflags := bflags, bfdz := bfdz, csrw := csrw, late := late, ctl := ctl,
      resolve := resolve, park := park, walk := walk, chkfail := chkfail, reads := reads, eaten := eaten } = checks f := rfl

@[simp] theorem checks_setLat (f : Frame) (k : Nat) (v : Vec) : checks (setLat f k v) = checks f := rfl
@[simp] theorem checks_faultAt (f : Frame) (k cause info : Nat) : checks (faultAt f k cause info) = checks f := rfl
@[simp] theorem checks_pushMem (f : Frame) (op : MemOp) : checks (pushMem f op) = checks f := rfl
@[simp] theorem checks_acquire (f : Frame) : checks (acquire f) = checks f := rfl
@[simp] theorem checks_noteRead (k : Nat) (r : List Byte × Bool) (f : Frame) : checks (noteRead k r f) = checks f := rfl
@[simp] theorem checks_owe (f : Frame) (id : Nat) (d : LateDst) : checks (owe f id d) = checks f := rfl
@[simp] theorem checks_pushLate (f : Frame) (op : MemOp) (d : LateDst) : checks (pushLate f op d) = checks f := rfl
@[simp] theorem checks_oweToken (f : Frame) (d : BitVec 7) : checks (oweToken f d) = checks f := rfl
@[simp] theorem checks_wrP (f : Frame) (k p : Nat) (v : BitVec 16) : checks (wrP f k p v) = checks f := rfl
@[simp] theorem checks_wrX (f : Frame) (k x : Nat) (v : BitVec 12) : checks (wrX f k x v) = checks f := rfl

@[simp] theorem checks_wrS (f : Frame) (k : Nat) (d : BitVec 7) (v : Word) : checks (wrS f k d v) = checks f := by
  unfold wrS; split <;> rfl
@[simp] theorem checks_wrV (f : Frame) (k : Nat) (d : BitVec 7) (vs : List Vec) : checks (wrV f k d vs) = checks f := by
  unfold wrV; split <;> rfl
@[simp] theorem checks_wrE (f : Frame) (k : Nat) (d : BitVec 7) (w G : Nat) (es : List (Option Nat)) :
    checks (wrE f k d w G es) = checks f := checks_wrV ..
@[simp] theorem checks_raise (f : Frame) (k : Nat) (fl : Fl) (d : Bool) : checks (raise f k fl d) = checks f := by
  unfold raise; split_ifs <;> rfl
@[simp] theorem checks_eat (f : Frame) (b : Bool) : checks (eat f b) = checks f := by unfold eat; split <;> rfl
@[simp] theorem checks_tokAcquire (f : Frame) (u : Uses) : checks (tokAcquire f u) = checks f := by
  unfold tokAcquire; dsimp only; split <;> rfl
@[simp] theorem checks_parkOn (s : State) (f : Frame) (k : Nat) (kind : ParkKind) (dl : Option Nat) :
    checks (parkOn s f k kind dl) = checks f := by unfold parkOn; split <;> rfl

/-! ### Effects built from others -/

theorem checks_gateLoad {f g : Frame} (hg : checks g = checks f) : checks (gateLoad f g) = checks f := by
  unfold gateLoad; split <;> [rfl; exact hg]
theorem checks_gateWrite {f g : Frame} (hg : checks g = checks f) : checks (gateWrite f g) = checks f := by
  unfold gateWrite; split <;> [rfl; exact hg]
theorem checks_withPieces {s : State} {f : Frame} {acc : Acc} {align : Nat} {els : List (Nat × Nat)} {flt : Nat → Nat → Frame}
    {g : List Piece → Frame} (hf : ∀ c i, checks (flt c i) = checks f) (hg : ∀ ps, checks (g ps) = checks f) :
    checks (withPieces s f acc align els flt g) = checks f := by
  unfold withPieces
  split
  · split <;> [rfl; exact hg _]
  · exact hf _ _
  · rfl
theorem checks_readSync {s : State} {f : Frame} {ps : List Piece} {g : State → Frame} (hg : ∀ t, checks (g t) = checks f) :
    checks (readSync s f ps g) = checks f := by
  unfold readSync
  split <;> [exact hg _; rfl]
theorem checks_readCard {s : State} {f : Frame} {k : Nat} {ea : Word} {align n : Nat} {g : List Byte × Bool → Frame}
    (hg : ∀ r, checks (g r) = checks f) : checks (readCard s f k ea align n g) = checks f := by
  unfold readCard
  split
  · exact hg _
  · exact checks_gateLoad (checks_withPieces (fun _ _ => rfl) fun ps => checks_readSync fun t => hg _)
theorem checks_withTiles {f g : Frame} {ts : List Nat} (hg : checks g = checks f) : checks (withTiles f ts g) = checks f := by
  unfold withTiles; split <;> [rfl; exact hg]
theorem checks_mxRoom {f g : Frame} (hg : checks g = checks f) : checks (mxRoom f g) = checks f := by
  unfold mxRoom; split <;> [rfl; exact hg]
theorem checks_fabCheck {s : State} {f g : Frame} {k : Nat} {fa : Word} {n : Nat} (hg : checks g = checks f) :
    checks (fabCheck s f k fa n g) = checks f := by
  unfold fabCheck; split_ifs <;> [rfl; rfl; exact hg]

/-! ### Slot S -/

theorem checks_sDiv (x : RF) (f : Frame) (z : Word → Word) (g : Word → Word → Word) : checks (sDiv x f z g) = checks f := by
  unfold sDiv; dsimp only; split <;> simp
theorem checks_wrF (f : Frame) (d : BitVec 7) (r : Nat × Fl) : checks (wrF f d r) = checks f := by simp [wrF]
theorem checks_resolveBr (x : BF) (f : Frame) (ok : Bool) : checks (resolveBr x f ok) = checks f := by
  unfold resolveBr; split <;> rfl
theorem checks_pushCall (s : State) (f : Frame) (t : BitVec 48) (b : Nat) : checks (pushCall s f t b) = checks f := by
  unfold pushCall; dsimp only; split_ifs <;> rfl
theorem checks_popCall (f : Frame) (e : Word) (k : Core) (b : Nat) : checks (popCall f e k b) = checks f := by
  unfold popCall; split <;> rfl
theorem checks_openLoop (f : Frame) (n e : Nat) (rot : Bool) : checks (openLoop f n e rot) = checks f := by
  unfold openLoop; dsimp only; split_ifs <;> rfl
theorem checks_issueLoop (x : RF) (f : Frame) : checks (issueLoop x f) = checks f := by
  unfold issueLoop; dsimp only; split <;> [rfl; exact checks_openLoop ..]
theorem checks_issueLexit (x : RF) (f : Frame) : checks (issueLexit x f) = checks f := by
  unfold issueLexit; split <;> rfl
theorem checks_issueLidx (x : RF) (f : Frame) : checks (issueLidx x f) = checks f := by
  unfold issueLidx; dsimp only; split <;> simp
theorem checks_issueBswap (x : RF) (s : State) (f : Frame) : checks (issueBswap x s f) = checks f := by
  unfold issueBswap; split <;> rfl
theorem checks_issueRet (x : RF) (s : State) (f : Frame) : checks (issueRet x s f) = checks f := by
  unfold issueRet
  dsimp only
  split
  · exact checks_popCall ..
  · split_ifs <;> [rfl; rfl; rfl; exact checks_popCall ..]
theorem checks_issueWaite (x : RF) (s : State) (f : Frame) : checks (issueWaite x s f) = checks f := by
  unfold issueWaite
  dsimp only
  split_ifs
  · simp
  · simp
  · simp
  · split <;> simp

/-- A register target is misaligned, or leaves the checks alone (R97). -/
theorem checks_issueJmpi (x : RF) (f : Frame) :
    checks (issueJmpi x f) = checks f ∨ checks (issueJmpi x f) = checks (badTarget f) := by
  unfold issueJmpi; split <;> [exact .inl rfl; exact .inr rfl]
theorem checks_issueCalli (x : RF) (s : State) (f : Frame) :
    checks (issueCalli x s f) = checks f ∨ checks (issueCalli x s f) = checks (badTarget f) := by
  unfold issueCalli; split <;> [exact .inl (checks_pushCall ..); exact .inr rfl]

/-! ### Slot V -/

theorem checks_vfin (f : Frame) (x : VF) (rs : List (Nat × Fl)) : checks (vfin f x rs) = checks f := by simp [vfin]
theorem checks_vshift (x : VF) (f : Frame) (g : Nat → Nat → Nat → Nat) : checks (vshift x f g) = checks f := by
  unfold vshift; split <;> exact checks_vfin ..
theorem checks_raise_wrE (f : Frame) (d : BitVec 7) (w G : Nat) (es : List (Option Nat)) (fl : Fl) :
    checks (raise (wrE f 1 d w G es) 1 fl false) = checks f := by simp
theorem checks_issueVpart (x : VF) (f : Frame) : checks (issueVpart x f) = checks f := by
  unfold issueVpart; dsimp only; split <;> simp
theorem checks_issueVbcast (x : VF) (f : Frame) : checks (issueVbcast x f) = checks f := by
  unfold issueVbcast; dsimp only; split <;> exact checks_wrE ..
theorem checks_issueVextr (x : VF) (f : Frame) : checks (issueVextr x f) = checks f := by
  unfold issueVextr; dsimp only; split <;> exact checks_wrS ..
theorem checks_issueVslide (x : VF) (f : Frame) : checks (issueVslide x f) = checks f := by
  unfold issueVslide; dsimp only; split <;> exact checks_wrE ..

/-! ### Slots M and X -/

theorem checks_issueMjob (x : MF) (s : State) (f : Frame) : checks (issueMjob x s f) = checks f := by
  refine checks_mxRoom (checks_readCard fun r => ?_)
  split_ifs <;> [rfl; rfl; exact checks_withTiles rfl]
theorem checks_issueMdrn (x : MF) (s : State) (f : Frame) : checks (issueMdrn x s f) = checks f := by
  refine checks_mxRoom (checks_readCard fun r => ?_)
  dsimp only
  split <;> [rfl; exact checks_withTiles rfl]
theorem checks_issueMwr (x : MF) (f : Frame) : checks (issueMwr x f) = checks f := by
  refine checks_withTiles ?_
  split <;> simp
theorem checks_issueMwait (x : MF) (f : Frame) : checks (issueMwait x f) = checks f := by
  unfold issueMwait; dsimp only; split
  · split <;> rfl
  · split <;> rfl

theorem checks_expose (s : State) (f : Frame) (kind : ExpKind) (d : LateDst) (off : Nat) (ps : List Piece) :
    checks (expose s f kind d off ps) = checks f := by
  unfold expose
  dsimp only
  split
  · rfl
  · split <;> rfl
theorem checks_issueScld (x : XF) (s : State) (f : Frame) : checks (issueScld x s f) = checks f := by
  unfold issueScld
  dsimp only
  split
  · exact checks_expose ..
  · exact checks_gateLoad (checks_withPieces (fun _ _ => rfl) fun _ => checks_expose ..)

/-! ### Slot L -/

theorem checks_loadNow (f : Frame) (k : Nat) (x : LF) (d : LateDst) (r : List Byte × Bool) : checks (loadNow f k x d r) = checks f := by
  unfold loadNow; dsimp only; split_ifs <;> simp
theorem checks_loadFault (f : Frame) (k : Nat) (d : LateDst) (r : Saved) (cause info : Nat) :
    checks (loadFault f k d r cause info) = checks f := by
  unfold loadFault; dsimp only; split_ifs <;> rfl
theorem checks_loadAt (x : LF) (s : State) (f : Frame) (d : LateDst) (align : Nat) (els : List (Nat × Nat)) (r : Saved) :
    checks (loadAt x s f d align els r) = checks f := by
  unfold loadAt
  split
  · exact checks_loadNow ..
  · refine checks_gateLoad (checks_withPieces (checks_loadFault f 3 d r) fun ps => ?_)
    split
    · exact checks_loadNow ..
    · rfl
theorem checks_arriveAt (s : State) (f : Frame) (d : LateDst) (nwb : Bool) (n G align : Nat) (els : List (Nat × Nat)) :
    checks (arriveAt s f d nwb n G align els) = checks f := by
  unfold arriveAt
  split
  · exact checks_expose ..
  · refine checks_gateLoad (checks_withPieces (fun _ _ => rfl) fun ps => ?_)
    split_ifs <;> [rfl; rfl; exact checks_expose ..]
theorem checks_storeAll (s : State) (f : Frame) (ps : List Piece) (parts : List (Piece × List Byte × Bool)) :
    checks (storeAll s f ps parts) = checks f := by
  have hpush (l : List (Piece × List Byte × Bool)) (g : Frame) :
      checks (l.foldl (fun f e => pushMem f (.store e.1 e.2.1 e.2.2)) g) = checks g := by
    induction l generalizing g with
    | nil => rfl
    | cons e t ih => exact ih _
  unfold storeAll
  split_ifs <;> [rfl; rfl; rfl; exact hpush ..]
theorem checks_storeAt (s : State) (f : Frame) (align : Nat) (els : List (Nat × Nat)) (bs : List Byte) (nib : Bool) :
    checks (storeAt s f align els bs nib) = checks f :=
  checks_gateWrite (checks_withPieces (fun _ _ => rfl) fun _ => checks_storeAll ..)

@[simp] theorem checks_atomOut (f : Frame) (k : Nat) (d : BitVec 7) (dst : LateDst) (bs : List Byte) :
    checks (atomOut f k d dst bs) = checks f := by
  unfold atomOut; dsimp only; split_ifs <;> simp
theorem checks_issueAtomic (s : State) (f : Frame) (slot : Nat) (k : AtomKind) (t : ETy) (ea : Word) (x y : Nat) (d : BitVec 7)
    (ev : Option Nat) : checks (issueAtomic s f slot k t ea x y d ev) = checks f := by
  unfold issueAtomic
  dsimp only
  split
  · split <;> simp
  · split
    · rfl
    · refine checks_gateLoad (checks_withPieces (fun _ _ => rfl) fun ps => ?_)
      split
      · split
        · split <;> simp
        · split_ifs
          · split <;> simp
          · rfl
          · rfl
      · rfl
theorem checks_scldFirst {s : State} {f g : Frame} (h : scldFirst s f = some g) : checks g = checks f := by
  have key (l : List MemEnt) (o : Option Frame) (ho : ∀ g, o = some g → checks g = checks f) (g : Frame)
      (h : l.foldl (fun o e => o.bind (fun f => match e.op with
        | .load ps .. =>
          if loadMay s.cur f.pre ps && (readGate s f.pre.node ps).isSome then
            let r := readPieces s f.pre.node ps
            some { f with now := fillExposed f.now e.id r.1 r.2, late := .touch ps :: f.late }
          else none
        | _ => some f)) o = some g) : checks g = checks f := by
    induction l generalizing o with
    | nil => exact ho g h
    | cons e t ih =>
      refine ih _ (fun g' hg' => ?_) h
      obtain ⟨f', hf', hg'⟩ := Option.bind_eq_some_iff.1 hg'
      have hf := ho f' hf'
      split at hg'
      · split at hg' <;> cases hg'
        exact hf
      · cases hg'
        exact hf
  exact key _ _ (fun g hg => by cases hg; rfl) g h
theorem checks_issueBarv (x : LF) (s : State) (f : Frame) : checks (issueBarv x s f) = checks f := by
  unfold issueBarv
  dsimp only
  split
  · rfl
  · refine checks_withPieces (fun _ _ => rfl) fun ps => ?_
    split
    · split
      · rfl
      · next g hg =>
        have hf : checks g = checks f := by
          split at hg
          · exact checks_scldFirst hg
          · cases hg
        split
        · exact hf
        · simpa using hf
    · rfl
theorem checks_issueBarw (x : LF) (s : State) (f : Frame) : checks (issueBarw x s f) = checks f := by
  unfold issueBarw
  dsimp only
  split
  · rfl
  · refine checks_gateLoad (checks_withPieces (fun _ _ => rfl) fun ps => ?_)
    split
    · split_ifs
      · rfl
      · simp
      · simp
      · split
        · split <;> simp
        · simp
    · rfl
theorem checks_issueFence (x : LF) (s : State) (f : Frame) : checks (issueFence x s f) = checks f := by
  unfold issueFence; split_ifs <;> rfl
theorem checks_issueFld (x : LF) (s : State) (f : Frame) : checks (issueFld x s f) = checks f := by
  unfold issueFld
  dsimp only
  split
  · simp
  · exact checks_gateLoad (checks_fabCheck rfl)
theorem checks_issueFst (x : LF) (s : State) (f : Frame) : checks (issueFst x s f) = checks f := by
  refine checks_gateWrite (checks_fabCheck ?_)
  dsimp only
  split <;> rfl
theorem checks_issueFatom (x : LF) (s : State) (f : Frame) : checks (issueFatom x s f) = checks f := by
  refine checks_gateLoad (checks_fabCheck ?_)
  dsimp only
  split <;> rfl

/-! ### Slot A -/

theorem checks_issuePort (x : RF) (s : State) (f : Frame) : checks (issuePort x s f) = checks f := by
  refine checks_readCard fun r => ?_
  split <;> rfl
theorem checks_issueCpub (x : RF) (s : State) (f : Frame) : checks (issueCpub x s f) = checks f := by
  unfold issueCpub
  dsimp only
  split
  · rfl
  · split
    · rfl
    · split
      · rfl
      · rfl
      · rfl
      · split
        · rfl
        · split <;> rfl
theorem checks_issueIpub (x : RF) (s : State) (f : Frame) : checks (issueIpub x s f) = checks f := by
  unfold issueIpub; split_ifs <;> rfl
theorem checks_issueDesc (s : State) (f : Frame) (x : RF) (n : Nat) (op : List Byte → LateDst → MemOp) :
    checks (issueDesc s f x n op) = checks f := checks_readCard fun r => by simp
theorem checks_issueSwait (x : RF) (s : State) (f : Frame) : checks (issueSwait x s f) = checks f := by
  unfold issueSwait
  dsimp only
  split
  · rfl
  · refine checks_gateLoad (checks_withPieces (fun _ _ => rfl) fun ps => ?_)
    split
    · rfl
    · refine checks_readSync fun u => ?_
      split
      · simp
      · split
        · simp
        · split
          · split <;> simp
          · simp
theorem checks_issueGbar (x : RF) (s : State) (f : Frame) : checks (issueGbar x s f) = checks f := by
  unfold issueGbar; dsimp only; split_ifs <;> rfl
theorem checks_issueGsetMint (x : RF) (s : State) (f : Frame) : checks (issueGsetMint x s f) = checks f := by
  unfold issueGsetMint; dsimp only; split <;> simp
theorem checks_issueMcst (x : RF) (s : State) (f : Frame) : checks (issueMcst x s f) = checks f := by
  refine checks_readCard fun h => ?_
  split
  · rfl
  · refine checks_readCard fun r => ?_
    split <;> rfl
theorem checks_issueCarav (x : RF) (s : State) (f : Frame) : checks (issueCarav x s f) = checks f := by
  refine checks_readCard fun r => ?_
  dsimp only
  split <;> rfl
theorem checks_issueChkerr (x : RF) (s : State) (f : Frame) : checks (issueChkerr x s f) = checks f := by
  unfold issueChkerr; dsimp only; split_ifs <;> simp

/-! ### Every slot -/

/-- A slot instruction issues by an effect that leaves the checks alone, or adds the cause of a misaligned target (R73, R97). -/
theorem exec_issues {i : Instr} {n : Nat} (hs : slotOf i = some n) : ∃ g : State → Frame → Frame, (∀ s, exec i s = runSlot i g s) ∧
    ∀ s f, checks (g s f) = checks f ∨ checks (g s f) = checks (badTarget f) := by
  cases i <;> cases hs
  -- Register targets.
  case jmpi x => exact ⟨_, fun _ => rfl, fun _ _ => checks_issueJmpi ..⟩
  case calli x => exact ⟨_, fun _ => rfl, fun _ _ => checks_issueCalli ..⟩
  -- The rest of slot S.
  case div | divn | rem | remn => exact ⟨_, fun _ => rfl, fun _ _ => .inl (checks_sDiv ..)⟩
  case fadd | fsub | fmul | fma | fdiv | fsqrt | fmin | fmax => exact ⟨_, fun _ => rfl, fun _ _ => .inl (checks_wrF ..)⟩
  case fcmp | fcvt => exact ⟨_, fun _ => rfl, fun _ _ => .inl ((checks_raise ..).trans (checks_wrS ..))⟩
  case csrw | pset | trap | eret | yield | exit => exact ⟨_, fun _ => rfl, fun _ _ => .inl rfl⟩
  case br | bc => exact ⟨_, fun _ => rfl, fun _ _ => .inl (checks_resolveBr ..)⟩
  case call => exact ⟨_, fun _ => rfl, fun _ _ => .inl (checks_pushCall ..)⟩
  case ret => exact ⟨_, fun _ => rfl, fun _ _ => .inl (checks_issueRet ..)⟩
  case loop => exact ⟨_, fun _ => rfl, fun _ _ => .inl (checks_issueLoop ..)⟩
  case loopi => exact ⟨_, fun _ => rfl, fun _ _ => .inl (checks_openLoop ..)⟩
  case lexit => exact ⟨_, fun _ => rfl, fun _ _ => .inl (checks_issueLexit ..)⟩
  case lidx => exact ⟨_, fun _ => rfl, fun _ _ => .inl (checks_issueLidx ..)⟩
  case bswap => exact ⟨_, fun _ => rfl, fun _ _ => .inl (checks_issueBswap ..)⟩
  case waite => exact ⟨_, fun _ => rfl, fun _ _ => .inl (checks_issueWaite ..)⟩
  case add | sub | mul | mulh | mulhn | and | or | xor | shl | shr | sar | rot | min | max | minn | maxn | cmp | sel | clz | popc | bfx |
      bfi | addi | logi | li | lih | fclass | csrr | psets | pcnt => exact ⟨_, fun _ => rfl, fun _ _ => .inl (checks_wrS ..)⟩
  -- Slot V.
  case vshl | vshr | vsar => exact ⟨_, fun _ => rfl, fun _ _ => .inl (checks_vshift ..)⟩
  case vred | vscan | vcvt | vmaxa | vqnt | vdqnt => exact ⟨_, fun _ => rfl, fun _ _ => .inl (checks_raise_wrE ..)⟩
  case vpart => exact ⟨_, fun _ => rfl, fun _ _ => .inl (checks_issueVpart ..)⟩
  case vbcast => exact ⟨_, fun _ => rfl, fun _ _ => .inl (checks_issueVbcast ..)⟩
  case vextr => exact ⟨_, fun _ => rfl, fun _ _ => .inl (checks_issueVextr ..)⟩
  case vslide => exact ⟨_, fun _ => rfl, fun _ _ => .inl (checks_issueVslide ..)⟩
  case vperm | vgath | vins | vzip | vunzip | vexpand | vcompress | viota => exact ⟨_, fun _ => rfl, fun _ _ => .inl (checks_wrE ..)⟩
  case vadd | vsub | vadds | vsubs | vmul | vmulh | vmin | vmax | vand | vor | vxor | vabs | vfadd | vfsub | vfmul | vfma | vfmin |
      vfmax | vfsgn | vrcp | vrcpn | vrsq | vrsqn | vexp2 | vlog2 | vcmp | vsel | vclass | vpres | vabsnt | vnrm =>
    exact ⟨_, fun _ => rfl, fun _ _ => .inl (checks_vfin ..)⟩
  -- Slots M and X.
  case mjob => exact ⟨_, fun _ => rfl, fun _ _ => .inl (checks_issueMjob ..)⟩
  case mzero => exact ⟨_, fun _ => rfl, fun _ _ => .inl (checks_withTiles rfl)⟩
  case mdrn => exact ⟨_, fun _ => rfl, fun _ _ => .inl (checks_issueMdrn ..)⟩
  case mkat => exact ⟨_, fun _ => rfl, fun _ _ => .inl (checks_mxRoom rfl)⟩
  case mrd => exact ⟨_, fun _ => rfl, fun _ _ => .inl (checks_withTiles (checks_wrV ..))⟩
  case mwr => exact ⟨_, fun _ => rfl, fun _ _ => .inl (checks_issueMwr ..)⟩
  case mwait => exact ⟨_, fun _ => rfl, fun _ _ => .inl (checks_issueMwait ..)⟩
  case scld => exact ⟨_, fun _ => rfl, fun _ _ => .inl (checks_issueScld ..)⟩
  case xsel => exact ⟨_, fun _ => rfl, fun _ _ => .inl (checks_raise ..)⟩
  case xset => exact ⟨_, fun _ => rfl, fun _ _ => .inl (checks_wrX ..)⟩
  -- Slot L.
  case ld | vld | vlds | vgld => exact ⟨_, fun _ => rfl, fun _ _ => .inl (checks_loadAt ..)⟩
  case ldr | vldr => exact ⟨_, fun _ => rfl, fun _ _ => .inl (checks_arriveAt ..)⟩
  case st | vst | vsct => exact ⟨_, fun _ => rfl, fun _ _ => .inl (checks_storeAt ..)⟩
  case atom | acas | acas128 => exact ⟨_, fun _ => rfl, fun _ _ => .inl (checks_issueAtomic ..)⟩
  case barv => exact ⟨_, fun _ => rfl, fun _ _ => .inl (checks_issueBarv ..)⟩
  case barw => exact ⟨_, fun _ => rfl, fun _ _ => .inl (checks_issueBarw ..)⟩
  case drain => exact ⟨_, fun _ => rfl, fun _ _ => .inl rfl⟩
  case fence => exact ⟨_, fun _ => rfl, fun _ _ => .inl (checks_issueFence ..)⟩
  case fld => exact ⟨_, fun _ => rfl, fun _ _ => .inl (checks_issueFld ..)⟩
  case fst => exact ⟨_, fun _ => rfl, fun _ _ => .inl (checks_issueFst ..)⟩
  case fatom => exact ⟨_, fun _ => rfl, fun _ _ => .inl (checks_issueFatom ..)⟩
  -- Slot A.
  case port => exact ⟨_, fun _ => rfl, fun _ _ => .inl (checks_issuePort ..)⟩
  case cpub => exact ⟨_, fun _ => rfl, fun _ _ => .inl (checks_issueCpub ..)⟩
  case ipub => exact ⟨_, fun _ => rfl, fun _ _ => .inl (checks_issueIpub ..)⟩
  case launch | ckpt => exact ⟨_, fun _ => rfl, fun _ _ => .inl (checks_issueDesc ..)⟩
  case ssig => exact ⟨_, fun _ => rfl, fun _ _ => .inl (checks_issueAtomic ..)⟩
  case swait => exact ⟨_, fun _ => rfl, fun _ _ => .inl (checks_issueSwait ..)⟩
  case gbar => exact ⟨_, fun _ => rfl, fun _ _ => .inl (checks_issueGbar ..)⟩
  case gset => exact ⟨_, fun _ => rfl, fun _ _ => .inl rfl⟩
  case gsetMint => exact ⟨_, fun _ => rfl, fun _ _ => .inl (checks_issueGsetMint ..)⟩
  case carav => exact ⟨_, fun _ => rfl, fun _ _ => .inl (checks_issueCarav ..)⟩
  case mcst => exact ⟨_, fun _ => rfl, fun _ _ => .inl (checks_issueMcst ..)⟩
  case chkerr => exact ⟨_, fun _ => rfl, fun _ _ => .inl (checks_issueChkerr ..)⟩

end Sys2Proof.Machine
end

section
/-! The lowest cause of a bundle and its slot mask (R73, R74): bundles whose own slot, header or opcodes are refused. -/

namespace Sys2Proof.Machine
open Sys2Proof

/-! ### Slot masks -/

theorem getLsbD_slotBit {k n : Nat} (hk : k < 6) : (slotBit n).getLsbD k = decide (k = n) := by
  rw [slotBit, BitVec.getLsbD_ofNat, Nat.testBit_two_pow, decide_eq_true hk, Bool.true_and, decide_eq_decide, eq_comm]

theorem getLsbD_orSlots {k : Nat} (l : List Nat) (hk : k < 6) : (orSlots l).getLsbD k = decide (k ∈ l) := by
  have key (m : BitVec 6) : (l.foldl (fun m k => m ||| slotBit k) m).getLsbD k = (m.getLsbD k || decide (k ∈ l)) := by
    induction l generalizing m with
    | nil => simp
    | cons a t ih => simp [ih, getLsbD_slotBit hk, Bool.or_assoc]
  exact (key 0).trans (by simp)

/-- A mask holds the slots of a list when they agree bit by bit. -/
theorem eq_orSlots {l : List Nat} {m : BitVec 6} (h : ∀ k < 6, m.getLsbD k = true ↔ k ∈ l) : orSlots l = m := by
  refine BitVec.eq_of_getLsbD_eq fun k hk => ?_
  rw [getLsbD_orSlots l hk, Bool.eq_iff_iff, decide_eq_true_iff, h k hk]

/-! ### The lowest cause -/

/-- The causes that an illegal bundle meets (R73). -/
def codesOf (f : Frame) : List Nat := (encAll f).map (·.2) ++ (if hdrOk f.hdr then [] else [2])

/-- The lowest cause and the slots that meet it; a reserved header bit has none (R74). -/
theorem illegal_of_min {f : Frame} {m : Nat} {mask : BitVec 6} (hm : m ∈ codesOf f) (hle : ∀ c ∈ codesOf f, m ≤ c)
    (hmask : if m = 2 then mask = 0 else ∀ k < 6, mask.getLsbD k = true ↔ (k, m) ∈ encAll f) : illegal f = some (m, mask) := by
  have hmin : (codesOf f).min? = some m := List.min?_eq_some_iff.2 ⟨hm, hle⟩
  unfold illegal
  simp only [codesOf] at hmin
  simp only [hmin]
  split at hmask
  · next h => rw [if_pos h, hmask]
  · next h =>
    rw [if_neg h, eq_orSlots fun k hk => ?_]
    rw [hmask k hk]
    simp

theorem illegal_eq_none {f : Frame} (he : encAll f = []) (hh : hdrOk f.hdr = true) : illegal f = none := by
  unfold illegal
  simp [he, hh]

theorem mem_emptyBoost {f : Frame} {k c : Nat} :
    (k, c) ∈ emptyBoost f ↔ k < 6 ∧ c = 8 ∧ (hdrBoost f.hdr &&& ~~~f.used).getLsbD k = true := by
  simp only [emptyBoost, boosted, List.mem_map, List.mem_filter, List.mem_range, Prod.mk.injEq, BitVec.getLsbD_and, BitVec.getLsbD_not,
    Bool.and_eq_true, Bool.not_eq_true', decide_eq_true_eq]
  constructor
  · rintro ⟨a, ⟨hk, hb, hu⟩, rfl, rfl⟩
    exact ⟨hk, rfl, hb, hk, hu⟩
  · rintro ⟨hk, rfl, hb, -, hu⟩
    exact ⟨k, ⟨hk, hb, hu⟩, rfl, rfl⟩

theorem emptyBoost_of_plain {f : Frame} (h : hdrBoost f.hdr = 0) : emptyBoost f = [] :=
  List.eq_nil_iff_forall_not_mem.2 fun e he => by simpa [h] using (mem_emptyBoost (k := e.1) (c := e.2)).1 he

theorem exists_emptyBoost {f : Frame} : (∃ e, e ∈ emptyBoost f) ↔ hdrBoost f.hdr &&& ~~~f.used ≠ 0 := by
  constructor
  · rintro ⟨e, he⟩ h0
    have := (mem_emptyBoost (k := e.1) (c := e.2)).1 he
    rw [h0] at this
    simp at this
  · intro h
    by_contra hno
    refine h (BitVec.eq_of_getLsbD_eq fun k hk => Eq.trans ?_ BitVec.getLsbD_zero.symm)
    exact Bool.eq_false_iff.2 fun hb => hno ⟨(k, 8), mem_emptyBoost.2 ⟨hk, rfl, hb⟩⟩

/-- Where no slots clash and no budget is exceeded, the causes are those of the slots and those of the header. -/
theorem mem_codesOf_header {f : Frame} {c : Nat} (hc : conflicts f = []) (ho : oversub f = []) :
    c ∈ codesOf f ↔ (∃ e ∈ f.enc, e.2 = c) ∨ (hdrOk f.hdr = false ∧ c = 2) ∨ (hdrBoost f.hdr &&& ~~~f.used ≠ 0 ∧ c = 8) := by
  have h2 : c ∈ (if hdrOk f.hdr then [] else [2]) ↔ hdrOk f.hdr = false ∧ c = 2 := by cases hdrOk f.hdr <;> simp
  have h8 : (∃ e ∈ emptyBoost f, e.2 = c) ↔ hdrBoost f.hdr &&& ~~~f.used ≠ 0 ∧ c = 8 := by
    rw [← exists_emptyBoost]
    constructor
    · rintro ⟨e, he, rfl⟩
      exact ⟨⟨e, he⟩, (mem_emptyBoost.1 he).2.1⟩
    · rintro ⟨⟨e, he⟩, rfl⟩
      exact ⟨e, he, (mem_emptyBoost.1 he).2.1⟩
  simp only [codesOf, encAll, hc, ho, List.append_nil, List.map_append, List.mem_append, List.mem_map, h2]
  rw [h8, or_assoc]
  exact or_congr_right or_comm

theorem mem_hdrCauses {s : State} {used : BitVec 6} {c : Nat} :
    c ∈ hdrCauses s used ↔ (hdrOk s.hdr = false ∧ c = 2) ∨ (hdrBoost s.hdr &&& ~~~used ≠ 0 ∧ c = 8) := by
  unfold hdrCauses
  cases hdrOk s.hdr <;> by_cases h : hdrBoost s.hdr &&& ~~~used = 0 <;> simp [h]

/-! ### A bundle refused for its slot or its header -/

/-- An instruction issued outside a bundle is a bundle of its own: open, its effect, close (R54). -/
theorem runSlot_alone {s : State} (h : canIssue s = true) (i : Instr) (g : State → Frame → Frame) :
    runSlot i g s = .next (closeBundle (entered s) (slotIn i (g (entered s)) (reading s))) := by
  obtain ⟨hp, hf⟩ := canIssue_power h
  simp only [runSlot, hp, hf, openBundle_of_canIssue h]
  rfl

/-- The trap of an illegal bundle (R74, R381). -/
theorem closeBundle_illegal {s : State} {f : Frame} {m : Nat} {mask : BitVec 6} (h : illegal f = some (m, mask))
    (ht : targetOpen f = false ∨ m ≤ 0x0B) : closeBundle s f = takeTrap s s.cur m f.pre.pc (trec mask 0 false) := by
  have : (targetOpen f && decide (0x0B < m)) = false := by
    rcases ht with ht | ht
    · rw [ht, Bool.false_and]
    · rw [decide_eq_false (by omega), Bool.and_false]
  simp only [closeBundle, h, this]
  rfl

theorem targetOpen_of_stall {f : Frame} (h : f.stall = false) : targetOpen f = false := by
  unfold targetOpen; rw [h, Bool.false_and]

/-- A bundle of at most one slot `n`, refused for the causes `own` of its slot or those of its header. -/
theorem closeBundle_refused {s t : State} {f : Frame} {n m : Nat} {used : BitVec 6} {own : List Nat} (hc : conflicts f = [])
    (ho : oversub f = []) (hh : f.hdr = s.hdr) (hu : f.used = used) (he : f.enc = own.map (fun c => (n, c))) (hst : f.stall = false)
    (hm : (own ++ hdrCauses s used).min? = some m) : closeBundle t f = takeTrap t t.cur m f.pre.pc
      (trec (if m = 2 then 0 else (if m ∈ own then slotBit n else 0) ||| if m = 8 then hdrBoost s.hdr &&& ~~~used else 0) 0 false) := by
  have hcodes (c : Nat) : c ∈ codesOf f ↔ c ∈ own ++ hdrCauses s used := by
    rw [mem_codesOf_header hc ho, he, hh, hu, List.mem_append, mem_hdrCauses]
    simp
  obtain ⟨hmem, hle⟩ := List.min?_eq_some_iff.1 hm
  refine closeBundle_illegal (illegal_of_min ((hcodes m).2 hmem) (fun c h => hle c ((hcodes c).1 h)) ?_) (.inl (targetOpen_of_stall hst))
  split
  · rfl
  · intro k hk
    have henc : (k, m) ∈ encAll f ↔ (k = n ∧ m ∈ own) ∨ (m = 8 ∧ (hdrBoost s.hdr &&& ~~~used).getLsbD k = true) := by
      simp only [encAll, hc, ho, List.append_nil, List.mem_append, mem_emptyBoost, he, hh, hu, List.mem_map, Prod.mk.injEq]
      constructor
      · rintro (⟨c, hc, rfl, rfl⟩ | ⟨-, h⟩)
        · exact .inl ⟨rfl, hc⟩
        · exact .inr h
      · rintro (⟨rfl, hc⟩ | h)
        · exact .inl ⟨m, hc, rfl, rfl⟩
        · exact .inr ⟨hk, h⟩
    rw [henc, BitVec.getLsbD_or, Bool.or_eq_true]
    refine or_congr ?_ ?_
    · by_cases hmo : m ∈ own
      · simp [hmo, getLsbD_slotBit hk]
      · simp [hmo]
    · by_cases h8 : m = 8
      · simp [h8]
      · simp [h8]

theorem conflicts_loneFrame (i : Instr) (n : Nat) (f : Frame) : conflicts (loneFrame i n f) = [] :=
  conflicts_lone fun _ hw => by obtain ⟨e, -, rfl⟩ := List.mem_map.1 hw; rfl
theorem newFrame_conflicts (k : Core) (hdr : BitVec 16) : conflicts (newFrame k hdr) = [] := rfl
theorem newFrame_oversub (k : Core) (hdr : BitVec 16) : oversub (newFrame k hdr) = [] := rfl

/-- A refused slot has no effect (R74). -/
theorem slotIn_refused {s : State} {i : Instr} {n : Nat} {g : Frame → Frame} (hs : slotOf i = some n) (ho : ownCauses s i n ≠ [])
    (hw : waits (boundary s) i = false) : slotIn i g (reading s) =
      { loneFrame i n (reading s) with enc := (ownCauses s i n).map (fun c => (n, c)) } := by
  have henc : (causes (boundary s).level i).map (fun c => (n, c)) ++
      (if boosted (reading s) n && (!mayBoost i || (boundary s).level) then [(n, 8)] else []) ++
      (if !boosted (reading s) n && (latchReads (uses i)).any (fun j => (boundary s).latBoost.getLsbD j) then [(n, 9)] else []) =
      (ownCauses s i n).map (fun c => (n, c)) := by
    unfold ownCauses
    rw [List.map_append, List.map_append, apply_ite (List.map _), apply_ite (List.map _)]
    rfl
  have hne : ((ownCauses s i n).map (fun c => (n, c))).isEmpty = false := by
    cases h : ownCauses s i n with
    | nil => exact absurd h ho
    | cons => rfl
  unfold slotIn
  simp only [hs]
  rw [show (reading s).pre = boundary s from rfl, henc]
  simp only [hw, hne]
  simp [loneFrame, reading, newFrame, slotBit]

theorem exec_refused {s : State} {i : Instr} {n m : Nat} (hi : canIssue s = true) (hs : slotOf i = some n) (ho : ownCauses s i n ≠ [])
    (hw : waits (boundary s) i = false) (hm : (ownCauses s i n ++ hdrCauses s (slotBit n)).min? = some m) :
    exec i s = .next (takeTrap (entered s) s.cur m (boundary s).pc (trec (if m = 2 then 0 else
      (if m ∈ ownCauses s i n then slotBit n else 0) ||| if m = 8 then hdrBoost s.hdr &&& ~~~slotBit n else 0) 0 false)) := by
  obtain ⟨g, hg, -⟩ := exec_issues hs
  rw [hg, runSlot_alone hi, slotIn_refused hs ho hw]
  exact congrArg Host.Outcome.next (closeBundle_refused (conflicts_loneFrame i n (reading s)) (oversub_lone (i := i) (n := n) rfl)
    rfl rfl rfl rfl hm)

theorem exec_nop_refused {s : State} {m : Nat} (hi : canIssue s = true) (hm : (hdrCauses s 0).min? = some m) : exec .nop s =
    .next (takeTrap (entered s) s.cur m (boundary s).pc (trec (if m = 2 then 0 else hdrBoost s.hdr) 0 false)) := by
  have h8 : m ≠ 2 → m = 8 := fun h2 => by
    rcases mem_hdrCauses.1 (List.min?_eq_some_iff.1 hm).1 with h | h
    · exact absurd h.2 h2
    · exact h.2
  have hclose := closeBundle_refused (s := s) (t := entered s) (f := reading s) (n := 0) (used := 0) (own := []) (newFrame_conflicts ..)
    (newFrame_oversub ..) rfl rfl rfl rfl hm
  have hmask : (if m = 2 then 0 else (if m ∈ ([] : List Nat) then slotBit 0 else 0) ||| if m = 8 then hdrBoost s.hdr &&& ~~~0 else 0) =
      if m = 2 then 0 else hdrBoost s.hdr := by
    split
    · rfl
    · next h2 => rw [if_neg List.not_mem_nil, if_pos (h8 h2)]; exact BitVec.zero_or.trans BitVec.and_allOnes
  rw [hmask] at hclose
  refine (runSlot_alone hi .nop fun _ => id).trans ?_
  exact congrArg Host.Outcome.next hclose

theorem exec_illegalOpcode_traps {s : State} {slots : BitVec 6} (hi : canIssue s = true) (h0 : slots ≠ 0) :
    exec (.illegalOpcode slots) s = .next (takeTrap (entered s) s.cur 0 (boundary s).pc (trec slots 0 false)) := by
  obtain ⟨hp, hf⟩ := canIssue_power hi
  show execIllegalOpcode slots s = _
  unfold execIllegalOpcode
  simp only [hp, hf, openBundle_of_canIssue hi]
  refine congrArg Host.Outcome.next (closeBundle_illegal (illegal_of_min ?_ (fun _ _ => Nat.zero_le _) ?_) (.inl rfl))
  · obtain ⟨k, hk, hb⟩ : ∃ k < 6, slots.getLsbD k = true := by
      by_contra hno
      refine h0 (BitVec.eq_of_getLsbD_eq fun k hk => Eq.trans ?_ BitVec.getLsbD_zero.symm)
      exact Bool.eq_false_iff.2 fun hb => hno ⟨k, hk, hb⟩
    rw [mem_codesOf_header rfl rfl]
    exact .inl ⟨(k, 0), by simp [hk, hb], rfl⟩
  · rw [if_neg (by decide)]
    intro k hk
    rw [encAll, show conflicts _ = [] from rfl, show oversub _ = [] from rfl]
    simp [mem_emptyBoost, hk]

end Sys2Proof.Machine
end

section
/-! Bundles of several slots: what the checks of R69-R74 and R102 see once every slot has issued. -/

namespace Sys2Proof.Machine
open Sys2Proof

/-! ### Issuing slots one after another (R54) -/

/-- The machine between two slots of the open bundle, whose frame is `f`. -/
def opened (s : State) (f : Frame) : State := { entered s with frame := some f }

/-- The slot of a slot instruction. -/
def slotNo (i : Instr) : Nat := (slotOf i).getD 0

theorem slotOf_eq_slotNo {i : Instr} (h : slotOf i ≠ none) : slotOf i = some (slotNo i) := by
  obtain ⟨n, hn⟩ := Option.ne_none_iff_exists'.1 h
  simp [slotNo, hn]

/-- What a slot declares: the registers it writes, and its ports. -/
def slotWrites (i : Instr) : List (Nat × RFile × Nat) := (written (uses i)).map (fun e => (slotNo i, fileNum e.1, e.2))
def slotPort (i : Instr) (j : Nat) : RFile × Nat × Nat × Nat :=
  (fileNum j, slotNo i, nth 0 (readPorts (uses i)) j, nth 0 (writePorts (uses i)) j)

/-- The frame once the slots of `l` have issued, as the checks see it. -/
structure Joined (s : State) (l : List Instr) (f : Frame) : Prop where
  pre : f.pre = boundary s
  hdr : f.hdr = s.hdr
  writes : f.writes = l.flatMap slotWrites
  ports : f.ports = l.flatMap (fun i => (List.range 5).map (slotPort i))
  slots : f.slots = l.map (fun i => (slotNo i, i))

theorem joined_reading (s : State) : Joined s [] (reading s) := ⟨rfl, rfl, rfl, rfl, rfl⟩

theorem Joined.of_checks {s : State} {l : List Instr} {f g : Frame} (h : Joined s l f)
    (hc : checks g = checks f ∨ checks g = checks (badTarget f)) : Joined s l g := by
  obtain ⟨hp, hh, hw, hpo, hs⟩ := h
  rcases hc with hc | hc <;> obtain ⟨ep, eh, -, -, ew, epo, es⟩ := checks_eq_iff.1 hc
  · exact ⟨ep.trans hp, eh.trans hh, ew.trans hw, epo.trans hpo, es.trans hs⟩
  · exact ⟨ep.trans hp, eh.trans hh, ew.trans hw, epo.trans hpo, es.trans hs⟩

/-- The frame in which slot `i` of an open bundle has its effect. -/
def joinFrame (i : Instr) (f : Frame) : Frame :=
  { f with
    used := f.used ||| slotBit (slotNo i), writes := f.writes ++ slotWrites i, slots := f.slots ++ [(slotNo i, i)],
    ports := f.ports ++ (List.range 5).map (slotPort i) }

theorem Joined.join {s : State} {l : List Instr} {f : Frame} (h : Joined s l f) (i : Instr) : Joined s (l ++ [i]) (joinFrame i f) := by
  obtain ⟨hp, hh, hw, hpo, hs⟩ := h
  exact ⟨hp, hh, by simp [joinFrame, hw], by simp [joinFrame, hpo], by simp [joinFrame, hs]⟩

/-- Under a header that boosts nothing, a slot with legal fields and its sources is refused for a boosted latch at most. -/
theorem slotIn_eq {s : State} {l : List Instr} {i : Instr} {g : Frame → Frame} {f : Frame} (hj : Joined s l f)
    (hb : hdrBoost s.hdr = 0) (hs : slotOf i ≠ none) (hc : causes (boundary s).level i = []) (hw : waits (boundary s) i = false) :
    slotIn i g f = if (latchReads (uses i)).any (fun j => (boundary s).latBoost.getLsbD j) then
      { joinFrame i f with enc := f.enc ++ [(slotNo i, 9)] } else g (tokAcquire (joinFrame i f) (uses i)) := by
  obtain ⟨hp, hh, -, -, -⟩ := hj
  rw [← hp] at hc hw ⊢
  have hbo : boosted f (slotNo i) = false := by simp [boosted, hh, hb]
  unfold slotIn
  rw [slotOf_eq_slotNo hs]
  cases hlb : (latchReads (uses i)).any (fun j => f.pre.latBoost.getLsbD j) with
  | true =>
    simp only [hc, hw, hbo, hlb]
    rfl
  | false =>
    simp only [hc, hw, hbo, hlb, Bool.not_false, Bool.true_and, Bool.false_and, Bool.false_eq_true, if_false, List.map_nil,
      List.append_nil]
    rfl

/-- Each slot adds what it declares, and causes of 9 or more. -/
theorem Joined.slotIn {s : State} {l : List Instr} {i : Instr} {g : Frame → Frame} {f : Frame} (hj : Joined s l f)
    (he : ∀ e ∈ f.enc, 7 < e.2) (hb : hdrBoost s.hdr = 0) (hs : slotOf i ≠ none) (hc : causes (boundary s).level i = [])
    (hw : waits (boundary s) i = false) (hg : ∀ f, checks (g f) = checks f ∨ checks (g f) = checks (badTarget f)) :
    Joined s (l ++ [i]) (slotIn i g f) ∧ ∀ e ∈ (Machine.slotIn i g f).enc, 7 < e.2 := by
  have hji := hj.join i
  rw [slotIn_eq hj hb hs hc hw]
  split
  · refine ⟨⟨hji.pre, hji.hdr, hji.writes, hji.ports, hji.slots⟩, fun e h => ?_⟩
    rcases List.mem_append.1 h with h | h
    · exact he e h
    · rw [List.mem_singleton.1 h]
      exact (by decide : 7 < 9)
  · have hta := checks_tokAcquire (joinFrame i f) (uses i)
    have hjt := hji.of_checks (.inl hta)
    obtain ⟨-, -, -, het, -, -, -⟩ := checks_eq_iff.1 hta
    refine ⟨hjt.of_checks (hg _), fun e h => ?_⟩
    rcases hg (tokAcquire (joinFrame i f) (uses i)) with hc | hc <;> obtain ⟨-, -, -, hce, -, -, -⟩ := checks_eq_iff.1 hc
    · rw [hce, het] at h
      exact he e h
    · rw [hce] at h
      rcases List.mem_append.1 h with h | h
      · rw [het] at h
        exact he e h
      · cases List.mem_singleton.1 h
        decide

theorem exec_opened {s : State} {i : Instr} {g : State → Frame → Frame} (hp : s.host.power = true)
    (hg : ∀ s, exec i s = runSlot i g s) (f : Frame) : exec i (opened s f) = .next (opened s (slotIn i (g (opened s f)) f)) := by
  rw [hg]
  unfold runSlot
  rw [show (opened s f).host.power = true from hp]
  rfl

theorem runList_joined {s : State} (hp : s.host.power = true) (hb : hdrBoost s.hdr = 0) (l : List Instr)
    (hl : ∀ i ∈ l, slotOf i ≠ none ∧ causes (boundary s).level i = [] ∧ waits (boundary s) i = false) {l₀ : List Instr} {f : Frame}
    (hj : Joined s l₀ f) (he : ∀ e ∈ f.enc, 7 < e.2) :
    ∃ f', runList l (opened s f) = .next (opened s f') ∧ Joined s (l₀ ++ l) f' ∧ ∀ e ∈ f'.enc, 7 < e.2 := by
  induction l generalizing l₀ f with
  | nil => exact ⟨f, rfl, by rwa [List.append_nil], he⟩
  | cons i t ih =>
    obtain ⟨hs, hc, hw⟩ := hl i List.mem_cons_self
    obtain ⟨g, hg, hgc⟩ := exec_issues (slotOf_eq_slotNo hs)
    obtain ⟨hj', he'⟩ := hj.slotIn he hb hs hc hw (hgc (opened s f))
    obtain ⟨f', hr, hj'', he''⟩ := ih (fun j h => hl j (List.mem_cons_of_mem _ h)) hj' he'
    refine ⟨f', ?_, by rwa [List.append_assoc] at hj'', he''⟩
    unfold runList
    rw [exec_opened hp hg]
    exact hr

theorem closeCore_opened {s : State} (hf : s.frame = none) (f : Frame) : closeCore (opened s f) = closeBundle (entered s) f := by
  have hs : ({ opened s f with frame := none } : State) = entered s := by
    change ({ entered s with frame := none } : State) = entered s
    rw [← hf]
    rfl
  exact congrArg (closeBundle · f) hs

/-- A bundle of several slots closes the frame in which all have issued. -/
theorem runBundle_of_runList {s : State} {l : List Instr} {f : Frame} (hf : s.frame = none)
    (h : runList l (opened s (reading s)) = .next (opened s f)) : runBundle l s = .next (closeBundle (entered s) f) := by
  unfold runBundle
  rw [show ({ entered s with frame := some (reading s) } : State) = opened s (reading s) from rfl, h]
  exact congrArg Host.Outcome.next (closeCore_opened hf f)

/-! ### Shared writes and port budgets (R69, R70) -/

theorem written_file_lt {u : Uses} {e : Nat × Nat} (h : e ∈ written u) : e.1 < 5 := by
  simp only [written, List.mem_append, List.mem_map, List.mem_flatMap] at h
  rcases h with ((((⟨a, -, rfl⟩ | ⟨a, -, h⟩) | ⟨a, -, b, -, rfl⟩) | ⟨a, -, rfl⟩) | ⟨a, -, rfl⟩) | ⟨a, -, rfl⟩
  · exact (by decide : 0 < 5)
  · have : e.1 = 0 := by
      rcases h with h | h
      · split at h
        · cases h
        · rw [List.mem_singleton.1 h]
      · rw [List.mem_singleton.1 h]
    omega
  · exact (by decide : 1 < 5)
  · exact (by decide : 2 < 5)
  · exact (by decide : 3 < 5)
  · exact (by decide : 4 < 5)

theorem fileNum_injOn {a b : Nat} (ha : a < 5) (hb : b < 5) (h : fileNum a = fileNum b) : a = b :=
  (by decide : ∀ a < 5, ∀ b < 5, fileNum a = fileNum b → a = b) a ha b hb h

theorem mem_flatMap_slotWrites {l : List Instr} {k r : Nat} {file : RFile} :
    (k, file, r) ∈ l.flatMap slotWrites ↔ ∃ i ∈ l, slotNo i = k ∧ ∃ n, (n, r) ∈ written (uses i) ∧ fileNum n = file := by
  simp only [List.mem_flatMap, slotWrites, List.mem_map, Prod.mk.injEq, Prod.exists]
  constructor
  · rintro ⟨i, hi, n, r', hw, rfl, rfl, rfl⟩
    exact ⟨i, hi, rfl, n, hw, rfl⟩
  · rintro ⟨i, hi, rfl, n, hw, rfl⟩
    exact ⟨i, hi, n, r, hw, rfl, rfl, rfl⟩

theorem sharesWrite_iff {l : List Instr} (hl : ∀ i ∈ l, slotOf i ≠ none) {i : Instr} (hi : i ∈ l) : sharesWrite l i = true ↔
    ∃ j ∈ l, slotNo j ≠ slotNo i ∧ ∃ r ∈ written (uses i), r ∈ written (uses j) := by
  simp only [sharesWrite, List.any_eq_true, Bool.and_eq_true, bne_iff_ne, List.contains_iff_mem]
  refine exists_congr fun j => and_congr_right fun hj => ?_
  rw [slotOf_eq_slotNo (hl i hi), slotOf_eq_slotNo (hl j hj)]
  simp only [ne_eq, Option.some.injEq]

theorem mem_conflicts {s : State} {l : List Instr} {f : Frame} (h : Joined s l f) (hl : ∀ i ∈ l, slotOf i ≠ none) {k c : Nat} :
    (k, c) ∈ conflicts f ↔ c = 6 ∧ ∃ i ∈ l, slotNo i = k ∧ sharesWrite l i = true := by
  simp only [conflicts, List.mem_map, List.mem_filter, List.any_eq_true, Bool.and_eq_true, bne_iff_ne, beq_iff_eq, h.writes,
    Prod.mk.injEq, Prod.exists]
  constructor
  · rintro ⟨k, file, r, ⟨ha, k', file', r', hb, hne, rfl, rfl⟩, rfl, rfl⟩
    obtain ⟨i, hi, rfl, n, hn, rfl⟩ := mem_flatMap_slotWrites.1 ha
    obtain ⟨j, hj, rfl, n', hn', he⟩ := mem_flatMap_slotWrites.1 hb
    cases fileNum_injOn (written_file_lt hn') (written_file_lt hn) he
    exact ⟨rfl, i, hi, rfl, (sharesWrite_iff hl hi).2 ⟨j, hj, hne, _, hn, hn'⟩⟩
  · rintro ⟨rfl, i, hi, rfl, hsh⟩
    obtain ⟨j, hj, hne, ⟨n, r⟩, hri, hrj⟩ := (sharesWrite_iff hl hi).1 hsh
    exact ⟨slotNo i, fileNum n, r, ⟨mem_flatMap_slotWrites.2 ⟨i, hi, rfl, n, hri, rfl⟩, slotNo j, fileNum n, r,
      mem_flatMap_slotWrites.2 ⟨j, hj, rfl, n, hrj, rfl⟩, hne, rfl, rfl⟩, rfl, rfl⟩

/-- The ports of one file. -/
theorem filter_ports {s : State} {l : List Instr} {f : Frame} (h : Joined s l f) {j : Nat} (hj : j < 5) :
    f.ports.filter (fun p => p.1 == fileNum j) = l.map (slotPort · j) := by
  rw [h.ports]
  clear h
  have hone (i : Instr) : ((List.range 5).map (slotPort i)).filter (fun p => p.1 == fileNum j) = [slotPort i j] := by
    have hj' : j = 0 ∨ j = 1 ∨ j = 2 ∨ j = 3 ∨ j = 4 := by omega
    rcases hj' with rfl | rfl | rfl | rfl | rfl <;> rfl
  induction l with
  | nil => rfl
  | cons i t ih => rw [List.flatMap_cons, List.filter_append, hone, ih]; rfl

/-- The slots that use the ports of file `j`, read or written, of which the bundle uses more than the budget. -/
def fileOver (l : List Instr) (j : Nat) (i : Instr) : Prop :=
  (nth 0 readBudget j < (l.map (fun i => nth 0 (readPorts (uses i)) j)).sum ∧ 0 < nth 0 (readPorts (uses i)) j) ∨
    (nth 0 writeBudget j < (l.map (fun i => nth 0 (writePorts (uses i)) j)).sum ∧ 0 < nth 0 (writePorts (uses i)) j)

theorem overBudget_iff {l : List Instr} {i : Instr} : overBudget l i = true ↔ ∃ j < 5, fileOver l j i := by
  simp [overBudget, fileOver]

theorem mem_oversub {s : State} {l : List Instr} {f : Frame} (h : Joined s l f) {k c : Nat} :
    (k, c) ∈ oversub f ↔ c = 7 ∧ ∃ i ∈ l, slotNo i = k ∧ overBudget l i = true := by
  have hfiles : [RFile.s, .v, .p, .x, .g] = (List.range 5).map fileNum := rfl
  have hfile (j : Nat) (hj : j < 5) : budget readBudget (fileNum j) = nth 0 readBudget j ∧
      budget writeBudget (fileNum j) = nth 0 writeBudget j := by
    have hj' : j = 0 ∨ j = 1 ∨ j = 2 ∨ j = 3 ∨ j = 4 := by omega
    rcases hj' with rfl | rfl | rfl | rfl | rfl <;> exact ⟨rfl, rfl⟩
  have hif (p : Prop) [Decidable p] (x : Nat × Nat) (t : List (Nat × Nat)) : x ∈ (if p then t else []) ↔ p ∧ x ∈ t := by
    split <;> simp [*]
  simp only [overBudget_iff, oversub, hfiles, List.mem_flatMap, List.mem_map, List.mem_range, exists_exists_and_eq_and]
  constructor
  · rintro ⟨j, hj, hm⟩
    rw [filter_ports h hj, (hfile j hj).1, (hfile j hj).2, List.mem_append, hif, hif] at hm
    simp only [List.map_map, List.mem_map, List.mem_filter, decide_eq_true_eq, Function.comp_def, slotPort] at hm
    rcases hm with ⟨hlt, -, ⟨⟨i, hi, rfl⟩, hpos⟩, he⟩ | ⟨hlt, -, ⟨⟨i, hi, rfl⟩, hpos⟩, he⟩ <;> cases he
    · exact ⟨rfl, i, hi, rfl, j, hj, .inl ⟨hlt, hpos⟩⟩
    · exact ⟨rfl, i, hi, rfl, j, hj, .inr ⟨hlt, hpos⟩⟩
  · rintro ⟨rfl, i, hi, rfl, j, hj, ho⟩
    refine ⟨j, hj, ?_⟩
    rw [filter_ports h hj, (hfile j hj).1, (hfile j hj).2, List.mem_append, hif, hif]
    simp only [List.map_map, List.mem_map, List.mem_filter, decide_eq_true_eq, Function.comp_def]
    rcases ho with ⟨hlt, hpos⟩ | ⟨hlt, hpos⟩
    · exact .inl ⟨hlt, slotPort i j, ⟨⟨i, hi, rfl⟩, hpos⟩, rfl⟩
    · exact .inr ⟨hlt, slotPort i j, ⟨⟨i, hi, rfl⟩, hpos⟩, rfl⟩

/-! ### The trap of slots that clash (R69, R70, R74) -/

theorem mem_slotsWhere {l : List Instr} (hl : ∀ i ∈ l, slotOf i ≠ none) (hit : Instr → Bool) {k : Nat} (hk : k < 6) :
    (slotsWhere l hit).getLsbD k = true ↔ ∃ i ∈ l, slotNo i = k ∧ hit i = true := by
  rw [slotsWhere, getLsbD_orSlots _ hk, decide_eq_true_iff]
  simp only [List.mem_filterMap, List.mem_filter]
  constructor
  · rintro ⟨i, ⟨hi, hh⟩, hs⟩
    exact ⟨i, hi, by simp [slotNo, hs], hh⟩
  · rintro ⟨i, hi, rfl, hh⟩
    exact ⟨i, ⟨hi, hh⟩, slotOf_eq_slotNo (hl i hi)⟩

/-- Under a header that is in order and boosts nothing, cause `m` of 7 or less is due to the slots that `hit` names, and no lower one. -/
theorem closeBundle_clash {s : State} {l : List Instr} {f : Frame} (hj : Joined s l f) (hl : ∀ i ∈ l, slotOf i ≠ none)
    (he : ∀ e ∈ f.enc, 7 < e.2) (hh : hdrOk s.hdr = true) (hb : hdrBoost s.hdr = 0) {m : Nat} {hit : Instr → Bool} (h2 : m ≠ 2)
    (h7 : m ≤ 7) (hm : ∀ k, (k, m) ∈ conflicts f ++ oversub f ↔ ∃ i ∈ l, slotNo i = k ∧ hit i = true)
    (hle : ∀ e ∈ conflicts f ++ oversub f, m ≤ e.2) (hex : ∃ i ∈ l, hit i = true) : closeBundle (entered s) f =
      takeTrap (entered s) s.cur m (boundary s).pc (trec (slotsWhere l hit) 0 false) := by
  have hall : encAll f = f.enc ++ (conflicts f ++ oversub f) := by
    rw [encAll, emptyBoost_of_plain (by rw [hj.hdr, hb]), List.append_nil, List.append_assoc]
  have hcodes : codesOf f = (f.enc ++ (conflicts f ++ oversub f)).map (·.2) := by
    rw [codesOf, hall, hj.hdr, hh, if_pos rfl, List.append_nil]
  have hm' (k : Nat) : (k, m) ∈ encAll f ↔ ∃ i ∈ l, slotNo i = k ∧ hit i = true := by
    rw [hall, List.mem_append, hm]
    exact or_iff_right fun h => absurd (he _ h) (by simp; omega)
  rw [← hj.pre]
  refine closeBundle_illegal (illegal_of_min ?_ ?_ ?_) (.inr (by omega))
  · obtain ⟨i, hi, hhit⟩ := hex
    rw [hcodes, ← hall]
    exact List.mem_map.2 ⟨(slotNo i, m), (hm' _).2 ⟨i, hi, rfl, hhit⟩, rfl⟩
  · intro c hc
    rw [hcodes] at hc
    obtain ⟨e, hme, rfl⟩ := List.mem_map.1 hc
    rcases List.mem_append.1 hme with h | h
    · exact h7.trans (he e h).le
    · exact hle e h
  · rw [if_neg h2]
    exact fun k hk => (mem_slotsWhere hl hit hk).trans (hm' k).symm

theorem closeBundle_shares {s : State} {l : List Instr} {f : Frame} (hj : Joined s l f) (hl : ∀ i ∈ l, slotOf i ≠ none)
    (he : ∀ e ∈ f.enc, 7 < e.2) (hh : hdrOk s.hdr = true) (hb : hdrBoost s.hdr = 0) (hex : ∃ i ∈ l, sharesWrite l i = true) :
    closeBundle (entered s) f =
      takeTrap (entered s) s.cur 6 (boundary s).pc (trec (slotsWhere l (sharesWrite l)) 0 false) := by
  refine closeBundle_clash hj hl he hh hb (by decide) (by decide) (fun k => ?_) (fun e h => ?_) hex
  · rw [List.mem_append, mem_conflicts hj hl, mem_oversub hj]
    simp
  · rcases List.mem_append.1 h with h | h
    · exact ((mem_conflicts hj hl).1 h).1.ge
    · exact le_trans (by decide) ((mem_oversub hj).1 h).1.ge

theorem closeBundle_overBudget {s : State} {l : List Instr} {f : Frame} (hj : Joined s l f) (hl : ∀ i ∈ l, slotOf i ≠ none)
    (he : ∀ e ∈ f.enc, 7 < e.2) (hh : hdrOk s.hdr = true) (hb : hdrBoost s.hdr = 0) (hno : ∀ i ∈ l, sharesWrite l i = false)
    (hex : ∃ i ∈ l, overBudget l i = true) : closeBundle (entered s) f =
      takeTrap (entered s) s.cur 7 (boundary s).pc (trec (slotsWhere l (overBudget l)) 0 false) := by
  refine closeBundle_clash hj hl he hh hb (by decide) (by decide) (fun k => ?_) (fun e h => ?_) hex
  · rw [List.mem_append, mem_conflicts hj hl, mem_oversub hj]
    simp
  · rcases List.mem_append.1 h with h | h
    · obtain ⟨-, i, hi, -, hsh⟩ := (mem_conflicts hj hl).1 h
      rw [hno i hi] at hsh
      cases hsh
    · exact ((mem_oversub hj).1 h).1.ge

/-- A bundle whose slots are all in order, and do not clash, is legal. -/
theorem illegal_joined {s : State} {l : List Instr} {f : Frame} (hj : Joined s l f) (hl : ∀ i ∈ l, slotOf i ≠ none) (he : f.enc = [])
    (hh : hdrOk s.hdr = true) (hb : hdrBoost s.hdr = 0) (hno : ∀ i ∈ l, sharesWrite l i = false ∧ overBudget l i = false) :
    illegal f = none := by
  refine illegal_eq_none ?_ (by rw [hj.hdr, hh])
  have hc : conflicts f = [] := List.eq_nil_iff_forall_not_mem.2 fun e h => by
    obtain ⟨-, i, hi, -, hsh⟩ := (mem_conflicts hj hl).1 h
    rw [(hno i hi).1] at hsh
    cases hsh
  have ho : oversub f = [] := List.eq_nil_iff_forall_not_mem.2 fun e h => by
    obtain ⟨-, i, hi, -, hov⟩ := (mem_oversub hj).1 h
    rw [(hno i hi).2] at hov
    cases hov
  rw [encAll, he, hc, ho, emptyBoost_of_plain (by rw [hj.hdr, hb])]
  rfl

end Sys2Proof.Machine
end

section
/-! A scalar integer instruction at a wrong loop end (R102), and beside one of slot V (R54). -/

namespace Sys2Proof.Machine
open Sys2Proof

/-! ### What slots S and V issue in an open bundle -/

/-- An instruction's effect on the frame `f` of an open bundle is `f'`. -/
def IssuesTo (i : Instr) (n : Nat) (f f' : Frame) : Prop :=
  slotOf i = some n ∧ ∃ g : Frame → Frame, (∀ s, exec i s = runCore i g s) ∧ g f = f'

/-- A legal bit-field instruction names bits of a word (R127). -/
theorem field_of_causes {h : Bool} {i : Instr} {x : RF} (hi : i = .bfx x ∨ i = .bfi x) (hc : causes h i = []) :
    bfPos x + bfWidth x ≤ 64 := by
  by_cases hb : x.b.toNat % 64 + x.c.toNat % 64 + 1 ≤ 64
  · unfold bfPos bfWidth
    omega
  · rcases hi with rfl | rfl <;> simp [causes, needImm, hb] at hc

theorem bfx_eq (x : RF) (h : bfPos x + bfWidth x ≤ 64) (a : Word) :
    (if x.f.getLsbD 0 then sextN (bfWidth x) (a.toNat / 2 ^ bfPos x % 2 ^ bfWidth x)
      else BitVec.ofNat 64 (a.toNat / 2 ^ bfPos x % 2 ^ bfWidth x)) = fieldOf (x.f.getLsbD 0) (bfPos x) (bfWidth x) a := by
  cases x.f.getLsbD 0 with
  | true => exact bfxs_eq (bfPos x) (bfWidth x) (by unfold bfWidth; omega) h a
  | false => exact bfxu_eq (bfPos x) (bfWidth x) h a

/-- A scalar integer instruction writes its result (R124, R126-R128). -/
theorem issuesTo_of_aluResult {i : Instr} {f : Frame} {d : BitVec 7} {v : Word} (h : aluResult (rdS f 0) i = some (d, v)) {lv : Bool}
    (hc : causes lv i = []) : IssuesTo i 0 f (wrS f 0 d v) := by
  have key {i : Instr} {d : BitVec 7} {v v' : Word} (g : Frame → Frame) (hs : slotOf i = some 0) (hx : ∀ s, exec i s = runCore i g s)
      (hg : g f = wrS f 0 d v') (hv : v' = v) : IssuesTo i 0 f (wrS f 0 d v) := ⟨hs, g, hx, hv ▸ hg⟩
  unfold aluResult at h
  split at h <;> cases h
  case h_4 => exact key _ rfl (fun _ => rfl) rfl (mulh_eq ..)
  case h_5 => exact key _ rfl (fun _ => rfl) rfl (mulhn_eq ..)
  case h_9 | h_10 | h_11 | h_12 => exact key _ rfl (fun _ => rfl) rfl (by rw [low6])
  case h_13 => exact key _ rfl (fun _ => rfl) rfl (min_eq ..)
  case h_14 => exact key _ rfl (fun _ => rfl) rfl (max_eq ..)
  case h_15 => exact key _ rfl (fun _ => rfl) rfl (minn_eq ..)
  case h_16 => exact key _ rfl (fun _ => rfl) rfl (maxn_eq ..)
  case h_17 => exact key _ rfl (fun _ => rfl) rfl (cmp_eq ..)
  case h_18 => exact key _ rfl (fun _ => rfl) rfl (ite_not ..)
  case h_19 => exact key _ rfl (fun _ => rfl) rfl (clz_eq _)
  case h_20 => exact key _ rfl (fun _ => rfl) rfl (popc_eq _)
  case h_21 x => exact key _ rfl (fun _ => rfl) rfl (bfx_eq x (field_of_causes (.inl rfl) hc) _)
  case h_22 x => exact key _ rfl (fun _ => rfl) rfl (by rw [mask_eq]; rfl)
  case h_26 => exact key _ rfl (fun _ => rfl) rfl (lih_eq ..)
  all_goals exact key _ rfl (fun _ => rfl) rfl rfl

/-- An instruction of slot V writes its elements and raises its flags (R143-R183). -/
theorem issuesTo_of_vecOut {s : State} {i : Instr} {o : VecOut} {f : Frame} (hp : f.pre = boundary s) (hh : f.hdr = s.hdr)
    (h : vecArith s i = some o ∨ vecConvert s i = some o ∨ vecShape s i = some o) :
    IssuesTo i 1 f (raise (wrE f 1 o.d o.w o.G o.es) 1 o.fl false) := by
  obtain ⟨pre, now, hdr, used, enc, faults, stall, flags, bflags, bfdz, csrw, late, ctl, resolve, park, walk, chkfail, ports, writes, reads,
    eaten, slots⟩ := f
  dsimp only at hp hh
  subst hp hh
  rcases h with h | h | h
  · unfold vecArith at h
    dsimp only at h
    split at h
    -- The shifts, by one scalar or by an element each (R150).
    case h_12 x | h_13 x | h_14 x =>
      split at h <;> cases h
      case isTrue hsb => exact ⟨rfl, _, fun _ => rfl, if_pos hsb⟩
      case isFalse hsb => exact ⟨rfl, _, fun _ => rfl, if_neg hsb⟩
    all_goals cases h
    all_goals exact ⟨rfl, _, fun _ => rfl, rfl⟩
  · unfold vecConvert at h
    split at h <;> cases h
    all_goals exact ⟨rfl, _, fun _ => rfl, rfl⟩
  · unfold vecShape at h
    dsimp only at h
    split at h
    -- VBCAST and VSLIDE have two forms each.
    case h_6 x | h_8 x =>
      split at h <;> cases h
      case isTrue hsb => exact ⟨rfl, _, fun _ => rfl, (if_pos hsb).trans (raise_zero ..).symm⟩
      case isFalse hsb => exact ⟨rfl, _, fun _ => rfl, (if_neg hsb).trans (raise_zero ..).symm⟩
    all_goals cases h
    -- VRED, VSCAN and VMAXA raise flags, the rearrangements none.
    case h_1 | h_2 | h_3 => exact ⟨rfl, _, fun _ => rfl, rfl⟩
    all_goals exact ⟨rfl, _, fun _ => rfl, (raise_zero ..).symm⟩

/-! ### A wrong loop end (R102) -/

theorem loopMark_eq_endOk {f : Frame} {i : Instr} (h : f.slots.any (fun e => transfers e.2) = transfers i) :
    loopMark f = !endOk f.hdr f.pre i := by
  unfold loopMark endOk
  rw [h]
  cases f.pre.loops.getLast? with
  | none => simp
  | some t =>
    by_cases ht : t.stop = f.pre.pc
    · simp [ht]
    · simp [ht, beq_eq_false_iff_ne.2 ht, bne]

/-- A legal bundle with a wrong loop end traps, whatever its slots did. -/
theorem closeBundle_loopMark {s : State} {f : Frame} (hi : illegal f = none) (hm : loopMark f = true) :
    closeBundle s f = takeTrap s s.cur 0x3D f.pre.pc 0 := by
  unfold closeBundle
  rw [hi, hm]
  rfl

theorem exec_nop_loopMark {s : State} (hi : canIssue s = true) (he : endOk s.hdr (boundary s) .nop = false) (hh : hdrOk s.hdr = true)
    (hb : hdrBoost s.hdr = 0) : exec .nop s = .next (takeTrap (entered s) s.cur 0x3D (boundary s).pc 0) := by
  refine (runSlot_alone hi .nop fun _ => id).trans (congrArg Host.Outcome.next (closeBundle_loopMark ?_ ?_))
  · refine illegal_eq_none ?_ hh
    rw [show slotIn .nop id (reading s) = reading s from rfl, encAll, emptyBoost_of_plain hb]
    rfl
  · rw [loopMark_eq_endOk (i := .nop) rfl]
    exact congrArg (!·) he

theorem transfers_of_aluResult {r : BitVec 7 → Word} {i : Instr} {o : BitVec 7 × Word} (h : aluResult r i = some o) :
    transfers i = false := by
  unfold aluResult at h
  split at h <;> cases h <;> rfl

theorem exec_alu_loopMark {s : State} {i : Instr} {d : BitVec 7} {v : Word} (hi : canIssue s = true)
    (he : endOk s.hdr (boundary s) i = false) (ha : aluResult (rdS (reading s) 0) i = some (d, v))
    (hl : legalAlone s.hdr (boundary s) i 0 = true) (hw : waits (boundary s) i = false) (ht : noToken (boundary s) (uses i) = true) :
    exec i s = .next (takeTrap (entered s) s.cur 0x3D (boundary s).pc 0) := by
  have hc : causes (boundary s).level i = [] := by
    simp only [legalAlone, Bool.and_eq_true, List.isEmpty_iff] at hl
    exact hl.1.1.1
  obtain ⟨hs, g, hx, hg⟩ := issuesTo_of_aluResult (f := loneFrame i 0 (reading s)) ha hc
  have hk : Kept i 0 (boundary s) s.hdr (wrS (loneFrame i 0 (reading s)) 0 d v) := by
    obtain ⟨ep, eh, eu, ee, ew, epo, es⟩ := checks_eq_iff.1 (checks_wrS (loneFrame i 0 (reading s)) 0 d v)
    exact ⟨ep, eh, eu, ee, es, ew, epo⟩
  rw [hx]
  refine (runSlot_alone hi i fun _ => g).trans (congrArg Host.Outcome.next ?_)
  rw [show reading s = newFrame (boundary s) s.hdr from rfl, slotIn_lone hs hl hw ht]
  rw [show newFrame (boundary s) s.hdr = reading s from rfl, hg]
  refine (closeBundle_loopMark (illegal_lone hk hl) ?_).trans (by rw [hk.pre]; rfl)
  rw [loopMark_eq_endOk (i := i) (by rw [hk.slots]; simp), hk.hdr, hk.pre, he]
  rfl

end Sys2Proof.Machine
end

section
/-! Two slots that commit together: a scalar integer instruction beside one of slot V (R54). -/

namespace Sys2Proof.Machine
open Sys2Proof

/-! ### Two legal slots in one bundle -/

/-- What `lone` says of an instruction under a header that boosts nothing. -/
structure LegalSlot (s : State) (i : Instr) : Prop where
  slot : slotOf i ≠ none
  issue : canIssue s = true
  fields : causes (boundary s).level i = []
  header : hdrOk s.hdr = true
  latches : (latchReads (uses i)).any (fun j => (boundary s).latBoost.getLsbD j) = false
  ready : waits (boundary s) i = false
  tokens : noToken (boundary s) (uses i) = true
  atEnd : endOk s.hdr (boundary s) i = true

theorem legalSlot_of_lone {s : State} {i : Instr} (hl : lone i s = true) (hb : hdrBoost s.hdr = 0) : LegalSlot s i := by
  unfold lone at hl
  cases hs : slotOf i with
  | none => rw [hs] at hl; cases hl
  | some n =>
    simp only [hs, Bool.and_eq_true, Bool.not_eq_true', legalAlone, hb, List.isEmpty_iff] at hl
    obtain ⟨⟨⟨⟨hi, ⟨⟨hc, hh⟩, -⟩, hlb⟩, hw⟩, ht⟩, he⟩ := hl
    exact ⟨by simp [hs], hi, hc, hh, by simpa using hlb, hw, ht, he⟩

theorem LegalSlot.slotIn {s : State} {i : Instr} (h : LegalSlot s i) (hb : hdrBoost s.hdr = 0) {l : List Instr} {f : Frame}
    (hj : Joined s l f) (g : Frame → Frame) : slotIn i g f = g (joinFrame i f) := by
  rw [slotIn_eq hj hb h.slot h.fields h.ready, h.latches, if_neg Bool.false_ne_true, tokAcquire_noToken]
  rw [show (joinFrame i f).pre = boundary s from hj.pre]
  exact h.tokens

/-- A bundle of two legal slots closes with what the two leave one after the other. -/
theorem runBundle_pair {s : State} {i j : Instr} (hb : hdrBoost s.hdr = 0) (hi : LegalSlot s i) (hj : LegalSlot s j)
    {gi gj : State → Frame → Frame} (hgi : ∀ t, exec i t = runSlot i gi t) (hgj : ∀ t, exec j t = runSlot j gj t) {f₁ f₂ : Frame}
    (h₁ : gi (opened s (reading s)) (joinFrame i (reading s)) = f₁) (h₂ : gj (opened s f₁) (joinFrame j f₁) = f₂)
    (hc : checks f₁ = checks (joinFrame i (reading s))) : runBundle [i, j] s = .next (closeBundle (entered s) f₂) := by
  obtain ⟨hp, hf⟩ := canIssue_power hi.issue
  have hj₁ : Joined s [i] f₁ := ((joined_reading s).join i).of_checks (.inl hc)
  refine runBundle_of_runList hf ?_
  unfold runList
  rw [exec_opened hp hgi, hi.slotIn hb (joined_reading s), h₁]
  unfold runList
  simp only [exec_opened hp hgj, hj.slotIn hb hj₁, h₂]
  rfl

/-- The frame of two legal slots that write no register twice and keep within the budgets. -/
structure LegalPair (s : State) (i j : Instr) (f : Frame) : Prop where
  first : LegalSlot s i
  second : LegalSlot s j
  joined : Joined s [i, j] f
  enc : f.enc = []
  apart : ∀ k ∈ [i, j], sharesWrite [i, j] k = false ∧ overBudget [i, j] k = false

theorem LegalPair.of_checks {s : State} {i j : Instr} {f₁ f₂ : Frame} (hi : LegalSlot s i) (hj : LegalSlot s j)
    (h₁ : checks f₁ = checks (joinFrame i (reading s))) (h₂ : checks f₂ = checks (joinFrame j f₁))
    (ha : ∀ k ∈ [i, j], sharesWrite [i, j] k = false ∧ overBudget [i, j] k = false) : LegalPair s i j f₂ := by
  have hj₁ : Joined s [i] f₁ := ((joined_reading s).join i).of_checks (.inl h₁)
  obtain ⟨-, -, -, he₁, -, -, -⟩ := checks_eq_iff.1 h₁
  obtain ⟨-, -, -, he₂, -, -, -⟩ := checks_eq_iff.1 h₂
  exact ⟨hi, hj, (hj₁.join j).of_checks (.inl h₂), he₂.trans he₁, ha⟩

theorem LegalPair.slots_ne_none {s : State} {i j : Instr} {f : Frame} (h : LegalPair s i j f) : ∀ k ∈ [i, j], slotOf k ≠ none := by
  rintro k hk
  rcases List.mem_pair.1 hk with rfl | rfl
  · exact h.first.slot
  · exact h.second.slot

theorem LegalPair.loopMark {s : State} {i j : Instr} {f : Frame} (h : LegalPair s i j f) : loopMark f = false := by
  have hi := h.first.atEnd
  have hj := h.second.atEnd
  unfold endOk at hi hj
  unfold Machine.loopMark
  rw [h.joined.hdr, h.joined.pre, h.joined.slots]
  cases hq : (boundary s).loops.getLast? with
  | none => rw [hq] at hi; simpa using hi
  | some t =>
    rw [hq] at hi hj
    by_cases ht : t.stop = (boundary s).pc
    · simp [ht] at hi hj ⊢
      exact ⟨hi.1, hi.2, hj.2⟩
    · simp [ht] at hi ⊢
      exact hi

/-- A legal bundle of two slots that neither waits nor resolves closes with its faults, flags, or commit. -/
theorem LegalPair.closeBundle {s : State} {i j : Instr} {f : Frame} (h : LegalPair s i j f) (hb : hdrBoost s.hdr = 0)
    (hst : f.stall = false) (hw : f.walk = []) (hr : f.resolve = none) (ha : acquireHolds f = false) :
    closeBundle (entered s) f = finishBundle (entered s) f (boundary s) := by
  have hre : redone (entered s) f = .done (entered s) (boundary s) := by unfold redone resolves; rw [hr, h.joined.pre]; rfl
  have hco : commitOwed f = false := by unfold commitOwed resolves; rw [hr]; rfl
  unfold Machine.closeBundle
  rw [illegal_joined h.joined h.slots_ne_none h.enc h.first.header hb h.apart, h.loopMark]
  simp [hst, hw, hr, hre, ha, hco]

/-! ### The commit of a scalar and a vector result -/

theorem boosted_of_plain {s : State} {f : Frame} (hb : hdrBoost s.hdr = 0) (hh : f.hdr = s.hdr) (n : Nat) : boosted f n = false := by
  simp [boosted, hh, hb]

theorem wrS_eq {s : State} {f : Frame} (hh : f.hdr = s.hdr) (n : Nat) (d : BitVec 7) (v : Word) : wrS f n d v =
    { f with now := { regS s n d v f.now with lat := mput 0 f.now.lat n (v.setWidth 2048) } } := by
  have hbo : boosted (setLat f n (v.setWidth 2048)) n = isBoosted s n := by
    rw [show boosted (setLat f n (v.setWidth 2048)) n = (hdrBoost f.hdr).getLsbD n from rfl, hh]
    rfl
  unfold wrS regS
  split
  · simp only [hbo]
    rw [show (setLat f n (v.setWidth 2048)).now = { f.now with lat := mput 0 f.now.lat n (v.setWidth 2048) } from rfl, putS_lat]
    rfl
  · rfl

theorem wrV_eq {s : State} {f : Frame} (hp : f.pre = boundary s) (hh : f.hdr = s.hdr) (n : Nat) (d : BitVec 7) (vs : List Vec) :
    wrV f n d vs = { f with now := { regV s n d vs f.now with lat := mput 0 f.now.lat n (vs.headD 0) } } := by
  have hbo : boosted (setLat f n (vs.headD 0)) n = isBoosted s n := by
    rw [show boosted (setLat f n (vs.headD 0)) n = (hdrBoost f.hdr).getLsbD n from rfl, hh]
    rfl
  have hrb : (setLat f n (vs.headD 0)).pre.rb = (boundary s).rb := congrArg Core.rb hp
  unfold wrV regV
  split
  · simp only [hbo, hrb]
    rw [show (setLat f n (vs.headD 0)).now = { f.now with lat := mput 0 f.now.lat n (vs.headD 0) } from rfl, foldl_putV_lat]
    rfl
  · rfl

theorem raise_eq {f : Frame} {n : Nat} (hb : boosted f n = false) (fl : Fl) (d : Bool) :
    raise f n fl d = { f with flags := f.flags ++ if fl = 0 then [] else [(n, fl, d)] } := by
  unfold raise
  rw [hb]
  split
  · rw [List.append_nil]
  · rfl

/-- Which slots were used matters to a commit only for the latches of boosted ones (R71). -/
theorem bundleCore_used {f : Frame} (hb : hdrBoost f.hdr = 0) (u : BitVec 6) (k : Core) :
    bundleCore { f with used := u } k = bundleCore f k := by
  have h : hdrBoost f.hdr &&& u = hdrBoost f.hdr &&& f.used := by rw [hb]; exact BitVec.zero_and.trans BitVec.zero_and.symm
  unfold bundleCore
  simp only [h]
  rfl

theorem finishBundle_used {f : Frame} (hb : hdrBoost f.hdr = 0) (u : BitVec 6) (s : State) (k : Core) :
    finishBundle s { f with used := u } k = finishBundle s f k := by
  have hc (c : Nat) : commit s c { f with used := u } k = commit s c f k := by
    unfold commit committed
    rw [bundleCore_used hb]
    rfl
  unfold finishBundle
  simp only [hc]
  rfl

theorem afterBundle_plain {s : State} (hb : hdrBoost s.hdr = 0) (n m : Nat) (lat : SMap Vec) (w : Core → Core) (fl : Fl) (d : Bool) :
    afterBundle s n lat w fl d = afterBundle s m lat w fl d := by
  simp [afterBundle, isBoosted, hb]

/-- What a scalar integer instruction names: up to three scalar sources and one result (R69). -/
def scalarOnly (u : Uses) : Prop :=
  u.s.length ≤ 3 ∧ u.ws.length ≤ 1 ∧ u.sp = [] ∧ u.wsp = [] ∧ u.v = [] ∧ u.p = [] ∧ u.sc = [] ∧ u.g = [] ∧ u.wv = [] ∧ u.wp = [] ∧
    u.wx = [] ∧ u.wg = []

/-- What an instruction of slot V names, VEXTR apart: at most two scalar sources, and no scalar result (R69). -/
def vectorOnly (u : Uses) : Prop := u.s.length ≤ 2 ∧ u.sp = [] ∧ u.ws = [] ∧ u.wsp = []

theorem scalarOnly_of_aluResult {r : BitVec 7 → Word} {i : Instr} {o : BitVec 7 × Word} (h : aluResult r i = some o) :
    scalarOnly (uses i) := by
  unfold aluResult at h
  split at h <;> cases h
  all_goals exact ⟨Nat.le_of_ble_eq_true rfl, Nat.le_of_ble_eq_true rfl, rfl, rfl, rfl, rfl, rfl, rfl, rfl, rfl, rfl, rfl⟩

theorem vectorOnly_uV (x : VF) (b c : Bool) (g : Nat) : vectorOnly (uV x b c g) := by
  refine ⟨?_, rfl, rfl, rfl⟩
  show (if x.f.getLsbD 6 then [x.b] else []).length ≤ 2
  split <;> simp

theorem vectorOnly_of_vecOut {s : State} {i : Instr} {o : VecOut}
    (h : vecArith s i = some o ∨ vecConvert s i = some o ∨ vecShape s i = some o) : vectorOnly (uses i) := by
  rcases h with h | h | h
  · unfold vecArith at h
    dsimp only at h
    split at h
    case h_35 => cases h
    all_goals exact vectorOnly_uV ..
  · unfold vecConvert at h
    dsimp only at h
    split at h
    case h_4 => cases h
    all_goals
      unfold uses
      dsimp only
      split <;> exact ⟨Nat.le_of_ble_eq_true rfl, rfl, rfl, rfl⟩
  · unfold vecShape at h
    dsimp only at h
    split at h
    case h_14 => cases h
    case h_6 | h_7 | h_8 => exact ⟨Nat.le_of_ble_eq_true rfl, rfl, rfl, rfl⟩
    case h_13 =>
      unfold uses
      dsimp only
      split <;> exact ⟨Nat.le_of_ble_eq_true rfl, rfl, rfl, rfl⟩
    all_goals exact vectorOnly_uV ..

/-- A scalar result and those of slot V are in different files. -/
theorem sharesWrite_scalar_vector {i j : Instr} (hi : scalarOnly (uses i)) (hj : vectorOnly (uses j)) :
    ∀ k ∈ [i, j], sharesWrite [i, j] k = false := by
  obtain ⟨-, -, -, hwsp, -, -, -, -, hwv, hwp, hwx, hwg⟩ := hi
  obtain ⟨-, -, hws', hwsp'⟩ := hj
  have h0 : ∀ r ∈ written (uses i), r.1 = 0 := by
    intro r hr
    simp only [written, hwsp, hwv, hwp, hwx, hwg, List.filter_nil, List.flatMap_nil, List.map_nil, List.append_nil] at hr
    obtain ⟨a, -, rfl⟩ := List.mem_map.1 hr
    rfl
  have h1 : ∀ r ∈ written (uses j), r.1 ≠ 0 := by
    intro r hr
    simp only [written, hws', hwsp', List.filter_nil, List.map_nil, List.flatMap_nil, List.nil_append, List.mem_append, List.mem_map,
      List.mem_flatMap] at hr
    rcases hr with ((⟨a, -, b, -, rfl⟩ | ⟨a, -, rfl⟩) | ⟨a, -, rfl⟩) | ⟨a, -, rfl⟩ <;> simp
  intro k hk
  refine Bool.eq_false_iff.2 fun hsh => ?_
  simp only [sharesWrite, List.any_eq_true, Bool.and_eq_true, bne_iff_ne, List.contains_iff_mem] at hsh
  obtain ⟨m, hm, hne, r, hrk, hrm⟩ := hsh
  rcases List.mem_pair.1 hk with rfl | rfl <;> rcases List.mem_pair.1 hm with rfl | rfl
  · exact hne rfl
  · exact h1 r hrm (h0 r hrk)
  · exact h1 r hrk (h0 r hrm)
  · exact hne rfl

/-- Together they keep within every port budget (R69). -/
theorem overBudget_scalar_vector {i j : Instr} (hi : scalarOnly (uses i)) (hj : vectorOnly (uses j)) (k : Instr) :
    overBudget [i, j] k = false := by
  have hu := usesOk_uses j
  have r5 : List.range 5 = [0, 1, 2, 3, 4] := rfl
  simp only [overBudget, r5, List.map_cons, List.map_nil]
  generalize uses i = u at *
  generalize uses j = u' at *
  obtain ⟨hs, hws, hsp, hwsp, hv, hp, hsc, hg, hwv, hwp, hwx, hwg⟩ := hi
  obtain ⟨hs', hsp', hws', hwsp'⟩ := hj
  simp only [usesOk, Bool.and_eq_true, Nat.ble_eq] at hu
  obtain ⟨⟨⟨⟨⟨⟨⟨⟨⟨-, h1⟩, h2⟩, h3⟩, h4⟩, -⟩, h6⟩, h7⟩, h8⟩, h9⟩ := hu
  have a0 := count_cnt_le named u.s
  have a1 := count_cnt_le named u.ws
  have a2 := count_cnt_le named u'.s
  have a3 := count_cnt_le (fun a => a.toNat < 64) (u'.v.map (·.1))
  have a4 := count_cnt_le (fun a => a.toNat < 64) (u'.wv.map (·.1))
  rw [List.length_map] at a3 a4
  simp only [readPorts, writePorts, nth, readBudget, writeBudget, hsp, hwsp, hv, hp, hsc, hg, hwv, hwp,
    hwx, hwg, hsp', hws', hwsp']
  simp [cnt] at *
  omega

/-- The frame once slot S has written the scalar `v`. -/
def scalarWritten (s : State) (i : Instr) (d : BitVec 7) (v : Word) : Frame :=
  { joinFrame i (reading s) with now := { regS s 0 d v (reading s).now with lat := latS 0 v } }

/-- The frame once slot V has written `o` too. -/
def vectorWritten (s : State) (i j : Instr) (d : BitVec 7) (v : Word) (o : VecOut) : Frame :=
  { joinFrame j (scalarWritten s i d v) with
    now := { regV s 1 o.d (newGroup s 1 o) (regS s 0 d v (reading s).now) with lat := mput 0 (latS 0 v) 1 ((newGroup s 1 o).headD 0) },
    flags := if o.fl = 0 then [] else [(1, o.fl, false)] }

theorem issuesTo_scalarWritten {s : State} {i : Instr} {d : BitVec 7} {v : Word} (ha : aluResult (rdS (reading s) 0) i = some (d, v))
    (hc : causes (boundary s).level i = []) : IssuesTo i 0 (joinFrame i (reading s)) (scalarWritten s i d v) := by
  have h := issuesTo_of_aluResult (f := joinFrame i (reading s)) ha hc
  rwa [wrS_eq (s := s) rfl] at h

theorem issuesTo_vectorWritten {s : State} {i j : Instr} {d : BitVec 7} {v : Word} {o : VecOut} (hb : hdrBoost s.hdr = 0)
    (ho : vecArith s j = some o ∨ vecConvert s j = some o ∨ vecShape s j = some o) :
    IssuesTo j 1 (joinFrame j (scalarWritten s i d v)) (vectorWritten s i j d v o) := by
  have h := issuesTo_of_vecOut (f := joinFrame j (scalarWritten s i d v)) (s := s) rfl rfl ho
  rw [wrE_eq (s := s) rfl rfl, wrV_eq (s := s) rfl rfl, raise_eq (boosted_of_plain hb rfl 1)] at h
  rw [show (joinFrame j (scalarWritten s i d v)).now = { regS s 0 d v (reading s).now with lat := latS 0 v } from rfl, regV_lat] at h
  exact h

theorem wrote_vectorWritten {s : State} {i j : Instr} {d : BitVec 7} {v : Word} {o : VecOut} (hb : hdrBoost s.hdr = 0) :
    Wrote s 1 (mput 0 (latS 0 v) 1 ((newGroup s 1 o).headD 0)) (fun k => regV s 1 o.d (newGroup s 1 o) (regS s 0 d v k)) o.fl false
      { vectorWritten s i j d v o with used := slotBit 1 } :=
  have hn : isBoosted s 1 = false := boosted_of_plain (f := reading s) hb rfl 1
  { now := rfl, pre := rfl, hdr := rfl, used := rfl, faults := rfl, flags := by rw [hn]; simp; rfl, bflags := by rw [hn]; rfl,
    bfdz := by rw [hn]; rfl, csrw := rfl, resolve := rfl, chk := rfl, park := rfl }

/-- A scalar integer instruction and one of slot V commit together, each having read before the other wrote. -/
theorem runBundle_scalar_vector {s : State} {i j : Instr} {d : BitVec 7} {v : Word} {o : VecOut} (hb : hdrBoost s.hdr = 0)
    (hi : lone i s = true) (hj : lone j s = true) (ha : aluResult (rdS (reading s) 0) i = some (d, v))
    (ho : vecArith s j = some o ∨ vecConvert s j = some o ∨ vecShape s j = some o) (hq : quiet s 1 o.fl = true) :
    runBundle [i, j] s = .next (retire s (afterBundle s 0 (mput 0 (latS 0 v) 1 ((newGroup s 1 o).headD 0))
      (fun k => regV s 1 o.d (newGroup s 1 o) (regS s 0 d v k)) o.fl false)) := by
  have hi' := legalSlot_of_lone hi hb
  have hj' := legalSlot_of_lone hj hb
  have hsi := scalarOnly_of_aluResult ha
  have hvj := vectorOnly_of_vecOut ho
  obtain ⟨-, gi, hxi, hgi⟩ := issuesTo_scalarWritten ha hi'.fields
  obtain ⟨-, gj, hxj, hgj⟩ := issuesTo_vectorWritten (i := i) (d := d) (v := v) hb ho
  have hpair : LegalPair s i j (vectorWritten s i j d v o) := .of_checks hi' hj' (f₁ := scalarWritten s i d v) rfl rfl
    fun k hk => ⟨sharesWrite_scalar_vector hsi hvj k hk, overBudget_scalar_vector hsi hvj k⟩
  rw [runBundle_pair hb hi' hj' (gi := fun _ => gi) (gj := fun _ => gj) hxi hxj hgi hgj rfl,
    hpair.closeBundle hb rfl rfl rfl (acquireHolds_of_late rfl rfl), ← finishBundle_used (by exact hb) (slotBit 1),
    finishBundle_wrote (wrote_vectorWritten hb) hq rfl rfl, afterBundle_plain hb 0 1]

end Sys2Proof.Machine
end

section
/-! Address faults in bundles of two slots (R54, R195, R381), and the obligation on illegal bundles (O30). -/

namespace Sys2Proof.Machine
open Sys2Proof

/-! ### The address check of a slot in an open bundle (R195) -/

/-- Translation does not look at the frame of the open bundle. -/
theorem xlParts_opened (s : State) (f : Frame) (c : Nat) (k : Core) (acc : Acc) (l : List (Nat × Nat)) :
    xlParts (opened s f) c k acc l = xlParts (entered s) c k acc l := by
  induction l with
  | nil => rfl
  | cons e t ih =>
    unfold xlParts
    rw [ih]
    rfl

theorem resolve_opened (s : State) (f : Frame) (c : Nat) (k : Core) (acc : Acc) (align : Nat) (els : List (Nat × Nat)) :
    resolve (opened s f) c k acc align els = resolve (entered s) c k acc align els := by
  unfold resolve
  simp only [xlParts_opened]
  rfl

section
variable {s : State} {f : Frame} (hp : f.pre = boundary s) (hh : f.hdr = s.hdr)
include hp

theorem withPieces_of_reach {acc : Acc} {align : Nat} {els : List (Nat × Nat)} {cause info : Nat} {flt : Nat → Nat → Frame}
    {g : List Piece → Frame} (h : reach s acc align els = .fault cause info) (f₀ : Frame) :
    withPieces (opened s f₀) f acc align els flt g = flt cause info := by
  unfold withPieces
  rw [resolve_opened, hp, show resolve (entered s) (opened s f₀).cur (boundary s) acc align els = .fault cause info from h]

theorem heldRead_of_canIssue (hi : canIssue s = true) (n : Nat) (ok : Nat → Bool) : heldRead f n ok = none := by
  have he : heldRead f n ok = heldRead (loneFrame .nop n (reading s)) n ok := by
    unfold heldRead
    rw [hp]
    rfl
  exact he.trans (heldRead_none hi .nop n n ok)

theorem mxRoom_of_lt (h : (boundary s).mxq.length < 8) (g : Frame) : mxRoom f g = g := by
  unfold mxRoom
  rw [hp, if_neg (by omega)]

include hh

theorem gateLoad_of_mayLoad (h : mayLoad s = true) (g : Frame) : gateLoad f g = g := by
  unfold gateLoad
  rw [hp, hh, show acqHolds (boundary s) (hdrColour s.hdr) false = false from by simpa [mayLoad] using h]
  rfl

theorem gateWrite_of_mayWrite (h : mayWrite s = true) (g : Frame) : gateWrite f g = g := by
  unfold gateWrite
  rw [hp, hh, show acqHolds (boundary s) (hdrColour s.hdr) true = false from by simpa [mayWrite] using h]
  rfl

theorem loadAt_fault {x : LF} {d : LateDst} {align : Nat} {els : List (Nat × Nat)} {r : Saved} {cause info : Nat} (hi : canIssue s = true)
    (hm : mayLoad s = true) (hd : d.boost = false) (h : reach s .rd align els = .fault cause info) (f₀ : Frame) :
    loadAt x (opened s f₀) f d align els r = faultAt f 3 cause info := by
  unfold loadAt
  rw [heldRead_of_canIssue hp hi]
  dsimp only
  rw [gateLoad_of_mayLoad hp hh hm, withPieces_of_reach hp h]
  unfold loadFault
  rw [hd]
  rfl

theorem arriveAt_fault {d : LateDst} {nwb : Bool} {n G align : Nat} {els : List (Nat × Nat)} {cause info : Nat} (hi : canIssue s = true)
    (hm : mayLoad s = true) (h : reach s .rd align els = .fault cause info) (f₀ : Frame) :
    arriveAt (opened s f₀) f d nwb n G align els = faultAt f 3 cause info := by
  unfold arriveAt
  rw [heldRead_of_canIssue hp hi, gateLoad_of_mayLoad hp hh hm, withPieces_of_reach hp h]
  rfl

theorem storeAt_fault {align : Nat} {els : List (Nat × Nat)} {bs : List Byte} {nib : Bool} {cause info : Nat} (hm : mayWrite s = true)
    (h : reach s .wr align els = .fault cause info) (f₀ : Frame) :
    storeAt (opened s f₀) f align els bs nib = faultAt f 3 cause info := by
  unfold storeAt
  rw [gateWrite_of_mayWrite hp hh hm, withPieces_of_reach hp h]

theorem readCard_fault {n align len : Nat} {ea : Word} {g : List Byte × Bool → Frame} {cause info : Nat} (hi : canIssue s = true)
    (hm : mayLoad s = true) (h : reach s .rd align [(va48 ea, len)] = .fault cause info) (f₀ : Frame) :
    readCard (opened s f₀) f n ea align len g = faultAt f n cause info := by
  unfold readCard
  rw [heldRead_of_canIssue hp hi]
  dsimp only
  rw [gateLoad_of_mayLoad hp hh hm, withPieces_of_reach hp h]

theorem issueScld_fault {x : XF} {cause info : Nat} (hi : canIssue s = true) (hm : mayLoad s = true)
    (h : reach s .rd 2 [(va48 (rdS (reading s) 5 x.a + BitVec.ofNat 64 (2 * x.hi.toNat)), 2)] = .fault cause info) (f₀ : Frame) :
    issueScld x (opened s f₀) f = faultAt f 5 cause info := by
  have hr : rdS f 5 x.a = rdS (reading s) 5 x.a := by
    unfold rdS boosted latch
    rw [hp, hh]
    rfl
  unfold issueScld
  dsimp only
  rw [hr, heldRead_of_canIssue hp hi, gateLoad_of_mayLoad hp hh hm, withPieces_of_reach hp h]
  rfl

end

/-- Slot `n` of the open bundle faults and does nothing else. -/
def FaultsTo (s : State) (i : Instr) (n : Nat) (f : Frame) (cause info : Nat) : Prop :=
  ∃ g : State → Frame → Frame, (∀ t, exec i t = runSlot i g t) ∧ ∀ f₀, g (opened s f₀) f = faultAt f n cause info

theorem slotOf_of_accessOf {s : State} {i : Instr} {n : Nat} {acc : Acc} {align : Nat} {els : List (Nat × Nat)}
    (h : accessOf s i = some (n, acc, align, els)) : slotOf i = some n := by
  unfold accessOf at h
  split at h <;> cases h <;> rfl

theorem faultsTo_of_reach {s : State} {i : Instr} {n : Nat} {acc : Acc} {align : Nat} {els : List (Nat × Nat)} {cause info : Nat} {f : Frame}
    (hp : f.pre = boundary s) (hh : f.hdr = s.hdr) (hb : hdrBoost s.hdr = 0) (hi : canIssue s = true)
    (ha : accessOf s i = some (n, acc, align, els)) (hm : if acc.writes then mayWrite s = true else mayLoad s = true)
    (hq : n = 2 → (boundary s).mxq.length < 8) (hr : reach s acc align els = .fault cause info) : FaultsTo s i n f cause info := by
  obtain ⟨pre, now, hdr, used, enc, faults, stall, flags, bflags, bfdz, csrw, late, ctl, resolve, park, walk, chkfail, ports, writes, reads,
    eaten, slots⟩ := f
  dsimp only at hp hh
  subst hp hh
  have hbo (f : Frame) (hf : f.hdr = s.hdr) : boosted f 3 = false := boosted_of_plain hb hf 3
  unfold accessOf at ha
  split at ha <;> cases ha
  -- LD, VLD, VLDS, VGLD
  case h_1 | h_4 | h_6 | h_7 => exact ⟨_, fun _ => rfl, fun _ => loadAt_fault rfl rfl hi hm (hbo _ rfl) hr _⟩
  -- LDR, VLDR
  case h_2 | h_9 => exact ⟨_, fun _ => rfl, fun _ => arriveAt_fault rfl rfl hi hm hr _⟩
  -- ST, VST, VSCT
  case h_3 | h_5 | h_8 => exact ⟨_, fun _ => rfl, fun _ => storeAt_fault rfl rfl hm hr _⟩
  case h_10 => exact ⟨_, fun _ => rfl, fun _ => issueScld_fault rfl rfl hi hm hr _⟩
  -- MJOB, MDRN
  case h_12 | h_13 =>
    exact ⟨_, fun _ => rfl, fun _ => (mxRoom_of_lt rfl (hq rfl) _).trans (readCard_fault rfl rfl hi hm hr _)⟩
  -- PORT, LAUNCH, CKPT, MCST, CARAV
  all_goals exact ⟨_, fun _ => rfl, fun _ => readCard_fault rfl rfl hi hm hr _⟩

/-! ### Faults beside another slot (R54, R381) -/

theorem seq_ne_bswap (i : Nat) : Ctl.seq ≠ .bswap i := nofun

theorem head_two_faults {n m : Nat} (hn : n < m) (hm : m < 6) (x y : Nat × Nat) :
    ((List.range 6).filterMap (fun k => [(n, x), (m, y)].find? (fun e => e.1 == k))).head? = some (n, x) := by
  interval_cases m <;> interval_cases n <;> rfl

/-- Of two faults the lower slot's is taken. -/
theorem finishBundle_two_faults {s : State} {f : Frame} {k : Core} {n m cause info cause' info' : Nat} (hn : n < m) (hm : m < 6)
    (h : f.faults = [(n, cause, info), (m, cause', info')]) (hc : ∀ i, f.ctl ≠ .bswap i) :
    finishBundle s f k = takeTrap s s.cur cause f.pre.pc (trec (slotBit n) info false) := by
  have hfst : slotFault s f = some (n, cause, info) := by
    unfold slotFault
    rw [h]
    cases hx : f.ctl with
    | bswap i => exact absurd hx (hc i)
    | _ => exact head_two_faults hn hm ..
  unfold finishBundle
  rw [hfst]

/-- Sharing a write is mutual. -/
theorem sharesWrite_pair {i j : Instr} (hi : slotOf i ≠ none) (hj : slotOf j ≠ none) (h : sharesWrite [i, j] i = false) :
    ∀ k ∈ [i, j], sharesWrite [i, j] k = false := by
  have hl : ∀ k ∈ [i, j], slotOf k ≠ none := by
    rintro k hk
    rcases List.mem_pair.1 hk with rfl | rfl
    · exact hi
    · exact hj
  intro k hk
  rcases List.mem_pair.1 hk with rfl | rfl
  · exact h
  · refine Bool.eq_false_iff.2 fun hsh => Bool.eq_false_iff.1 h ?_
    obtain ⟨m, hm, hne, r, hrk, hrm⟩ := (sharesWrite_iff hl hk).1 hsh
    rcases List.mem_pair.1 hm with rfl | rfl
    · exact (sharesWrite_iff hl hm).2 ⟨k, hk, hne.symm, r, hrm, hrk⟩
    · exact absurd rfl hne

/-- A scalar integer instruction beside a slot that faults leaves no effect. -/
theorem runBundle_scalar_fault {s : State} {i j : Instr} {d : BitVec 7} {v : Word} {n : Nat} {acc : Acc} {align : Nat}
    {els : List (Nat × Nat)} {cause info : Nat} (hb : hdrBoost s.hdr = 0) (hi : lone i s = true) (hj : lone j s = true)
    (ha : aluResult (rdS (reading s) 0) i = some (d, v)) (hacc : accessOf s j = some (n, acc, align, els))
    (hm : if acc.writes then mayWrite s = true else mayLoad s = true) (hq : n = 2 → (boundary s).mxq.length < 8)
    (hr : reach s acc align els = .fault cause info) (hapart : ∀ k ∈ [i, j], sharesWrite [i, j] k = false ∧ overBudget [i, j] k = false) :
    runBundle [i, j] s = .next (trapped s n cause info) := by
  have hi' := legalSlot_of_lone hi hb
  have hj' := legalSlot_of_lone hj hb
  obtain ⟨-, gi, hxi, hgi⟩ := issuesTo_scalarWritten ha hi'.fields
  obtain ⟨gj, hxj, hgj⟩ := faultsTo_of_reach (f := joinFrame j (scalarWritten s i d v)) rfl rfl hb hj'.issue hacc hm hq hr
  have hpair : LegalPair s i j (faultAt (joinFrame j (scalarWritten s i d v)) n cause info) := .of_checks hi' hj' rfl rfl hapart
  rw [runBundle_pair hb hi' hj' (gi := fun _ => gi) hxi hxj hgi (hgj _) rfl,
    hpair.closeBundle hb rfl rfl rfl (acquireHolds_of_late rfl rfl), finishBundle_fault (slotOf_lt (slotOf_of_accessOf hacc)) rfl seq_ne_bswap]
  rfl

/-- Of two slots that fault, the lower one's cause is taken. -/
theorem runBundle_two_faults {s : State} {i j : Instr} {n m : Nat} {acc acc' : Acc} {align align' : Nat} {els els' : List (Nat × Nat)}
    {cause cause' info info' : Nat} (hb : hdrBoost s.hdr = 0) (hi : lone i s = true) (hj : lone j s = true)
    (ha : accessOf s i = some (n, acc, align, els)) (ha' : accessOf s j = some (m, acc', align', els')) (hn : n < m)
    (hm : if acc.writes then mayWrite s = true else mayLoad s = true) (hm' : if acc'.writes then mayWrite s = true else mayLoad s = true)
    (hq : (boundary s).mxq.length < 8) (hr : reach s acc align els = .fault cause info)
    (hr' : reach s acc' align' els' = .fault cause' info')
    (hapart : ∀ k ∈ [i, j], sharesWrite [i, j] k = false ∧ overBudget [i, j] k = false) :
    runBundle [i, j] s = .next (trapped s n cause info) := by
  have hi' := legalSlot_of_lone hi hb
  have hj' := legalSlot_of_lone hj hb
  obtain ⟨gi, hxi, hgi⟩ := faultsTo_of_reach (f := joinFrame i (reading s)) rfl rfl hb hi'.issue ha hm (fun _ => hq) hr
  obtain ⟨gj, hxj, hgj⟩ := faultsTo_of_reach (f := joinFrame j (faultAt (joinFrame i (reading s)) n cause info)) rfl rfl hb hj'.issue ha' hm'
    (fun _ => hq) hr'
  have hpair : LegalPair s i j (faultAt (joinFrame j (faultAt (joinFrame i (reading s)) n cause info)) m cause' info') :=
    .of_checks hi' hj' rfl rfl hapart
  rw [runBundle_pair hb hi' hj' hxi hxj (hgi _) (hgj _) rfl, hpair.closeBundle hb rfl rfl rfl (acquireHolds_of_late rfl rfl),
    finishBundle_two_faults hn (slotOf_lt (slotOf_of_accessOf ha')) rfl seq_ne_bswap]
  rfl

/-! ### The obligation -/

/-- What an access needs of the open fences, from what two together need. -/
theorem mayAccess {s : State} {acc : Acc} (hw : acc.writes = true → mayWrite s = true) (hl : acc.writes = false → mayLoad s = true) :
    if acc.writes then mayWrite s = true else mayLoad s = true := by
  cases h : acc.writes with
  | true => exact hw h
  | false => exact hl h

/-- Settles O30: the lowest cause is read off the declarations of the slots, which no effect changes; legal slots leave one frame that
commits or faults as a whole. -/
theorem illegalBundlesTrap : Obligations.IllegalBundlesTrap := by
  unfold Obligations.IllegalBundlesTrap
  refine ⟨fun s i n m slots hi => ⟨exec_refused hi, exec_nop_refused hi, exec_illegalOpcode_traps hi⟩, ?_, ?_, ?_, ?_⟩
  · rintro s i hi he
    refine ⟨fun hh hb hnop => ?_, fun d v => exec_alu_loopMark hi he⟩
    subst hnop
    exact exec_nop_loopMark hi he hh hb
  · intro s l hi hh hb _ hl
    obtain ⟨hp, hf⟩ := canIssue_power hi
    obtain ⟨f, hr, hj, he⟩ := runList_joined hp hb l hl (joined_reading s) (fun e h => absurd h List.not_mem_nil)
    have hs : ∀ i ∈ l, slotOf i ≠ none := fun i h => (hl i h).1
    rw [runBundle_of_runList hf hr]
    exact ⟨fun hex => congrArg Host.Outcome.next (closeBundle_shares hj hs he hh hb hex),
      fun hno hex => congrArg Host.Outcome.next (closeBundle_overBudget hj hs he hh hb hno hex)⟩
  · intro s i j d v hb hi hj ha
    refine ⟨fun o ho hq => runBundle_scalar_vector hb hi hj ha ho hq, ?_⟩
    intro n acc align els cause info hacc hm hq hr hsh hoi hoj
    have hshares := sharesWrite_pair (legalSlot_of_lone hi hb).slot (legalSlot_of_lone hj hb).slot hsh
    refine runBundle_scalar_fault hb hi hj ha hacc hm hq hr fun k hk => ⟨hshares k hk, ?_⟩
    rcases List.mem_pair.1 hk with rfl | rfl
    · exact hoi
    · exact hoj
  · intro s i j n m acc acc' align align' els els' cause cause' info info' hb hi hj ha ha' hn hw hl hq hr hr' hapart
    exact runBundle_two_faults hb hi hj ha ha' hn (mayAccess (hw ∘ .inl) (hl ∘ .inl)) (mayAccess (hw ∘ .inr) (hl ∘ .inr)) hq hr hr' hapart

end Sys2Proof.Machine
end

section
/-! Bundles of one control instruction of slot S that write no register (R95-R110): how such a bundle leaves. -/

namespace Sys2Proof.Machine
open Sys2Proof

/-! ### A bundle that only says how it leaves (R95) -/

/-- The frame of a lone bundle of slot S that has only said how it leaves. -/
def leaving (i : Instr) (s : State) (c : Ctl) : Frame := { loneFrame i 0 (reading s) with ctl := c }

theorem clean_leaving (i : Instr) (s : State) (c : Ctl) : Clean s i 0 [] id 0 false (leaving i s c) :=
  (clean_loneFrame s i 0).goes c [] []

theorem runCore_leaves {i : Instr} {s : State} {g : Frame → Frame} {c : Ctl} (hs : slotOf i = some 0) (hl : lone i s = true)
    (hg : g (loneFrame i 0 (reading s)) = leaving i s c) (hb : ∀ j, c ≠ .bswap j) (hy : c ≠ .yield) :
    runCore i g s = .next (setCore (entered s) s.cur (leave (leaving i s c) (passed s 0))) :=
  ctl_run (la := []) (rd := []) (clean_loneFrame s i 0) hg hs hl hb hy (acquireHolds_of_late rfl rfl)

theorem exec_trap {s : State} {x : RF} (hl : lone (.trap x) s = true) : exec (.trap x) s = .next (setCore (entered s) s.cur
    (let c := bump 1 (goOn s.hdr (passed s 0))
     { c with postTrap := (c.level, 0x3F, trec 0 x.trapN.toNat false) :: c.postTrap })) :=
  runCore_leaves (g := issueTrap x) (c := .trap x.trapN) rfl hl rfl nofun nofun

theorem exec_eret {s : State} {x : RF} (hl : lone (.eret x) s = true) :
    exec (.eret x) s = .next (setCore (entered s) s.cur (bump 1 (returnTrap (passed s 0)))) :=
  runCore_leaves (g := issueEret x) (c := .eret) rfl hl rfl nofun nofun

theorem exec_exit {s : State} {x : RF} (hl : lone (.exit x) s = true) :
    exec (.exit x) s = .next (setCore (entered s) s.cur (bump 1 { passed s 0 with
      pc := (boundary s).pc + 32, running := false, retiring := true, postTrap := [],
      failed := if (boundary s).level && (boundary s).csr.cause != 0 then some (boundary s).csr.cause.toNat else none })) :=
  runCore_leaves (g := issueExit x) (c := .exit_) rfl hl rfl nofun nofun

/-! ### NOP (R53) -/

theorem exec_nop_open {s : State} {f : Frame} (hp : s.host.power = true) (hf : s.frame = some f) : exec .nop s = .next s := by
  obtain ⟨agenda, cur, hdr, choice, frame, sframe, now, cores, slices, spoi, ists, clusters, stewards, dram, sched, fab, host⟩ := s
  cases hf
  rw [show exec .nop _ = runSlot .nop (fun _ => id) _ from rfl, runSlot, hp]
  rfl

/-- A legal empty bundle closes on the last word: no slot has issued. -/
theorem closeBundle_reading {s : State} (hh : hdrOk s.hdr = true) (hb : hdrBoost s.hdr = 0) (he : endOk s.hdr (boundary s) .nop = true) :
    closeBundle (entered s) (reading s) = finishBundle (entered s) (reading s) (boundary s) := by
  have hlegal : illegal (reading s) = none := illegal_eq_none (by rw [encAll, emptyBoost_of_plain hb]; rfl) hh
  have hend : loopMark (reading s) = false := (loopMark_eq_endOk (i := .nop) rfl).trans (congrArg (!·) he)
  unfold closeBundle
  rw [hlegal, hend]
  rfl

theorem exec_nop_lone {s : State} (hi : canIssue s = true) (hh : hdrOk s.hdr = true) (hb : hdrBoost s.hdr = 0)
    (he : endOk s.hdr (boundary s) .nop = true) : exec .nop s = .next (retire s { passed s 0 with latBoost := 0 }) := by
  have hlat : { passed s 0 with latBoost := 0 } = passed s 0 := by simp [passed, afterBundle, hb]
  refine (runSlot_alone hi .nop fun _ => id).trans (congrArg Host.Outcome.next ((closeBundle_reading hh hb he).trans ?_))
  rw [← finishBundle_used (f := reading s) hb (slotBit 0), hlat]
  exact finishBundle_wrote { (clean_loneFrame s .nop 0).wrote with } (by simp [quiet]) rfl rfl

/-! ### The obligation (O8) -/

/-- Settles O8: each of these instructions only says how its bundle leaves, which is where the core's changes come from. -/
theorem trapReturnAndExit : Obligations.TrapReturnAndExit := by
  refine fun s x => ⟨fun f hp hf => exec_nop_open hp hf, exec_nop_lone, exec_trap, exec_eret, fun hl => (exec_exit hl).trans ?_⟩
  simp

end Sys2Proof.Machine
end

section
/-! Loops (R101-R103): what opening one comes to, and the obligation on LOOP, LOOPI, LEXIT and LIDX (O7). -/

namespace Sys2Proof.Machine
open Sys2Proof

/-! ### Opening a loop (R101) -/

/-- RB starts from zero where the loop that opens rotates. -/
def rotateIf (rot : Bool) (k : Core) : Core := if rot then { k with rb := 0 } else k

/-- What opening a loop of `n` trips comes to: LOOP_LIMIT, the bundle past the body, or the body with its entry pushed. -/
def loopOpened (s : State) (n e : Nat) (rot : Bool) : State :=
  let k := boundary s
  let past : Core := { rotateIf rot (passed s 0) with pc := k.pc + BitVec.ofNat 48 (32 * (e + 2)) }
  if 0 < n ∧ k.loops.length = 6 then trapped s 0 0x3B 0
  else if n = 0 then setCore (entered s) s.cur (bump 1 (if hdrLe s.hdr then backEdge past else past))
  else retire s { rotateIf rot (passed s 0) with loops := k.loops ++ [loopEntry s n e rot] }

theorem runCore_openLoop {i : Instr} {s : State} {g : Frame → Frame} {n e : Nat} {rot : Bool} (hs : slotOf i = some 0)
    (hl : lone i s = true) (hg : g (loneFrame i 0 (reading s)) = openLoop (loneFrame i 0 (reading s)) n e rot) :
    runCore i g s = .next (loopOpened s n e rot) := by
  have hpre : (loneFrame i 0 (reading s)).pre = boundary s := rfl
  unfold openLoop at hg
  rw [hpre] at hg
  unfold loopOpened
  by_cases hfull : 0 < n ∧ (boundary s).loops.length = 6
  · rw [if_pos hfull] at hg ⊢
    exact fault_run (g := fun _ => g) hg hs hl
  rw [if_neg hfull] at hg ⊢
  by_cases hn : n = 0
  · rw [if_pos hn] at hg ⊢
    refine (put_run (g := fun _ => g) (w := rotateIf rot) (la := []) (rd := [])
      (c := .goto ((boundary s).pc + BitVec.ofNat 48 (32 * (e + 2))) 0) ?_ ?_ hs hl nofun nofun (.inl rfl)).trans ?_
    · rw [hg]; cases rot <;> rfl
    · cases rot <;> rfl
    · cases rot <;> rfl
  · rw [if_neg hn] at hg ⊢
    refine (put_run (g := fun _ => g) (w := fun k => { rotateIf rot k with loops := (boundary s).loops ++ [loopEntry s n e rot] })
      (la := []) (rd := []) (c := .seq) ?_ ?_ hs hl nofun nofun (.inl rfl)).trans ?_
    · rw [hg]; cases rot <;> rfl
    · cases rot <;> rfl
    · cases rot <;> rfl

theorem exec_loop {s : State} {x : RF} (hl : lone (.loop x) s = true) : exec (.loop x) s = .next
    (if 0xFFFFFFFF < (rdS (reading s) 0 x.a).toNat then trapped s 0 0x3B 0
     else loopOpened s (rdS (reading s) 0 x.a).toNat x.loopE (x.f.getLsbD 0)) := by
  have hg : issueLoop x (loneFrame (.loop x) 0 (reading s)) = if 0xFFFFFFFF < (rdS (reading s) 0 x.a).toNat
      then faultAt (loneFrame (.loop x) 0 (reading s)) 0 0x3B 0
      else openLoop (loneFrame (.loop x) 0 (reading s)) (rdS (reading s) 0 x.a).toNat x.loopE (x.f.getLsbD 0) := rfl
  by_cases hlim : 0xFFFFFFFF < (rdS (reading s) 0 x.a).toNat
  · rw [if_pos hlim] at hg ⊢
    exact fault_run (g := fun _ => issueLoop x) hg rfl hl
  · rw [if_neg hlim] at hg ⊢
    exact runCore_openLoop rfl hl hg

theorem exec_loopi {s : State} {x : RF} (hl : lone (.loopi x) s = true) :
    exec (.loopi x) s = .next (loopOpened s x.loopN x.loopE (x.f.getLsbD 0)) :=
  runCore_openLoop (g := issueLoopi x) rfl hl rfl

/-! ### Leaving loops and reading their index (R103) -/

theorem exec_lexit {s : State} {x : RF} (hl : lone (.lexit x) s = true) : exec (.lexit x) s = .next
    (let k := boundary s
     let at_ := k.loops.length - 1 - x.f.toNat
     if k.loops.length < x.f.toNat + 1 then trapped s 0 0x3C 0
     else setCore (entered s) s.cur (bump 1
       { passed s 0 with loops := k.loops.take at_, pc := (k.loops.getD at_ default).stop + 32 })) := by
  have hg : issueLexit x (loneFrame (.lexit x) 0 (reading s)) = if (boundary s).loops.length < x.f.toNat + 1
      then faultAt (loneFrame (.lexit x) 0 (reading s)) 0 0x3C 0
      else leaving (.lexit x) s (.lexit x.f.toNat) := rfl
  dsimp only
  split_ifs at hg ⊢
  · exact fault_run (g := fun _ => issueLexit x) hg rfl hl
  · exact runCore_leaves rfl hl hg nofun nofun

theorem exec_lidx {s : State} {x : RF} (hl : lone (.lidx x) s = true) : exec (.lidx x) s = .next
    (let k := boundary s
     let v := ((k.loops.getD (k.loops.length - 1 - x.f.toNat) default).index).setWidth 64
     if k.loops.length < x.f.toNat + 1 then trapped s 0 0x3C 0
     else retire s (afterBundle s 0 (latS 0 v) (regS s 0 x.d v) 0 false)) := by
  have hg : issueLidx x (loneFrame (.lidx x) 0 (reading s)) = if (boundary s).loops.length < x.f.toNat + 1
      then faultAt (loneFrame (.lidx x) 0 (reading s)) 0 0x3C 0
      else wrS (loneFrame (.lidx x) 0 (reading s)) 0 x.d
        (((boundary s).loops.getD ((boundary s).loops.length - 1 - x.f.toNat) default).index.setWidth 64) := rfl
  dsimp only
  split_ifs at hg ⊢
  · exact fault_run (g := fun _ => issueLidx x) hg rfl hl
  · exact runCore_wrS rfl hl hg

/-! ### The obligation (O7) -/

/-- Settles O7: LOOP and LOOPI open a loop (`loopOpened`), LEXIT only leaves, LIDX writes one scalar result. -/
theorem loopsOpenAndClose : Obligations.LoopsOpenAndClose :=
  fun _ _ => ⟨exec_loop, exec_loopi, exec_lexit, exec_lidx⟩

end Sys2Proof.Machine
end

section
/-! BSWAP, WAITE and YIELD (R105, R108, R109), and the obligation on them (O9). -/

namespace Sys2Proof.Machine
open Sys2Proof

/-! ### The last word on a bundle that only says how it leaves (R381) -/

theorem finishBundle_leaving_fault {s : State} {i : Instr} {c : Ctl} {n cause info : Nat}
    (hf : slotFault (entered s) (leaving i s c) = some (n, cause, info)) :
    finishBundle (entered s) (leaving i s c) (boundary s) = trapped s n cause info := by
  unfold finishBundle
  rw [hf]
  rfl

theorem finishBundle_leaving_commit {s : State} {i : Instr} {c : Ctl} (hf : slotFault (entered s) (leaving i s c) = none) :
    finishBundle (entered s) (leaving i s c) (boundary s) = commit (entered s) s.cur (leaving i s c) (boundary s) := by
  unfold finishBundle
  rw [hf, flagTrap_wrote (clean_leaving i s c).wrote (by simp [quiet])]
  rfl

/-- Such a bundle closes on the last word. -/
theorem runSlot_leaving {i : Instr} {s : State} {g : State → Frame → Frame} {c : Ctl} (hs : slotOf i = some 0) (hl : lone i s = true)
    (hg : g (entered s) (loneFrame i 0 (reading s)) = leaving i s c) :
    runSlot i g s = .next (finishBundle (entered s) (leaving i s c) (boundary s)) := by
  have h := clean_leaving i s c
  exact runSlot_lone hs hl _ hg h.kept h.stall h.walk h.wrote.resolve (acquireHolds_of_late rfl rfl)

theorem committed_leaving (i : Instr) (s : State) (c : Ctl) :
    committed (leaving i s c) (boundary s) = leave (leaving i s c) (passed s 0) :=
  congrArg (leave _) (bundleCore_wrote (clean_leaving i s c).wrote)

/-! ### BSWAP (R105) -/

/-- The idle half of the instruction store is published. -/
def idlePublished (k : Core) : Bool := if k.rh then k.isA else k.isB

/-- A bundle that does nothing but BSWAP faults where the idle half is not published: it writes no code itself. -/
theorem slotFault_bswap (s : State) (i : Instr) (j : Nat) : slotFault (entered s) (leaving i s (.bswap j)) =
    if idlePublished (boundary s) then none else some (0, 0x30, 1) := by
  have hmem : (leaving i s (.bswap j)).now.mem.drop (leaving i s (.bswap j)).pre.mem.length = [] := List.drop_length
  have hpub : (if (leaving i s (.bswap j)).pre.rh then (leaving i s (.bswap j)).now.isA else (leaving i s (.bswap j)).now.isB) =
      idlePublished (boundary s) := rfl
  unfold slotFault
  simp only [hmem, hpub, show (leaving i s (.bswap j)).ctl = .bswap j from rfl, show (leaving i s (.bswap j)).late = [] from rfl,
    show (leaving i s (.bswap j)).faults = [] from rfl, List.any_nil, Bool.or_false]
  cases idlePublished (boundary s) <;> rfl

/-- The halves change roles (R105). -/
theorem leave_bswap (s : State) (i : Instr) (j : Nat) : leave (leaving i s (.bswap j)) (passed s 0) = bump 3
    { passed s 0 with
      rh := !(boundary s).rh, pc := BitVec.ofNat 48 ((if (boundary s).rh then 0xFE0000000000 else 0xFE0000004000) + 32 * j) } := by
  have hhalf : istWin + (if (!(boundary s).rh) = true then 2 ^ 14 else 0) = if (boundary s).rh then 0xFE0000000000 else 0xFE0000004000 := by
    cases (boundary s).rh <;> rfl
  rw [← hhalf]
  rfl

theorem exec_bswap {s : State} {x : RF} (hl : lone (.bswap x) s = true) (hown : ownPending s.cur (boundary s) = false) :
    exec (.bswap x) s = .next
      (let k := boundary s
       if (if k.rh then k.isA else k.isB) then setCore (entered s) s.cur (bump 3
          { passed s 0 with
            rh := !k.rh, pc := BitVec.ofNat 48 ((if k.rh then 0xFE0000000000 else 0xFE0000004000) + 32 * x.bswapIdx) })
       else trapped s 0 0x30 1) := by
  have hg : issueBswap x (entered s) (loneFrame (.bswap x) 0 (reading s)) = leaving (.bswap x) s (.bswap x.bswapIdx) :=
    if_neg (ne_true_of_eq_false hown)
  refine (runSlot_leaving rfl hl hg).trans (congrArg Host.Outcome.next ?_)
  have hf := slotFault_bswap s (.bswap x) x.bswapIdx
  by_cases hpub : idlePublished (boundary s) = true
  · rw [if_pos hpub] at hf
    rw [finishBundle_leaving_commit hf, commit, committed_leaving, leave_bswap]
    exact (if_pos hpub).symm
  · rw [if_neg hpub] at hf
    rw [finishBundle_leaving_fault hf]
    exact (if_neg hpub).symm

/-! ### YIELD (R109) -/

theorem commit_yield (i : Instr) (s : State) : commit (entered s) s.cur (leaving i s .yield) (boundary s) =
    (let t := retire s (passed s 0)
     match (coreAt t s.cur).node.bind (nodeOf t) with
      | some n => if yields t n then onNode t n.id (fun n => { n with offer := true }) else t
      | none => t) := by
  have hleft : setCore (entered s) s.cur (committed (leaving i s .yield) (boundary s)) = retire s (passed s 0) := by
    rw [committed_leaving]
    rfl
  unfold commit
  rw [hleft]
  show (match Ctl.yield, (coreAt (retire s (passed s 0)) s.cur).node.bind (nodeOf (retire s (passed s 0))) with
    | .yield, some n => _
    | _, _ => _) = _
  dsimp only
  cases (coreAt (retire s (passed s 0)) s.cur).node.bind (nodeOf (retire s (passed s 0))) <;> rfl

theorem exec_yield {s : State} {x : RF} (hl : lone (.yield x) s = true) : exec (.yield x) s = .next
      (let t := retire s (passed s 0)
       match (coreAt t s.cur).node.bind (nodeOf t) with
        | some n => if yields t n then onNode t n.id (fun n => { n with offer := true }) else t
        | none => t) := by
  refine (runSlot_leaving (g := fun _ => issueYield x) rfl hl rfl).trans (congrArg Host.Outcome.next ?_)
  rw [finishBundle_leaving_commit (slotFault_none rfl (by simp [leaving]))]
  exact commit_yield _ s

/-! ### WAITE (R108) -/

section
variable {s : State} {x : RF}

/-- The events WAITE waits for, and those of them that are latched. -/
def waiteMask (s : State) (x : RF) : BitVec 8 := (rdS (reading s) 0 x.a).setWidth 8
def waiteGot (s : State) (x : RF) : BitVec 8 := (boundary s).evl &&& waiteMask s x

/-- The frame of a WAITE that has taken its events off the latch. -/
def eventsTaken (s : State) (x : RF) : Frame :=
  { loneFrame (.waite x) 0 (reading s) with now := { blank (boundary s) with evl := (boundary s).evl &&& ~~~waiteMask s x } }

theorem clean_eventsTaken : Clean s (.waite x) 0 [] (fun k => { k with evl := (boundary s).evl &&& ~~~waiteMask s x }) 0 false
    (eventsTaken s x) := (clean_loneFrame s (.waite x) 0).put [] _ (fun k => { k with evl := (boundary s).evl &&& ~~~waiteMask s x }) rfl

theorem issueWaite_got (hgot : waiteGot s x ≠ 0) : issueWaite x (entered s) (loneFrame (.waite x) 0 (reading s)) =
    (let f := wrS (eventsTaken s x) 0 x.d ((waiteGot s x).setWidth 64)
     if waiteGot s x &&& 0x0C ≠ 0 then acquire f else f) := by
  unfold issueWaite
  exact if_pos hgot

theorem issueWaite_none (hgot : waiteGot s x = 0) : issueWaite x (entered s) (loneFrame (.waite x) 0 (reading s)) =
    if rdS (reading s) 0 x.b = 0 then wrS (loneFrame (.waite x) 0 (reading s)) 0 x.d 0
    else match waitRes (reading s) 0 with
    | some _ => wrS (loneFrame (.waite x) 0 (reading s)) 0 x.d 0
    | none => parkOn (entered s) (loneFrame (.waite x) 0 (reading s)) 0 (.waite (waiteMask s x))
        (deadlineOf (entered s) (rdS (reading s) 0 x.b)) := by
  unfold issueWaite
  exact if_neg (not_not.2 hgot)

theorem Clean.acquire {i : Instr} {n : Nat} {lat : SMap Vec} {w : Core → Core} {f : Frame} (h : Clean s i n lat w 0 false f) :
    Clean s i n lat (fun k => listed s (.acq 0xFF) (w k)) 0 false (Machine.acquire f) := by
  refine h.put lat _ (fun now => { now with
    mem := now.mem ++ [⟨now.memNext, hdrColour f.hdr, .acq 0xFF, false, f.pre.csr.cycle.toNat⟩], memNext := now.memNext + 1 }) ?_
  rw [h.wrote.now, h.wrote.hdr, h.wrote.pre]
  rfl

@[simp] theorem ctl_acquire (f : Frame) : (Machine.acquire f).ctl = f.ctl := rfl
@[simp] theorem late_acquire (f : Frame) : (Machine.acquire f).late = f.late := rfl

variable (hl : lone (.waite x) s = true)
include hl

/-- A latched event is returned and cleared. -/
theorem exec_waite_event (hgot : waiteGot s x ≠ 0) (hplain : waiteGot s x &&& 0x0C = 0) :
    exec (.waite x) s = .next (retire s (afterBundle s 0 (latS 0 ((waiteGot s x).setWidth 64))
      (fun c => regS s 0 x.d ((waiteGot s x).setWidth 64) { c with evl := (boundary s).evl &&& ~~~waiteMask s x }) 0 false)) := by
  have hg := (issueWaite_got hgot).trans (if_neg (not_not.2 hplain))
  have h := (clean_eventsTaken (s := s) (x := x)).wrS x.d ((waiteGot s x).setWidth 64)
  rw [← hg] at h
  exact Clean.run h rfl hl (by simp [quiet]) (by rw [hg, ctl_wrS]; rfl) (by rw [hg, late_wrS]; rfl)

/-- One of a token or of the matrix engine is an acquire too (R250). -/
theorem exec_waite_acquire (hacq : waiteGot s x &&& 0x0C ≠ 0) :
    exec (.waite x) s = .next (retire s (afterBundle s 0 (latS 0 ((waiteGot s x).setWidth 64))
      (fun c => listed s (.acq 0xFF)
        (regS s 0 x.d ((waiteGot s x).setWidth 64) { c with evl := (boundary s).evl &&& ~~~waiteMask s x })) 0 false)) := by
  have hgot : waiteGot s x ≠ 0 := fun h => hacq (by rw [h]; rfl)
  have hg := (issueWaite_got hgot).trans (if_pos hacq)
  have h := ((clean_eventsTaken (s := s) (x := x)).wrS x.d ((waiteGot s x).setWidth 64)).acquire
  rw [← hg] at h
  exact Clean.run h rfl hl (by simp [quiet]) (by rw [hg, ctl_acquire, ctl_wrS]; rfl) (by rw [hg, late_acquire, late_wrS]; rfl)

/-- With nothing latched, and with no time to wait or its wait ended, it returns 0. -/
theorem exec_waite_zero (hg : issueWaite x (entered s) (loneFrame (.waite x) 0 (reading s)) =
    wrS (loneFrame (.waite x) 0 (reading s)) 0 x.d 0) :
    exec (.waite x) s = .next (retire s (afterBundle s 0 (latS 0 0) (regS s 0 x.d 0) 0 false)) := by
  have h := (clean_loneFrame s (.waite x) 0).wrS x.d 0
  rw [← hg] at h
  exact Clean.run h rfl hl (by simp [quiet]) (by rw [hg, ctl_wrS]; rfl) (by rw [hg, late_wrS]; rfl)

theorem exec_waite_poll (hgot : waiteGot s x = 0) (hb : rdS (reading s) 0 x.b = 0) :
    exec (.waite x) s = .next (retire s (afterBundle s 0 (latS 0 0) (regS s 0 x.d 0) 0 false)) :=
  exec_waite_zero hl ((issueWaite_none hgot).trans (if_pos hb))

theorem exec_waite_ended {w : WaitRes} (hgot : waiteGot s x = 0) (hw : waitRes (reading s) 0 = some w) :
    exec (.waite x) s = .next (retire s (afterBundle s 0 (latS 0 0) (regS s 0 x.d 0) 0 false)) := by
  refine exec_waite_zero hl ((issueWaite_none hgot).trans ?_)
  rw [hw]
  exact ite_self _

theorem exec_waite_parks (hgot : waiteGot s x = 0) (hb : rdS (reading s) 0 x.b ≠ 0) (hpark : (boundary s).park = none) :
    exec (.waite x) s = .next (onCore (entered s) s.cur (fun c => bump 1 { c with
      xlFault := none, park := some ⟨.waite (waiteMask s x), 0, deadlineOf s (rdS (reading s) 0 x.b), s.now, none, []⟩ })) := by
  refine park_run (g := issueWaite x) ⟨.waite (waiteMask s x), 0, deadlineOf s (rdS (reading s) 0 x.b), s.now, none, []⟩ ?_ rfl hl
  have hres : waitRes (reading s) 0 = none := by
    unfold waitRes
    rw [show (reading s).pre.park = none from hpark]
  rw [issueWaite_none hgot, if_neg hb, hres]
  unfold parkOn
  rw [show (loneFrame (.waite x) 0 (reading s)).park = none from rfl,
    show (loneFrame (.waite x) 0 (reading s)).pre.park = none from hpark]
  rfl

end

/-! ### The obligation (O9) -/

/-- Settles O9: BSWAP by the state of the idle half, WAITE by what is latched and by its time-out, YIELD by its node. -/
theorem swapsWaitsYields : Obligations.SwapsWaitsYields :=
  fun _ _ => ⟨exec_bswap, fun hl => ⟨exec_waite_event hl, exec_waite_acquire hl, fun _ => exec_waite_ended hl, exec_waite_poll hl,
    exec_waite_parks hl⟩, exec_yield⟩

end Sys2Proof.Machine
end

section
/-! The scale registers (R104, R233-R235): SCLD, XSEL and XSET, how an exposed result lands (R116, R197), and the obligations on them
(O15, O18). -/

namespace Sys2Proof.Machine
open Sys2Proof

/-! ### XSET (R233) -/

theorem putX_lat (k : Core) (b : Bool) (r : Nat) (v : BitVec 12) (lat : SMap Vec) :
    putX { k with lat := lat } b r v = { putX k b r v with lat := lat } := by
  cases b <;> rfl

theorem exec_xset {s : State} {x : XF} (hl : lone (.xset x) s = true) :
    exec (.xset x) s = .next (retire s (afterBundle s 5 (mput 0 [] 5 ((x.hi ++ x.a : BitVec 12).setWidth 2048))
      (fun k => putX k (isBoosted s 5) (rotX (boundary s).rb x.x.toNat) (x.hi ++ x.a)) 0 false)) := by
  refine wrote_run (g := fun _ => issueXset x) (fun k => putX k (isBoosted s 5) (rotX (boundary s).rb x.x.toNat) (x.hi ++ x.a))
    (mput 0 [] 5 ((x.hi ++ x.a : BitVec 12).setWidth 2048)) [] [] ?_ rfl hl (acquireHolds_of_late rfl rfl)
  rw [← putX_lat]
  rfl

/-! ### XSEL (R235) -/

/-- Where an X-slot result goes. -/
def scaleDst (s : State) (x : XF) : LateDst := ⟨.x, [rotX (boundary s).rb x.x.toNat], 12, 1, false, 5, isBoosted s 5⟩

/-- The scale code that XSEL selects, with its flags. -/
def xselResult (f : Frame) (x : XF) : Nat × Fl :=
  xselCode (xselBlock x) (xselType x) (nth 0 (elems (xselType x).w 1 (rdV f 5 x.a 1)) 0)

/-- XSEL raises its flags at once and exposes the code to the second bundle on. -/
theorem issueXsel_eq (x : XF) (f : Frame) : issueXsel x f = raise { f with now := { f.now with exposed := f.now.exposed ++
    [⟨.xsel, xDst f x, 2, f.now.memNext, some (natLe 2 (xselResult f x).1), false, boosted f 5⟩] } } 5 (xselResult f x).2 false := by
  unfold issueXsel
  extract_lets block type r
  have hblock : block = xselBlock x := by
    have hbits : (x.hi.extractLsb' 2 2).toNat = x.hi.toNat / 4 % 4 := by
      simp [BitVec.extractLsb'_toNat, Nat.shiftRight_eq_div_pow]
    simp only [block, xselBlock, hbits]
    split <;> simp_all
  have htype : type = xselType x := by
    have hbits : (x.hi.extractLsb' 0 2).toNat = x.hi.toNat % 4 := by simp [BitVec.extractLsb'_toNat]
    simp only [type, xselType, hbits]
    split <;> simp_all
  have hr : r = xselResult f x := by rw [show r = xselCode block type (nth 0 (elems type.w 1 (rdV f 5 x.a 1)) 0) from rfl, hblock, htype]; rfl
  rw [hr]

/-- The selected code is exposed to the second bundle on. -/
def exposedCode (s : State) (x : XF) (k : Core) : Core :=
  { k with exposed := k.exposed ++
      [⟨.xsel, scaleDst s x, 2, k.memNext, some (natLe 2 (xselResult (reading s) x).1), false, isBoosted s 5⟩] }

theorem exec_xsel {s : State} {x : XF} (hl : lone (.xsel x) s = true) (hq : quiet s 5 (xselResult (reading s) x).2 = true) :
    exec (.xsel x) s = .next (retire s (afterBundle s 5 [] (exposedCode s x) (xselResult (reading s) x).2 false)) := by
  have hg := issueXsel_eq x (loneFrame (.xsel x) 5 (reading s))
  have h := ((clean_loneFrame s (.xsel x) 5).put [] (exposedCode s x) (exposedCode s x) rfl).raise (xselResult (reading s) x).2 false
  refine Clean.run (g := fun _ => issueXsel x) (hg ▸ h) rfl hl hq ?_ ?_
  · rw [hg, ctl_raise]; rfl
  · rw [hg, late_raise]; rfl

/-! ### SCLD (R234) -/

/-- A result read at the bundle, or asked of memory, is exposed to a later bundle (R116). -/
theorem expose_loneFrame {s : State} {i : Instr} {n off : Nat} {kind : ExpKind} {d : LateDst} (hi : canIssue s = true) (ps : List Piece) :
    ∃ rd, expose (entered s) (loneFrame i n (reading s)) kind d off ps =
      { loneFrame i n (reading s) with now := exposedBy s kind d off ps (blank (boundary s)), late := [], reads := rd } := by
  unfold expose exposedBy
  rw [heldRead_none hi]
  dsimp only
  rw [show atOnce (entered s) (loneFrame i n (reading s)) ps = ownNow s ps from rfl]
  cases ownNow s ps with
  | true => exact ⟨_, rfl⟩
  | false => exact ⟨_, rfl⟩

theorem exposedBy_lat (s : State) (kind : ExpKind) (d : LateDst) (off : Nat) (ps : List Piece) :
    (exposedBy s kind d off ps (blank (boundary s))).lat = [] := by
  unfold exposedBy; split <;> rfl

theorem exec_scld {s : State} {x : XF} {ps : List Piece} (hl : lone (.scld x) s = true) (hm : mayLoad s = true)
    (hr : reached s .rd 2 [(va48 (rdS (reading s) 5 x.a + BitVec.ofNat 64 (2 * x.hi.toNat)), 2)] = some ps) :
    exec (.scld x) s = .next (retire s (afterBundle s 5 [] (exposedBy s .scld (scaleDst s x) 6 ps) 0 false)) := by
  have hi := lone_canIssue hl
  obtain ⟨rd, hx⟩ := expose_loneFrame (i := .scld x) (n := 5) (off := 6) (kind := .scld) (d := scaleDst s x) hi ps
  have hg : issueScld x (entered s) (loneFrame (.scld x) 5 (reading s)) =
      expose (entered s) (loneFrame (.scld x) 5 (reading s)) .scld (scaleDst s x) 6 ps := by
    unfold issueScld
    rw [heldRead_none hi]
    exact (gateLoad_open hm).trans (withPieces_ok hr)
  refine wrote_run (g := issueScld x) (exposedBy s .scld (scaleDst s x) 6 ps) [] [] rd (hg.trans (hx.trans ?_)) rfl hl
    (acquireHolds_of_late rfl rfl)
  rw [← exposedBy_lat s .scld (scaleDst s x) 6 ps]

/-- Settles O15: SCLD and XSEL expose a result to a later bundle, XSET writes at its own. -/
theorem scaleRegisters : Obligations.ScaleRegisters :=
  fun _ _ => ⟨fun hl hm _ hr => exec_scld hl hm hr, exec_xsel, exec_xset⟩

/-! ### How an exposed result lands (R116, R197) -/

theorem exposed_putS (k : Core) (b : Bool) (r : Nat) (v : Word) : (putS k b r v).exposed = k.exposed := by
  unfold putS; split_ifs <;> rfl
theorem exposed_putV (k : Core) (b : Bool) (r : Nat) (v : Vec) : (putV k b r v).exposed = k.exposed := by
  unfold putV; split_ifs <;> rfl
theorem exposed_putX (k : Core) (b : Bool) (r : Nat) (v : BitVec 12) : (putX k b r v).exposed = k.exposed := by
  unfold putX; split_ifs <;> rfl

theorem exposed_mergeV (o k : Core) (b : Bool) (d : LateDst) (es : List Nat) : (mergeV o k b d es).exposed = k.exposed := by
  unfold mergeV
  extract_lets n os vs
  generalize List.range n = l
  induction l generalizing k with
  | nil => rfl
  | cons i t ih =>
    rw [List.foldl_cons, ih]
    dsimp only
    split
    · rfl
    · exact exposed_putV ..

/-- Delivering a late result exposes nothing. -/
theorem exposed_deliver (o k : Core) (d : LateDst) (bs : List Byte) : (deliver o k d bs).exposed = k.exposed := by
  unfold deliver
  split
  case h_4 =>
    split
    · split_ifs <;> simp only [exposed_putS]
    · split_ifs <;> simp only [exposed_putS]
    · rfl
  case h_5 => exact exposed_mergeV ..
  case h_6 =>
    split
    · split_ifs <;> simp only [exposed_putX]
    · rfl
  all_goals rfl

theorem consumeAt_keeps (d : LateDst) (b : Bool) (k : Core) :
    (consumeAt d b k).exposed = k.exposed ∧ (consumeAt d b k).regs = k.regs := by
  unfold consumeAt; split_ifs <;> exact ⟨rfl, rfl⟩

theorem overtake_keeps (k : Core) (d : LateDst) : (overtake k d).exposed = k.exposed ∧ (overtake k d).regs = k.regs := by
  unfold overtake; dsimp only; split <;> exact ⟨rfl, rfl⟩

/-- Where an exposed result lands. -/
def landingDst (e : Exposed) : LateDst := { e.dst with boost := e.boosted }

/-- The one exposed result of a core lands when it is due and its data is there. -/
theorem landDue_single {k : Core} {e : Exposed} {bs : List Byte} (he : k.exposed = [e]) (hdue : e.off = 1) (hd : e.data = some bs) :
    landDue k = deliver k (consumeAt (landingDst e) e.poi (overtake { k with exposed := [] } (landingDst e))) (landingDst e) bs := by
  unfold landDue
  rw [he]
  simp [hdue, landOne, hd, landingDst]

section
variable {o k : Core} {d : LateDst} {r : Nat} (bs : List Byte) (hb : d.boost = false) (hr : d.regs = [r]) (hlt : r < 64)
include hb hr hlt

theorem regs_deliver_scalar (hf : d.file = .s) : (deliver o k d bs).regs = k.regs.wS r (extend d.sext d.w (leNat bs)) := by
  unfold deliver
  simp only [hf, hr, hb, Nat.not_le.2 hlt, if_false]
  rfl

theorem regs_deliver_scale (hf : d.file = .x) : (deliver o k d bs).regs = k.regs.wX r (BitVec.ofNat 12 (leNat bs)) := by
  unfold deliver
  simp only [hf, hr, hb, Nat.not_le.2 hlt, if_false]
  rfl

end

/-- Settles O18: the one result that lands is delivered over the registers before the boundary, and is exposed no longer. -/
theorem exposedResultLands : Obligations.ExposedResultLands := by
  intro s e r bs he hdue hd hb hr
  have hland : boundary s = _ := landDue_single he hdue hd
  have hregs := (consumeAt_keeps (landingDst e) e.poi _).2.trans (overtake_keeps { fenced s with exposed := [] } (landingDst e)).2
  refine ⟨fun hf hlt => ?_, fun hf hlt => ?_, ?_⟩
  · rw [hland, regs_deliver_scalar (d := landingDst e) bs hb hr hlt hf, hregs]
    rfl
  · rw [hland, regs_deliver_scale (d := landingDst e) bs hb hr hlt hf, hregs]
  · rw [hland, exposed_deliver, (consumeAt_keeps ..).1, (overtake_keeps ..).1]

end Sys2Proof.Machine
end

section
/-! Calls and returns (R97, R99, R100, R107, R111), and the obligation on them (O6). -/

namespace Sys2Proof.Machine
open Sys2Proof

/-! ### A transfer that changes its core (R95, R107) -/

/-- A lone transfer of slot S that changes its core by `w`, writes `la` and goes to `pc`. -/
theorem runSlot_jumps {i : Instr} {g : State → Frame → Frame} {s : State} (w : Core → Core) {pc : BitVec 48} {b : Nat} {la : List Late}
    (hg : g (entered s) (loneFrame i 0 (reading s)) =
      { loneFrame i 0 (reading s) with now := w (blank (boundary s)), ctl := .goto pc b, late := la })
    (hw : { w (blank (boundary s)) with lat := [] } = w (blank (boundary s))) (hs : slotOf i = some 0) (hl : lone i s = true)
    (ht : transfers i = true) (hm : la = [] ∨ (w (blank (boundary s))).mem.length ≤ (boundary s).mem.length) :
    runSlot i g s = .next (thenDo s la (jumpTo s pc b (afterBundle s 0 [] w 0 false))) := by
  rw [put_run (rd := []) hg hw hs hl nofun nofun hm, leave_goto (s := s) rfl (lone_not_le ht hl) rfl]
  rfl

/-! ### The call stack (R99, R100) -/

/-- Where the next entry to spill goes. -/
def spillPiece (s : State) : Piece := ⟨.slice s.cur (0xFF000 + 8 * (boundary s).cspl), 8, false⟩
/-- The core after the oldest entry has gone to the spill area. -/
def spilledCore (s : State) (k : Core) : Core :=
  { k with calls := (boundary s).calls.drop 1 ++ [returnEntry s], cspl := (boundary s).cspl + 1 }

/-- What a call to `pc` comes to: STACK_LIMIT, a spill at once or behind the core's fences, or a push. -/
def called (s : State) (pc : BitVec 48) (n : Nat) : State :=
  let k := boundary s
  let bs := natLe 8 (k.calls.headD 0).toNat
  if k.calls.length + k.cspl = 520 then trapped s 0 0x38 0
  else if k.calls.length = 8 then
    if fencePending k = true then jumpTo s pc (n + 1) (listed s (.spill (spillPiece s) bs) (spilledCore s (passed s 0)))
    else thenDo s [.own (spillPiece s) bs false] (jumpTo s pc (n + 1) (spilledCore s (passed s 0)))
  else jumpTo s pc n { passed s 0 with calls := k.calls ++ [returnEntry s] }

/-- Nothing of the core's own is left to perform in its slice, and no acquire holds its loads back. -/
def stackClear (s : State) : Prop := ownPending s.cur (boundary s) = false ∧ mayLoad s = true

/-- A spill performs at its bundle unless a fence is open. -/
theorem writeNow_spill {s : State} (i : Instr) (hown : ownPending s.cur (boundary s) = false) :
    writeNow (entered s) (loneFrame i 0 (reading s)) [spillPiece s] = !fencePending (boundary s) := by
  have hnow : atOnce (entered s) (loneFrame i 0 (reading s)) [spillPiece s] = true := by
    unfold atOnce
    rw [show ownPending (entered s).cur (loneFrame i 0 (reading s)).pre = false from hown]
    simp [isOwn, spillPiece, entered]
  have hreads : readsOpen (loneFrame i 0 (reading s)) = false :=
    congrArg (·.any (·.pureRead)) (List.drop_length (l := (boundary s).mem))
  unfold writeNow
  rw [hnow, hreads, Bool.true_and, Bool.not_false, Bool.and_true]
  rfl

theorem runSlot_pushCall {i : Instr} {g : State → Frame → Frame} {s : State} {pc : BitVec 48} {n : Nat} (hs : slotOf i = some 0)
    (hl : lone i s = true) (ht : transfers i = true) (hclear : (boundary s).calls.length = 8 → stackClear s)
    (hg : g (entered s) (loneFrame i 0 (reading s)) = pushCall (entered s) (loneFrame i 0 (reading s)) pc n) :
    runSlot i g s = .next (called s pc n) := by
  unfold pushCall at hg
  rw [show (loneFrame i 0 (reading s)).pre = boundary s from rfl, show (entered s).cur = s.cur from rfl] at hg
  unfold called
  dsimp only at hg ⊢
  by_cases hlimit : (boundary s).calls.length + (boundary s).cspl = 520
  · rw [if_pos hlimit] at hg ⊢
    exact fault_run hg hs hl
  rw [if_neg hlimit] at hg ⊢
  by_cases hfull : (boundary s).calls.length = 8
  · obtain ⟨hown, hload⟩ := hclear hfull
    have hacq : acqHolds (boundary s) (hdrColour s.hdr) false = false := by simpa [mayLoad] using hload
    rw [if_pos hfull, if_neg (ne_true_of_eq_false hown), if_neg (ne_true_of_eq_false (b := acqHolds (boundary s) (hdrColour (loneFrame i 0 (reading s)).hdr) false) hacq),
      show Piece.mk (.slice s.cur (0xFF000 + 8 * (boundary s).cspl)) 8 false = spillPiece s from rfl, writeNow_spill i hown] at hg
    rw [if_pos hfull]
    cases hfence : fencePending (boundary s) with
    | true =>
      rw [hfence] at hg
      exact runSlot_jumps (fun k => listed s (.spill (spillPiece s) (natLe 8 ((boundary s).calls.headD 0).toNat)) (spilledCore s k))
        hg rfl hs hl ht (.inl rfl)
    | false =>
      rw [hfence] at hg
      exact runSlot_jumps (spilledCore s) hg rfl hs hl ht (.inr le_rfl)
  · rw [if_neg hfull] at hg ⊢
    exact runSlot_jumps (fun k => { k with calls := (boundary s).calls ++ [returnEntry s] }) hg rfl hs hl ht (.inl rfl)

theorem exec_call {s : State} {x : BF} (hl : lone (.call x) s = true) (hclear : (boundary s).calls.length = 8 → stackClear s) :
    exec (.call x) s = .next (called s (targetOf s x) 0) :=
  runSlot_pushCall (g := issueCall x) rfl hl rfl hclear (by rw [← target_eq s (.call x) 0 x]; rfl)

/-! ### Register targets (R97) -/

theorem codeTarget_loneFrame (s : State) (i : Instr) (a : BitVec 7) : codeTarget (loneFrame i 0 (reading s)) a =
    if ((rdS (reading s) 0 a).setWidth 48).extractLsb' 0 5 = 0 then some ((rdS (reading s) 0 a).setWidth 48) else none := rfl

theorem exec_calli {s : State} {y : RF} (hl : lone (.calli y) s = true) (hclear : (boundary s).calls.length = 8 → stackClear s) :
    exec (.calli y) s = .next
      (let t := (rdS (reading s) 0 y.a).setWidth 48
       if t.extractLsb' 0 5 = 0 then called s t 2 else trapped s 0 0x0B 0) := by
  have hg : issueCalli y (entered s) (loneFrame (.calli y) 0 (reading s)) =
      match codeTarget (loneFrame (.calli y) 0 (reading s)) y.a with
      | some t => pushCall (entered s) (loneFrame (.calli y) 0 (reading s)) t 2
      | none => badTarget (loneFrame (.calli y) 0 (reading s)) := rfl
  rw [codeTarget_loneFrame] at hg
  dsimp only
  split_ifs at hg ⊢
  · exact runSlot_pushCall (g := issueCalli y) rfl hl rfl hclear hg
  · exact bad_run (g := issueCalli y) hg rfl hl

/-! ### RET (R99, R100) -/

/-- What a return through entry `e` comes to: LOOP_UNBALANCED, or the entry's address. -/
def returned (s : State) (e : Word) (c : Core) (n : Nat) : State :=
  if (e.extractLsb' 2 3).toNat ≠ (boundary s).loops.length then trapped s 0 0x3E 0
  else jumpTo s ((e.setWidth 48) &&& 0xFFFFFFFFFFE0) n c

theorem runSlot_popCall {i : Instr} {g : State → Frame → Frame} {s : State} {e : Word} {n : Nat} (w : Core → Core) (hs : slotOf i = some 0)
    (hl : lone i s = true) (ht : transfers i = true) (hw : { w (blank (boundary s)) with lat := [] } = w (blank (boundary s)))
    (hg : g (entered s) (loneFrame i 0 (reading s)) = popCall (loneFrame i 0 (reading s)) e (w (blank (boundary s))) n) :
    runSlot i g s = .next (returned s e (afterBundle s 0 [] w 0 false) n) := by
  unfold popCall at hg
  unfold returned
  by_cases hloops : (e.extractLsb' 2 3).toNat ≠ (boundary s).loops.length
  · rw [if_pos hloops]
    exact fault_run (hg.trans (if_pos hloops)) hs hl
  · rw [if_neg hloops]
    exact runSlot_jumps (la := []) w (hg.trans (if_neg hloops)) hw hs hl ht (.inl rfl)

theorem exec_ret {s : State} {y : RF} (hl : lone (.ret y) s = true) (hclear : (boundary s).calls = [] → stackClear s) :
    exec (.ret y) s = .next (let k := boundary s
      match k.calls.getLast? with
      | some e => returned s e { passed s 0 with calls := k.calls.dropLast } 2
      | none =>
        if k.cspl = 0 then trapped s 0 0x39 0
        else
          let r := readPlace (entered s) k.node (.slice s.cur (0xFF000 + 8 * (k.cspl - 1))) 8 false
          if r.2 then trapped s 0 0x3A 0
          else returned s (BitVec.ofNat 64 (leNat r.1)) { passed s 0 with cspl := k.cspl - 1 } 6) := by
  show runSlot (.ret y) (issueRet y) s = _
  have hg : issueRet y (entered s) (loneFrame (.ret y) 0 (reading s)) = issueRet y (entered s) (loneFrame (.ret y) 0 (reading s)) := rfl
  conv_rhs at hg => unfold issueRet
  rw [show (loneFrame (.ret y) 0 (reading s)).pre = boundary s from rfl, show (entered s).cur = s.cur from rfl] at hg
  dsimp only at hg ⊢
  cases hlast : (boundary s).calls.getLast? with
  | some e =>
    rw [hlast] at hg
    exact runSlot_popCall (fun k => { k with calls := (boundary s).calls.dropLast }) rfl hl rfl rfl hg
  | none =>
    rw [hlast] at hg
    dsimp only at hg ⊢
    by_cases hempty : (boundary s).cspl = 0
    · rw [if_pos hempty] at hg ⊢
      exact fault_run hg rfl hl
    obtain ⟨hown, hload⟩ := hclear (List.getLast?_eq_none_iff.1 hlast)
    have hacq : acqHolds (boundary s) (hdrColour s.hdr) false = false := by simpa [mayLoad] using hload
    rw [if_neg hempty, if_neg (by rw [hown]; exact ne_true_of_eq_false hacq)] at hg
    rw [if_neg hempty]
    by_cases hpoison : (readPlace (entered s) (boundary s).node (.slice s.cur (0xFF000 + 8 * ((boundary s).cspl - 1))) 8 false).2 = true
    · rw [if_pos hpoison] at hg ⊢
      exact fault_run hg rfl hl
    · rw [if_neg hpoison] at hg ⊢
      exact runSlot_popCall (fun k => { k with cspl := (boundary s).cspl - 1 }) rfl hl rfl rfl hg

/-- Settles O6: a call is a fault, a spill or a push, and a return takes its entry from the stack or the spill area. -/
theorem callsAndReturns : Obligations.CallsAndReturns :=
  fun _ _ _ => ⟨exec_call, exec_calli, exec_ret⟩

end Sys2Proof.Machine
end

section
/-! Branches and jumps (R96, R97, R107), the branch that resolves a shadow (R113), and the obligation on them (O5). -/

namespace Sys2Proof.Machine
open Sys2Proof

/-! ### A row that opens for a read leaves the running core the same (R288, R292) -/

/-- Core `c` runs. -/
def Runs (c : Nat) (s : State) : Prop := s.cur = c

theorem raiseRas_cur (s : State) : (raiseRas s).cur = s.cur := by
  unfold raiseRas
  split <;> rfl
theorem stewardLog_cur (s : State) (n code info pc : Nat) (a : At) : (stewardLog s n code info pc a).cur = s.cur := by
  unfold stewardLog
  dsimp only
  split
  · exact raiseRas_cur _
  · rfl
theorem guardRow_cur (s : State) (b row code : Nat) : (guardRow s b row code).cur = s.cur := stewardLog_cur ..
theorem preCheck_cur (s : State) (b row : Nat) : (preCheck s b row).cur = s.cur := by
  unfold preCheck
  dsimp only
  split_ifs
  · exact guardRow_cur ..
  · rfl
  · exact guardRow_cur ..
  · rfl
theorem precharge_cur (s : State) (b row : Nat) : (precharge s b row).cur = s.cur := preCheck_cur ..

theorem openRow_cur (s : State) (b row : Nat) (st : RowState) : Each (Runs s.cur) (openRow s b row st) := by
  unfold openRow
  extract_lets act
  have hact (t : State) (ht : Runs s.cur t) : Each (Runs s.cur) (act t) := .ite (.some ht) .none
  split
  · exact .none
  · exact .ite (.some rfl) (hact _ (precharge_cur ..))
  · exact .ite (.some rfl) (hact _ (precharge_cur ..))
  · exact hact s rfl

theorem hostRead_cur (s : State) (age g : Nat) : Each (Runs s.cur) (hostRead s age g) := .ite .none (.ite .none (openRow_cur ..))

theorem openNext_cur {c : Nat} (age g : Nat) {o : Option (State × List Nat)} (ho : Each (fun e => Runs c e.1) o) :
    Each (fun e => Runs c e.1) (openNext age o g) := by
  refine ho.bind (fun e he => ?_)
  subst he
  split
  · next t ht => exact .some ((hostRead_cur e.1 age g).of_eq ht)
  · refine .bind_any (fun b => ?_)
    split
    · exact (hostRead_cur ..).map (fun _ ht => Eq.trans ht (precharge_cur ..))
    · exact .none

theorem newGate_cur (s : State) (node : Option Nat) (ps : List Piece) : Each (Runs s.cur) (newGate s node ps) :=
  .ite .none (.ite .none ((Each.foldl (fun _ g ho => openNext_cur 0 g ho) _ (.some (a := (s, [])) rfl)).map (fun _ ht => ht)))

/-- What performs the deferred records again opens rows for them and writes only its core. -/
theorem redo_cur {c : Nat} {l : List DefRec} {s u : State} {k k' : Core} (h : redo c l s k = .done u k') : u.cur = s.cur := by
  induction l generalizing s k with
  | nil => cases h; rfl
  | cons r t ih =>
    unfold redo at h
    dsimp only at h
    split at h
    · cases h
    · cases h
    · next ps _ =>
      split at h
      · cases h
      · next v hv =>
        have hg : Each (Runs s.cur) (if loadMay c k ps then newGate s k.node ps else none) := .ite (newGate_cur ..) .none
        exact (ih h).trans (hg.of_eq hv)

/-! ### The frame of a resolving branch -/

/-- The frame of a lone branch that goes by `c` and resolves the shadow, as predicted or not. -/
def resolving (i : Instr) (s : State) (c : Ctl) (ok : Bool) : Frame := { leaving i s c with resolve := some ok }

/-- A lone bundle opens with its one slot. -/
theorem runSlot_closes {i : Instr} {n : Nat} {g : State → Frame → Frame} {s : State} (hs : slotOf i = some n) (hl : lone i s = true) :
    runSlot i g s = .next (closeBundle (entered s) (g (entered s) (loneFrame i n (reading s)))) := by
  unfold lone at hl
  simp only [hs, Bool.and_eq_true, Bool.not_eq_true'] at hl
  obtain ⟨⟨⟨⟨hc, hleg⟩, hwt⟩, ht⟩, he⟩ := hl
  rw [runSlot_alone hc, show reading s = newFrame (boundary s) s.hdr from rfl, slotIn_lone hs hleg hwt ht]

/-- What closes a resolving branch (R113, R381): nothing else can hold it or trap. -/
theorem closeBundle_resolving {i : Instr} {s : State} {c : Ctl} {ok : Bool} (hs : slotOf i = some 0) (hl : lone i s = true) :
    closeBundle (entered s) (resolving i s c ok) =
      if boostOut (reading s) || commitOwed (resolving i s c ok) then onCore (entered s) s.cur (bump 1)
      else match redone (entered s) (resolving i s c ok) with
        | .miss va => stallBundle (entered s) s.cur (va.map (·.1))
        | .fault cause info =>
          takeTrap (onCore (entered s) s.cur (fun k => onShadow k (fun x => { x with retry := x.retry || landed k }))) s.cur cause
            (boundary s).pc (trec (slotBit 3) info true)
        | .done u k => finishBundle u (resolving i s c ok) k := by
  have hkept : Kept i 0 (boundary s) s.hdr (resolving i s c ok) := { (clean_leaving i s c).kept with }
  unfold lone at hl
  simp only [hs, Bool.and_eq_true, Bool.not_eq_true'] at hl
  obtain ⟨⟨⟨⟨-, hleg⟩, -⟩, -⟩, hend⟩ := hl
  unfold closeBundle
  rw [illegal_lone hkept hleg, loopMark_lone hkept hend, acquireHolds_of_late (f := resolving i s c ok) rfl rfl, Bool.or_false]
  rfl

/-- A resolving branch commits once its records are done (R113). -/
theorem finishBundle_resolving {i : Instr} {s u : State} {pc : BitVec 48} {b : Nat} {ok : Bool} {k : Core} (hl : lone i s = true)
    (ht : transfers i = true) (hu : u.cur = s.cur) : finishBundle u (resolving i s (.goto pc b) ok) k =
      setCore u s.cur (bump (1 + b) { bundleCore (resolving i s (.goto pc b) ok) k with pc := pc }) := by
  unfold finishBundle
  rw [slotFault_none (f := resolving i s (.goto pc b) ok) rfl nofun, hu,
    ← leave_goto (s := s) (f := resolving i s (.goto pc b) ok) rfl (lone_not_le ht hl) rfl]
  rfl

/-! ### The core after a resolving branch -/

theorem consumes_shadow {α : Type} (l : List α) (k : Core) (x : Shadow) :
    l.foldl (fun k _ => consume k) { k with shadow := x } = { l.foldl (fun k _ => consume k) k with shadow := x } := by
  induction l generalizing k with
  | nil => rfl
  | cons a t ih => exact ih (consume k)

theorem consumes_postTrap {α : Type} (l : List α) (k : Core) : (l.foldl (fun k _ => consume k) k).postTrap = k.postTrap := by
  induction l generalizing k with
  | nil => rfl
  | cons a t ih => exact ih (consume k)

theorem commitShadow_shadow (f : Frame) (sh : Shadow) (k : Core) (x : Shadow) :
    commitShadow f sh { k with shadow := x } = { commitShadow f sh k with shadow := x } := by
  unfold commitShadow
  dsimp only
  rw [← consumes_shadow]

theorem commitShadow_postTrap (f : Frame) (sh : Shadow) (k : Core) : (commitShadow f sh k).postTrap = k.postTrap :=
  consumes_postTrap sh.poi _

theorem mergeShadow_none : mergeShadow Shadow.none Shadow.none 0 false = Shadow.none := rfl

/-- Against its prediction a branch drops the shadow. -/
theorem bundleCore_discards (i : Instr) (s : State) (c : Ctl) (k : Core) :
    bundleCore (resolving i s c false) k = { passed s 0 with shadow := Shadow.none } := by
  rw [← mergeShadow_none, passed, ← bundleCore_wrote (clean_leaving i s c).wrote]
  rfl

/-- As predicted it commits the shadow as it then stands (R113). -/
theorem bundleCore_commits {i : Instr} (s : State) (c : Ctl) (k : Core) (hw : written (uses i) = []) :
    bundleCore (resolving i s c true) k = { commitShadow (reading s) k.shadow (passed s 0) with
      shadow := Shadow.none, postTrap := shadowTrap (passed s 0) k.shadow ++ (boundary s).postTrap } := by
  have hwrites : (resolving i s c true).writes = (reading s).writes := (clean_leaving i s c).kept.writes.trans (by rw [hw]; rfl)
  have hcommit (x : Core) : commitShadow (resolving i s c true) k.shadow x = commitShadow (reading s) k.shadow x := by
    unfold commitShadow wroteHere
    rw [hwrites]
    rfl
  have hbase : bundleCore (resolving i s c true) k =
      let x := commitShadow (resolving i s c true) k.shadow { bundleCore (leaving i s c) (boundary s) with shadow := Shadow.none }
      { x with
        shadow := mergeShadow Shadow.none Shadow.none 0 false,
        postTrap := shadowTrap (bundleCore (leaving i s c) (boundary s)) k.shadow ++ x.postTrap } := rfl
  rw [hbase, mergeShadow_none, hcommit, bundleCore_wrote (clean_leaving i s c).wrote, commitShadow_shadow]
  dsimp only
  rw [commitShadow_postTrap]
  rfl

/-! ### The outcomes (R113) -/

/-- The bundle waits a core cycle. -/
def waited (s : State) : State := onCore (entered s) s.cur (bump 1)
/-- The shadow `sh` commits in the state `u`, and the branch goes to `pc`. -/
def shadowCommitted (s u : State) (sh : Shadow) (pc : BitVec 48) : State :=
  setCore u s.cur (bump 1 { commitShadow (reading s) sh (passed s 0) with
    shadow := Shadow.none, postTrap := shadowTrap (passed s 0) sh ++ (boundary s).postTrap, pc := pc })
/-- A deferred record traps. -/
def recordTrapped (s : State) (cause info : Nat) : State :=
  takeTrap (onCore (entered s) s.cur (fun k => onShadow k (fun x => { x with retry := x.retry || landed k }))) s.cur cause
    (boundary s).pc (trec (slotBit 3) info true)
/-- A register that the commit writes is owed. -/
def shadowOwed (s : State) : Bool := commitOwed { reading s with resolve := some true }

/-- A branch of slot S that resolves the shadow, goes to `pc` and stands as its prediction says. -/
structure Resolves (i : Instr) (g : State → Frame → Frame) (s : State) (pc : BitVec 48) (b : Nat) (ok : Bool) : Prop where
  lone : lone i s = true
  slot : slotOf i = some 0
  transfers : transfers i = true
  writes : written (uses i) = []
  frame : g (entered s) (loneFrame i 0 (reading s)) = resolving i s (.goto pc b) ok

section
variable {i : Instr} {g : State → Frame → Frame} {s : State} {pc : BitVec 48} {b : Nat} {ok : Bool}

theorem Resolves.run (h : Resolves i g s pc b ok) :
    runSlot i g s = .next (closeBundle (entered s) (resolving i s (.goto pc b) ok)) := by
  rw [runSlot_closes h.slot h.lone, h.frame]

theorem Resolves.waits (h : Resolves i g s pc b ok) (hw : boostOut (reading s) = true ∨ (ok = true ∧ shadowOwed s = true)) :
    runSlot i g s = .next (waited s) := by
  have hc : (boostOut (reading s) || commitOwed (resolving i s (.goto pc b) ok)) = true := by
    rcases hw with hw | ⟨rfl, hw⟩
    · rw [hw, Bool.true_or]
    · rw [show commitOwed (resolving i s (.goto pc b) true) = true from hw, Bool.or_true]
  rw [h.run, closeBundle_resolving h.slot h.lone, if_pos hc]
  rfl

theorem Resolves.discards (h : Resolves i g s pc b false) (hb : boostOut (reading s) = false) :
    runSlot i g s = .next (jumpTo s pc b { passed s 0 with shadow := Shadow.none }) := by
  have hc : (boostOut (reading s) || commitOwed (resolving i s (.goto pc b) false)) = false := by rw [hb]; rfl
  rw [h.run, closeBundle_resolving h.slot h.lone, if_neg (ne_true_of_eq_false hc),
    show redone (entered s) (resolving i s (.goto pc b) false) = .done (entered s) (boundary s) from rfl]
  dsimp only
  rw [finishBundle_resolving (u := entered s) h.lone h.transfers rfl, bundleCore_discards]
  rfl

/-- As predicted, what the records come to decides. -/
theorem Resolves.records (h : Resolves i g s pc 0 true) (hb : boostOut (reading s) = false) (ho : shadowOwed s = false) :
    runSlot i g s = .next (match redone (entered s) (resolving i s (.goto pc 0) true) with
      | .miss va => stallBundle (entered s) s.cur (va.map (·.1))
      | .fault cause info => recordTrapped s cause info
      | .done u k => finishBundle u (resolving i s (.goto pc 0) true) k) := by
  have hc : (boostOut (reading s) || commitOwed (resolving i s (.goto pc 0) true)) = false := by
    rw [hb, show commitOwed (resolving i s (.goto pc 0) true) = false from ho]
    rfl
  rw [h.run, closeBundle_resolving h.slot h.lone, if_neg (ne_true_of_eq_false hc)]
  rfl

theorem Resolves.finishes (h : Resolves i g s pc 0 true) {u : State} (k : Core) (hu : u.cur = s.cur) :
    finishBundle u (resolving i s (.goto pc 0) true) k = shadowCommitted s u k.shadow pc := by
  rw [finishBundle_resolving h.lone h.transfers hu, bundleCore_commits s _ k h.writes]
  rfl

theorem redone_nil (i : Instr) {s : State} (c : Ctl) (hrecs : (boundary s).shadow.recs = []) :
    redone (entered s) (resolving i s c true) = .done (entered s) (boundary s) := by
  unfold redone
  rw [show (resolving i s c true).pre = boundary s from rfl]
  dsimp only
  rw [hrecs]
  rfl

theorem redone_cons (i : Instr) {s : State} (c : Ctl) {r : DefRec} {rest : List DefRec} (hrecs : (boundary s).shadow.recs = r :: rest) :
    redone (entered s) (resolving i s c true) =
      if (boundary s).shadow.retry then redo s.cur (boundary s).shadow.recs (entered s) (boundary s) else .fault r.cause 0 := by
  unfold redone
  rw [show (resolving i s c true).pre = boundary s from rfl]
  dsimp only
  rw [hrecs]
  rfl

/-- What a branch that goes as predicted comes to, by the records of its shadow. -/
theorem Resolves.resolved (h : Resolves i g s pc 0 true) (hb : boostOut (reading s) = false) (ho : shadowOwed s = false) :
    let sh := (boundary s).shadow
    (sh.recs = [] → runSlot i g s = .next (shadowCommitted s (entered s) sh pc)) ∧
    (∀ r rest, sh.recs = r :: rest →
      (sh.retry = false → runSlot i g s = .next (recordTrapped s r.cause 0)) ∧
      (sh.retry = true →
        (∀ u k, redo s.cur sh.recs (entered s) (boundary s) = .done u k →
          runSlot i g s = .next (shadowCommitted s u k.shadow pc)) ∧
        (∀ cause info, redo s.cur sh.recs (entered s) (boundary s) = .fault cause info →
          runSlot i g s = .next (recordTrapped s cause info)))) := by
  have hrun := h.records hb ho
  refine ⟨fun hrecs => ?_, fun r rest hrecs => ?_⟩
  · rw [hrun, redone_nil i _ hrecs]
    exact congrArg Host.Outcome.next (h.finishes (boundary s) rfl)
  rw [redone_cons i _ hrecs] at hrun
  refine ⟨fun hfirst => ?_, fun hagain => ⟨fun u k hredo => ?_, fun cause info hredo => ?_⟩⟩
  · rw [hrun, hfirst]
    rfl
  · rw [hrun, hagain, if_pos rfl, hredo]
    exact congrArg Host.Outcome.next (h.finishes k (redo_cur (s := entered s) hredo))
  · rw [hrun, hagain, if_pos rfl, hredo]

end

/-! ### BR, BC and JMPI -/

theorem resolveBr_resolves (s : State) (x : BF) (hu : (boundary s).level = false) (hx : x.br = 1) (f : Frame) (hf : f.pre = boundary s)
    (ok : Bool) : resolveBr x f ok = { f with resolve := some ok } := by
  unfold resolveBr
  rw [hf, hu, hx]
  rfl

theorem resolves_br {s : State} {x : BF} (hl : lone (.br x) s = true) (hu : (boundary s).level = false) (hx : x.br = 1) :
    Resolves (.br x) (fun _ => issueBr x) s (targetOf s x) 0 true where
  lone := hl
  slot := rfl
  transfers := rfl
  writes := rfl
  frame := (resolveBr_resolves s x hu hx _ rfl true).trans (by rw [target_eq]; rfl)

/-- Where BC goes. -/
def bcTarget (s : State) (x : BF) : BitVec 48 := if bcHolds x.cc.toNat (rdS (reading s) 0 x.a) then targetOf s x else (boundary s).pc + 32
/-- BC goes as its prediction says. -/
def bcPredicted (s : State) (x : BF) : Bool := bcHolds x.cc.toNat (rdS (reading s) 0 x.a) == decide (x.pd = 1)

theorem issueBc_loneFrame (s : State) (x : BF) : issueBc x (loneFrame (.bc x) 0 (reading s)) =
    resolveBr x (leaving (.bc x) s (.goto (bcTarget s x) (if bcPredicted s x then 0 else 4))) (bcPredicted s x) := by
  unfold issueBc bcTarget bcPredicted
  rw [bc_eq, target_eq, BEq.beq]
  rfl

theorem resolves_bc {s : State} {x : BF} (hl : lone (.bc x) s = true) (hu : (boundary s).level = false) (hx : x.br = 1) :
    Resolves (.bc x) (fun _ => issueBc x) s (bcTarget s x) (if bcPredicted s x then 0 else 4) (bcPredicted s x) where
  lone := hl
  slot := rfl
  transfers := rfl
  writes := rfl
  frame := (issueBc_loneFrame s x).trans (resolveBr_resolves s x hu hx _ rfl _)

theorem exec_br {s : State} {x : BF} (hl : lone (.br x) s = true) (hp : x.br = 0 ∨ (boundary s).level = true) :
    exec (.br x) s = .next (jumpTo s (targetOf s x) 0 (passed s 0)) :=
  go_run (g := fun _ => issueBr x) ((br_plain s x hp _ rfl true).trans (by rw [target_eq])) rfl hl rfl

theorem exec_bc {s : State} {x : BF} (hl : lone (.bc x) s = true) (hp : x.br = 0 ∨ (boundary s).level = true) :
    exec (.bc x) s = .next (jumpTo s (bcTarget s x) (if bcPredicted s x then 0 else 4) (passed s 0)) :=
  go_run (g := fun _ => issueBc x) ((issueBc_loneFrame s x).trans (br_plain s x hp _ rfl _)) rfl hl rfl

theorem exec_jmpi {s : State} {y : RF} (hl : lone (.jmpi y) s = true) :
    let t := (rdS (reading s) 0 y.a).setWidth 48
    exec (.jmpi y) s = .next (if t.extractLsb' 0 5 = 0 then jumpTo s t 2 (passed s 0) else trapped s 0 0x0B 0) := by
  have hg : issueJmpi y (loneFrame (.jmpi y) 0 (reading s)) =
      match codeTarget (loneFrame (.jmpi y) 0 (reading s)) y.a with
      | some t => { loneFrame (.jmpi y) 0 (reading s) with ctl := .goto t 2 }
      | none => badTarget (loneFrame (.jmpi y) 0 (reading s)) := rfl
  rw [codeTarget_loneFrame] at hg
  dsimp only
  split_ifs at hg ⊢
  · exact go_run (g := fun _ => issueJmpi y) hg rfl hl rfl
  · exact bad_run (g := fun _ => issueJmpi y) hg rfl hl

/-- Settles O5: a plain branch goes, and a resolving one waits, discards, commits or traps by the frame it closes with. -/
theorem branchesAndJumps : Obligations.BranchesAndJumps := by
  refine ⟨fun s x y => ⟨exec_br, fun hl hp => ?_, exec_jmpi⟩, fun s x hu hx => ⟨fun hl => ?_, fun hl => ?_⟩⟩
  · rw [exec_bc hl hp]
    simp [bcTarget, bcPredicted]
  · have h := resolves_br hl hu hx
    exact ⟨fun hw => h.waits (hw.imp_right fun ho => ⟨rfl, ho⟩), h.resolved⟩
  · have h := resolves_bc hl hu hx
    refine ⟨fun hw => h.waits (hw.imp_right fun ⟨hp, ho⟩ => ⟨beq_iff_eq.2 hp, ho⟩), fun hb ho hp => ?_, fun hb hp => ?_⟩
    · rw [show bcPredicted s x = true from beq_iff_eq.2 hp] at h
      exact h.resolved hb ho
    · rw [show bcPredicted s x = false from beq_false_of_ne hp] at h
      exact h.discards hb

end Sys2Proof.Machine
end

section
/-! The ends of parked waits (R108, R204, R348, R412), and the obligation on them (O38). -/

namespace Sys2Proof.Machine
open Sys2Proof

section
variable {s : State} {c : Nat} (hp : s.host.power = true)
include hp

/-- An event on the wait in which a core is parked occurs where what it makes of the wait does. -/
theorem parked_next {name : String} {p : Park} {t : State} {g : Park → Option State} (hpark : parkOf s c = some p) (hg : g p = some t) :
    eventO name s ((parkOf s c).bind g) = .next t :=
  eventO_some hp (by rw [hpark]; exact hg)

/-! ### WAITE (R108) -/

theorem waiteWake_next {p : Park} {m : BitVec 8} (hpark : parkOf s c = some p) (hk : p.kind = .waite m)
    (hev : (coreAt s c).evl &&& m ≠ 0) : exec (.waiteWake c) s = .next (endPark s c p true 0) :=
  parked_next hp hpark (by rw [hk]; exact if_pos hev)

theorem waiteTimeout_next {p : Park} {m : BitVec 8} (hpark : parkOf s c = some p) (hk : p.kind = .waite m)
    (hx : expired s p = true) : exec (.waiteTimeout c) s = .next (endPark s c p false 0) :=
  parked_next hp hpark (by rw [hk]; exact if_pos hx)

/-! ### BARW (R204) -/

theorem barwWake_next {p : Park} {pl : Place} {par : Bool} (hpark : parkOf s c = some p) (hk : p.kind = .barw pl par)
    (hmet : barwMet s c pl par = true) : exec (.barwWake c) s = .next (endPark s c p true 0) :=
  parked_next hp hpark (by rw [hk]; exact if_pos hmet)

theorem barwTimeout_next {p : Park} {pl : Place} {par : Bool} (hpark : parkOf s c = some p) (hk : p.kind = .barw pl par)
    (hx : expired s p = true) : exec (.barwTimeout c) s = .next (endPark s c p (barwMet s c pl par) 0) :=
  parked_next hp hpark (by rw [hk]; exact if_pos hx)

/-! ### SWAIT (R348) -/

theorem swaitReread_next {p : Park} {va : Nat} {pl : Place} {thr v : Word} {inh : Option Word} {poi : Bool} {t : State} (hpark : parkOf s c = some p)
    (hk : p.kind = .swait va pl thr inh) (hword : waitWord s c va pl = some (v, poi, t)) :
    exec (.swaitReread c) s = .next (if thr.toNat ≤ v.toNat then endPark t c p true (if poi then 1 else 0) else t) :=
  parked_next hp hpark (by rw [hk]; dsimp only; rw [hword]; rfl)

theorem swaitTimeout_next {p : Park} {va : Nat} {pl : Place} {thr v : Word} {inh : Option Word} {poi : Bool} {t : State} (hpark : parkOf s c = some p)
    (hk : p.kind = .swait va pl thr inh) (hword : waitWord s c va pl = some (v, poi, t)) (hx : expired s p = true) :
    exec (.swaitTimeout c) s = .next (endPark t c p (decide (thr.toNat ≤ v.toNat)) (if poi then 1 else 0)) :=
  parked_next hp hpark (by rw [hk]; dsimp only; rw [if_pos hx, hword]; rfl)

/-! ### Atomics of system pages (R412) -/

/-- Nothing that the core issued before its parked atomic of the piece `q` is still to come. -/
structure AtomicNext (w : State) (c : Nat) (q : Piece) : Prop where
  mem : ∀ e ∈ (coreAt w c).mem, e.acc = true ∨ (e.op.isFence = false ∧ ∀ o ∈ e.op.pieces, overlaps o q = false)
  early : ∀ e ∈ (coreAt w c).early, e.got ≠ none
  line : combining w q = false

omit hp in
theorem AtomicNext.mem_clear {w : State} {q : Piece} (h : AtomicNext w c q) :
    (coreAt w c).mem.any (fun e => !e.acc && (e.op.isFence || e.op.pieces.any (fun o => overlaps o q))) = false := by
  rw [List.any_eq_false]
  intro e he
  rcases h.mem e he with hacc | ⟨hfence, hpieces⟩
  · simp [hacc]
  · simpa [hfence] using fun _ => hpieces

omit hp in
theorem AtomicNext.early_clear {w : State} {q : Piece} (h : AtomicNext w c q) :
    (coreAt w c).early.any (fun e => e.got.isNone) = false := by
  rw [List.any_eq_false]
  intro e he hnone
  exact h.early e he (Option.isNone_iff_eq_none.1 hnone)

theorem systemAtomic_refused {p : Park} {a : AtomKind} {ty : ETy} {ha mt len : Nat} {disc : Bool} {x y : Nat}
    (hpark : parkOf s c = some p) (hk : p.kind = .sysAtom a ty (Piece.mk (.sys ha mt) len disc) x y)
    (hnext : AtomicNext (setCore s c (pruned s c (coreAt s c))) c ⟨.sys ha mt, len, disc⟩) (h0 : mt ≠ 0) (h3 : mt ≠ 3)
    (hprev : ∀ r ∈ p.prev, r.ok = false) :
    exec (.systemAtomicCompletion c false) s = .next (endPark (setCore s c (pruned s c (coreAt s c))) c p false 0) := by
  refine parked_next hp hpark ?_
  have hany : p.prev.any (·.ok) = false := by
    rw [List.any_eq_false]
    exact fun r hr => ne_true_of_eq_false (hprev r hr)
  rw [hk]
  dsimp only
  rw [hnext.mem_clear, hnext.line, hnext.early_clear, hany, beq_false_of_ne h0, beq_false_of_ne h3]
  rfl

theorem systemAtomic_performs {p : Park} {a : AtomKind} {ty : ETy} {ha mt len : Nat} {disc : Bool} {x y : Nat}
    (hpark : parkOf s c = some p) (hk : p.kind = .sysAtom a ty (Piece.mk (.sys ha mt) len disc) x y)
    (hnext : AtomicNext (setCore s c (pruned s c (coreAt s c))) c ⟨.sys ha mt, len, disc⟩) :
    exec (.systemAtomicCompletion c true) s = .next
      (let w := setCore s c (pruned s c (coreAt s c))
       let r := performAtom w (.core c 0 0) (coreAt w c).node a ty ⟨.sys ha mt, len, disc⟩ x y
       let t := if mt = 0 ∨ mt = 3 then onHost r.2.2 (fun h => { h with owned := (h.owned ++ [ha / 64]).eraseDups }) else r.2.2
       endPark t c p true (leNat r.1)) := by
  refine parked_next hp hpark ?_
  rw [hk]
  dsimp only
  rw [hnext.mem_clear, hnext.line, hnext.early_clear]
  simp

/-! ### Lines and buffers of a host port (R258, R412) -/

theorem homeAgentSnoop_next {line : Nat} (h : line ∈ s.host.owned) :
    exec (.homeAgentSnoop line) s = .next (onHost s (fun h => { h with owned := h.owned.filter (· != line) })) :=
  event_next hp (List.contains_iff_mem.2 h)

theorem writeCombineTimeout_next {i : Nat} {b : WcBuf} (hb : s.host.wcb[i]? = some b) (ht : b.since + 2048 ≤ s.now) :
    exec (.writeCombineTimeout b.port i) s = .next (emitBuf s i) :=
  event_next hp (by rw [hb]; simpa using ht)

end

/-- Settles O38: each wait ends by the event of its kind. -/
theorem parkedWaitsEnd : Obligations.ParkedWaitsEnd := fun _ _ hp =>
  ⟨fun _ _ hpark hk => ⟨waiteWake_next hp hpark hk, waiteTimeout_next hp hpark hk⟩,
   fun _ _ _ hpark hk => ⟨barwWake_next hp hpark hk, barwTimeout_next hp hpark hk⟩,
   fun _ _ _ _ _ _ _ _ hpark hk hword => ⟨swaitReread_next hp hpark hk hword, swaitTimeout_next hp hpark hk hword⟩,
   fun _ _ _ _ _ _ _ _ _ hpark hk hmem hearly hline =>
     ⟨systemAtomic_refused hp hpark hk ⟨hmem, hearly, hline⟩, systemAtomic_performs hp hpark hk ⟨hmem, hearly, hline⟩⟩,
   fun _ => homeAgentSnoop_next hp,
   fun _ _ => writeCombineTimeout_next hp⟩

end Sys2Proof.Machine
end

section
/-! Upkeep of memory and cores (R122, R291, R296-R298, R390, R398-R400), and the obligation on it (O48). -/

namespace Sys2Proof.Machine
open Sys2Proof

section
variable {s : State} (hp : s.host.power = true)
include hp

/-! ### Scrub, revival, thermal limit, migration (R291, R296-R298) -/

theorem patrolScrub_next {g : Nat} {u : State} (hg : g < 2 ^ 34) (hlive : live s.dram g = true) (hwait : writesWait s (gBank g) = false)
    (hopen : hostOpen s g = some u) : exec (.patrolScrub g none) s = .next u := by
  have hguard : (!true || decide (2 ^ 34 ≤ g) || !live s.dram g || writesWait s (gBank g)) = false := by
    rw [hlive, hwait, decide_eq_false (Nat.not_le.2 hg)]
    rfl
  exact eventO_some hp ((if_neg (ne_true_of_eq_false hguard)).trans (by rw [hopen]; rfl))

theorem blockRevival_next {hc block : Nat} (hb : block < 512) (hr : hc * 512 + block ∈ s.dram.reviving) :
    exec (.blockRevival hc block) s = .next (onDram s (fun d =>
      { zeroBlock d (hc * 512 + block) with
        elided := mput false d.elided (hc * 512 + block) false, reviving := d.reviving.filter (· != hc * 512 + block) })) :=
  event_next hp (by simp [hb, hr])

theorem thermalReadout_next {hc limit : Nat} (hhc : hc < 512) (hlow : 4 ≤ limit) (hhigh : limit ≤ 64) :
    exec (.thermalReadout hc limit) s = .next (onDram s (fun d => { d with actmax := mput 64 d.actmax hc limit })) :=
  event_next hp (by simp [hhc, hlow, hhigh])

theorem dieMigrationUnit_next {k b r : Nat} (hm : migrating s k = some (b, r)) (hrow : ∀ x, (bank s.dram b).row ≠ .engine x) :
    exec (.dieMigrationUnit k) s = .next (onDram s (fun d => { d with mark := mput 0 d.mark k (mget 0 d.mark k + 1) })) := by
  refine eventO_some hp ?_
  rw [hm]
  dsimp only
  cases hst : (bank s.dram b).row with
  | engine x => exact absurd hst (hrow x)
  | _ => rfl

/-! ### Tests of banks (R398, R399) -/

/-- A bank's test may start: it is asked for, no test or park is under way, its park area is free, no lease is on it. -/
structure TestMayStart (s : State) (b : Nat) : Prop where
  asked : (bank s.dram b).testReq = true
  idle : (bank s.dram b).testing = false
  home : (bank s.dram b).parked = false
  room : parkBase s (bankStack b) = none ∨ parkTaken s b = false
  unleased : (stewardAt s (b / 64)).leases.any (fun l => l.bank == b % 64) = false

/-- The bank's atoms read again, and its request gone (R399). -/
def testStarted (s : State) (b : Nat) (decoded : List Nat) : State :=
  onBank (reread (bankAll s) b decoded) b (fun k => { k with testReq := false })

theorem bankTest_next {b : Nat} (decoded : List Nat) (h : TestMayStart s b) : exec (.bankTest b decoded) s = .next
    (match parkBase s (bankStack b) with
     | some p => onBank (parkCopy (closeBank (testStarted s b decoded) b) b p false) b
         (fun k => { k with testing := true, parked := true })
     | none => testEnded (if (bank (testStarted s b decoded).dram b).bad.isEmpty then rasLog (testStarted s b decoded) 0xA9 2 (bankNum b)
         else (lasting (testStarted s b decoded) b).1) (.bank b)) := by
  have hroom : ((parkBase s (bankStack b)).isNone || !parkTaken s b) = true := by
    rcases h.room with hr | hr <;> rw [hr] <;> simp
  exact event_next hp (by rw [h.asked, h.idle, h.home, hroom, h.unleased]; rfl)

theorem bankTestEnd_passed {b p : Nat} (ht : (bank s.dram b).testing = true) (hpark : parkBase s (bankStack b) = some p) :
    exec (.bankTestEnd b true) s = .next (testEnded (rasLog
      (onBank (parkCopy s b p true) b (fun k => { k with testing := false, parked := false })) 0xA9 2 (bankNum b)) (.bank b)) := by
  refine (event_next hp ht).trans ?_
  rw [if_pos rfl]
  dsimp only
  rw [hpark]

omit hp in
/-- A lasting fault of a stack whose spare is in use costs the bank (R398). -/
theorem lasting_of_spare {b : Nat} (hs : (mget none s.dram.spare (bankStack b)).isSome = true) :
    lasting s b = (rasLog s 0xAC 2 (bankNum b), false) := by
  obtain ⟨d, hd⟩ := Option.isSome_iff_exists.1 hs
  unfold lasting
  dsimp only
  rw [hd]

theorem bankTestEnd_failed {b : Nat} (ht : (bank s.dram b).testing = true)
    (hs : (mget none s.dram.spare (bankStack b)).isSome = true) : exec (.bankTestEnd b false) s = .next (testEnded
      (onBank (rasLog s 0xAC 2 (bankNum b)) b (fun k => { k with testing := false })) (.bank b)) := by
  refine (event_next hp ht).trans ?_
  rw [lasting_of_spare hs]
  rfl

/-! ### Tests and faults of cores (R122, R398, R400) -/

theorem coreBistEnd_next {c : Nat} (passed : Bool) (hc : c ∈ s.sched.coreTest) (hn : (coreAt s c).node = none) :
    exec (.coreBistEnd c passed) s = .next (rasLog
      (onSched s (fun h => { h with
        coreTest := h.coreTest.filter (· != c), coreParity := h.coreParity.filter (· != c),
        coreBad := if passed then h.coreBad else (h.coreBad ++ [c]).eraseDups,
        nodes := h.nodes.map (fun n => { n with testWait := n.testWait.filter (· != TestKey.core c) }) }))
      (if passed then 0xA9 else 0xAA) 1 c) :=
  event_next hp (by simp [hc, hn])

theorem coreParityError_next {c : Nat} (hc : c < Config.cores) (hbad : c ∉ s.sched.coreBad) (hpar : c ∉ s.sched.coreParity) :
    exec (.coreParityError c) s = .next (onSched s (fun h => { h with
      coreTest := (h.coreTest ++ [c]).eraseDups, coreParity := h.coreParity ++ [c] })) :=
  event_next hp (by simp [hc, hbad, hpar])

theorem coreFaultNotContained_next {c id : Nat} (hn : (coreAt s c).node = some id) (hbad : c ∉ s.sched.coreBad) :
    exec (.coreFaultNotContained c) s = .next
      (onNode (onSched (rasLog (stopNode s c 0xA4) 0xA4 1 c) (fun h => { h with coreTest := (h.coreTest ++ [c]).eraseDups })) id
        (fun n => { n with testWait := (n.testWait ++ [TestKey.core c]).eraseDups })) := by
  refine (event_next hp (by simp [hn, hbad])).trans ?_
  rw [hn]
  rfl

end

/-- Settles O48: each upkeep event does its work where its guard holds. -/
theorem upkeepRuns : Obligations.UpkeepRuns := fun _ hp =>
  ⟨fun _ _ => patrolScrub_next hp, fun _ _ => blockRevival_next hp, fun _ _ => thermalReadout_next hp,
   fun _ _ _ => dieMigrationUnit_next hp,
   fun _ decoded hasked hidle hhome hroom hleases =>
     have hnext := bankTest_next hp decoded ⟨hasked, hidle, hhome, hroom, hleases⟩
     ⟨fun _ hpark => hnext.trans (by rw [hpark]; rfl), fun hpark => hnext.trans (by rw [hpark]; rfl)⟩,
   fun _ ht => ⟨fun _ => bankTestEnd_passed hp ht, bankTestEnd_failed hp ht⟩,
   fun _ => coreBistEnd_next hp, fun _ => coreParityError_next hp, fun _ _ => coreFaultNotContained_next hp⟩

end Sys2Proof.Machine
end

section
/-! The ends of nodes and of their units (R110, R115, R122, R189, R335, R350, R383, R390), and the obligation on them (O50). -/

namespace Sys2Proof.Machine
open Sys2Proof

/-! ### A cleared stretch of a table -/

/-- A table filtered by its keys. -/
theorem mget_filter_key {α : Type} {z : α} {p : Nat → Bool} {lo : Option Nat} {m : SMap α} (h : rising lo m = true) (k : Nat) :
    mget z (m.filter (fun e => p e.1)) k = if p k = true then mget z m k else z := by
  induction m generalizing lo with
  | nil => exact (ite_self z).symm
  | cons e t ih =>
    obtain ⟨j, v⟩ := e
    simp only [rising, Bool.and_eq_true] at h
    have habove : k ≤ j → mget z (t.filter (fun e => p e.1)) k = z := mget_of_rising (rising_filter h.2)
    have ht := ih h.2
    rw [List.filter_cons]
    by_cases hj : p j = true
    · rw [if_pos hj, mget, mget, ht]
      rcases Nat.lt_trichotomy k j with hlt | rfl | hgt
      · simp [hlt]
      · simp [hj]
      · simp [hgt.not_gt, hgt.ne']
    · rw [if_neg hj, mget]
      rcases Nat.lt_trichotomy k j with hlt | rfl | hgt
      · rw [habove hlt.le, if_pos hlt, ite_self]
      · rw [habove le_rfl, if_neg hj]
      · rw [ht, if_neg (show ¬k < j by omega), if_neg (show ¬k = j by omega)]

/-- The cleared keys read as unlisted. -/
theorem mget_mclear {α : Type} [DecidableEq α] {z : α} {m : SMap α} (h : canon z m = true) (lo n k : Nat) :
    mget z (mclear m lo n) k = if lo ≤ k ∧ k < lo + n then z else mget z m k := by
  have hr : rising none m = true := (Bool.and_eq_true_iff.1 h).1
  unfold mclear
  rw [mget_filter_key (p := fun j => !(decide (lo ≤ j) && decide (j < lo + n))) hr k]
  by_cases hin : lo ≤ k ∧ k < lo + n <;> simp [hin]

theorem byteAt_mclear {m : Bytes} (h : Memory.wf m = true) (lo n a : Nat) :
    byteAt (mclear m lo n) a = if lo ≤ a ∧ a < lo + n then 0 else byteAt m a := mget_mclear h lo n a

section
variable {s : State} (hp : s.host.power = true)
include hp

/-! ### Events on a node -/

/-- A scheduler event on a node occurs where what it makes of the node does. -/
theorem node_next {name : String} {id : Nat} {n : Node} {t : State} {g : Node → Option State} (hn : nodeOf s id = some n)
    (hg : g n = some t) : schedO name s ((nodeOf s id).bind g) = .next (markReady (killNext t)) :=
  schedO_some hp (by rw [hn]; exact hg)

/-! ### Spares and locks (R122, R350) -/

theorem spareTakeover_next {c : Nat} (hbad : c ∈ s.sched.coreBad) (hc : c % 9 ≠ 8) (hfree : mget none s.sched.spareUsed (c / 9) = none)
    (hspare : 9 * (c / 9) + 8 ∉ s.sched.coreBad) : exec (.spareTakeover c) s = .next (markReady (killNext
      (onSched s (fun h => { h with spareUsed := mput none h.spareUsed (c / 9) (some (c % 9)) })))) :=
  schedO_some hp (by simp [hbad, hc, hfree, hspare])

omit hp in
/-- The first of a list for which `f` has a result. -/
theorem findSome?_first {α β : Type} {f : α → Option β} {pre rest : List α} {w : α} {u : β} (hpre : ∀ x ∈ pre, f x = none)
    (hw : f w = some u) : (pre ++ w :: rest).findSome? f = some u := by
  rw [List.findSome?_append, List.findSome?_eq_none_iff.2 hpre, List.findSome?_cons, hw]
  rfl

/-- The wait's word meets its condition, and its bank serves the read. -/
def lockMet (s : State) (id : Nat) (w : Nat × SavedWait) : Option State :=
  match w.2.swait with
  | some (_, pl, thr, _) =>
    if thr.toNat ≤ leNat (readPlace s (some id) pl 8 false).1 then newGate s (some id) [Piece.mk pl 8 false] else none
  | none => none

omit hp in
theorem lockMet_some {id va : Nat} {w : Nat × SavedWait} {pl : Place} {thr : Word} {inh : Option Word}
    (hw : w.2.swait = some (va, pl, thr, inh)) (hthr : thr.toNat ≤ leNat (readPlace s (some id) pl 8 false).1) :
    lockMet s id w = newGate s (some id) [Piece.mk pl 8 false] := by
  unfold lockMet
  rw [hw]
  exact if_pos hthr

omit hp in
theorem lockMet_none {id : Nat} {w : Nat × SavedWait}
    (h : ∀ a p t o, w.2.swait = some (a, p, t, o) → t.toNat ≤ leNat (readPlace s (some id) p 8 false).1 →
      newGate s (some id) [Piece.mk p 8 false] = none) : lockMet s id w = none := by
  unfold lockMet
  split
  · next a p t o hw => exact ite_eq_right_iff.2 (h a p t o hw)
  · rfl

theorem lockWaitCheck_next {id : Nat} {n : Node} {u : State} (hn : nodeOf s id = some n) (hst : n.st = .waiting)
    (hmet : n.waits.findSome? (lockMet s id) = some u) :
    exec (.lockWaitCheck id) s = .next (markReady (killNext (onNode u id (fun n => { n with st := .preempted })))) :=
  node_next hp hn ((if_pos (beq_iff_eq.2 hst)).trans (congrArg (Option.map _) hmet))

theorem waitingBandTimeout_next {id t : Nat} {n : Node} {w : Nat × SavedWait} (hn : nodeOf s id = some n) (hst : n.st = .waiting)
    (hw : w ∈ n.waits) (huntil : w.2.until_ = some t) (ht : t ≤ s.now) : exec (.waitingBandTimeout id) s =
      .next (markReady (killNext (onNode s id (fun n => { n with st := .preempted })))) := by
  have hany : n.waits.any (fun w => w.2.until_.any (fun t => decide (t ≤ s.now))) = true :=
    List.any_eq_true.2 ⟨w, hw, by rw [huntil]; exact decide_eq_true ht⟩
  exact node_next hp hn (if_pos (by rw [hst, hany]; rfl))

theorem parkedBandVictim_next {id holder : Nat} {n h : Node} (hn : nodeOf s id = some n) (hst : n.st = .running) (hk : nKind n = 0)
    (hvictim : n.victim = false) (hlive : liveOf n ≠ []) (hparked : ∀ e ∈ liveOf n, longParked s e.2 = true)
    (hh : nodeOf s holder = some h) (hwaits : waitsFor s n h.ctx = true) : exec (.parkedBandVictim id holder) s =
      .next (markReady (killNext (onNode s id (fun n => { n with victim := true })))) := by
  have hall : allParked s n = true := by
    simpa [allParked, hlive] using fun a b => hparked (a, b)
  exact node_next hp hn (if_pos (by rw [hst, hk, hvictim, hall, hh, Option.any_some, hwaits]; rfl))

/-! ### Counters (R110, R115, R324) -/

/-- Nothing of a retiring core is outstanding (R110). -/
structure Retired (s : State) (c : Nat) : Prop where
  retiring : (coreAt s c).retiring = true
  settled : settled s c true = true
  flushed : sysUnflushed s 0xFF = false

omit hp in
theorem Retired.counts {c : Nat} (h : Retired s c) :
    (!(coreAt s c).retiring || !Machine.settled s c true || sysUnflushed s 0xFF) = false := by
  rw [h.retiring, h.settled, h.flushed]
  rfl

theorem counterDecrement_alone {c : Nat} (h : Retired s c) (hnode : (coreAt s c).node = none) :
    exec (.counterDecrement (.core c)) s = .next (markReady (killNext (idleCore s c))) := by
  refine schedO_some hp ?_
  unfold coreRetires
  dsimp only
  rw [h.counts, hnode]
  rfl

omit hp in
/-- A clean core retires with no failure to mark (R389). -/
theorem verdict_clean {k : Core} (hf : k.failed = none) (hcir : k.csr.cir.extractLsb' 0 2 = 0) : verdict k = none := by
  have h0 : k.csr.cir.getLsbD 0 = false := by simpa using congrArg (·.getLsbD 0) hcir
  have h1 : k.csr.cir.getLsbD 1 = false := by simpa using congrArg (·.getLsbD 1) hcir
  unfold verdict
  rw [hf, h0, h1]
  rfl

/-- A core of a gang that goes on: its place is counted, and its slice is to be cleared. -/
theorem counterDecrement_counts {c id : Nat} {n : Node} (h : Retired s c) (hnode : (coreAt s c).node = some id)
    (hn : nodeOf s id = some n) (hid : n.id = id) (hst : n.st = .running) (hverdict : verdict (coreAt s c) = none)
    (hgang : gangOver { n with gone := n.gone ++ [(coreAt s c).num] } ((coreAt s c).num / nGang n) = false)
    (hlt : (coreAt s c).num / nGang n < nGangs n) : exec (.counterDecrement (.core c)) s =
      .next (markReady (killNext (barArrive (onNode
        (onSched (idleCore s c) (fun h => { h with coreClear := (h.coreClear ++ [c]).eraseDups })) id
        (fun n => { n with gone := n.gone ++ [(coreAt s c).num] })) id ((coreAt s c).num / nGang n) (Config.clusterOf c)
        (fun _ => 0)))) := by
  refine schedO_some hp ?_
  have hband : (List.range (nGangs n)).all (gangOver { n with gone := n.gone ++ [(coreAt s c).num] }) = false :=
    List.all_eq_false.2 ⟨_, List.mem_range.2 hlt, ne_true_of_eq_false hgang⟩
  unfold coreRetires
  dsimp only
  rw [h.counts, hnode, Option.bind_some, hn]
  dsimp only
  rw [hband, hgang, hverdict, hst, hid]
  rfl

theorem counterDecrement_steward {k : Nat} {st : Nat × Option Nat} (hdone : (stewardAt s k).done = some st)
    (hnode : (stewardAt s k).node = none) : exec (.counterDecrement (.steward k)) s =
      .next (markReady (killNext (setSteward s k (fun t => { Steward.idle with log := t.log, lost := t.lost, alert := t.alert })))) := by
  refine schedO_some hp ?_
  unfold stewardRetires
  dsimp only
  rw [hdone, hnode]
  rfl

/-! ### Stops, retries, clearing and the watchdog (R189, R335, R383, R390) -/

/-- A core of a stopping node has settled: it is not the node's any more, or nothing of it is outstanding. -/
def coreQuiet (s : State) (id c : Nat) : Prop := (coreAt s c).node ≠ some id ∨ (settled s c true = true ∧ (coreAt s c).park = none)

theorem nodeStop_next {id cause : Nat} {n : Node} (hn : nodeOf s id = some n) (hst : n.st = .stopping cause)
    (hrec : recordsFree s id = true) (hquiet : ∀ c ∈ n.cores, coreQuiet s id c) : exec (.nodeStop id) s =
      .next (markReady (killNext (failRun
        (freeBand (onNode s id (fun m =>
          { m with ran := m.ran + (if m.cores.isEmpty then 0 else s.now - m.placedAt), cause := some cause })) n) id cause))) := by
  refine node_next hp hn ?_
  rw [hst]
  dsimp only
  refine if_pos ?_
  rw [hrec, Bool.and_true, List.all_eq_true]
  intro c hc
  rcases hquiet c hc with hgone | ⟨hset, hpark⟩
  · rw [bne_iff_ne.2 hgone, Bool.true_or]
  · rw [hset, hpark, Bool.true_or, Bool.true_and, Bool.or_true]

theorem nodeRetry_next {id : Nat} {n : Node} (hn : nodeOf s id = some n) (hst : n.st = .retry) (htest : n.testWait = []) :
    exec (.nodeRetry id) s = .next (markReady (killNext (onNode s id
      (fun n => { n with st := .captured, tries := n.tries + 1, cause := none, aged := 0, agingFrom := none })))) :=
  node_next hp hn (if_pos (by rw [hst, htest]; rfl))

/-- The state once the slice of core `c` is cleared. -/
def sliceCleared (s : State) (c : Nat) : State :=
  onSched { s with slices := mclear s.slices (c * 2 ^ 20) (2 ^ 20), spoi := mclear s.spoi (c * 2 ^ 15) (2 ^ 15) }
    (fun h => { h with coreClear := h.coreClear.filter (· != c) })

omit hp in
theorem byteAt_sliceCleared (hwf : Memory.wf s.slices = true) (c a : Nat) : byteAt (sliceCleared s c).slices a =
    if c * 2 ^ 20 ≤ a ∧ a < (c + 1) * 2 ^ 20 then 0 else byteAt s.slices a := by
  rw [show (c + 1) * 2 ^ 20 = c * 2 ^ 20 + 2 ^ 20 by omega]
  exact byteAt_mclear hwf ..

theorem sliceClear_next {c : Nat} (hc : c ∈ s.sched.coreClear) (hfree : ∀ n ∈ s.sched.nodes, c ∉ n.cores) :
    exec (.sliceClear c) s = .next (markReady (killNext (sliceCleared s c))) :=
  schedO_some hp (if_pos (by simpa [hc] using hfree))

theorem nodeWatchdog_next {id : Nat} {n : Node} (hn : nodeOf s id = some n) (hwdog : nWdog n ≠ 0)
    (hdue : n.begun + nWdog n * 2000 ≤ s.now)
    (hst : (n.st = .running ∧ nKind n = 0) ∨ n.st = .draining ∨ n.st = .preempted ∨ n.st = .waiting) :
    exec (.nodeWatchdog id) s = .next (markReady (killNext (onNode s id (fun n => { n with st := .stopping 0x96 })))) := by
  refine node_next hp hn ?_
  have hdue' : (nWdog n != 0 && decide (n.begun + nWdog n * 2000 ≤ s.now)) = true := by simp [hwdog, hdue]
  dsimp only
  rw [hdue']
  rcases hst with ⟨hst, hk⟩ | hst | hst | hst <;> rw [hst]
  exact if_pos hk

end

/-- Settles O50: what each end leaves, event by event. -/
theorem nodesEnd : Obligations.NodesEnd := by
  refine fun s hp => ⟨fun _ => spareTakeover_next hp, fun id n pre w rest va pl thr inh u hn hst hwaits hpre hw hthr hgate => ?_,
    fun _ _ _ _ => waitingBandTimeout_next hp, fun _ _ _ _ => parkedBandVictim_next hp,
    fun _ hret hset hflush => counterDecrement_alone hp ⟨hret, hset, hflush⟩,
    fun _ _ _ hret hset hflush hnode hn hst hf hcir hid =>
      counterDecrement_counts hp ⟨hret, hset, hflush⟩ hnode hn hid hst (verdict_clean hf hcir),
    fun _ _ => counterDecrement_steward hp, fun _ _ _ hn hst hrec _ => nodeStop_next hp hn hst hrec, fun _ _ => nodeRetry_next hp,
    fun c hc hfree hmem => ⟨sliceCleared s c, sliceClear_next hp hc hfree, byteAt_sliceCleared ?_ c, rfl, rfl, rfl, rfl⟩,
    fun _ _ => nodeWatchdog_next hp⟩
  · have hfirst := findSome?_first (rest := rest) (fun x hx => lockMet_none (hpre x hx)) ((lockMet_some hw hthr).trans hgate)
    exact lockWaitCheck_next hp hn hst (by rw [hwaits]; exact hfirst)
  · simp only [memCanon, Bool.and_eq_true] at hmem
    obtain ⟨⟨⟨hslices, -⟩, -⟩, -⟩ := hmem
    exact hslices

end Sys2Proof.Machine
end

section
/-! The aging of ready nodes (R339), and the obligation on the runs of nodes (O49): where two nodes of the window carry one number, a step
of aging raises both to the priority of the first. -/

namespace Sys2Proof.Machine
open Sys2Proof

/-! ### Two nodes of one number -/

/-- A captured node of number 1 with the priority given, ready and aging since cycle 0; its descriptor is all zeros. -/
def agingNode (prio : Nat) : Node :=
  { newNode State.reset 0 Queue.reset [] with id := 1, prio := prio, agingFrom := some 0 }

/-- A powered module, 128 µs after reset, whose context 0 lets nodes age up to 63 and whose window holds two such nodes. The model numbers
the nodes that it captures one after another, but the statement quantifies over every state. -/
def agingTwins : State :=
  onSched (onHost { State.reset with now := 256000 } (fun h => { h with power := true }))
    (fun h => { h with ctxCache := [(0, 0x1001, 63)], nodes := [agingNode 5, agingNode 0] })

/-- The priority that each node of the window has aged to, after an event that occurs. -/
def agesOf : Out → List Nat
  | .next t => t.sched.nodes.map (·.aged)
  | _ => []

/-- What O49 says that the step leaves: each node of the number at its own priority plus 1. -/
def agedClaimed : State := onNode agingTwins 1 (fun n => { n with aged := min (n.prio + 1) (ceilOf agingTwins n) })

theorem agingTwins_first : nodeOf agingTwins 1 = some (agingNode 5) := rfl
theorem agingTwins_ready : ready agingTwins (agingNode 5) = true := by decide +kernel
theorem agingTwins_step : min ((agingNode 5).prio + 1) (ceilOf agingTwins (agingNode 5)) ≠ (agingNode 5).aged := by decide +kernel

theorem priorityAging_twins_ages : agesOf (exec (.priorityAging 1) agingTwins) = [6, 6] := by decide +kernel
theorem claimed_twins_ages : agesOf (.next (markReady (killNext agedClaimed))) = [6, 1] := by decide +kernel

/-- Refutes O49: its aging clause reads the priority of every node of the number that ages, the model that of the first such node for all of
them. In `agingTwins` the first has priority 5 and the second 0: the model ages both to 6, the statement to 6 and 1. -/
theorem not_nodesRun : ¬ Obligations.NodesRun := by
  intro h
  obtain ⟨-, -, -, -, haging, -, -⟩ := h agingTwins rfl
  have hexec : exec (.priorityAging 1) agingTwins = .next (markReady (killNext agedClaimed)) :=
    haging 1 (agingNode 5) 0 agingTwins_first rfl agingTwins_ready (by decide) agingTwins_step
  exact absurd (priorityAging_twins_ages.symm.trans ((congrArg agesOf hexec).trans claimed_twins_ages)) (by decide)

end Sys2Proof.Machine
end

section
/-! Scalar integer arithmetic, division and floating point (R124-R133), and the obligations on their results (O1, O2). -/

namespace Sys2Proof.Machine
open Sys2Proof

/-! ### A lone bundle that issues by writing one scalar result (R54, R59) -/

/-- The fields of a lone instruction meet no condition of R73. -/
theorem causes_of_lone {s : State} {i : Instr} (hl : lone i s = true) : causes (boundary s).level i = [] := by
  unfold lone at hl
  cases hs : slotOf i with
  | none => rw [hs] at hl; cases hl
  | some n =>
    simp only [hs, legalAlone, Bool.and_eq_true, List.isEmpty_iff] at hl
    obtain ⟨⟨⟨⟨-, ⟨⟨hc, -⟩, -⟩, -⟩, -⟩, -⟩, -⟩ := hl
    exact hc

/-- An instruction whose effect on the lone frame is one scalar result commits with it. -/
theorem IssuesTo.exec_wrS {s : State} {i : Instr} {n : Nat} {d : BitVec 7} {v : Word}
    (h : IssuesTo i n (loneFrame i n (reading s)) (wrS (loneFrame i n (reading s)) n d v)) (hl : lone i s = true) :
    exec i s = .next (retire s (afterBundle s n (latS n v) (regS s n d v) 0 false)) := by
  obtain ⟨hs, g, hx, hg⟩ := h
  rw [hx]
  exact runCore_wrS hs hl hg

/-- An instruction of slot S that writes a result and raises flags commits with both where none of the flags traps. -/
theorem ScalarIssues.exec_quiet {s : State} {i : Instr} {d : BitVec 7} {v : Word} {fl : Fl} {intDiv : Bool}
    (h : ScalarIssues s i d v fl intDiv) (hl : lone i s = true) (hq : quiet s 0 fl = true) :
    exec i s = .next (retire s (afterBundle s 0 (latS 0 v) (regS s 0 d v) fl intDiv)) := by
  obtain ⟨hs, g, hx, hg⟩ := h
  rw [hx]
  exact runCore_wrS_raise hs hl hq hg

/-- Settles O1: each of these instructions has as its only effect the result of `aluResult` (`issuesTo_of_aluResult`), and a lone
bundle with such an effect commits it. -/
theorem integerResults : Obligations.IntegerResults :=
  fun s i _ _ hl h => (issuesTo_of_aluResult (f := loneFrame i 0 (reading s)) h (causes_of_lone hl)).exec_wrS hl

/-! ### Division (R125) -/

/-- The signed quotient is that of the integers, cut to a word: -2^63 by -1 is the one that does not fit. -/
theorem sdiv_eq (a b : Word) : ofI (a.toInt.tdiv b.toInt) = a.sdiv b :=
  BitVec.eq_of_toInt_eq (by rw [ofI, BitVec.toInt_ofInt, BitVec.toInt_sdiv])

theorem srem_eq (a b : Word) : ofI (a.toInt.tmod b.toInt) = a.srem b := by
  rw [ofI, ← BitVec.toInt_srem, BitVec.ofInt_toInt]

/-- Over a divisor other than zero the division group writes its result and raises nothing. -/
theorem sDiv_of_ne_zero {x : RF} {f : Frame} {zero : Word → Word} {g : Word → Word → Word} {q : Word} (hb : rdS f 0 x.b ≠ 0)
    (hq : g (rdS f 0 x.a) (rdS f 0 x.b) = q) : sDiv x f zero g = wrS f 0 x.d q :=
  hq ▸ if_neg hb

/-- A division by other than zero writes its quotient or remainder and raises nothing. -/
theorem issuesTo_of_divResult {i : Instr} {f : Frame} {x : RF} {q z : Word} (h : divResult (rdS f 0) i = some (x, q, z))
    (hb : rdS f 0 x.b ≠ 0) : IssuesTo i 0 f (wrS f 0 x.d q) := by
  unfold divResult at h
  split at h <;> cases h
  case h_1 => exact ⟨rfl, _, fun _ => rfl, sDiv_of_ne_zero hb (sdiv_eq ..)⟩
  case h_2 => exact ⟨rfl, _, fun _ => rfl, sDiv_of_ne_zero hb BitVec.udiv_def.symm⟩
  case h_3 => exact ⟨rfl, _, fun _ => rfl, sDiv_of_ne_zero hb (srem_eq ..)⟩
  case h_4 => exact ⟨rfl, _, fun _ => rfl, sDiv_of_ne_zero hb BitVec.umod_def.symm⟩

/-- Settles O2: a division by other than zero only writes, one by zero and a floating-point instruction write and raise
(`ScalarIssues`); quiet flags let the bundle commit. -/
theorem divisionAndFloatResults : Obligations.DivisionAndFloatResults :=
  ⟨fun s i _ _ _ hl h =>
    ⟨fun hb => (issuesTo_of_divResult (f := loneFrame i 0 (reading s)) h hb).exec_wrS hl,
     fun hb hq => (scalarIssues_of_divResult h hb).exec_quiet hl hq⟩,
   fun _ _ _ _ _ hl h hq => (scalarIssues_of_fpResult h).exec_quiet hl hq⟩

end Sys2Proof.Machine
end

section
/-! CSRs and predicates (R134, R135, R166-R168), and the obligation on them (O4). -/

namespace Sys2Proof.Machine
open Sys2Proof

/-! ### CSRR and CSRW (R134, R135) -/

theorem exec_csrr {s : State} {x : RF} (hl : lone (.csrr x) s = true) : exec (.csrr x) s = .next (retire s
    (afterBundle s 0 (latS 0 (csrRead (boundary s) (csrNum x))) (regS s 0 x.d (csrRead (boundary s) (csrNum x))) 0 false)) :=
  runCore_wrS (g := issueCsrr x) rfl hl rfl

/-- The frame of a lone bundle that has only asked for a CSR to be written. -/
def csrAsked (i : Instr) (s : State) (n : Nat) (v : Word) : Frame := { loneFrame i 0 (reading s) with csrw := some (n, v) }

theorem fps_or_zero (c : Csrs) : { c with fps := c.fps ||| 0 } = c :=
  congrArg (fun fl => { c with fps := fl }) BitVec.or_zero

/-- The commit writes the CSR. Of CIR, number 2, it takes over that field alone, which is all that a write of CIR changes, and no
consumption of poison follows. -/
theorem bundleCore_csrAsked (i : Instr) (s : State) (n : Nat) (v : Word) :
    bundleCore (csrAsked i s n v) (boundary s) = { passed s 0 with csr := csrWrite (boundary s).csr n v } := by
  rw [show passed s 0 = bundleCore (loneFrame i 0 (reading s)) (boundary s) from (bundleCore_wrote (clean_loneFrame s i 0).wrote).symm,
    ← fps_or_zero (csrWrite ..)]
  match n with
  | 0 | 1 | 2 | m + 3 => rfl

theorem exec_csrw {s : State} {x : RF} (hl : lone (.csrw x) s = true) : exec (.csrw x) s = .next (retire s
    { passed s 0 with csr := csrWrite (boundary s).csr (csrNum x) (rdS (reading s) 0 x.a) }) := by
  have hc := clean_loneFrame s (.csrw x) 0
  have hg : issueCsrw x (loneFrame (.csrw x) 0 (reading s)) = csrAsked (.csrw x) s (csrNum x) (rdS (reading s) 0 x.a) := rfl
  have hquiet : flagTrap (loneFrame (.csrw x) 0 (reading s)) = none := flagTrap_wrote hc.wrote (by simp [quiet])
  refine (runSlot_lone (g := fun _ => issueCsrw x) rfl hl _ hg { hc.kept with } rfl rfl rfl
    (acquireHolds_of_late rfl rfl)).trans (congrArg Host.Outcome.next ?_)
  unfold finishBundle
  rw [slotFault_none rfl seq_ne_bswap, show flagTrap (csrAsked ..) = none from hquiet]
  exact congrArg (fun k => setCore (entered s) s.cur (bump 1 (goOn s.hdr k))) (bundleCore_csrAsked ..)

/-! ### PSET, PSETS and PCNT (R166-R168) -/

theorem exec_pset {s : State} {x : RF} (hl : lone (.pset x) s = true) : exec (.pset x) s = .next (retire s (afterBundle s 0 []
    (fun k => putP k (isBoosted s 0) (x.c.toNat % 8)
      (if x.f.toNat % 8 = 7 then 0xE000 else mkPred (x.f.toNat % 8) (min (rdS (reading s) 0 x.a).toNat 8191))) 0 false)) :=
  ((clean_loneFrame s (.pset x) 0).wrP _ _).run (g := fun _ => issuePset x) rfl hl (by simp [quiet]) rfl rfl

theorem exec_psets {s : State} {x : RF} (hl : lone (.psets x) s = true) :
    let n := min (rdS (reading s) 0 x.a).toNat ((x.c.toNat / 8 % 8 + 1) * 2048 / wpBits (x.f.toNat % 8))
    let rest := rdS (reading s) 0 x.a - BitVec.ofNat 64 n
    exec (.psets x) s = .next (retire s (afterBundle s 0 (latS 0 rest)
      (fun k => regS s 0 x.d rest (putP k (isBoosted s 0) (x.c.toNat % 8) (mkPred (x.f.toNat % 8) n))) 0 false)) := by
  intro n rest
  have hg : issuePsets x (loneFrame (.psets x) 0 (reading s)) =
    wrS (wrP (loneFrame (.psets x) 0 (reading s)) 0 (x.c.toNat % 8) (mkPred (x.f.toNat % 8) n)) 0 x.d rest := rfl
  have hc := ((clean_loneFrame s (.psets x) 0).wrP (x.c.toNat % 8) (mkPred (x.f.toNat % 8) n)).wrS x.d rest
  rw [← hg] at hc
  exact hc.run (g := fun _ => issuePsets x) rfl hl (by simp [quiet]) (by rw [hg, ctl_wrS]; rfl) (by rw [hg, late_wrS]; rfl)

theorem exec_pcnt {s : State} {x : RF} (hl : lone (.pcnt x) s = true) :
    let n := BitVec.ofNat 64 (active (rdP (reading s) 0 (x.c.toNat % 8)) (wpBits (x.f.toNat % 8)) (x.c.toNat / 8 % 8 + 1))
    exec (.pcnt x) s = .next (retire s (afterBundle s 0 (latS 0 n) (regS s 0 x.d n) 0 false)) :=
  runCore_wrS (g := issuePcnt x) rfl hl rfl

/-! ### The obligation (O4) -/

/-- Settles O4: CSRR and PCNT write one scalar result, PSETS a predicate as well, PSET only that; CSRW asks for its write, which the
commit makes (`bundleCore_csrAsked`). -/
theorem csrAndPredicates : Obligations.CsrAndPredicates :=
  ⟨fun _ _ => ⟨exec_csrr, exec_csrw⟩, fun _ _ => ⟨exec_pset, exec_psets, exec_pcnt⟩⟩

end Sys2Proof.Machine
end

section
/-! Elements of register groups (R142, R143): where they stand, and that written ones read back (O12). -/

namespace Sys2Proof.Machine
open Sys2Proof

/-! ### Numbers made of elements of one width -/

theorem length_unpack (w n v : Nat) : (unpack w n v).length = n := by
  induction n generalizing v with
  | zero => rfl
  | succ n ih => exact congrArg (· + 1) (ih _)

/-- Element `i` of a number is its bits `[w i + w - 1 : w i]`. -/
theorem nth_unpack (w v : Nat) {n i : Nat} (h : i < n) : nth 0 (unpack w n v) i = v / 2 ^ (w * i) % 2 ^ w := by
  induction n generalizing v i with
  | zero => omega
  | succ n ih =>
    cases i with
    | zero => simp [nth, unpack]
    | succ i =>
      calc nth 0 (unpack w (n + 1) v) (i + 1)
        _ = nth 0 (unpack w n (v / 2 ^ w)) i := rfl
        _ = v / 2 ^ w / 2 ^ (w * i) % 2 ^ w := ih _ (by omega)
        _ = v / 2 ^ (w * (i + 1)) % 2 ^ w := by rw [Nat.div_div_eq_div_mul, ← Nat.pow_add, Nat.mul_succ, Nat.add_comm w]

theorem nth_unpack_lt (w n v i : Nat) : nth 0 (unpack w n v) i < 2 ^ w := by
  by_cases h : i < n
  · rw [nth_unpack w v h]
    exact Nat.mod_lt _ (Nat.two_pow_pos w)
  · rw [nth, List.getElem?_eq_none (by rw [length_unpack]; omega)]
    exact Nat.two_pow_pos w

/-- Packing follows the digits of a number in base `2 ^ w`. -/
theorem pack_eq_ofDigits (w : Nat) (es : List Nat) : pack w es = Nat.ofDigits (2 ^ w) es := by
  induction es with
  | nil => rfl
  | cons e t ih => rw [pack, ih, Nat.ofDigits_cons]

theorem pack_lt {w : Nat} {es : List Nat} (hw : 0 < w) (h : ∀ e ∈ es, e < 2 ^ w) : pack w es < 2 ^ (w * es.length) := by
  rw [pack_eq_ofDigits, Nat.pow_mul]
  exact Nat.ofDigits_lt_base_pow_length (Nat.one_lt_two_pow hw.ne') h

theorem unpack_pack {w : Nat} {es : List Nat} (h : ∀ e ∈ es, e < 2 ^ w) : unpack w es.length (pack w es) = es := by
  induction es with
  | nil => rfl
  | cons e t ih =>
    obtain ⟨he, ht⟩ := List.forall_mem_cons.1 h
    rw [List.length_cons, pack, unpack, Nat.add_mul_mod_self_left, Nat.mod_eq_of_lt he,
      Nat.add_mul_div_left _ _ (Nat.two_pow_pos w), Nat.div_eq_of_lt he, Nat.zero_add, ih ht]

theorem pack_unpack (w n v : Nat) : pack w (unpack w n v) = v % 2 ^ (w * n) := by
  induction n generalizing v with
  | zero => simp [unpack, pack, Nat.mod_one]
  | succ n ih => rw [unpack, pack, ih, Nat.mul_succ, Nat.add_comm (w * n), Nat.pow_add, Nat.mod_mul]

/-! ### Groups of registers -/

/-- The number that a group makes, once it is cut into the registers of a group again. -/
theorem joinV_splitV (G n : Nat) : joinV (splitV G n) = n % 2 ^ (2048 * G) := by
  have h : (splitV G n).map BitVec.toNat = unpack 2048 G n := by
    induction G generalizing n with
    | zero => rfl
    | succ G ih =>
      exact congrArg₂ List.cons ((BitVec.toNat_ofNat ..).trans (Nat.mod_mod ..)) (ih _)
  rw [joinV, h, pack_unpack]

/-- The bits of a field of a number, read from the longer field around it. -/
theorem field_of_field {n W b w : Nat} (h : b + w ≤ W) : n % 2 ^ W / 2 ^ b % 2 ^ w = n / 2 ^ b % 2 ^ w := by
  rw [← Nat.mod_mul_right_div_self, ← Nat.mod_mul_right_div_self, ← Nat.pow_add, Nat.mod_mod_of_dvd _ (Nat.pow_dvd_pow 2 h)]

/-- Bits `[b + w - 1 : b]` of a register of a group are bits of the group. -/
theorem joinV_field {vs : List Vec} {q b w : Nat} (hq : q < vs.length) (h : b + w ≤ 2048) :
    joinV vs / 2 ^ (2048 * q + b) % 2 ^ w = vs[q].toNat / 2 ^ b % 2 ^ w := by
  have hlt : ∀ e ∈ vs.map BitVec.toNat, e < 2 ^ 2048 := by
    intro e he
    obtain ⟨v, -, rfl⟩ := List.mem_map.1 he
    exact v.isLt
  have hreg : joinV vs / 2 ^ (2048 * q) % 2 ^ 2048 = vs[q].toNat :=
    calc joinV vs / 2 ^ (2048 * q) % 2 ^ 2048
      _ = nth 0 (unpack 2048 vs.length (joinV vs)) q := (nth_unpack _ _ hq).symm
      _ = nth 0 (vs.map BitVec.toNat) q := by rw [joinV, ← List.length_map (f := BitVec.toNat), unpack_pack hlt]
      _ = vs[q].toNat := by rw [nth, List.getElem?_map, List.getElem?_eq_getElem hq]; rfl
  rw [← hreg, field_of_field h, Nat.div_div_eq_div_mul, Nat.pow_add]

/-- Element `i` of a group stands in register `i / (2048 / w)`, at bits of its place there (R142). -/
theorem nth_elems {w G i : Nat} {vs : List Vec} (hw : w ∣ 2048) (hi : i < vs.length * (2048 / w)) (hG : G = vs.length) :
    nth 0 (elems w G vs) i = (nth 0 vs (i / (2048 / w))).toNat / 2 ^ (w * (i % (2048 / w))) % 2 ^ w := by
  subst hG
  have hq : i / (2048 / w) < vs.length := Nat.div_lt_of_lt_mul (by rwa [Nat.mul_comm])
  have hE : w * (2048 / w) = 2048 := Nat.mul_div_cancel' hw
  have hj : i % (2048 / w) < 2048 / w := Nat.mod_lt _ (Nat.div_pos (Nat.le_of_dvd (by decide) hw) (Nat.pos_of_dvd_of_pos hw (by decide)))
  have hpos : w * i = 2048 * (i / (2048 / w)) + w * (i % (2048 / w)) :=
    calc w * i = w * (2048 / w * (i / (2048 / w)) + i % (2048 / w)) := by rw [Nat.div_add_mod]
      _ = _ := by rw [Nat.mul_add, ← Nat.mul_assoc, hE]
  have hfit : w * (i % (2048 / w)) + w ≤ 2048 :=
    calc w * (i % (2048 / w)) + w = w * (i % (2048 / w) + 1) := rfl
      _ ≤ w * (2048 / w) := Nat.mul_le_mul_left w hj
      _ = 2048 := hE
  rw [elems, nth_unpack _ _ (by rwa [Nat.mul_div_assoc _ hw]), hpos, joinV_field hq hfit, nth, List.getElem?_eq_getElem hq]
  rfl

/-- The elements of a group that was packed from as many elements as it holds are those (R142). -/
theorem elems_splitV_pack {w G : Nat} {es : List Nat} (hw : w ∣ 2048) (hlen : es.length = G * 2048 / w)
    (hlt : ∀ e ∈ es, e < 2 ^ w) : elems w G (splitV G (pack w es)) = es := by
  have hwpos : 0 < w := Nat.pos_of_dvd_of_pos hw (by decide)
  have hbits : w * es.length = 2048 * G := by
    rw [hlen, Nat.mul_div_cancel' (Dvd.dvd.mul_left hw G), Nat.mul_comm]
  have hfit : pack w es < 2 ^ (2048 * G) := hbits ▸ pack_lt hwpos hlt
  rw [elems, joinV_splitV, Nat.mod_eq_of_lt hfit, ← hlen, unpack_pack hlt]

/-! ### Merging new elements over old ones (R143) -/

/-- Each position holds its new element where one is given, the old one elsewhere. -/
theorem getElem?_mergeE (es : List (Option Nat)) (old : List Nat) (i : Nat) :
    (mergeE es old)[i]? = old[i]?.map es[i]?.join.getD := by
  induction es, old using mergeE.induct generalizing i with
  | case1 o os e es ih =>
    cases i with
    | zero => rfl
    | succ i => exact ih i
  | case2 es => cases h : es[i]? <;> simp [mergeE, h]
  | case3 os h => cases os <;> simp [mergeE]

theorem length_mergeE (es : List (Option Nat)) (old : List Nat) : (mergeE es old).length = old.length := by
  induction es, old using mergeE.induct with
  | case1 o os e es ih => exact congrArg (· + 1) ih
  | case2 es => rw [mergeE]
  | case3 os h => cases os <;> rfl

/-- A property of the old elements and of the new ones holds of the merged ones. -/
theorem forall_mem_mergeE {P : Nat → Prop} {es : List (Option Nat)} {old : List Nat} (hold : ∀ e ∈ old, P e)
    (hnew : ∀ e ∈ es, ∀ v, e = some v → P v) : ∀ e ∈ mergeE es old, P e := by
  intro e he
  obtain ⟨i, hi⟩ := List.mem_iff_getElem?.1 he
  rw [getElem?_mergeE] at hi
  obtain ⟨o, ho, rfl⟩ := Option.map_eq_some_iff.1 hi
  cases hn : es[i]?.join with
  | none => exact hold o (List.mem_of_getElem? ho)
  | some v => exact hnew _ (List.mem_of_getElem? (Option.join_eq_some_iff.1 hn)) v rfl

/-! ### The obligation (O12) -/

theorem dvd_of_width {w : Nat} (h : w ∈ [4, 8, 16, 32, 64]) : w ∣ 2048 := by
  revert w
  decide

/-- Settles O12: the place of an element in its group is arithmetic on the number that the group makes (`nth_elems`), and a group packed
from elements that fit unpacks to them (`elems_splitV_pack`). -/
theorem writtenElementsReadBack : Obligations.WrittenElementsReadBack := by
  refine ⟨fun f k w G a hw _ hG ha => ?_, fun w G es old hw _ _ hlen hle hold hnew => ?_⟩
  · have hw := dvd_of_width hw
    have hregs : rdV f k a G = (List.range G).map (fun i => rdVp f k (rotV f.pre.rb (a.toNat + i))) := if_pos (by omega)
    refine ⟨(length_unpack ..).trans (Nat.mul_div_assoc G hw), fun i hi => ?_⟩
    have hq : i / (2048 / w) < G := Nat.div_lt_of_lt_mul (by rwa [Nat.mul_comm])
    rw [nth_elems hw (by simpa [hregs] using hi) (by simp [hregs]), hregs, nth, List.getElem?_map, List.getElem?_range hq]
    rfl
  · refine ⟨elems_splitV_pack (dvd_of_width hw) ((length_mergeE ..).trans hlen) (forall_mem_mergeE hold hnew), fun i hi v hv => ?_,
      fun i hi => ?_⟩
    · rw [getElem?_mergeE, hv, List.getElem?_eq_getElem (by omega)]
      rfl
    · have hnone : es[i]?.join = none := by
        rcases hi with hi | hi
        · rw [List.getElem?_eq_none hi]; rfl
        · rw [hi]; rfl
      rw [getElem?_mergeE, hnone]
      cases old[i]? <;> rfl

end Sys2Proof.Machine
end

section
/-! The results of slot V (R143-R183), and the obligations on them (O10, O11). -/

namespace Sys2Proof.Machine
open Sys2Proof

/-! ### Instructions that write one vector group (R143, R147) -/

/-- An instruction of slot V that writes a group and raises flags commits with both where none of the flags traps. -/
theorem VecIssues.exec_quiet {s : State} {i : Instr} {o : VecOut} (h : VecIssues s i o) (hl : lone i s = true)
    (hq : quiet s 1 o.fl = true) : exec i s = .next (vecRetired s o) := by
  obtain ⟨hs, g, hx, hg⟩ := h
  rw [hx]
  exact runCore_wrE hs hl hq hg

/-- Settles O10: each of these instructions writes its elements and raises its flags (`VecIssues`), and a lone bundle that does so
commits where no flag is enabled. -/
theorem vectorResults : Obligations.VectorResults := by
  rintro s i o hl (h | h) hq
  · exact (vecIssues_of_vecArith h).exec_quiet hl hq
  · exact (vecIssues_of_vecConvert h).exec_quiet hl hq

/-! ### VEXTR (R173) -/

/-- Two spellings of the sign extension of an element of width `w`. -/
theorem sextBits_eq_sextN {w e : Nat} (h : e < 2 ^ w) : issueVextr.sextBits w e = sextN w e := by
  have hint : (e : Int) % 2 ^ w = e := Int.emod_eq_of_lt (by omega) (by exact_mod_cast h)
  unfold issueVextr.sextBits sextN
  rw [Nat.mod_eq_of_lt h, hint]

theorem exec_vextr {s : State} {x : VF} (hl : lone (.vextr x) s = true) :
    let k := (rdS (reading s) 1 x.b).toNat
    let e := nth 0 (opA (reading s) x) k
    let v : Word := if k < vE x then (if (ty? x.ty).isI then sextN (vw x) e else BitVec.ofNat 64 e) else 0
    exec (.vextr x) s = .next (retire s (afterBundle s 1 (latS 1 v) (regS s 1 x.d v) 0 false)) := by
  intro k e v
  have hext : issueVextr.sextBits (vw x) e = sextN (vw x) e := sextBits_eq_sextN (nth_unpack_lt ..)
  refine runCore_wrS (g := issueVextr x) rfl hl ?_
  by_cases hk : k < vE x
  · refine (if_pos hk).trans (congrArg (wrS _ 1 x.d) ?_)
    rw [show v = _ from if_pos hk, ← hext]
    rfl
  · exact (if_neg hk).trans (congrArg (wrS _ 1 x.d) (if_neg hk).symm)

/-! ### VPART (R171) -/

@[simp] theorem ctl_wrE (f : Frame) (n : Nat) (d : BitVec 7) (w G : Nat) (es : List (Option Nat)) : (wrE f n d w G es).ctl = f.ctl :=
  ctl_wrV ..
@[simp] theorem late_wrE (f : Frame) (n : Nat) (d : BitVec 7) (w G : Nat) (es : List (Option Nat)) : (wrE f n d w G es).late = f.late :=
  late_wrV ..

/-- Elements written by slot `n` to a group. -/
theorem Clean.wrE {s : State} {i : Instr} {n : Nat} {lat : SMap Vec} {w : Core → Core} {f : Frame} (h : Clean s i n lat w 0 false f)
    (o : VecOut) : Clean s i n (mput 0 lat n ((newGroup s n o).headD 0)) (fun k => regV s n o.d (newGroup s n o) (w k)) 0 false
      (Machine.wrE f n o.d o.w o.G o.es) := by
  rw [wrE_eq h.wrote.pre h.wrote.hdr]
  exact h.wrV ..

/-- The last write of a key stands. -/
theorem mput_mput_nil {α : Type} [DecidableEq α] (z : α) (n : Nat) (v w : α) : mput z (mput z [] n v) n w = mput z [] n w := by
  by_cases hv : v = z <;> simp [mput, mins, mdel, hv]

/-- The indices of the active elements whose bit 0 is `bit`, and the group `d` written with them. -/
def partIndices (s : State) (x : VF) (bit : Nat) : List Nat :=
  ((((opA (reading s) x).take (vcount (reading s) x)).zipIdx).filter (fun e => e.1 % 2 == bit)).map (fun e => e.2 % 2 ^ vw x)
def partOut (s : State) (x : VF) (d : BitVec 7) (bit : Nat) : VecOut := ⟨d, vw x, grp x.gs, (partIndices s x bit).map some, 0⟩

/-- The two groups that VPART writes: `hi` only where the destination is not suppressed, and the latch is left with `lo`. -/
def writePart (f : Frame) (lo hi : VecOut) : Frame :=
  wrE (if lo.d.getLsbD 6 then f else wrE f 1 hi.d hi.w hi.G hi.es) 1 lo.d lo.w lo.G lo.es

theorem ctl_writePart (f : Frame) (lo hi : VecOut) : (writePart f lo hi).ctl = f.ctl := by
  unfold writePart
  split <;> simp
theorem late_writePart (f : Frame) (lo hi : VecOut) : (writePart f lo hi).late = f.late := by
  unfold writePart
  split <;> simp

theorem suppressed_iff (d : BitVec 7) : d.getLsbD 6 = true ↔ ¬d.toNat < 64 := by
  have := d.isLt
  rw [BitVec.getLsbD, Nat.testBit_eq_decide_div_mod_eq, decide_eq_true_iff]
  omega

theorem Clean.writePart {s : State} {i : Instr} {f : Frame} (h : Clean s i 1 [] id 0 false f) (lo hi : VecOut) :
    Clean s i 1 (mput 0 [] 1 ((newGroup s 1 lo).headD 0))
      (fun k => regV s 1 lo.d (newGroup s 1 lo) (if lo.d.toNat < 64 then regV s 1 hi.d (newGroup s 1 hi) k else k)) 0 false
      (Machine.writePart f lo hi) := by
  unfold Machine.writePart
  by_cases hd : lo.d.toNat < 64
  · rw [if_neg (fun hb => (suppressed_iff _).1 hb hd)]
    simp only [if_pos hd]
    have hc := (h.wrE hi).wrE lo
    rwa [mput_mput_nil] at hc
  · rw [if_pos ((suppressed_iff _).2 hd)]
    simp only [if_neg hd]
    exact h.wrE lo

theorem exec_vpart {s : State} {x : VF} (hl : lone (.vpart x) s = true) :
    let lo := partOut s x x.d 1
    let hi := partOut s x (x.d + BitVec.ofNat 7 (grp x.gs)) 0
    let T := x.c.toNat % 8
    let ones := mkPred (widthCode (vw x)) (partIndices s x 1).length
    let zeros := mkPred (widthCode (vw x)) (partIndices s x 0).length
    exec (.vpart x) s = .next (retire s (afterBundle s 1 (mput 0 [] 1 ((newGroup s 1 lo).headD 0))
      (fun k => putP (putP (regV s 1 lo.d (newGroup s 1 lo) (if lo.d.toNat < 64 then regV s 1 hi.d (newGroup s 1 hi) k else k))
        (isBoosted s 1) T ones) (isBoosted s 1) (T + 1) zeros) 0 false)) := by
  intro lo hi T ones zeros
  have hg : issueVpart x (loneFrame (.vpart x) 1 (reading s)) =
      wrP (wrP (writePart (loneFrame (.vpart x) 1 (reading s)) lo hi) 1 T ones) 1 (T + 1) zeros := rfl
  have hc := (((clean_loneFrame s (.vpart x) 1).writePart lo hi).wrP T ones).wrP (T + 1) zeros
  rw [← hg] at hc
  refine hc.run (g := fun _ => issueVpart x) rfl hl (by simp [quiet]) ?_ ?_
  · rw [hg]
    exact ctl_writePart ..
  · rw [hg]
    exact late_writePart ..

/-! ### The obligation (O11) -/

/-- Settles O11: a reduction, a scan or a rearrangement writes one group (`VecIssues`), VEXTR one scalar, and VPART two groups, of which
the latch keeps the first (`Clean.writePart`), and two predicates. -/
theorem vectorShapes : Obligations.VectorShapes := by
  refine fun s i o hl => ⟨fun h hq => (vecIssues_of_vecShape h).exec_quiet hl hq, ?_, ?_⟩
  · rintro x rfl
    exact exec_vextr hl
  · rintro x rfl
    exact exec_vpart hl

end Sys2Proof.Machine
end

section
/-! Loads and stores of slot L (R192-R199, R243, R244), and the obligations on them (O16, O17, O19). -/

namespace Sys2Proof.Machine
open Sys2Proof

/-! ### What an access of slot L does to its frame -/

/-- Poison that a read of the bundle meets is counted, or waits in the shadow. -/
theorem Clean.consumeAt {s : State} {i : Instr} {n : Nat} {lat : SMap Vec} {w : Core → Core} {f : Frame} (h : Clean s i n lat w 0 false f)
    (d : LateDst) (b : Bool) : Clean s i n lat (fun k => Machine.consumeAt d b (w k)) 0 false
      (if d.boost then { f with now := Machine.consumeAt d b f.now } else eat f b) := by
  have hlat (k : Core) : Machine.consumeAt d b { k with lat := lat } = { Machine.consumeAt d b k with lat := lat } := by
    unfold Machine.consumeAt
    split_ifs <;> rfl
  have hput := h.put lat (fun k => Machine.consumeAt d b (w k)) (Machine.consumeAt d b) (by rw [h.wrote.now, hlat])
  cases hd : d.boost with
  | true => exact hput
  | false =>
    cases b with
    | false => exact hput
    | true =>
      have hnow : Machine.consumeAt d true f.now = consume f.now := by simp [Machine.consumeAt, hd]
      rw [hnow] at hput
      exact ⟨{ hput.wrote with }, { hput.kept with }, hput.stall, hput.walk⟩

/-- An entry of the memory list whose result is owed. -/
theorem Clean.pushLate {s : State} {i : Instr} {n : Nat} {w : Core → Core} {f : Frame} (h : Clean s i n [] w 0 false f) (op : MemOp)
    (d : LateDst) : Clean s i n [] (fun k => requested s op d (w k)) 0 false (Machine.pushLate f op d) := by
  refine h.put [] _ (fun _ => (Machine.pushLate f op d).now) ?_
  unfold Machine.pushLate owe pushMem requested owed listed
  rw [h.wrote.now, h.wrote.hdr, h.wrote.pre]

/-- An entry of the memory list. -/
theorem Clean.pushMem {s : State} {i : Instr} {n : Nat} {lat : SMap Vec} {w : Core → Core} {f : Frame} (h : Clean s i n lat w 0 false f)
    (op : MemOp) : Clean s i n lat (fun k => listed s op (w k)) 0 false (Machine.pushMem f op) := by
  refine h.put lat _ (fun _ => (Machine.pushMem f op).now) ?_
  unfold Machine.pushMem listed
  rw [h.wrote.now, h.wrote.hdr, h.wrote.pre]

/-- A lone bundle whose frame is clean and that only goes on commits. -/
theorem Clean.retires {s : State} {i : Instr} {n : Nat} {lat : SMap Vec} {w : Core → Core} {f : Frame} {g : State → Frame → Frame}
    (h : Clean s i n lat w 0 false f) (hs : slotOf i = some n) (hl : lone i s = true) (hc : f.ctl = .seq) (hla : f.late = [])
    (hg : g (entered s) (loneFrame i n (reading s)) = f) : runSlot i g s = .next (retire s (afterBundle s n lat w 0 false)) := by
  subst hg
  exact h.run hs hl (by simp [quiet]) hc hla

@[simp] theorem ctl_eat (f : Frame) (b : Bool) : (eat f b).ctl = f.ctl := by unfold eat; split <;> rfl
@[simp] theorem late_eat (f : Frame) (b : Bool) : (eat f b).late = f.late := by unfold eat; split <;> rfl

@[simp] theorem ctl_noteRead (f : Frame) (m : Nat) (r : List Byte × Bool) : (noteRead m r f).ctl = f.ctl := rfl
@[simp] theorem late_noteRead (f : Frame) (m : Nat) (r : List Byte × Bool) : (noteRead m r f).late = f.late := rfl

theorem Clean.noteRead {s : State} {i : Instr} {n : Nat} {lat : SMap Vec} {w : Core → Core} {f : Frame} (h : Clean s i n lat w 0 false f)
    (m : Nat) (r : List Byte × Bool) : Clean s i n lat w 0 false (Machine.noteRead m r f) :=
  ⟨{ h.wrote with }, { h.kept with }, h.stall, h.walk⟩

/-! ### Loads (R193, R195, R196) -/

/-- The frame of a load that meets poison (R35, R113). -/
def poisonMet (f : Frame) (d : LateDst) (b : Bool) : Frame := if d.boost then { f with now := consumeAt d b f.now } else eat f b

@[simp] theorem ctl_poisonMet (f : Frame) (d : LateDst) (b : Bool) : (poisonMet f d b).ctl = f.ctl := by
  unfold poisonMet; split; exacts [rfl, ctl_eat ..]
@[simp] theorem late_poisonMet (f : Frame) (d : LateDst) (b : Bool) : (poisonMet f d b).late = f.late := by
  unfold poisonMet; split; exacts [rfl, late_eat ..]

theorem clean_poisonMet (s : State) (i : Instr) (n : Nat) (d : LateDst) (b : Bool) :
    Clean s i n [] (Machine.consumeAt d b) 0 false (poisonMet (loneFrame i n (reading s)) d b) :=
  (clean_loneFrame s i n).consumeAt d b

section
variable {s : State} {i : Instr} {x : LF} {d : LateDst} {align : Nat} {els : List (Nat × Nat)} {r : Saved} {ps : List Piece}
  {g : State → Frame → Frame}

/-- A load whose address is good reads at its bundle, or asks memory. -/
theorem loadAt_eq (hl : lone i s = true) (hm : mayLoad s = true) (hr : reached s .rd align els = some ps) :
    loadAt x (entered s) (loneFrame i 3 (reading s)) d align els r =
      if ownNow s ps then noteRead 3 (found s ps) (loadNow (loneFrame i 3 (reading s)) 3 x d (found s ps))
      else pushLate (loneFrame i 3 (reading s)) (.load ps d [] false) d := by
  unfold loadAt
  rw [heldRead_none (lone_canIssue hl)]
  exact (gateLoad_open hm).trans (withPieces_ok hr)

variable (hs : slotOf i = some 3) (hl : lone i s = true) (hm : mayLoad s = true) (hr : reached s .rd align els = some ps)
  (hg : g (entered s) (loneFrame i 3 (reading s)) = loadAt x (entered s) (loneFrame i 3 (reading s)) d align els r)
include hs hl hm hr hg

/-- A load that memory answers owns its destination. -/
theorem runSlot_load_later (hn : ownNow s ps = false) :
    runSlot i g s = .next (retire s (afterBundle s 3 [] (requested s (.load ps d [] false) d) 0 false)) := by
  rw [loadAt_eq hl hm hr, hn] at hg
  exact ((clean_loneFrame s i 3).pushLate (.load ps d [] false) d).retires hs hl rfl rfl hg

/-- A scalar load of the core's own memories writes its value at its bundle. -/
theorem runSlot_load_scalar (hn : ownNow s ps = true) (hd : d.file = .s) : runSlot i g s = .next (
    let v := extend d.sext d.w (leNat (found s ps).1)
    retire s (afterBundle s 3 (latS 3 v) (fun k => regS s 3 x.d v (consumeAt d (found s ps).2 k)) 0 false)) := by
  have hx : loadNow (loneFrame i 3 (reading s)) 3 x d (found s ps) =
      wrS (poisonMet (loneFrame i 3 (reading s)) d (found s ps).2) 3 x.d (extend d.sext d.w (leNat (found s ps).1)) := by
    unfold loadNow
    rw [hd]
    rfl
  rw [loadAt_eq hl hm hr, hn, if_pos rfl, hx] at hg
  refine (((clean_poisonMet s i 3 d (found s ps).2).wrS x.d _).noteRead 3 (found s ps)).retires hs hl ?_ ?_ hg
  · rw [ctl_noteRead, ctl_wrS, ctl_poisonMet]; rfl
  · rw [late_noteRead, late_wrS, late_poisonMet]; rfl

/-- A vector load of the core's own memories writes its group at its bundle. -/
theorem runSlot_load_vector (hn : ownNow s ps = true) (hd : d.file = .v) : runSlot i g s = .next (
    let vs := newGroup s 3 ⟨x.d, d.w, grp x.gs, firstN d.cnt (bytesEl d.w d.cnt (found s ps).1), 0⟩
    retire s (afterBundle s 3 (mput 0 [] 3 (vs.headD 0)) (fun k => regV s 3 x.d vs (consumeAt d (found s ps).2 k)) 0 false)) := by
  have hp := clean_poisonMet s i 3 d (found s ps).2
  have hx : loadNow (loneFrame i 3 (reading s)) 3 x d (found s ps) = wrV (poisonMet (loneFrame i 3 (reading s)) d (found s ps).2) 3 x.d
      (newGroup s 3 ⟨x.d, d.w, grp x.gs, firstN d.cnt (bytesEl d.w d.cnt (found s ps).1), 0⟩) := by
    refine Eq.trans ?_ (wrE_eq hp.wrote.pre hp.wrote.hdr 3 ⟨x.d, d.w, grp x.gs, firstN d.cnt (bytesEl d.w d.cnt (found s ps).1), 0⟩)
    unfold loadNow
    rw [hd]
    rfl
  rw [loadAt_eq hl hm hr, hn, if_pos rfl, hx] at hg
  refine ((hp.wrV x.d _).noteRead 3 (found s ps)).retires hs hl ?_ ?_ hg
  · rw [ctl_noteRead, ctl_wrV, ctl_poisonMet]; rfl
  · rw [late_noteRead, late_wrV, late_poisonMet]; rfl

end

theorem exec_ld {s : State} {x : LF} {ps : List Piece} (hm : mayLoad s = true) (hl : lone (.ld x) s = true)
    (hr : reached s .rd (lw x / 8) [(va48 (lsEa (reading s) x), lw x / 8)] = some ps) : exec (.ld x) s = .next (loadedS s x ps) := by
  have hg : issueLd x (entered s) (loneFrame (.ld x) 3 (reading s)) = loadAt x (entered s) (loneFrame (.ld x) 3 (reading s))
      (sDst (reading s) 3 x.d (ty? x.ty)) (lw x / 8) [(va48 (lsEa (reading s) x), lw x / 8)]
      ⟨encLF 1 x, rdS (reading s) 3 x.a, if x.ix then rdS (reading s) 3 x.b else 0, 0, []⟩ := rfl
  change runSlot (.ld x) (issueLd x) s = _
  unfold loadedS
  dsimp only
  split_ifs with hn
  · exact runSlot_load_scalar (d := sDst (reading s) 3 x.d (ty? x.ty)) rfl hl hm hr hg hn rfl
  · exact runSlot_load_later rfl hl hm hr hg (eq_false_of_ne_true hn)

/-- VLD, VLDS and VGLD differ in their elements only. -/
theorem runSlot_vector_load {s : State} {i : Instr} {x : LF} {align : Nat} {els : List (Nat × Nat)} {r : Saved} {ps : List Piece}
    {g : State → Frame → Frame} (hs : slotOf i = some 3) (hl : lone i s = true) (hm : mayLoad s = true)
    (hr : reached s .rd align els = some ps)
    (hg : g (entered s) (loneFrame i 3 (reading s)) =
      loadAt x (entered s) (loneFrame i 3 (reading s)) (vDst (reading s) 3 x) align els r) :
    runSlot i g s = .next (loadedV s x ps) := by
  unfold loadedV
  dsimp only
  split_ifs with hn
  · exact runSlot_load_vector (d := vDst (reading s) 3 x) hs hl hm hr hg hn rfl
  · exact runSlot_load_later hs hl hm hr hg (eq_false_of_ne_true hn)

/-- Settles O16: a load reads at its bundle, or its entry of the memory list owns its destination. -/
theorem loads : Obligations.Loads :=
  fun _ x _ hm => ⟨exec_ld hm, fun hl hr => runSlot_vector_load (g := issueVld x) rfl hl hm hr rfl,
    fun hl hr => runSlot_vector_load (g := issueVlds x) rfl hl hm hr rfl,
    fun hl hr => runSlot_vector_load (g := issueVgld x) rfl hl hm hr rfl⟩

/-! ### Arrival loads (R197, R198) -/

section
variable {s : State} {i : Instr} {ps : List Piece}

/-- A bundle that does nothing but go on. -/
theorem runSlot_nothing {n : Nat} {g : State → Frame → Frame} (hs : slotOf i = some n) (hl : lone i s = true)
    (hg : g (entered s) (loneFrame i n (reading s)) = loneFrame i n (reading s)) : runSlot i g s = .next (retire s (passed s n)) :=
  (clean_loneFrame s i n).retires hs hl rfl rfl hg

/-- A bundle that does nothing but expose a result. -/
theorem runSlot_expose {n off : Nat} {kind : ExpKind} {d : LateDst} {g : State → Frame → Frame} (hs : slotOf i = some n)
    (hl : lone i s = true)
    (hg : g (entered s) (loneFrame i n (reading s)) = expose (entered s) (loneFrame i n (reading s)) kind d off ps) :
    runSlot i g s = .next (retire s (afterBundle s n [] (exposedBy s kind d off ps) 0 false)) := by
  obtain ⟨rd, hx⟩ := expose_loneFrame (i := i) (n := n) (off := off) (kind := kind) (d := d) (lone_canIssue hl) ps
  refine wrote_run (exposedBy s kind d off ps) [] [] rd (hg.trans (hx.trans ?_)) hs hl (acquireHolds_of_late rfl rfl)
  rw [← exposedBy_lat s kind d off ps]

theorem runSlot_arriveAt {x : LF} {d : LateDst} {off G align : Nat} {els : List (Nat × Nat)} {g : State → Frame → Frame}
    (hs : slotOf i = some 3) (hl : lone i s = true) (hm : mayLoad s = true) (hr : reached s .rd align els = some ps)
    (hg : g (entered s) (loneFrame i 3 (reading s)) =
      arriveAt (entered s) (loneFrame i 3 (reading s)) d (decide (64 ≤ x.d.toNat)) off G align els) :
    runSlot i g s = .next (
      if 64 ≤ x.d.toNat then retire s (passed s 3)
      else if 16 < landingUse (boundary s) + G then trapped s 3 0x12 0
      else retire s (afterBundle s 3 [] (exposedBy s .ldr d off ps) 0 false)) := by
  have hx : g (entered s) (loneFrame i 3 (reading s)) = if 64 ≤ x.d.toNat then loneFrame i 3 (reading s)
      else if 16 < landingUse (boundary s) + G then faultAt (loneFrame i 3 (reading s)) 3 0x12 0
      else expose (entered s) (loneFrame i 3 (reading s)) .ldr d off ps := by
    refine hg.trans ?_
    unfold arriveAt
    rw [heldRead_none (lone_canIssue hl)]
    refine ((gateLoad_open hm).trans (withPieces_ok hr)).trans ?_
    simp only [decide_eq_true_eq]
    rfl
  split_ifs at hx ⊢
  · exact runSlot_nothing hs hl hx
  · exact fault_run hx hs hl
  · exact runSlot_expose hs hl hx

end

/-- Settles O17: LDR and VLDR differ in their elements and registers only. -/
theorem arrivalLoads : Obligations.ArrivalLoads :=
  fun s x _ hm => ⟨fun hl hr => runSlot_arriveAt (g := issueLdr x) (d := sDst (reading s) 3 x.d (ty? x.ty)) rfl hl hm hr rfl,
    fun hl hr => runSlot_arriveAt (g := issueVldr x) (d := vDst (reading s) 3 x) rfl hl hm hr rfl⟩

/-! ### Stores (R193-R195, R243, R244) -/

theorem foldl_pushMem_clean {s : State} {i : Instr} {n : Nat} {lat : SMap Vec} {α : Type} (op : α → MemOp) (l : List α) :
    ∀ {w : Core → Core} {f : Frame}, Clean s i n lat w 0 false f →
      Clean s i n lat (fun k => l.foldl (fun k e => listed s (op e) k) (w k)) 0 false (l.foldl (fun f e => pushMem f (op e)) f) := by
  induction l with
  | nil => exact fun h => h
  | cons e t ih => exact fun h => ih (h.pushMem (op e))

theorem foldl_pushMem_goes {α : Type} (op : α → MemOp) (l : List α) (f : Frame) :
    (l.foldl (fun f e => pushMem f (op e)) f).ctl = f.ctl ∧ (l.foldl (fun f e => pushMem f (op e)) f).late = f.late := by
  induction l generalizing f with
  | nil => exact ⟨rfl, rfl⟩
  | cons e t ih => exact ih (pushMem f (op e))

section
variable {s : State} {i : Instr} {ps : List Piece}

/-- Before the bundle has read anything, its write performs at once where it stays in the core's own memories and no fence is open. -/
theorem writeNow_loneFrame (n : Nat) :
    writeNow (entered s) (loneFrame i n (reading s)) ps = (ownNow s ps && !fencePending (boundary s)) := by
  have hnow : (loneFrame i n (reading s)).now.mem.drop (loneFrame i n (reading s)).pre.mem.length = [] := List.drop_length
  unfold writeNow readsOpen
  rw [hnow]
  exact Bool.and_true _

/-- The store performs at its bundle, or the store queue has room for it (R243, R244). -/
def StoreGoes (s : State) (ps : List Piece) : Prop :=
  (ownNow s ps && !fencePending (boundary s)) = true ∨ writesOut (boundary s) < 64

theorem storeAll_loneFrame (parts : List (Piece × List Byte × Bool)) (hq : StoreGoes s ps) :
    storeAll (entered s) (loneFrame i 3 (reading s)) ps parts =
      if ownNow s ps && !fencePending (boundary s) then
        { loneFrame i 3 (reading s) with late := parts.map (fun e => .own e.1 e.2.1 e.2.2) }
      else parts.foldl (fun f e => pushMem f (.store e.1 e.2.1 e.2.2)) (loneFrame i 3 (reading s)) := by
  unfold storeAll
  rw [writeNow_loneFrame]
  split_ifs with hn he hfull
  · rfl
  · rw [List.isEmpty_iff.1 he]; rfl
  · exact absurd (hq.resolve_left hn) (Nat.not_lt.2 hfull)
  · rfl

theorem runSlot_storeAt {align : Nat} {els : List (Nat × Nat)} {bs : List Byte} {nib : Bool} {g : State → Frame → Frame}
    (hs : slotOf i = some 3) (hl : lone i s = true) (hm : mayWrite s = true) (hr : reached s .wr align els = some ps)
    (hq : StoreGoes s ps)
    (hg : g (entered s) (loneFrame i 3 (reading s)) = storeAt (entered s) (loneFrame i 3 (reading s)) align els bs nib) :
    runSlot i g s = .next (stored s ps bs nib) := by
  have hx : g (entered s) (loneFrame i 3 (reading s)) =
      storeAll (entered s) (loneFrame i 3 (reading s)) ps (storeList ps bs nib) :=
    hg.trans ((gateWrite_open hm).trans (withPieces_ok hr))
  rw [storeAll_loneFrame _ hq] at hx
  unfold stored
  dsimp only
  split_ifs at hx ⊢
  · exact wrote_run id [] ((storeList ps bs nib).map (fun e => .own e.1 e.2.1 e.2.2)) [] hx hs hl (acquireHolds_of_mem le_rfl)
  · have hc := foldl_pushMem_clean (fun e : Piece × List Byte × Bool => .store e.1 e.2.1 e.2.2) (storeList ps bs nib)
      (clean_loneFrame s i 3)
    obtain ⟨hctl, hlate⟩ := foldl_pushMem_goes (fun e : Piece × List Byte × Bool => .store e.1 e.2.1 e.2.2) (storeList ps bs nib)
      (loneFrame i 3 (reading s))
    exact hc.retires hs hl hctl hlate hx

end

theorem exec_st {s : State} {x : LF} {ps : List Piece} (hl : lone (.st x) s = true) (hm : mayWrite s = true)
    (hr : reached s .wr (lw x / 8) [(va48 (lsEa (reading s) x), lw x / 8)] = some ps) (hq : StoreGoes s ps) :
    exec (.st x) s = .next (stored s ps (natLe (lw x / 8) (rdS (reading s) 3 (x.aux.extractLsb' 0 7)).toNat) false) :=
  runSlot_storeAt (g := issueSt x) rfl hl hm hr hq rfl

/-- Settles O19: ST, VST and VSCT differ in their elements and bytes only. -/
theorem stores : Obligations.Stores := by
  intro s i acc align els bs nib ps hl ha hd hm hr hq
  unfold accessOf at ha
  split at ha <;> cases ha
  case h_3 x => cases hd; exact exec_st hl hm hr (.inr hq)
  case h_5 x => cases hd; exact runSlot_storeAt (g := issueVst x) rfl hl hm hr (.inr hq) rfl
  case h_8 x => cases hd; exact runSlot_storeAt (g := issueVsct x) rfl hl hm hr (.inr hq) rfl
  all_goals cases hd

end Sys2Proof.Machine
end


section
/-! The bytes that a store leaves in a slice (R187, R193), and the obligation on them (O20). -/

namespace Sys2Proof.Machine
open Sys2Proof

/-! ### Bytes of a number, and bytes cut at atoms -/

theorem length_natLe (n v : Nat) : (natLe n v).length = n := by
  induction n generalizing v with
  | zero => rfl
  | succ n ih => rw [natLe, List.length_cons, ih]

theorem getD_natLe {n v i : Nat} (h : i < n) : (natLe n v).getD i 0 = BitVec.ofNat 8 (v / 2 ^ (8 * i)) := by
  induction n generalizing v i with
  | zero => omega
  | succ n ih =>
    cases i with
    | zero => simp [natLe]
    | succ i =>
      have hpow : 256 * 2 ^ (8 * i) = 2 ^ (8 * (i + 1)) := by rw [Nat.mul_add, Nat.pow_add]; omega
      rw [natLe, List.getD_cons_succ, ih (by omega), Nat.div_div_eq_div_mul, hpow]

/-- The first part of a cut starts where the bytes do, and the others follow. -/
theorem le_of_mem_cutAtoms {a : Nat} {bs : List Byte} {e : Nat × List Byte} (h : e ∈ cutAtoms a bs) : a ≤ e.1 := by
  induction bs generalizing a e with
  | nil => cases h
  | cons b t ih =>
    rw [cutAtoms] at h
    split at h
    case h_1 a' bs r heq =>
      have hrest : ∀ x ∈ (a', bs) :: r, a + 1 ≤ x.1 := fun x hx => ih (heq ▸ hx)
      split_ifs at h
      · rcases List.mem_cons.1 h with rfl | h
        · exact le_rfl
        · exact Nat.le_of_succ_le (hrest e h)
      · rcases List.mem_cons.1 h with rfl | h
        · exact le_rfl
        · exact Nat.le_of_succ_le (hrest e (List.mem_cons_of_mem _ h))
    case h_2 => rw [List.mem_singleton.1 h]

/-- A cut starts with the byte that it starts at. -/
theorem cutAtoms_head {a a' : Nat} {bs bs' : List Byte} {r : List (Nat × List Byte)} (h : cutAtoms a bs = (a', bs') :: r) : a' = a := by
  cases bs with
  | nil => cases h
  | cons b t =>
    rw [cutAtoms] at h
    split at h
    · split_ifs at h <;> cases h <;> rfl
    · cases h; rfl

/-- Putting the parts of a cut puts the bytes. -/
theorem putBytes_cutAtoms (m : Bytes) (base a : Nat) (bs : List Byte) :
    (cutAtoms a bs).foldl (fun m e => putBytes m (base + e.1) e.2) m = putBytes m (base + a) bs := by
  induction bs generalizing a m with
  | nil => rfl
  | cons b t ih =>
    have hput : putBytes m (base + a) (b :: t) = (cutAtoms (a + 1) t).foldl (fun m e => putBytes m (base + e.1) e.2) (mput 0 m (base + a) b) :=
      (ih _ (a + 1)).symm
    rw [hput, cutAtoms]
    split
    case h_1 a' bs r heq =>
      have ha' : a' = a + 1 := cutAtoms_head heq
      subst ha'
      rw [heq]
      split_ifs
      · rfl
      · rfl
    case h_2 heq => rw [heq]; rfl

/-! ### Writes to a slice -/

/-- A state whose slices alone have changed. -/
def withSlices (s : State) (m : Bytes) (poi : SMap Bool) : State := { s with slices := m, spoi := poi }

/-- Slice atoms written one after another put their bytes, and change the slices only. -/
theorem foldl_sliceAtom (c : Nat) (carry : Bool) (l : List (Nat × List Byte)) (s : State) :
    ∃ poi, l.foldl (fun s e => sliceAtom s c e.1 e.2 carry) s =
      withSlices s (l.foldl (fun m e => putBytes m (c * 2 ^ 20 + e.1) e.2) s.slices) poi := by
  induction l generalizing s with
  | nil => exact ⟨s.spoi, rfl⟩
  | cons e t ih =>
    obtain ⟨poi, h⟩ := ih (sliceAtom s c e.1 e.2 carry)
    exact ⟨poi, h⟩

theorem writePlace_slice (s : State) (w : Writer) (node : Option Nat) (c o : Nat) (bs : List Byte) (carry : Bool) :
    ∃ poi, writePlace s w node (.slice c o) bs carry = withSlices s (putBytes s.slices (c * 2 ^ 20 + o) bs) poi := by
  obtain ⟨poi, h⟩ := foldl_sliceAtom c carry (cutAtoms o bs) s
  exact ⟨poi, h.trans (by rw [putBytes_cutAtoms])⟩

/-- The parts of a store to a slice. -/
theorem lastNib_false (l : List (Piece × List Byte)) : lastNib false l = l.map (fun e => (e.1, e.2, false)) := by
  induction l with
  | nil => rfl
  | cons e t ih =>
    cases t with
    | nil => rfl
    | cons e' t => rw [lastNib, ih]; rfl; exact nofun

theorem storeList_slice (c o n : Nat) (disc : Bool) (bs : List Byte) (hn : bs.length = n) :
    storeList [⟨.slice c o, n, disc⟩] bs false =
      (cutAtoms o bs).map (fun e => (⟨.slice c e.1, e.2.length, disc⟩, e.2, false)) := by
  have hcut : (cutAtoms o bs).map (fun e => ((⟨.slice c (o + (e.1 - o)), e.2.length, disc⟩ : Piece), e.2)) =
      (cutAtoms o bs).map (fun e => (⟨.slice c e.1, e.2.length, disc⟩, e.2)) :=
    List.map_congr_left fun e he => by rw [Nat.add_sub_cancel' (le_of_mem_cutAtoms he)]
  have hparts : storeParts [⟨.slice c o, n, disc⟩] bs = (cutAtoms o bs).map (fun e => (⟨.slice c e.1, e.2.length, disc⟩, e.2)) := by
    rw [← hcut, ← hn]
    simp only [storeParts, List.take_length, List.append_nil]
    rfl
  rw [storeList, hparts, lastNib_false, List.map_map]
  rfl

/-- The writes of a store to a slice, after its commit. -/
theorem thenDo_slice_store (s : State) (c : Nat) (disc : Bool) (l : List (Nat × List Byte)) (t : State) :
    ∃ poi, thenDo s (l.map (fun e => .own ⟨.slice c e.1, e.2.length, disc⟩ e.2 false)) t =
      withSlices t (l.foldl (fun m e => putBytes m (c * 2 ^ 20 + e.1) e.2) t.slices) poi := by
  induction l generalizing t with
  | nil => exact ⟨t.spoi, rfl⟩
  | cons e r ih =>
    obtain ⟨poi, h⟩ := writePlace_slice t (.core s.cur 0 (hdrColour s.hdr)) (coreAt t s.cur).node c e.1 e.2 false
    obtain ⟨poi', h'⟩ := ih (withSlices t (putBytes t.slices (c * 2 ^ 20 + e.1) e.2) poi)
    refine ⟨poi', Eq.trans ?_ h'⟩
    rw [← h]
    rfl

/-- Settles O20: the parts of the store put its bytes from its address on, and only the slices change. -/
theorem storedBytes : Obligations.StoredBytes := by
  intro s x c o n disc hwf hl hm hr hn hf hw
  subst hw
  obtain ⟨⟨⟨hslices, -⟩, -⟩, -⟩ : ((Memory.wf s.slices = true ∧ Memory.wf s.ists = true) ∧ Memory.wf s.dram.mem = true) ∧
      Memory.wf s.host.sys = true := by simpa only [memCanon, Bool.and_eq_true] using hwf
  have hnow : (ownNow s [⟨.slice c o, lw x / 8, disc⟩] && !fencePending (boundary s)) = true := by rw [hn, hf]; rfl
  have hx := exec_st hl hm hr (.inl hnow)
  have hlen := length_natLe (lw x / 8) (rdS (reading s) 3 (x.aux.extractLsb' 0 7)).toNat
  have hbyte (i : Nat) (hi : i < lw x / 8) := getD_natLe (v := (rdS (reading s) 3 (x.aux.extractLsb' 0 7)).toNat) hi
  generalize natLe (lw x / 8) (rdS (reading s) 3 (x.aux.extractLsb' 0 7)).toNat = bs at hx hlen hbyte
  obtain ⟨poi, ht⟩ := thenDo_slice_store s c disc (cutAtoms o bs) (retire s (passed s 3))
  rw [putBytes_cutAtoms] at ht
  rw [stored, if_pos hnow, storeList_slice c o _ disc _ hlen, List.map_map] at hx
  refine ⟨_, hx.trans (congrArg Host.Outcome.next ht), fun i hi => ?_, fun a ha => ?_, rfl, rfl, rfl, rfl⟩
  · refine (byteAt_putBytes hslices ..).trans ?_
    rw [if_pos (by omega), Nat.add_sub_cancel_left, hbyte i hi]
  · refine (byteAt_putBytes hslices ..).trans (if_neg ?_)
    omega

end Sys2Proof.Machine
end


section
/-! Accesses, cards and words whose address is refused (R187, R195, R200, R204, R112), and the obligation on them (O21). -/

namespace Sys2Proof.Machine
open Sys2Proof

/-! ### What the address check of R195 says -/

/-- The address ranges of an access, as translation takes them. -/
def accessParts (els : List (Nat × Nat)) : List (Nat × Nat) := els.flatMap (fun e => (chunks e.1 e.2).map (fun p => (p.1 % 2 ^ 48, p.2)))

theorem reach_of_refused {s : State} {acc : Acc} {align : Nat} {els : List (Nat × Nat)}
    (h : ∃ p ∈ accessParts els, window (entered s) (boundary s).node s.cur p.1 = .refused) : reach s acc align els = .fault 0x11 0 := by
  obtain ⟨p, hp, hw⟩ := h
  exact if_pos (List.any_eq_true.2 ⟨p, hp, by rw [hw]; rfl⟩)

theorem reach_of_misaligned {s : State} {acc : Acc} {align : Nat} {els : List (Nat × Nat)}
    (hw : ∀ p ∈ accessParts els, window (entered s) (boundary s).node s.cur p.1 ≠ .refused) (h : ∃ e ∈ els, e.1 % align ≠ 0) :
    reach s acc align els = .fault 0x10 0 := by
  obtain ⟨e, he, ha⟩ := h
  have hnone : ¬(accessParts els).any (fun p => window (entered s) (boundary s).node s.cur p.1 == .refused) = true := by
    intro hany
    obtain ⟨p, hp, heq⟩ := List.any_eq_true.1 hany
    exact hw p hp (beq_iff_eq.1 heq)
  exact (if_neg hnone).trans (if_pos (List.any_eq_true.2 ⟨e, he, by simpa using ha⟩))

/-! ### A slot of a lone bundle that faults -/

/-- Slot `n` issues `i`, alone in its bundle, with the effect that leaves frame `f`. -/
def LoneIssues (s : State) (i : Instr) (n : Nat) (f : Frame) : Prop :=
  slotOf i = some n ∧ ∃ g : State → Frame → Frame, exec i s = runSlot i g s ∧ g (entered s) (loneFrame i n (reading s)) = f

theorem LoneIssues.exec_fault {s : State} {i : Instr} {n cause info : Nat}
    (h : LoneIssues s i n (faultAt (loneFrame i n (reading s)) n cause info)) (hl : lone i s = true) :
    exec i s = .next (trapped s n cause info) := by
  obtain ⟨hs, g, hx, hg⟩ := h
  exact hx.trans (fault_run hg hs hl)

section
variable {s : State} {i : Instr} {n align cause info : Nat} {els : List (Nat × Nat)}

theorem loadAt_loneFault {x : LF} {d : LateDst} {r : Saved} (hl : lone i s = true) (hm : mayLoad s = true)
    (hr : reach s .rd align els = .fault cause info) :
    loadAt x (entered s) (loneFrame i 3 (reading s)) d align els r = loadFault (loneFrame i 3 (reading s)) 3 d r cause info := by
  unfold loadAt
  rw [heldRead_none (lone_canIssue hl)]
  exact (gateLoad_open hm).trans (withPieces_fault hr)

theorem arriveAt_loneFault {d : LateDst} {nwb : Bool} {off G : Nat} (hl : lone i s = true) (hm : mayLoad s = true)
    (hr : reach s .rd align els = .fault cause info) :
    arriveAt (entered s) (loneFrame i 3 (reading s)) d nwb off G align els = faultAt (loneFrame i 3 (reading s)) 3 cause info := by
  unfold arriveAt
  rw [heldRead_none (lone_canIssue hl)]
  exact (gateLoad_open hm).trans (withPieces_fault hr)

theorem storeAt_loneFault {bs : List Byte} {nib : Bool} (hm : mayWrite s = true) (hr : reach s .wr align els = .fault cause info) :
    storeAt (entered s) (loneFrame i 3 (reading s)) align els bs nib = faultAt (loneFrame i 3 (reading s)) 3 cause info :=
  (gateWrite_open hm).trans (withPieces_fault hr)

theorem readCard_loneFault {len : Nat} {ea : Word} {g : List Byte × Bool → Frame} (hl : lone i s = true) (hm : mayLoad s = true)
    (hr : reach s .rd align [(va48 ea, len)] = .fault cause info) :
    readCard (entered s) (loneFrame i n (reading s)) n ea align len g = faultAt (loneFrame i n (reading s)) n cause info := by
  unfold readCard
  rw [heldRead_none (lone_canIssue hl)]
  exact (gateLoad_open hm).trans (withPieces_fault hr)

theorem issueScld_loneFault {x : XF} (hl : lone i s = true) (hm : mayLoad s = true)
    (hr : reach s .rd 2 [(va48 (rdS (reading s) 5 x.a + BitVec.ofNat 64 (2 * x.hi.toNat)), 2)] = .fault cause info) :
    issueScld x (entered s) (loneFrame i 5 (reading s)) = faultAt (loneFrame i 5 (reading s)) 5 cause info := by
  unfold issueScld
  rw [heldRead_none (lone_canIssue hl)]
  exact (gateLoad_open hm).trans (withPieces_fault hr)

theorem mxRoom_loneFrame (h : (boundary s).mxq.length < 8) (g : Frame) : mxRoom (loneFrame i n (reading s)) g = g :=
  if_neg (by rw [show (loneFrame i n (reading s)).pre = boundary s from rfl]; omega)

/-- An access that meets a fault, and leaves no deferred record, faults its slot. -/
theorem loneIssues_access_fault {acc : Acc} (hl : lone i s = true) (ha : accessOf s i = some (n, acc, align, els))
    (hm : if acc.writes then mayWrite s = true else mayLoad s = true) (hd : defersOf s i = none ∨ isBoosted s n = false)
    (hq : n = 2 → (boundary s).mxq.length < 8) (hr : reach s acc align els = .fault cause info) :
    LoneIssues s i n (faultAt (loneFrame i n (reading s)) n cause info) := by
  unfold accessOf at ha
  split at ha <;> cases ha
  -- LD, VLD, VLDS, VGLD
  case h_1 | h_4 | h_6 | h_7 =>
    exact ⟨rfl, _, rfl, (loadAt_loneFault hl hm hr).trans (if_pos (congrArg (!·) (hd.resolve_left nofun)))⟩
  -- LDR, VLDR
  case h_2 | h_9 => exact ⟨rfl, _, rfl, arriveAt_loneFault hl hm hr⟩
  -- ST, VST, VSCT
  case h_3 | h_5 | h_8 => exact ⟨rfl, _, rfl, storeAt_loneFault hm hr⟩
  case h_10 => exact ⟨rfl, _, rfl, issueScld_loneFault hl hm hr⟩
  -- MJOB, MDRN
  case h_12 | h_13 => exact ⟨rfl, _, rfl, (mxRoom_loneFrame (hq rfl) _).trans (readCard_loneFault hl hm hr)⟩
  -- PORT, LAUNCH, CKPT, MCST, CARAV
  all_goals exact ⟨rfl, _, rfl, readCard_loneFault hl hm hr⟩

end

/-! ### Words of atomics, barriers and SWAIT (R195, R200, R204, R348) -/

/-- An atomic issues by its request. -/
theorem loneIssues_atomic {s : State} {i : Instr} {q : AtomReq} (h : atomOf? s i = some q) : LoneIssues s i q.slot
    (issueAtomic (entered s) (loneFrame i q.slot (reading s)) q.slot q.kind q.ty q.ea q.x q.y q.d q.ev) := by
  unfold atomOf? at h
  split at h <;> cases h
  all_goals exact ⟨rfl, _, rfl, rfl⟩

/-- How a slot checks the word it names: where it may lie (R200, R204), then, as a load where `gated` says so, its translation (R195). -/
def wordChecked (s : State) (i : Instr) (n va align : Nat) (acc : Acc) (els : List (Nat × Nat)) (sliceOnly own gated : Bool)
    (g : List Piece → Frame) : Frame :=
  let f := loneFrame i n (reading s)
  match targetFault (entered s) (reading s) va align sliceOnly own with
  | some cause => faultAt f n cause 0
  | none =>
    let checked := withPieces (entered s) f acc align els (faultAt f n) g
    if gated then gateLoad f checked else checked

theorem issueAtomic_checked {s : State} {i : Instr} {q : AtomReq} (hres : waitRes (reading s) q.slot = none) :
    ∃ g, issueAtomic (entered s) (loneFrame i q.slot (reading s)) q.slot q.kind q.ty q.ea q.x q.y q.d q.ev =
      wordChecked s i q.slot (va48 q.ea) (atomW q.kind q.ty / 8) .rw [(va48 q.ea, atomW q.kind q.ty / 8)] false true true g := by
  unfold issueAtomic
  rw [show waitRes (loneFrame i q.slot (reading s)) q.slot = none from hres]
  exact ⟨_, rfl⟩

theorem issueSwait_checked {s : State} {i : Instr} (x : RF) :
    let va := va48 (rdS (reading s) 4 x.a)
    ∃ g, issueSwait x (entered s) (loneFrame i 4 (reading s)) =
      wordChecked s i 4 va 8 .rd ((va, 8) :: if x.f = 1 then [(va + 8, 8)] else []) false false true g := by
  intro va
  have h : ∃ g, issueSwait x (entered s) (loneFrame i 4 (reading s)) =
      wordChecked s i 4 va 8 .rd ((va, 8) :: if (x.f == 1) = true then [(va + 8, 8)] else []) false false true g := ⟨_, rfl⟩
  simpa only [beq_iff_eq] using h

section
variable {s : State} {i : Instr} {n va align : Nat} {acc : Acc} {els : List (Nat × Nat)} {sliceOnly own : Bool}

/-- Every instruction that names a word checks it so; BARV alone is no load (R248). -/
theorem loneIssues_word (hw : wordOf s i = some (n, va, align, acc, els, sliceOnly, own)) (hres : waitRes (reading s) n = none) :
    ∃ gated g, (gated = false ∨ ∀ x, i ≠ .barv x) ∧ LoneIssues s i n (wordChecked s i n va align acc els sliceOnly own gated g) := by
  unfold wordOf at hw
  split at hw
  case h_1 x => cases hw; exact ⟨false, _, .inl rfl, rfl, _, rfl, rfl⟩
  case h_2 x => cases hw; exact ⟨true, _, .inr nofun, rfl, _, rfl, rfl⟩
  case h_3 x =>
    cases hw
    obtain ⟨on, hc⟩ := issueSwait_checked (i := .swait x) x
    exact ⟨true, on, .inr nofun, rfl, issueSwait x, rfl, hc⟩
  case h_4 hbarv _ _ =>
    obtain ⟨q, hq, h⟩ := Option.map_eq_some_iff.1 hw
    cases h
    obtain ⟨hs, g, hx, hg⟩ := loneIssues_atomic hq
    obtain ⟨on, hc⟩ := issueAtomic_checked (i := i) hres
    exact ⟨true, on, .inr hbarv, hs, g, hx, hg.trans hc⟩

theorem exec_word_target {cause : Nat} (hl : lone i s = true) (hw : wordOf s i = some (n, va, align, acc, els, sliceOnly, own))
    (hres : waitRes (reading s) n = none) (ht : targetFault (entered s) (reading s) va align sliceOnly own = some cause) :
    exec i s = .next (trapped s n cause 0) := by
  obtain ⟨gated, g, -, h⟩ := loneIssues_word hw hres
  unfold wordChecked at h
  rw [ht] at h
  exact h.exec_fault hl

theorem exec_word_fault {cause info : Nat} (hl : lone i s = true) (hw : wordOf s i = some (n, va, align, acc, els, sliceOnly, own))
    (hres : waitRes (reading s) n = none) (ht : targetFault (entered s) (reading s) va align sliceOnly own = none)
    (hm : (∃ x, i = .barv x) ∨ mayLoad s = true) (hr : reach s acc align els = .fault cause info) :
    exec i s = .next (trapped s n cause info) := by
  obtain ⟨gated, g, hg, h⟩ := loneIssues_word hw hres
  have hc : wordChecked s i n va align acc els sliceOnly own gated g = faultAt (loneFrame i n (reading s)) n cause info := by
    unfold wordChecked
    rw [ht]
    dsimp only
    rw [withPieces_fault hr]
    cases gated with
    | false => rfl
    | true => exact gateLoad_open (hm.resolve_left fun ⟨x, hx⟩ => hg.resolve_left nofun x hx)
  exact (hc ▸ h).exec_fault hl

end

/-! ### Boosted loads (R112, R121) -/

/-- The shadow after a boosted load has faulted: its record, unless no register would take the result. -/
def deferred (s : State) (d : LateDst) (q : Saved) (cause : Nat) (k : Core) : Core :=
  if d.regs.all (fun r => (r == 0 && d.file == .s) || decide (64 ≤ r)) then k
  else onShadow k (fun sh => { sh with
    recs := sh.recs ++ [⟨d.regs.headD 64, q.insn, cause, ((boundary s).shadow.recs.map (·.seq)).foldl max 0 + 1, q.va, q.vb, q.pred, d, q.vidx⟩] })

theorem loadFault_boosted {s : State} {i : Instr} {d : LateDst} {q : Saved} (hd : d.boost = true) (cause info : Nat) :
    loadFault (loneFrame i 3 (reading s)) 3 d q cause info = { loneFrame i 3 (reading s) with
      now := { deferred s d q cause (blank (boundary s)) with lat := mput 0 [] 3 (Config.deferLatch q.va.toNat) } } := by
  unfold loadFault deferred
  rw [hd]
  refine (if_neg (by decide)).trans ?_
  dsimp only
  split_ifs
  · rfl
  · rfl

theorem exec_deferred_load {s : State} {i : Instr} {acc : Acc} {align : Nat} {els : List (Nat × Nat)} {d : LateDst} {q : Saved}
    {cause info : Nat} (hl : lone i s = true) (ha : accessOf s i = some (3, acc, align, els)) (hd : defersOf s i = some (d, q))
    (hm : mayLoad s = true) (hb : isBoosted s 3 = true) (hr : reach s acc align els = .fault cause info) :
    exec i s = .next (retire s (afterBundle s 3 (mput 0 [] 3 (Config.deferLatch q.va.toNat)) (deferred s d q cause) 0 false)) := by
  have key {x : LF} {g : State → Frame → Frame} (hs : slotOf i = some 3) (hx : exec i s = runSlot i g s) (hboost : d.boost = true)
      (hr : reach s .rd align els = .fault cause info)
      (hg : g (entered s) (loneFrame i 3 (reading s)) = loadAt x (entered s) (loneFrame i 3 (reading s)) d align els q) :
      exec i s = .next (retire s (afterBundle s 3 (mput 0 [] 3 (Config.deferLatch q.va.toNat)) (deferred s d q cause) 0 false)) := by
    rw [hx]
    exact wrote_run (deferred s d q cause) _ [] [] (hg.trans ((loadAt_loneFault hl hm hr).trans (loadFault_boosted hboost cause info))) hs hl
      (acquireHolds_of_late rfl rfl)
  unfold accessOf at ha
  split at ha <;> cases ha <;> cases hd
  all_goals exact key rfl rfl hb hr rfl

/-! ### The obligation -/

section
variable {s : State} {va align : Nat} {sliceOnly own : Bool}

theorem targetFault_refused (hw : window (entered s) (boundary s).node s.cur va = .refused) :
    targetFault (entered s) (reading s) va align sliceOnly own = some 0x11 := by
  unfold targetFault
  rw [show window (entered s) (reading s).pre.node (entered s).cur va = _ from hw]

theorem targetFault_misaligned (hw : window (entered s) (boundary s).node s.cur va ≠ .refused) (ha : va % align ≠ 0) :
    targetFault (entered s) (reading s) va align sliceOnly own = some 0x10 := by
  unfold targetFault
  split
  case h_1 h => exact absurd h hw
  case h_2 => exact if_pos ha

theorem targetFault_ist {d o : Nat} (ha : va % align = 0) (hw : window (entered s) (boundary s).node s.cur va = .at_ (.ist d o)) :
    targetFault (entered s) (reading s) va align sliceOnly own =
      some (if own = true ∧ decide (2 ^ 14 ≤ o) = (boundary s).rh then 0x32 else 0x14) := by
  unfold targetFault
  rw [show window (entered s) (reading s).pre.node (entered s).cur va = _ from hw]
  simp only [ha, ne_eq, not_true_eq_false, if_false, Bool.and_eq_true, beq_iff_eq]
  rfl

theorem targetFault_virt (ha : va % align = 0) (hw : window (entered s) (boundary s).node s.cur va = .virt) (hslice : sliceOnly = true) :
    targetFault (entered s) (reading s) va align sliceOnly own = some 0x14 := by
  unfold targetFault
  rw [show window (entered s) (reading s).pre.node (entered s).cur va = _ from hw]
  simp [ha, hslice]

end

/-- Settles O21: a refused address faults the slot, whose trap is the bundle's; only a boosted load turns its fault into a record. -/
theorem addressFaults : Obligations.AddressFaults := by
  refine ⟨?_, ?_, fun s i acc align els d q cause info hl ha hd hm hb hr => exec_deferred_load hl ha hd hm hb hr⟩
  · intro s i n acc align els hl ha hm hd hq parts
    have trap {cause info : Nat} (hr : reach s acc align els = .fault cause info) : exec i s = .next (trapped s n cause info) :=
      (loneIssues_access_fault hl ha hm hd hq hr).exec_fault hl
    exact ⟨fun h => trap (reach_of_refused h), fun hw h => trap (reach_of_misaligned hw h), fun _ _ => trap⟩
  · intro s i n va align acc els sliceOnly own hl hw hres at_
    have trap {cause : Nat} (ht : targetFault (entered s) (reading s) va align sliceOnly own = some cause) :
        exec i s = .next (trapped s n cause 0) := exec_word_target hl hw hres ht
    exact ⟨fun h => trap (targetFault_refused h), fun hne ha => trap (targetFault_misaligned hne ha),
      fun d o ha h => trap (targetFault_ist ha h), fun ha h hslice => trap (targetFault_virt ha h hslice),
      fun cause info ht hm hr => exec_word_fault hl hw hres ht hm hr⟩

end Sys2Proof.Machine
end


section
/-! Atomics of slots L and A (R200, R201, R347, R412), and the obligation on them (O22). -/

namespace Sys2Proof.Machine
open Sys2Proof

/-! ### A bundle that writes memory after its commit (R54) -/

theorem leave_seq {s : State} {f : Frame} (hc : f.ctl = .seq) (hh : f.hdr = s.hdr) (k : Core) : leave f k = bump 1 (goOn s.hdr k) := by
  unfold leave
  rw [hc, hh]
  rfl

/-- A lone bundle that writes `la` after its commit. -/
theorem Clean.retires_writes {s : State} {i : Instr} {n : Nat} {lat : SMap Vec} {w : Core → Core} {f : Frame} {g : State → Frame → Frame}
    {la : List Late} {rd : List (Nat × List Byte × Bool)} (h : Clean s i n lat w 0 false f) (hs : slotOf i = some n) (hl : lone i s = true)
    (hc : f.ctl = .seq) (ha : acquireHolds { f with late := la, reads := rd } = false)
    (hg : g (entered s) (loneFrame i n (reading s)) = { f with late := la, reads := rd }) :
    runSlot i g s = .next (thenDo s la (retire s (afterBundle s n lat w 0 false))) := by
  rw [ctl_run (c := f.ctl) (la := la) (rd := rd) h hg hs hl (by simp [hc]) (by simp [hc]) ha,
    leave_seq (f := { f with late := la, reads := rd }) hc h.wrote.hdr]
  rfl

/-- One that adds nothing to the memory list holds for no acquire. -/
theorem Clean.retires_late {s : State} {i : Instr} {n : Nat} {lat : SMap Vec} {w : Core → Core} {f : Frame} {g : State → Frame → Frame}
    {la : List Late} (h : Clean s i n lat w 0 false f) (hs : slotOf i = some n) (hl : lone i s = true) (hc : f.ctl = .seq)
    (hm : (w (blank (boundary s))).mem = (boundary s).mem)
    (hg : g (entered s) (loneFrame i n (reading s)) = { f with late := la }) :
    runSlot i g s = .next (thenDo s la (retire s (afterBundle s n lat w 0 false))) := by
  have hmem : f.now.mem.length ≤ f.pre.mem.length := by
    rw [h.wrote.now, h.wrote.pre]
    exact (congrArg List.length hm).le
  exact h.retires_writes (rd := f.reads) hs hl hc (acquireHolds_of_mem hmem) hg

theorem mem_putS (k : Core) (b : Bool) (r : Nat) (v : Word) : (putS k b r v).mem = k.mem := by
  unfold putS; split_ifs <;> rfl
theorem mem_regS (s : State) (n : Nat) (d : BitVec 7) (v : Word) (k : Core) : (regS s n d v k).mem = k.mem := by
  unfold regS; split_ifs; exacts [mem_putS .., rfl]
theorem mem_consumeIf (b : Bool) (k : Core) : (consumeIf b k).mem = k.mem := by cases b <;> rfl

/-- Poison that an unboosted slot meets. -/
theorem Clean.eat {s : State} {i : Instr} {n : Nat} {lat : SMap Vec} {w : Core → Core} {f : Frame} (h : Clean s i n lat w 0 false f)
    (b : Bool) : Clean s i n lat (fun k => consumeIf b (w k)) 0 false (Machine.eat f b) := by
  have hput := h.put lat (fun k => consumeIf b (w k)) (consumeIf b) (by rw [h.wrote.now]; cases b <;> rfl)
  cases b with
  | false => exact hput
  | true => exact ⟨{ hput.wrote with }, { hput.kept with }, hput.stall, hput.walk⟩

/-! ### The result of an atomic (R57, R60) -/

section
variable {s : State} {i : Instr} {q : AtomReq} {bs : List Byte}

theorem mem_atomRegs (k : Core) : (atomRegs s q bs k).mem = k.mem := by
  unfold atomRegs; dsimp only; split_ifs
  · rw [mem_putS, mem_regS]
  · exact mem_regS ..

/-- The frame that an atomic leaves with its result. -/
def atomFrame (q : AtomReq) (bs : List Byte) (f : Frame) : Frame := atomOut f q.slot q.d (atomDst q.kind q.ty q.slot q.d) bs

theorem atomFrame_goes (f : Frame) : (atomFrame q bs f).ctl = f.ctl ∧ (atomFrame q bs f).late = f.late := by
  unfold atomFrame atomOut
  dsimp only
  split_ifs
  · exact ⟨ctl_wrS .., late_wrS ..⟩
  · exact ⟨ctl_wrS .., late_wrS ..⟩
  · exact ⟨ctl_wrS .., late_wrS ..⟩

theorem Clean.atomFrame {w : Core → Core} {f : Frame} (h : Clean s i q.slot [] w 0 false f) :
    Clean s i q.slot (latS q.slot (atomVal q bs)) (fun k => atomRegs s q bs (w k)) 0 false (Machine.atomFrame q bs f) := by
  have hw := h.wrS q.d (atomVal q bs)
  unfold Machine.atomFrame atomOut atomRegs
  dsimp only
  rw [show (atomDst q.kind q.ty q.slot q.d).w = atomW q.kind q.ty from rfl]
  by_cases hpair : atomW q.kind q.ty = 128
  · have hlow : atomVal q bs = BitVec.ofNat 64 (leNat (bs.take 8)) := if_pos hpair
    rw [← hlow, if_pos hpair]
    by_cases hd : q.d.toNat < 64
    · simp only [hpair, hd, and_self, if_true]
      refine hw.put _ _ (fun k => putS k (boosted (Machine.wrS f q.slot q.d (atomVal q bs)) q.slot) (q.d.toNat + 1) (BitVec.ofNat 64 (leNat (bs.drop 8)))) ?_
      rw [boosted_clean hw, hw.wrote.now, putS_lat]
    · simp only [hd, and_false, if_false]
      exact hw
  · have hval : atomVal q bs = extend (atomDst q.kind q.ty q.slot q.d).sext (atomW q.kind q.ty) (leNat bs) := if_neg hpair
    simp only [hpair, false_and, if_false]
    rw [← hval]
    exact hw

end

theorem late_append {f : Frame} (h : f.late = []) (la : List Late) : { f with late := f.late ++ la } = { f with late := la } := by
  rw [h, List.nil_append]
theorem late_nil {f : Frame} (h : f.late = []) : f = { f with late := [] } := by
  rw [← h]

/-! ### Atomics by where their word lies (R200, R412) -/

section
variable {s : State} {i : Instr} {q : AtomReq} {p : Piece}

/-- The writes of an atomic: its word where it changes, then its event. -/
def atomLate (q : AtomReq) (p : Piece) (old : Nat) : List Late :=
  match atomNew q.kind q.ty old q.x q.y with
  | some v => .own p (natLe (atomW q.kind q.ty / 8) v) false :: q.ev.toList.map .ev
  | none => []

/-- The frame of an atomic of slot `q.slot`, as the model issues it. -/
def atomIssued (s : State) (i : Instr) (q : AtomReq) : Frame :=
  issueAtomic (entered s) (loneFrame i q.slot (reading s)) q.slot q.kind q.ty q.ea q.x q.y q.d q.ev

/-- The word of the atomic lies at `p`, and nothing holds the bundle back. -/
structure AtomAt (s : State) (q : AtomReq) (p : Piece) : Prop where
  may : mayLoad s = true
  fresh : waitRes (reading s) q.slot = none
  target : targetFault (entered s) (reading s) (va48 q.ea) (atomW q.kind q.ty / 8) false true = none
  pieces : reached s .rw (atomW q.kind q.ty / 8) [(va48 q.ea, atomW q.kind q.ty / 8)] = some [p]

/-- To a system page the bundle is held, where the path carries the atomic (R412). -/
theorem atomIssued_sys {ha mt len : Nat} {disc : Bool} (h : AtomAt s q ⟨.sys ha mt, len, disc⟩) : atomIssued s i q =
    if !pathOk (entered s) q.kind q.ty ha mt && !atomDone (loneFrame i q.slot (reading s)) then
      faultAt (loneFrame i q.slot (reading s)) q.slot 0xB0 0
    else parkOn (entered s) (loneFrame i q.slot (reading s)) q.slot (.sysAtom q.kind q.ty ⟨.sys ha mt, len, disc⟩ q.x q.y) none := by
  unfold atomIssued issueAtomic
  dsimp only
  rw [show waitRes (loneFrame i q.slot (reading s)) q.slot = none from h.fresh]
  dsimp only
  rw [show targetFault (entered s) (loneFrame i q.slot (reading s)) (va48 q.ea) (atomW q.kind q.ty / 8) false true = none from h.target]
  exact (gateLoad_open h.may).trans (withPieces_ok h.pieces)

/-- Elsewhere it performs at the bundle, or at its owner (R200). -/
theorem atomIssued_place (h : AtomAt s q p) (hp : ∀ ha mt, p.pl ≠ .sys ha mt) : atomIssued s i q =
    (let f := loneFrame i q.slot (reading s)
     let d := atomDst q.kind q.ty q.slot q.d
     if ownNow s [p] && !fencePending (boundary s) then
       let r := readPiece (entered s) (boundary s).node p
       { atomFrame q r.1 (eat f r.2) with late := atomLate q p (leNat r.1) }
     else if q.slot = 3 ∧ 64 ≤ writesOut (boundary s) then { f with stall := true }
     else pushLate f (.atom q.kind q.ty p q.x q.y d q.ev) d) := by
  unfold atomIssued issueAtomic
  dsimp only
  rw [show waitRes (loneFrame i q.slot (reading s)) q.slot = none from h.fresh]
  dsimp only
  rw [show targetFault (entered s) (loneFrame i q.slot (reading s)) (va48 q.ea) (atomW q.kind q.ty / 8) false true = none from h.target]
  refine ((gateLoad_open h.may).trans (withPieces_ok h.pieces)).trans ?_
  dsimp only
  split
  case h_1 ha mt hsys => exact absurd hsys (hp ha mt)
  case h_2 =>
    have hnow : (writeNow (entered s) (loneFrame i q.slot (reading s)) [p] && (loneFrame i q.slot (reading s)).late.all (fun l => match l with
        | .own .. => false
        | _ => true)) = (ownNow s [p] && !fencePending (boundary s)) := by
      rw [writeNow_loneFrame]
      exact Bool.and_true _
    refine (if_congr (iff_of_eq (congrArg (· = true) hnow)) ?_ rfl).trans rfl
    have hlate : ∀ b bs, (atomFrame q bs (eat (loneFrame i q.slot (reading s)) b)).late = [] := fun b bs =>
      (atomFrame_goes _).2.trans (late_eat ..)
    change (match atomNew q.kind q.ty (leNat (readPiece (entered s) (boundary s).node p).1) q.x q.y with
      | some v => _
      | none => _) = _
    unfold atomLate
    split
    · exact late_append (hlate ..) _
    · exact late_nil (hlate ..)

/-- Once a completion has returned, the bundle takes its value or traps (R412). -/
theorem atomIssued_returned {w : WaitRes} (h : waitRes (reading s) q.slot = some w) : atomIssued s i q =
    if w.ok then { atomFrame q (natLe (atomW q.kind q.ty / 8) w.val) (loneFrame i q.slot (reading s)) with late := q.ev.toList.map .ev }
    else faultAt (loneFrame i q.slot (reading s)) q.slot 0xB0 0 := by
  unfold atomIssued issueAtomic
  dsimp only
  rw [show waitRes (loneFrame i q.slot (reading s)) q.slot = some w from h]
  exact if_congr Iff.rfl (late_append (atomFrame_goes _).2 _) rfl

variable (hl : lone i s = true) (hq : atomOf? s i = some q)
include hl hq

theorem exec_atomic_commits {b : Bool} {bs : List Byte} {la : List Late}
    (hf : atomIssued s i q = { atomFrame q bs (eat (loneFrame i q.slot (reading s)) b) with late := la }) :
    exec i s = .next (thenDo s la (retire s (afterBundle s q.slot (latS q.slot (atomVal q bs))
      (fun k => atomRegs s q bs (consumeIf b k)) 0 false))) := by
  obtain ⟨hs, g, hx, hg⟩ := loneIssues_atomic hq
  have hc := ((clean_loneFrame s i q.slot).eat b).atomFrame (q := q) (bs := bs)
  rw [hx]
  refine hc.retires_late hs hl ?_ ?_ (hg.trans hf)
  · rw [(atomFrame_goes _).1, ctl_eat]; rfl
  · rw [mem_atomRegs, mem_consumeIf]; rfl

theorem exec_atomic_later (hf : atomIssued s i q = pushLate (loneFrame i q.slot (reading s))
      (.atom q.kind q.ty p q.x q.y (atomDst q.kind q.ty q.slot q.d) q.ev) (atomDst q.kind q.ty q.slot q.d)) :
    exec i s = .next (retire s (afterBundle s q.slot []
      (requested s (.atom q.kind q.ty p q.x q.y (atomDst q.kind q.ty q.slot q.d) q.ev) (atomDst q.kind q.ty q.slot q.d)) 0 false)) := by
  obtain ⟨hs, g, hx, hg⟩ := loneIssues_atomic hq
  rw [hx]
  exact ((clean_loneFrame s i q.slot).pushLate _ _).retires hs hl rfl rfl (hg.trans hf)

theorem exec_atomic_fault {cause info : Nat} (hf : atomIssued s i q = faultAt (loneFrame i q.slot (reading s)) q.slot cause info) :
    exec i s = .next (trapped s q.slot cause info) := by
  obtain ⟨hs, g, hx, hg⟩ := loneIssues_atomic hq
  exact LoneIssues.exec_fault ⟨hs, g, hx, hg.trans hf⟩ hl

end

/-- Of two atomics of one bundle only the one of slot A may have been sent with the other: a lone bundle has no such pair (R412). -/
theorem atomDone_lone {s : State} {i : Instr} {q : AtomReq} (hq : atomOf? s i = some q) (hres : waitRes (reading s) q.slot = none) :
    atomDone (loneFrame i q.slot (reading s)) = false := by
  unfold atomOf? at hq
  split at hq <;> cases hq
  case h_4 x => exact Bool.and_false _
  all_goals
    unfold atomDone
    rw [show waitRes (loneFrame _ 3 (reading s)) 3 = none from hres]
    rfl

/-- A slot that parks a bundle that has not waited yet. -/
theorem parkOn_loneFrame {s : State} {i : Instr} {n : Nat} {kind : ParkKind} {deadline : Option Nat} (h : (boundary s).park = none) :
    parkOn (entered s) (loneFrame i n (reading s)) n kind deadline =
      { loneFrame i n (reading s) with park := some ⟨kind, n, deadline, s.now, none, []⟩ } := by
  unfold parkOn
  rw [show (loneFrame i n (reading s)).park = none from rfl, show (loneFrame i n (reading s)).pre.park = none from h]
  rfl

/-- A lone bundle parks. -/
theorem LoneIssues.exec_parks {s : State} {i : Instr} {n : Nat} {kind : ParkKind} {deadline : Option Nat}
    (h : LoneIssues s i n (parkOn (entered s) (loneFrame i n (reading s)) n kind deadline)) (hl : lone i s = true)
    (hp : (boundary s).park = none) : exec i s = .next (onCore (entered s) s.cur (fun k =>
      bump 1 { k with xlFault := none, park := some ⟨kind, n, deadline, s.now, none, []⟩ })) := by
  obtain ⟨hs, g, hx, hg⟩ := h
  exact hx.trans (park_run _ (hg.trans (parkOn_loneFrame hp)) hs hl)

/-- Settles O22: an atomic by where its word lies (`atomIssued_place`, `atomIssued_sys`), and as its completion returned. -/
theorem atomics : Obligations.Atomics := by
  intro s i q hl hq n
  refine ⟨fun p hm hres ht hr => ⟨?_, ?_⟩, fun w hw => ⟨fun hok => ?_, fun hok => ?_⟩⟩
  · intro hsys d later
    have hf := atomIssued_place (i := i) ⟨hm, hres, ht, hr⟩ hsys
    have hlater (hn : ownNow s [p] = false ∨ fencePending (boundary s) = true) (hroom : ¬(q.slot = 3 ∧ 64 ≤ writesOut (boundary s))) :
        exec i s = .next later := by
      refine exec_atomic_later (p := p) hl hq (hf.trans ((if_neg ?_).trans (if_neg hroom)))
      rcases hn with hn | hn <;> simp [hn]
    refine ⟨fun hn hfence => ?_, fun hn h3 hroom => hlater hn fun h => absurd hroom (Nat.not_lt.2 h.2), fun hn h4 => hlater hn fun h => ?_⟩
    · exact exec_atomic_commits hl hq (hf.trans (if_pos (by rw [hn, hfence]; rfl)))
    · exact absurd (h4.symm.trans h.1) (by decide)
  · intro ha mt hsys
    obtain ⟨pl, len, disc⟩ := p
    cases hsys
    have hf := atomIssued_sys (i := i) ⟨hm, hres, ht, hr⟩
    rw [atomDone_lone hq hres] at hf
    refine ⟨fun hpath => exec_atomic_fault hl hq (hf.trans (if_pos (by rw [hpath]; rfl))), fun hpath hpark => ?_⟩
    obtain ⟨hs, g, hx, hg⟩ := loneIssues_atomic hq
    exact LoneIssues.exec_parks ⟨hs, g, hx, hg.trans (hf.trans (if_neg (by rw [hpath]; decide)))⟩ hl hpark
  · have hf := atomIssued_returned (i := i) hw
    rw [hok] at hf
    exact exec_atomic_fault hl hq hf
  · have hf := atomIssued_returned (i := i) hw
    rw [hok] at hf
    exact exec_atomic_commits (b := false) hl hq hf

end Sys2Proof.Machine
end


section
/-! Barrier words, drains and fences of slot L (R203, R204, R246-R250), and the obligation on them (O23). -/

namespace Sys2Proof.Machine
open Sys2Proof

/-! ### The barrier word (R203) -/

section
variable {old : Word}

/-- The phase bit, the count expected and the count left of a barrier word. -/
theorem barWord_parts (hz : old.extractLsb' 32 31 = 0) : old.toNat =
    2 ^ 63 * (if old.getLsbD 63 then 1 else 0) + 65536 * (old.extractLsb' 16 16).toNat + (old.extractLsb' 0 16).toNat := by
  have hmid : old.toNat / 2 ^ 32 % 2 ^ 31 = 0 := by
    simpa [BitVec.extractLsb'_toNat, Nat.shiftRight_eq_div_pow] using congrArg BitVec.toNat hz
  have htop : old.getLsbD 63 = decide (2 ^ 63 ≤ old.toNat) := BitVec.msb_eq_decide (x := old) ▸ (BitVec.msb_eq_getLsbD_last old).symm
  have hlt := old.isLt
  simp only [BitVec.extractLsb'_toNat, Nat.shiftRight_eq_div_pow, htop, decide_eq_true_eq]
  split_ifs <;> omega

/-- The phase bit, as the model and the rule write it. -/
theorem phaseBit_cast : ((1 <<< 63 : Nat) : Word) = BitVec.twoPow 64 63 := by decide

theorem and_phaseBit (old : Word) : old &&& BitVec.twoPow 64 63 = if old.getLsbD 63 then BitVec.twoPow 64 63 else 0 :=
  BitVec.and_twoPow old 63

/-- A phase bit over two counts. -/
theorem toNat_phase_or (b : Bool) {n : Nat} (h : n < 2 ^ 63) :
    ((if b then BitVec.twoPow 64 63 else 0 : Word) ||| BitVec.ofNat 64 n).toNat = 2 ^ 63 * (if b then 1 else 0) + n := by
  have hn : n % 2 ^ 64 = n := Nat.mod_eq_of_lt (by omega)
  cases b with
  | false => simpa using hn
  | true =>
    have hor := Nat.two_pow_add_eq_or_of_lt h 1
    rw [BitVec.toNat_or, BitVec.toNat_ofNat, hn]
    exact hor.symm

/-- A word that no barrier holds is refused. -/
theorem barNext_none (h : (old.extractLsb' 16 16).toNat = 0 ∨ old.extractLsb' 32 31 ≠ 0 ∨ (old.extractLsb' 0 16).toNat = 0) :
    barNext old = none :=
  if_pos (h.imp BitVec.eq_of_toNat_eq (Or.imp_right BitVec.eq_of_toNat_eq))

section
variable (he : (old.extractLsb' 16 16).toNat ≠ 0) (hz : old.extractLsb' 32 31 = 0)
include he hz

/-- A well-formed word is not refused. -/
theorem barWord_accepted (h0 : (old.extractLsb' 0 16).toNat ≠ 0) :
    ¬(old.extractLsb' 16 16 = 0 ∨ old.extractLsb' 32 31 ≠ 0 ∨ old.extractLsb' 0 16 = 0) := by
  rintro (h | h | h)
  · exact he (by rw [h]; rfl)
  · exact h hz
  · exact h0 (by rw [h]; rfl)

/-- Any arrival but the last takes one off the count. -/
theorem barNext_arrival (h0 : (old.extractLsb' 0 16).toNat ≠ 0) (h1 : (old.extractLsb' 0 16).toNat ≠ 1) : barNext old = some
    ((old &&& BitVec.twoPow 64 63) ||| BitVec.ofNat 64 (65536 * (old.extractLsb' 16 16).toNat + ((old.extractLsb' 0 16).toNat - 1))) := by
  have hparts := barWord_parts hz
  have hexpect := (old.extractLsb' 16 16).isLt
  have hleft := (old.extractLsb' 0 16).isLt
  refine (if_neg (barWord_accepted he hz h0)).trans ((if_neg fun h => h1 (by rw [h]; rfl)).trans (congrArg some ?_))
  apply BitVec.eq_of_toNat_eq
  rw [and_phaseBit, toNat_phase_or _ (by omega), BitVec.toNat_sub_of_le (by rw [BitVec.le_def]; show 1 ≤ _; omega), hparts]
  show _ - 1 = _
  omega

/-- The phase flips at the last arrival, and the count starts again. -/
theorem barNext_last (h1 : (old.extractLsb' 0 16).toNat = 1) :
    barNext old = some ((if old.getLsbD 63 then 0 else BitVec.twoPow 64 63) |||
      BitVec.ofNat 64 (65536 * (old.extractLsb' 16 16).toNat + (old.extractLsb' 16 16).toNat)) := by
  have hone : old.extractLsb' 0 16 = 1 := BitVec.eq_of_toNat_eq h1
  have hcounts : BitVec.ofNat 64 (65536 * (old.extractLsb' 16 16).toNat + (old.extractLsb' 16 16).toNat) =
      (old.extractLsb' 16 16).setWidth 64 <<< 16 ||| (old.extractLsb' 16 16).setWidth 64 := by
    have hlt := (old.extractLsb' 16 16).isLt
    have hor := Nat.two_pow_add_eq_or_of_lt hlt (old.extractLsb' 16 16).toNat
    apply BitVec.eq_of_toNat_eq
    simp only [BitVec.toNat_ofNat, BitVec.toNat_or, BitVec.toNat_shiftLeft, BitVec.toNat_setWidth, Nat.shiftLeft_eq]
    rw [Nat.mod_eq_of_lt (by omega), Nat.mod_eq_of_lt (a := (old.extractLsb' 16 16).toNat) (by omega), Nat.mod_eq_of_lt (by omega), Nat.mul_comm _ (2 ^ 16),
      ← hor]
  have hmid : ∀ j, 32 ≤ j → j < 63 → old.getLsbD j = false := by
    intro j h32 h63
    have := congrArg (fun v => v.getLsbD (j - 32)) hz
    simpa [show j - 32 < 31 by omega, show 32 + (j - 32) = j by omega] using this
  refine (if_neg (barWord_accepted he hz (by omega))).trans ((if_pos hone).trans (congrArg some ?_))
  rw [hcounts]
  apply BitVec.eq_of_getLsbD_eq
  intro i hi
  have hmask : (0xFFFF : Word).getLsbD i = decide (i < 16) := by
    have : ∀ j : Fin 64, (0xFFFF : Word).getLsbD j = decide (j.val < 16) := by decide
    exact this ⟨i, hi⟩
  have hpar : (if old.getLsbD 63 then 0 else BitVec.twoPow 64 63 : Word).getLsbD i = (decide (i = 63) && !old.getLsbD 63) := by
    cases old.getLsbD 63 <;> simp [BitVec.getLsbD_twoPow, eq_comm]
  rw [phaseBit_cast]
  simp only [BitVec.getLsbD_or, BitVec.getLsbD_and, BitVec.getLsbD_xor, BitVec.getLsbD_not, BitVec.getLsbD_shiftLeft, BitVec.getLsbD_setWidth,
    BitVec.getLsbD_extractLsb', BitVec.getLsbD_twoPow, hmask, hpar, hi, decide_true, Bool.true_and]
  rcases (by omega : i < 16 ∨ (16 ≤ i ∧ i < 32) ∨ (32 ≤ i ∧ i < 63) ∨ i = 63) with h | ⟨h, h'⟩ | ⟨h, h'⟩ | rfl
  · simp [h, show i ≠ 63 by omega]
  · simp [show ¬i < 16 by omega, show i - 16 < 16 by omega, show i - 16 < 64 by omega, show ¬63 = i by omega, show i ≠ 63 by omega, show 16 + (i - 16) = i by omega]
  · simp [show ¬i < 16 by omega, show ¬i - 16 < 16 by omega, show ¬63 = i by omega, show i ≠ 63 by omega, hmid i h h']
  · simp

end

end

/-! ### BARV (R203, R247) -/

section
variable {s : State} {i : Instr} {x : LF} {p : Piece}

/-- The word at `p`, and the poison of its atom. -/
def wordRead (s : State) (p : Piece) : List Byte × Bool := readPiece (entered s) (boundary s).node p
def wordAt (s : State) (p : Piece) : Word := BitVec.ofNat 64 (leNat (wordRead s p).1)

theorem syncClear_of_undisturbed (h : undisturbed s [p] = true) : syncClear (entered s) (reading s) p = true := by
  simpa [undisturbed] using h

/-- With nothing of the bundle before it, there is no scale load to read first. -/
theorem scldFirst_loneFrame (n : Nat) : scldFirst (entered s) (loneFrame i n (reading s)) = some (loneFrame i n (reading s)) := by
  unfold scldFirst
  rw [show (loneFrame i n (reading s)).now.mem.drop (loneFrame i n (reading s)).pre.mem.length = [] from List.drop_length]
  rfl

/-- BARV at its word, once its release is satisfied, arrives or refuses the word. -/
theorem issueBarv_released (hu : undisturbed s [p] = true)
    (ht : targetFault (entered s) (reading s) (va48 (rdS (reading s) 3 x.a)) 8 true false = none)
    (hr : reached s .rw 8 [(va48 (rdS (reading s) 3 x.a), 8)] = some [p]) (hrel : released (entered s) (reading s) 3 = true) :
    issueBarv x (entered s) (loneFrame i 3 (reading s)) = (barNext (wordAt s p)).elim (faultAt (loneFrame i 3 (reading s)) 3 0x90 0)
      (fun new => { wrS (eat (loneFrame i 3 (reading s)) (wordRead s p).2) 3 x.d (wordAt s p) with late := [.own p (natLe 8 new.toNat) false] }) := by
  unfold issueBarv
  dsimp only
  rw [show targetFault (entered s) (loneFrame i 3 (reading s)) (va48 (rdS (loneFrame i 3 (reading s)) 3 x.a)) 8 true false = none from ht]
  refine (withPieces_ok hr).trans ?_
  dsimp only
  rw [show released (entered s) (loneFrame i 3 (reading s)) 3 = true from hrel,
    show syncClear (entered s) (loneFrame i 3 (reading s)) p = true from syncClear_of_undisturbed hu, Bool.and_self, if_pos rfl,
    scldFirst_loneFrame]
  dsimp only
  rw [show BitVec.ofNat 64 (leNat (readPiece (entered s) (loneFrame i 3 (reading s)).pre.node p).1) = wordAt s p from rfl]
  cases barNext (wordAt s p) with
  | none => rfl
  | some new => exact late_append ((late_wrS ..).trans (late_eat ..)) _

variable (hl : lone (.barv x) s = true) (hu : undisturbed s [p] = true)
  (ht : targetFault (entered s) (reading s) (va48 (rdS (reading s) 3 x.a)) 8 true false = none)
  (hr : reached s .rw 8 [(va48 (rdS (reading s) 3 x.a), 8)] = some [p]) (hrel : released (entered s) (reading s) 3 = true)
include hl hu ht hr hrel

theorem exec_barv_refused (hn : barNext (wordAt s p) = none) : exec (.barv x) s = .next (trapped s 3 0x90 0) := by
  have hf := issueBarv_released (i := .barv x) hu ht hr hrel
  rw [hn] at hf
  exact fault_run (g := issueBarv x) hf rfl hl

theorem exec_barv_arrives {new : Word} (hn : barNext (wordAt s p) = some new) :
    exec (.barv x) s = .next (thenDo s [.own p (natLe 8 new.toNat) false] (retire s (afterBundle s 3 (latS 3 (wordAt s p))
      (fun k => regS s 3 x.d (wordAt s p) (consumeIf (wordRead s p).2 k)) 0 false))) := by
  have hf := issueBarv_released (i := .barv x) hu ht hr hrel
  rw [hn] at hf
  refine (((clean_loneFrame s (.barv x) 3).eat (wordRead s p).2).wrS x.d (wordAt s p)).retires_late (g := issueBarv x) rfl hl ?_ ?_ hf
  · rw [ctl_wrS, ctl_eat]; rfl
  · rw [mem_regS, mem_consumeIf]; rfl

end

/-! ### BARW (R204, R250) -/

section
variable {s : State} {x : LF} {p : Piece}

/-- What a wait that is over leaves: 1 as an acquire, or 0. -/
def waitEnds (s : State) (n : Nat) (d : BitVec 7) (poi ok : Bool) : State :=
  if ok then retire s (afterBundle s n (latS n 1) (fun k => listed s (.acq 0xFF) (regS s n d 1 (consumeIf poi k))) 0 false)
  else retire s (afterBundle s n (latS n 0) (fun k => regS s n d 0 (consumeIf poi k)) 0 false)

/-- The frame of such a wait. -/
def waitFrame (n : Nat) (d : BitVec 7) (ok : Bool) (f : Frame) : Frame := if ok then acquire (wrS f n d 1) else wrS f n d 0

theorem LoneIssues.exec_waitEnds {i : Instr} {n : Nat} {d : BitVec 7} {poi ok : Bool}
    (h : LoneIssues s i n (waitFrame n d ok (eat (loneFrame i n (reading s)) poi))) (hl : lone i s = true) :
    exec i s = .next (waitEnds s n d poi ok) := by
  obtain ⟨hs, g, hx, hg⟩ := h
  have hc := (clean_loneFrame s i n).eat poi
  rw [hx]
  cases ok with
  | true =>
    refine (hc.wrS d 1).acquire.retires hs hl ?_ ?_ hg
    · rw [ctl_acquire, ctl_wrS, ctl_eat]; rfl
    · rw [late_acquire, late_wrS, late_eat]; rfl
  | false =>
    refine (hc.wrS d 0).retires hs hl ?_ ?_ hg
    · rw [ctl_wrS, ctl_eat]; rfl
    · rw [late_wrS, late_eat]; rfl

/-- The phase of the word is the one that BARW waits for. -/
def phaseMet (s : State) (x : LF) (p : Piece) : Bool := (wordAt s p).getLsbD 63 == (rdS (reading s) 3 x.b).getLsbD 0

/-- BARW at its word: met, not to wait, waited, or to wait. -/
theorem loneIssues_barw (hu : undisturbed s [p] = true) (hm : mayLoad s = true)
    (ht : targetFault (entered s) (reading s) (va48 (rdS (reading s) 3 x.a)) 8 true false = none)
    (hr : reached s .rd 8 [(va48 (rdS (reading s) 3 x.a), 8)] = some [p]) : LoneIssues s (.barw x) 3
      (let f := loneFrame (.barw x) 3 (reading s)
       if phaseMet s x p then waitFrame 3 x.d true (eat f (wordRead s p).2)
       else if rdS (reading s) 3 x.c = 0 then waitFrame 3 x.d false (eat f (wordRead s p).2)
       else (waitRes (reading s) 3).elim
         (parkOn (entered s) f 3 (.barw p.pl ((rdS (reading s) 3 x.b).getLsbD 0)) (deadlineOf s (rdS (reading s) 3 x.c)))
         (fun w => waitFrame 3 x.d w.ok (eat f (wordRead s p).2))) := by
  refine ⟨rfl, issueBarw x, rfl, ?_⟩
  unfold issueBarw
  dsimp only
  rw [show targetFault (entered s) (loneFrame (.barw x) 3 (reading s)) (va48 (rdS (loneFrame (.barw x) 3 (reading s)) 3 x.a)) 8 true false =
    none from ht]
  refine ((gateLoad_open hm).trans (withPieces_ok hr)).trans ?_
  dsimp only
  rw [show syncClear (entered s) (loneFrame (.barw x) 3 (reading s)) p = true from syncClear_of_undisturbed hu]
  refine (if_neg (by decide)).trans (if_congr Iff.rfl rfl (if_congr Iff.rfl rfl ?_))
  rw [show waitRes (loneFrame (.barw x) 3 (reading s)) 3 = waitRes (reading s) 3 from rfl]
  cases waitRes (reading s) 3 <;> rfl

end

/-! ### DRAIN and FENCE (R246-R249) -/

/-- A bundle that takes one place in the core's order. -/
theorem runSlot_pushMem {s : State} {i : Instr} {n : Nat} {op : MemOp} {g : State → Frame → Frame} (hs : slotOf i = some n)
    (hl : lone i s = true) (hg : g (entered s) (loneFrame i n (reading s)) = pushMem (loneFrame i n (reading s)) op) :
    runSlot i g s = .next (retire s (afterBundle s n [] (listed s op) 0 false)) :=
  ((clean_loneFrame s i n).pushMem op).retires hs hl rfl rfl hg

theorem exec_fence {s : State} {x : LF} (hl : lone (.fence x) s = true) : exec (.fence x) s = .next (retire s (
    if x.scope = 0 then passed s 3
    else afterBundle s 3 [] (listed s (if x.kind = 0 then .rel x.scope x.mask s.dram.wqNext else if x.kind = 1 then .acq x.mask
      else .full x.scope x.mask s.dram.wqNext)) 0 false)) := by
  have hg : issueFence x (entered s) (loneFrame (.fence x) 3 (reading s)) =
      if x.scope = 0 ∨ (heldRead (loneFrame (.fence x) 3 (reading s)) 3 (fun _ => true)).isSome then loneFrame (.fence x) 3 (reading s)
      else if x.kind = 0 then pushMem (loneFrame (.fence x) 3 (reading s)) (.rel x.scope x.mask s.dram.wqNext)
      else if x.kind = 1 then pushMem (loneFrame (.fence x) 3 (reading s)) (.acq x.mask)
      else pushMem (loneFrame (.fence x) 3 (reading s)) (.full x.scope x.mask s.dram.wqNext) := rfl
  rw [heldRead_none (lone_canIssue hl)] at hg
  simp only [Option.isSome_none, Bool.false_eq_true, or_false] at hg
  change runSlot (.fence x) (issueFence x) s = _
  split_ifs at hg ⊢
  · exact runSlot_nothing rfl hl hg
  · exact runSlot_pushMem rfl hl hg
  · exact runSlot_pushMem rfl hl hg
  · exact runSlot_pushMem rfl hl hg

/-! ### The obligation -/

/-- Settles O23: BARV by its word (`barNext`), BARW by its phase and its wait, DRAIN and FENCE by the entry they leave. -/
theorem orderingWords : Obligations.OrderingWords := by
  refine ⟨?_, fun s x => ⟨fun hl => runSlot_pushMem (g := fun _ => issueDrain x) rfl hl rfl, exec_fence⟩⟩
  intro s x p va r old hu
  refine ⟨?_, ?_⟩
  · intro hl ht hr hrel left expect
    refine ⟨fun h => exec_barv_refused hl hu ht hr hrel (barNext_none h), fun he hz h0 => ?_⟩
    intro par new
    refine exec_barv_arrives hl hu ht hr hrel ?_
    by_cases h1 : left = 1
    · refine (barNext_last he hz h1).trans (congrArg some ?_)
      simp only [new, par, h1, if_true, phaseBit_cast]
      rfl
    · refine (barNext_arrival he hz h0 h1).trans (congrArg some ?_)
      simp only [new, par, h1, if_false, phaseBit_cast]
      rfl
  · intro hl hm ht hr met ends
    have h := loneIssues_barw hu hm ht hr
    dsimp only at h
    have hmet : phaseMet s x p = true ↔ met := beq_iff_eq
    refine ⟨fun hy => ?_, fun hn hc => ?_, fun w hn hc hw => ?_, fun hn hc hpark => ?_⟩
    · rw [if_pos (hmet.2 hy)] at h
      exact h.exec_waitEnds hl
    · rw [if_neg (hmet.not.2 hn), if_pos hc] at h
      exact h.exec_waitEnds hl
    · rw [if_neg (hmet.not.2 hn), if_neg hc, hw] at h
      exact h.exec_waitEnds hl
    · have hw : waitRes (reading s) 3 = none := by
        unfold waitRes
        rw [show (reading s).pre.park = none from hpark]
      rw [if_neg (hmet.not.2 hn), if_neg hc, hw] at h
      exact h.exec_parks hl hpark

end Sys2Proof.Machine
end


section
/-! PORT, LAUNCH and CKPT (R205, R209, R345, R401), and the obligation on them (O25). -/

namespace Sys2Proof.Machine
open Sys2Proof

/-! ### A bundle that reads a card -/

/-- A token register and a place in the order of issue. -/
theorem Clean.oweToken {s : State} {i : Instr} {n : Nat} {lat : SMap Vec} {w : Core → Core} {f : Frame} (h : Clean s i n lat w 0 false f)
    (d : BitVec 7) : Clean s i n lat (fun k => tokened d (w k)) 0 false (Machine.oweToken f d) := by
  refine h.put lat _ (tokened d) ?_
  rw [h.wrote.now]
  rfl

section
variable {s : State} {x : RF} {ps : List Piece} {r : List Byte × Bool}

/-- The job that PORT puts into its cluster's queue (R205). -/
def portJob (s : State) (x : RF) (card : List Byte) : PJob :=
  ⟨s.cur, x.d.toNat, hdrColour s.hdr, card, (boundary s).memNext, false, 0, 0, none, (boundary s).level, s.now⟩

theorem exec_port (hl : lone (.port x) s = true) (hcard : cardAt s (rdS (reading s) 4 x.a) 64 64 = some (ps, r))
    (hq : (cluster (entered s) (Config.clusterOf s.cur)).jobs.length < 64)
    (hown : ((cluster (entered s) (Config.clusterOf s.cur)).jobs.filter (fun j => j.core == s.cur)).length < 16) :
    exec (.port x) s = .next (thenDo s [.touch ps, .porter (portJob s x r.1)] (retire s (afterBundle s 4 [] (tokened x.d) 0 false))) := by
  have hg : issuePort x (entered s) (loneFrame (.port x) 4 (reading s)) = { oweToken (loneFrame (.port x) 4 (reading s)) x.d with
      late := [.touch ps, .porter (portJob s x r.1)], reads := [(4, r)] } := by
    refine (readCard_eq (lone_canIssue hl) hcard).trans ?_
    rw [if_neg (by rw [show (entered s).cur = s.cur from rfl]; omega)]
    rfl
  exact ((clean_loneFrame s (.port x) 4).oweToken x.d).retires_writes (g := issuePort x) rfl hl rfl rfl hg

/-- Where the answer of LAUNCH or CKPT goes. -/
def answerDst (x : RF) : LateDst := ⟨.s, [x.d.toNat], 64, 1, false, 4, false⟩

/-- LAUNCH and CKPT read their descriptor, release at DEVICE, and wait for their answer (R345, R401). -/
theorem runSlot_issueDesc {i : Instr} {g : State → Frame → Frame} {len : Nat} {op : List Byte → LateDst → MemOp} (hs : slotOf i = some 4)
    (hl : lone i s = true) (hcard : cardAt s (rdS (reading s) 4 x.a) 64 len = some (ps, r))
    (hg : g (entered s) (loneFrame i 4 (reading s)) = issueDesc (entered s) (loneFrame i 4 (reading s)) x len op) :
    runSlot i g s = .next (
      thenDo s [.touch ps] (retire s (afterBundle s 4 []
        (fun k => requested s (op r.1 (answerDst x)) (answerDst x) (listed s (.rel 3 0xFF s.dram.wqNext) (consumeIf r.2 k))) 0 false))) := by
  have hc := (((clean_loneFrame s i 4).eat r.2).pushMem (.rel 3 0xFF s.dram.wqNext)).pushLate (op r.1 (answerDst x)) (answerDst x)
  have hx : g (entered s) (loneFrame i 4 (reading s)) =
      { pushLate (pushMem (eat (loneFrame i 4 (reading s)) r.2) (.rel 3 0xFF s.dram.wqNext)) (op r.1 (answerDst x)) (answerDst x) with
        late := [.touch ps], reads := [(4, r)] } := by
    refine hg.trans ((readCard_eq (lone_canIssue hl) hcard).trans ?_)
    cases r.2 <;> rfl
  refine hc.retires_writes hs hl ?_ ?_ hx
  · exact (ctl_eat ..).trans rfl
  · unfold acquireHolds
    dsimp only
    rw [hc.wrote.park]
    rfl

end

/-- Settles O25: each of the three reads its card (`readCard_eq`), and what it adds to the core and does after its commit follows. -/
theorem jobsAndLaunches : Obligations.JobsAndLaunches := by
  refine ⟨?_, ?_⟩
  · intro s x ps r hl hcard jobs hq hown k
    exact exec_port hl hcard hq hown
  · intro s x ps r ea d out
    exact ⟨fun hl hcard => runSlot_issueDesc (g := issueLaunch x) rfl hl hcard rfl,
      fun hl hcard => runSlot_issueDesc (g := issueCkpt x) (op := .ckpt) rfl hl hcard rfl⟩

end Sys2Proof.Machine
end


section
/-! What memory returns to a core (R196-R200, R234, R235, R265, R269, R282, R283, R345, R401), and the obligation on it (O39). -/

namespace Sys2Proof.Machine
open Sys2Proof

/-! ### The atoms of a load -/

/-- The access of a load with more atoms to read takes what the last one gave. -/
def moreAtoms (id : Nat) (rest : List Piece) (d : LateDst) (got : List Byte) (poi : Bool) (k : Core) : Core :=
  { k with mem := k.mem.map (fun e => if e.id == id then { e with op := .load rest d got poi } else e) }

/-- Where memory's answer goes where no exposed result waits for it. -/
def valueOf (id : Nat) (d : LateDst) (bs : List Byte) (poi : Bool) (k : Core) : Core := answered k id (arrive · id d bs poi) bs poi

section
variable {s t : State} {c id : Nat} {e : MemEnt} {ps rest : List Piece} {p : Piece} {d : LateDst} {got : List Byte} {poi : Bool}
  {fin : List Byte → Bool → Core → Core}

theorem readNext_done : readNext s c id [] d got poi fin = some (onCore s c (fin got poi)) := rfl

theorem readNext_atom (hent : memEnt (coreAt s c) id = some e) (hn : nextAtom ps = some (p, rest))
    (hg : gateAged (ageOf (coreAt s c) e) s (coreAt s c).node [p] = some t) :
    readNext s c id ps d got poi fin = some (
      let r := readPiece t (coreAt t c).node p
      onCore t c (fun k => if rest.isEmpty then fin (got ++ r.1) (poi || r.2) k else moreAtoms id rest d (got ++ r.1) (poi || r.2) k)) := by
  unfold readNext
  rw [hn, hent]
  exact congrArg (Option.map _) hg

/-- A load whose exposed results wait for it fills them. -/
theorem arrivalData_eq {kind : ExpKind} (hent : memEnt (coreAt s c) id = some e) (hop : e.op = .load ps d got poi)
    (hmay : mayPerform s c id = true) (haw : awaits (coreAt s c) (some kind) id = true) :
    arrivalData s c id kind = readNext s c id ps d got poi (fun bs b k => fillExposed k id bs b) := by
  unfold arrivalData
  dsimp only
  rw [hent]
  cases e with
  | mk _ _ op =>
    obtain rfl : op = _ := hop
    dsimp only
    rw [hmay, haw]
    rfl

end

/-! ### Responses (R196, R200, R345, R401) -/

/-- The answer of LAUNCH or CKPT reaches its destination, and its access is over. -/
def answeredWith (c id : Nat) (r : Word × State) (d : LateDst) : State :=
  dropMem (onCore r.2 c (fun k => arrive k id d (natLe 8 r.1.toNat) false)) c id

section
variable {s : State} {c : Nat} {e : MemEnt} (hent : memEnt (coreAt s c) e.id = some e) (hmay : mayPerform s c e.id = true)
  (haw : awaits (coreAt s c) none e.id = false)
include hent hmay haw

theorem respond_load {ps : List Piece} {d : LateDst} {got : List Byte} {poi : Bool} (hop : e.op = .load ps d got poi) :
    respond s c e.id = readNext s c e.id ps d got poi (valueOf e.id d) := by
  unfold respond
  dsimp only
  rw [hent]
  dsimp only
  rw [hmay, haw, hop]
  rfl

theorem respond_atom {a : AtomKind} {ty : ETy} {p : Piece} {x y : Nat} {d : LateDst} {ev : Option Nat}
    (hop : e.op = .atom a ty p x y d ev) : respond s c e.id = respondAtom s c e a ty p x y d ev := by
  unfold respond
  dsimp only
  rw [hent]
  dsimp only
  rw [hmay, haw, hop]
  rfl

theorem respond_launch {q : Nat} {h : Bool} {desc : List Byte} {d : LateDst} (hop : e.op = .launch q h desc d)
    (hgo : (launchRefused s c q h).isSome = true ∨ writeGate s none false (launchPiece s q).pl = .go) :
    respond s c e.id = some (answeredWith c e.id (performLaunch s c q h desc) d) := by
  have hgate : (if (launchRefused s c q h).isSome = true then .go else writeGate s none false (launchPiece s q).pl) = .go := by
    rcases hgo with href | hw
    · exact if_pos href
    · rw [hw, ite_self]
  unfold respond
  dsimp only
  rw [hent]
  dsimp only
  rw [hmay, haw, hop]
  dsimp only
  rw [hgate]
  rfl

theorem respond_ckpt {desc : List Byte} {d : LateDst} (hop : e.op = .ckpt desc d) :
    respond s c e.id =
      (if (ctxLoad s (coreAt s c).csr.ctxid).sched.ckpt.isSome ∨ !ckptOk (ctxLoad s (coreAt s c).csr.ctxid) desc then
        some (ctxLoad s (coreAt s c).csr.ctxid)
       else newGate (ctxLoad s (coreAt s c).csr.ctxid) none (cutBytes (ctxLoad s (coreAt s c).csr.ctxid) (coreAt s c).csr.ctxid desc)).map
        (fun s => answeredWith c e.id (performCkpt s c desc) d) := by
  unfold respond
  dsimp only
  rw [hent]
  dsimp only
  rw [hmay, haw, hop]
  rfl

end

theorem respondAtom_performs {s t : State} {c : Nat} {e : MemEnt} {a : AtomKind} {ty : ETy} {p : Piece} {x y : Nat} {d : LateDst}
    {ev : Option Nat} (hg : gateAged (ageOf (coreAt s c) e) s (coreAt s c).node [p] = some t)
    (hw : writeGate t (coreAt s c).node false p.pl = .go) :
    respondAtom s c e a ty p x y d ev = some (
      let k := coreAt s c
      let r := performAtom t (.core c e.id e.colour) k.node a ty p x y
      let u := onCore r.2.2 c (fun k => arrive k e.id d r.1 r.2.1)
      let v := if (atomNew a ty (leNat (readPiece t k.node p).1) x y).isSome then settle u c e.id p else dropMem u c e.id
      ev.elim v (fun n => setEvent v k.node n 4)) := by
  unfold respondAtom
  dsimp only
  rw [hg]
  dsimp only
  rw [hw]
  cases ev <;> rfl

/-- A checkpoint that is refused, or whose cut may be read, is answered. -/
theorem respond_ckpt_refused {s : State} {c : Nat} {e : MemEnt} {desc : List Byte} {d : LateDst}
    (hent : memEnt (coreAt s c) e.id = some e) (hmay : mayPerform s c e.id = true) (haw : awaits (coreAt s c) none e.id = false)
    (hop : e.op = .ckpt desc d)
    (href : (ctxLoad s (coreAt s c).csr.ctxid).sched.ckpt ≠ none ∨ ckptOk (ctxLoad s (coreAt s c).csr.ctxid) desc = false) :
    respond s c e.id = some (answeredWith c e.id (performCkpt (ctxLoad s (coreAt s c).csr.ctxid) c desc) d) := by
  rw [respond_ckpt hent hmay haw hop, if_pos (by simpa [Option.isSome_iff_ne_none] using href)]
  rfl

theorem respond_ckpt_taken {s t : State} {c : Nat} {e : MemEnt} {desc : List Byte} {d : LateDst}
    (hent : memEnt (coreAt s c) e.id = some e) (hmay : mayPerform s c e.id = true) (haw : awaits (coreAt s c) none e.id = false)
    (hop : e.op = .ckpt desc d) (hnone : (ctxLoad s (coreAt s c).csr.ctxid).sched.ckpt = none)
    (hok : ckptOk (ctxLoad s (coreAt s c).csr.ctxid) desc = true)
    (hg : newGate (ctxLoad s (coreAt s c).csr.ctxid) none (cutBytes (ctxLoad s (coreAt s c).csr.ctxid) (coreAt s c).csr.ctxid desc) = some t) :
    respond s c e.id = some (answeredWith c e.id (performCkpt t c desc) d) := by
  rw [respond_ckpt hent hmay haw hop, if_neg (by simp [hnone, hok]), hg]
  rfl

/-- The cycles after which an access that has not completed times out. -/
theorem accessTimeout_eq : Config.accessTimeout = 2 ^ 20 := rfl

/-! ### The boundary, CPUB and instruction lines (R198, R235, R265, R269) -/

section
variable {s : State} {c : Nat} (hp : s.host.power = true)
include hp

theorem landingTimeout_next (hf : frozen (coreAt s c) = true) (ht : 2 ^ 20 ≤ (coreAt s c).freeze) :
    exec (.landingTimeout c) s = .next (
      let k := coreAt s c
      setCore s c { k with
        exposed := k.exposed.filter (fun x => !(x.off == 1 && x.data.isNone)),
        mem := k.mem.filter (fun e => !(k.exposed.filter (fun x => x.off == 1 && x.data.isNone)).any (fun x => x.id == e.id)),
        freeze := 0, postTrap := k.postTrap ++ [(k.level, 0x13, trec 0 0 false)] }) :=
  event_next hp (by rw [hf]; exact decide_eq_true ht)

theorem xselLanding_next {x : Exposed} {rest : List Exposed}
    (hx : (coreAt s c).exposed.filter (fun x => x.off == 1 && x.dst.file == .x) = x :: rest) (hk : x.kind = .xsel)
    (hl : landable s c = true) : exec (.xselLanding c x.id) s = .next
      (setCore s c (landOne (coreAt s c) { coreAt s c with exposed := (coreAt s c).exposed.erase x } x)) := by
  refine eventO_some hp ?_
  rw [hx]
  exact if_pos (by simp [hk, hl])

theorem cpubEnd_next {j : Cpub} (hj : (coreAt s c).cpub = some j)
    (hw : ∀ w ∈ j.waits, ∀ e ∈ (coreAt s c).mem, e.id = w → e.acc = true) (hjobs : jobsInto s c j = false)
    (hcasts : castsInto s c j = false) (hleaf : leafHeld s c j = false) : exec (.cpubEnd c) s = .next (cpubEnd s c j) := by
  have hdone : j.waits.any (fun w => (coreAt s c).mem.any (fun e => e.id == w && !e.acc)) = false := by
    simp only [List.any_eq_false, Bool.and_eq_true, beq_iff_eq, Bool.not_eq_true', not_and, Bool.not_eq_false, Bool.not_eq_true]
    exact fun w hmem e he hid => hw w hmem e he hid
  refine eventO_some hp ?_
  rw [hj]
  dsimp only [Option.bind_some]
  rw [hdone, hjobs, hcasts, hleaf]
  rfl

section
variable {va : Nat} (hmiss : (coreAt s c).fetchMiss = some va)
include hmiss

theorem icacheFill_fault {cause info : Nat} (hx : xlCore s c (coreAt s c) va .ex = .fault cause info) :
    exec (.icacheFill c) s = .next
      (setCore s c { coreAt s c with fetchMiss := none, fetchFault := some (cause, info), xlFault := none }) := by
  refine eventO_some hp ?_
  unfold icacheFill
  dsimp only
  rw [hmiss]
  dsimp only [Option.bind_some]
  rw [hx]

omit hp in
/-- A line that translates, and whose row stands open, is read: a fault is kept for the bundle, the line filled. -/
theorem icacheFill_read {pl : Place} {disc : Bool} {e : TlbEnt} {t : State} (hx : xlCore s c (coreAt s c) va .ex = .ok pl disc (some e))
    (hg : newGate s (coreAt s c).node [Piece.mk pl 64 disc] = some t) :
    icacheFill s c = some (match fetchLine t (coreAt s c).node e va with
      | .error cause => setCore t c { coreAt s c with fetchMiss := none, fetchFault := some (cause, 0) }
      | .ok (q, bs) => setCore t c { coreAt s c with
          fetchMiss := none, ic := ((coreAt s c).ic ++ [IcLine.mk va q bs]).drop ((coreAt s c).ic.length + 1 - 512) }) := by
  unfold icacheFill
  dsimp only
  rw [hmiss]
  dsimp only [Option.bind_some]
  rw [hx]
  dsimp only
  rw [hg]
  rfl

end

/-! ### Walks (R282, R283) -/

theorem pageWalk_next {cl i : Nat} {w : Walk} {t : State} (hi : i < 16) (hw : (cluster s cl).walks[i]? = some w)
    (hn : walkNext s cl w = some t) : exec (.pageWalk cl i) s = .next t := by
  refine eventO_some hp ?_
  rw [if_neg (Nat.not_le.2 hi), hw]
  exact hn

theorem walkTimeout_next {cl i : Nat} {w : Walk} (hcl : cl ≠ 24) (hi : i < 16) (hw : (cluster s cl).walks[i]? = some w)
    (ht : w.since + 2 ^ 20 ≤ s.now) : exec (.walkTimeout cl i) s = .next (walkEnd s cl w (.error (0x1C, w.lev))) := by
  refine eventO_some hp ?_
  rw [if_neg hcl, if_neg (Nat.not_le.2 hi), hw, Option.bind_some, accessTimeout_eq, if_pos ht]

theorem walkTimeout_unattended (i : Nat) : exec (.walkTimeout 24 i) s = .next (onSched s (fun h => { h with walkHang := i == 0 })) :=
  eventO_some hp (if_pos rfl)

end

/-- The table in which a walk makes its next load. -/
def walkBase (s : State) (w : Walk) : Nat :=
  if w.lev = 0 then ((ctxEntry s w.ctx).1.extractLsb' 12 27).toNat * 2 ^ 12 else w.base

/-- What one load of a walk makes of it. -/
def walkStepped (t : State) (cl : Nat) (w : Walk) (level : Nat) : WalkStep → State
  | .stop cause => walkEnd t cl w (.error (cause, level))
  | .leaf e => walkEnd t cl w (.ok (level, e))
  | .down b => setCluster t cl (fun u => { u with walks := u.walks.map (fun o =>
      if o == w then { w with lev := w.lev + 1, base := b, since := t.now } else o) })

section
variable {s t : State} {cl : Nat} {w : Walk}

/-- The device reads the entry of a context that it does not hold. -/
theorem walkNext_context (hheld : ctxHeld s w.ctx = false) (hg : newGate s none [Piece.mk (.dmem (ctxAddr s w.ctx)) 64 true] = some t) :
    walkNext s cl w = some (setCluster (ctxLoad t w.ctx) cl (fun u => { u with
      walks := u.walks.map (fun o => if o == w then { w with since := t.now } else o) })) := by
  unfold walkNext
  rw [if_pos (by rw [hheld]; rfl), hg]
  rfl

theorem walkNext_noRoot (hheld : ctxHeld s w.ctx = true) (hroot : (ctxEntry s w.ctx).1.getLsbD 0 = false) :
    walkNext s cl w = some (walkEnd s cl w (.error (0x18, 0))) := by
  unfold walkNext
  rw [if_neg (by rw [hheld]; decide)]
  dsimp only
  rw [if_pos (by rw [hroot]; rfl)]

theorem walkNext_level (hheld : ctxHeld s w.ctx = true) (hroot : (ctxEntry s w.ctx).1.getLsbD 0 = true) {lev : Nat × Nat × Nat}
    (hlev : levels[w.lev]? = some lev) (hg : newGate s none [Piece.mk (.dmem (walkAt w.va (walkBase s w) lev)) 8 true] = some t) :
    walkNext s cl w = some (walkStepped t cl w lev.1 (walkLoad t w.va (walkBase s w) lev)) := by
  unfold walkNext
  rw [if_neg (by rw [hheld]; decide)]
  dsimp only
  rw [if_neg (by rw [hroot]; decide), hlev]
  refine (congrArg (Option.map _) hg).trans (congrArg some ?_)
  unfold walkBase
  beta_reduce
  cases walkLoad t w.va (if w.lev = 0 then ((ctxEntry s w.ctx).1.extractLsb' 12 27).toNat * 2 ^ 12 else w.base) lev <;> rfl

end

/-- Settles O39: each answer of memory is the event of its kind, unfolded where its guard holds. -/
theorem memoryAnswers : Obligations.MemoryAnswers := by
  refine fun s c hp => ⟨fun e ps d got poi hent hop hmay => ?_, fun e a ty p x y d ev t hent hop hmay haw hg hw => ?_,
    fun e hent hmay haw => ⟨fun q h desc d hop hgo => ?_, fun desc d hop => ⟨fun href => ?_, fun hnone hok t hg => ?_⟩⟩,
    landingTimeout_next hp, fun x rest => xselLanding_next hp, fun j => cpubEnd_next hp,
    fun va hmiss => ⟨fun cause info => icacheFill_fault hp hmiss, fun pl disc e t hx hg => ?_⟩,
    fun cl i w hi hw => ⟨fun t hheld hg => ?_, fun hheld => ⟨fun hroot => ?_, fun hroot lev t hlev hg => ?_⟩,
      fun hcl => walkTimeout_next hp hcl hi hw⟩, walkTimeout_unattended hp⟩
  · have harr {kind : ExpKind} := arrivalData_eq (kind := kind) hent hop hmay
    refine ⟨?_, fun p rest t hn hg => ?_⟩
    · rintro rfl
      exact ⟨⟨fun ha => eventO_some hp ((harr ha).trans readNext_done), fun ha => eventO_some hp ((harr ha).trans readNext_done)⟩,
        fun haw => eventO_some hp ((respond_load hent hmay haw hop).trans readNext_done)⟩
    · exact ⟨⟨fun ha => eventO_some hp ((harr ha).trans (readNext_atom hent hn hg)),
          fun ha => eventO_some hp ((harr ha).trans (readNext_atom hent hn hg))⟩,
        fun haw => eventO_some hp ((respond_load hent hmay haw hop).trans (readNext_atom hent hn hg))⟩
  · refine (eventO_some hp ((respond_atom hent hmay haw hop).trans (respondAtom_performs hg hw))).trans ?_
    cases ev <;> rfl
  · exact eventO_some hp (respond_launch hent hmay haw hop hgo)
  · exact eventO_some hp (respond_ckpt_refused hent hmay haw hop href)
  · exact eventO_some hp (respond_ckpt_taken hent hmay haw hop hnone hok hg)
  · refine ⟨fun cause hf => eventO_some hp ((icacheFill_read hmiss hx hg).trans ?_),
      fun q bs hf => eventO_some hp ((icacheFill_read hmiss hx hg).trans ?_)⟩ <;> rw [hf]
  · exact pageWalk_next hp hi hw (walkNext_context hheld hg)
  · exact pageWalk_next hp hi hw (walkNext_noRoot hheld hroot)
  · refine (pageWalk_next hp hi hw (walkNext_level hheld hroot hlev hg)).trans ?_
    unfold walkBase
    cases walkLoad t w.va (if w.lev = 0 then ((ctxEntry s w.ctx).1.extractLsb' 12 27).toNat * 2 ^ 12 else w.base) lev <;> rfl

end Sys2Proof.Machine
end


section
/-! The Porter's jobs (R205-R209, R395), and the obligation on them (O40). -/

namespace Sys2Proof.Machine
open Sys2Proof

section
variable {s : State} {cl i : Nat} {j : PJob} (hp : s.host.power = true) (hj : (cluster s cl).jobs[i]? = some j)
include hp hj

theorem porterJobStart_next (hst : j.started = false) (hfew : ((cluster s cl).jobs.filter (·.started)).length < 4)
    (hedge : jobHeld s j = false) (hown : ownBefore s j.core j.after = false)
    (hturn : ∀ o ∈ (cluster s cl).jobs.take i, o.started = true ∨ jobHeld s o = true) :
    exec (.porterJobStart cl i) s = .next (setJob s cl i (fun j =>
      { j with started := true, since := s.now, cause := if pOk j.card then none else some 0x70 })) := by
  have hfirst : ((cluster s cl).jobs.take i).any (fun o => !o.started && !jobHeld s o) = false := by
    rw [List.any_eq_false]
    intro o ho
    rcases hturn o ho with h | h <;> simp [h]
  refine eventO_some hp ?_
  unfold porterStart
  dsimp only
  rw [hj, Option.bind_some, hst, decide_eq_false (Nat.not_le.2 hfew), hedge, hown, hfirst]
  rfl

/-! ### Runs (R207) -/

/-- A job that has a run to make, and may read and write now. -/
structure RunMay (s : State) (j : PJob) : Prop where
  started : j.started = true
  going : j.cause = none
  left : j.run < pRuns j.card
  reads : jobMay s j.core j.after j.colour true = true
  writes : jobMay s j.core j.after j.colour false = true

omit hp hj in
theorem RunMay.open_ (h : RunMay s j) : (!j.started || j.cause.isSome || decide (pRuns j.card ≤ j.run) || !jobMay s j.core j.after j.colour true ||
    !jobMay s j.core j.after j.colour false) = false := by
  rw [h.started, h.going, decide_eq_false (Nat.not_le.2 h.left), h.reads, h.writes]
  rfl

/-- The source of a job's next run: none where it fills. -/
def runSource (s : State) (j : PJob) : EngParts :=
  engParts s j.core j.after j.handler .rd (chunks (pSrc j.card j.run) (pRun j.card))

/-- A copy whose source does not translate stops with the cause. -/
theorem porterRun_faults (h : RunMay s j) {src : List Piece} {x : Nat} (hcopy : pFill j.card = false)
    (hsrc : runSource s j = .hit src (some x)) : exec (.writePerformed (.porter cl i)) s =
      .next (setJob (engTold s j.core j.after) cl i (fun j => { j with cause := some x })) := by
  unfold runSource at hsrc
  refine eventO_some hp ?_
  dsimp only
  unfold porterRun
  rw [hj, Option.bind_some]
  dsimp only
  rw [if_neg (ne_true_of_eq_false h.open_), hcopy, if_neg Bool.false_ne_true, hsrc]

/-- A run whose bytes are read is written as far as its destination translates. -/
theorem porterRun_writes (h : RunMay s j) {src dst : List Piece} {t : State} {x : Option Nat}
    (hsrc : if pFill j.card = true then src = [] else runSource s j = .hit src none)
    (hread : newGate s (coreAt s j.core).node src = some t)
    (hdst : engParts t j.core j.after j.handler .wr (chunks (pDst j.card j.run) (pRun j.card)) = .hit dst x)
    (hwrite : writeGates t (coreAt s j.core).node true dst = .go) :
    exec (.writePerformed (.porter cl i)) s = .next (
      let node := (coreAt s j.core).node
      let cells := if pFill j.card then fillCells j.card else cellsOf t node src
      setJob (putAll j.writer node dst cells (if x.isSome then engTold t j.core j.after else t)) cl i (fun j =>
        { j with run := if x.isSome then j.run else j.run + 1, bytes := j.bytes + (dst.map (·.len)).sum, cause := x, since := t.now })) := by
  have hfound : (if pFill j.card = true then EngParts.hit [] none else runSource s j) = .hit src none := by
    cases hf : pFill j.card <;> rw [hf] at hsrc
    · exact hsrc
    · obtain rfl : src = [] := hsrc
      rfl
  unfold runSource at hfound
  refine eventO_some hp ?_
  dsimp only
  unfold porterRun
  rw [hj, Option.bind_some]
  dsimp only
  rw [if_neg (ne_true_of_eq_false h.open_), hfound]
  dsimp only
  rw [hread]
  dsimp only
  rw [hdst]
  dsimp only
  rw [hwrite]

/-! ### The end of a job (R208, R395) -/

/-- What a Porter write that times out still waited for. -/
def runPieces (s : State) (j : PJob) : List Piece :=
  (pages (pDst j.card j.run) (pRun j.card)).filterMap (fun e =>
    match xlEngine s j.core j.after j.handler (e.1 % 2 ^ 48) .wr with
    | .ok p d _ => some (Piece.mk p e.2 d)
    | _ => none)

theorem portTimeout_next (hst : j.started = true) (hgo : j.cause = none) (hleft : j.run < pRuns j.card)
    (ht : j.since + 2 ^ 20 ≤ s.now) : exec (.portTimeout cl i) s = .next
      (endWaits (setJob s cl i (fun j => { j with cause := some 0x71 })) (coreAt s j.core).node (runPieces s j)) := by
  refine eventO_some hp ?_
  rw [hj, Option.bind_some, accessTimeout_eq, hst, hgo, decide_eq_true hleft, decide_eq_true ht]
  rfl

theorem porterJobEnd_next (hst : j.started = true) (hover : j.cause ≠ none ∨ pRuns j.card ≤ j.run) (hbank : unbanked s j.writer = false)
    (hmay : jobMay s j.core j.after j.colour true = true) : exec (.porterJobEnd cl i) s = .next (
      let r := if j.cause = none ∧ pArrive j.card ≠ 0 then porterArrive s j else (j.cause, s)
      writeToken (setCluster r.2 cl (fun u => { u with jobs := u.jobs.eraseIdx i })) j.core j.tok 2 (tokenWord r.1 1 j.bytes)) := by
  have hdone : (j.cause.isNone && decide (j.run < pRuns j.card)) = false := by
    rcases hover with h | h
    · simp [Option.isNone_eq_false_iff.2 (Option.isSome_iff_ne_none.2 h)]
    · simp [Nat.not_lt.2 h]
  have harrive : ((j.cause.isNone && pArrive j.card != 0) = true) = (j.cause = none ∧ pArrive j.card ≠ 0) := by simp
  refine eventO_some hp ?_
  unfold porterEnd
  rw [hj, Option.bind_some, hst, hdone, hbank, hmay, if_neg (by decide)]
  dsimp only
  simp only [harrive]

end

/-- Settles O40: a Porter job makes each of its events where its guard holds. -/
theorem porterRuns : Obligations.PorterRuns := fun _ _ _ _ hp hj =>
  ⟨porterJobStart_next hp hj,
   fun hst hgo hleft hr hw =>
     ⟨fun _ _ => porterRun_faults hp hj ⟨hst, hgo, hleft, hr, hw⟩, fun _ _ _ _ => porterRun_writes hp hj ⟨hst, hgo, hleft, hr, hw⟩⟩,
   portTimeout_next hp hj, porterJobEnd_next hp hj⟩

end Sys2Proof.Machine
end


section
/-! The array and the drain unit (R209, R214-R229, R236, R355, R367, R395), and the obligation on them (O41). -/

namespace Sys2Proof.Machine
open Sys2Proof

/-! ### Matrix jobs (R209, R216, R223-R225) -/

section
variable {s : State} {c : Nat} {o : MxOp} (hp : s.host.power = true)
include hp

theorem mjobStart_next (ho : arrayHead (coreAt s c) = some o) (hk : o.kind = .mjob) (hst : o.started = false)
    (hedge : edgeHeld s c o.after (mxFoot o) = false) (hown : ownBefore s c o.after = false) :
    exec (.mjobStart c) s = .next (
      let t := setMx s c o (fun e => { e with started := true, since := s.now })
      askRows (if cZero o.card = true ∧ cResumed o.card = false then
        onCore t c (fun k => (cTiles o.card).foldl (fun k n => clearTiles k n 1) k) else t) c o) := by
  have hzero : ((cZero o.card && !cResumed o.card) = true) = (cZero o.card = true ∧ cResumed o.card = false) := by simp
  refine eventO_some hp ?_
  unfold mjobStart
  rw [ho, Option.bind_some, hk, hst, hedge, hown, if_neg (by decide)]
  dsimp only
  simp only [hzero]

/-- The slab that a job adds: the core's tiles with it, its flags. -/
def slabSum (c : Nat) (o : MxOp) (x : Slab) : Core × Fl := addSlab (coreAt x.st c) o.card (slabIx o.card o.prog) x

/-- The state once a slab is added, and its rows taken out of the buffers of their links. -/
def slabTaken (s : State) (c : Nat) (o : MxOp) (x : Slab) : Option State :=
  ((rowDevs s o.card).1.toList ++ (rowDevs s o.card).2.toList).foldl
    (fun u _ => u.bind (fun u => rxTake u (linkPrio s (coreAt s c).node) 192))
    (some (setCore x.st c ((List.range x.poi).foldl (fun k _ => consume k) (slabSum c o x).1)))

section
variable (ho : runningJob s c = some o)
include ho

theorem slabEnd_next {far : FarOperands} {x : Slab} {u : State} (hleft : o.prog < cSlabs o.card) (hgo : o.cause = none)
    (hmay : mxMay s c o.after o.at_ o.colour false = true) (hf : fetchSlab s c o far = .ok x) (hu : slabTaken s c o x = some u) :
    exec (.slabEnd c far) s = .next (askRows (setMx u c o (fun e =>
      { e with prog := e.prog + 1, slabs := e.slabs + 1, flags := e.flags ||| (slabSum c o x).2, since := s.now })) c
      { o with prog := o.prog + 1 }) := by
  refine eventO_some hp ?_
  unfold slabEnd
  rw [ho, Option.bind_some, if_neg (by simp [hleft, hgo, hmay]), hf]
  exact congrArg (Option.map _) hu

end

/-! ### The card write that ends a job, and its token (R223-R225, R252) -/

section
omit hp

theorem mjobFinish_token (cause : Option Nat) (hrows : o.rows = 0) : mjobFinish s c o cause none = some (mjobToken s c o cause) :=
  if_pos hrows

/-- A job whose card is written gives its token once the write is banked. -/
theorem mjobFinish_banked (cause : Option Nat) (bs : Option (List Byte)) (hrows : o.rows ≠ 0) (hbank : unbanked s (o.writer c) = false) :
    mjobFinish s c o cause bs = some (mjobToken s c o o.cause) :=
  (if_neg hrows).trans (if_neg (ne_true_of_eq_false hbank))

/-- An event that writes bytes to the card of a job, and ends its work with a cause or none. -/
structure EndsWith (s : State) (c : Nat) (o : MxOp) (bs : List Byte) (cause : Option Nat) (a : Instr) : Prop where
  wrote : ∀ u, progressWrite s c o bs = (.ok .go, u) → exec a s = .next (setMx u c o (fun e => { e with rows := 1, cause := cause }))
  refused : ∀ u x, progressWrite s c o bs = (.error x, u) →
    exec a s = .next (setMx u c o (fun e => { e with rows := 1, cause := some x }))

include hp in
theorem endsWith_of_finish {name : String} {a : Instr} {cause : Option Nat} {bs : List Byte}
    (ha : exec a s = eventO name s (mjobFinish s c o cause (some bs))) (hrows : o.rows = 0)
    (hmay : mxMay s c o.after o.at_ o.colour true = true) : EndsWith s c o bs cause a := by
  refine ⟨fun u hw => ha.trans (eventO_some hp ?_), fun u x hw => ha.trans (eventO_some hp ?_)⟩
  all_goals
    unfold mjobFinish
    rw [if_pos hrows]
    dsimp only
    rw [hmay, if_neg (by decide), hw]

end

section
variable (ho : runningJob s c = some o)
include ho

omit hp in
/-- A job that has added its slabs ends with the write of its card where it was resumed. -/
theorem mjobEnd_eq (hdone : cSlabs o.card ≤ o.prog) : exec (.mjobEnd c) s = eventO "MJOB_END" s
    (mjobFinish s c o none (if cResumed o.card then some (List.replicate 16 0) else none)) := by
  refine congrArg (eventO "MJOB_END" s) ?_
  rw [ho, Option.bind_some, if_pos hdone]

theorem mjobEnd_fresh (hdone : cSlabs o.card ≤ o.prog) (hrows : o.rows = 0) (hres : cResumed o.card = false) :
    exec (.mjobEnd c) s = .next (mjobToken s c o none) := by
  rw [mjobEnd_eq ho hdone, hres]
  exact eventO_some hp (mjobFinish_token none hrows)

theorem mjobEnd_resumed (hdone : cSlabs o.card ≤ o.prog) (hrows : o.rows = 0) (hres : cResumed o.card = true)
    (hmay : mxMay s c o.after o.at_ o.colour true = true) : EndsWith s c o (List.replicate 16 0) none (.mjobEnd c) :=
  endsWith_of_finish hp (by rw [mjobEnd_eq ho hdone, hres]; rfl) hrows hmay

theorem mjobEnd_banked (hdone : cSlabs o.card ≤ o.prog) (hrows : o.rows ≠ 0) (hbank : unbanked s (o.writer c) = false) :
    exec (.mjobEnd c) s = .next (mjobToken s c o o.cause) := by
  rw [mjobEnd_eq ho hdone]
  exact eventO_some hp (mjobFinish_banked _ _ hrows hbank)

theorem mjobFaultStop_banked (hleft : o.prog < cSlabs o.card) (hrows : o.rows ≠ 0) (hbank : unbanked s (o.writer c) = false) :
    exec (.mjobFaultStop c none) s = .next (mjobToken s c o o.cause) := by
  refine eventO_some hp ?_
  unfold mjobStop
  rw [ho, Option.bind_some, if_neg (Nat.not_le.2 hleft), if_pos hrows]
  exact mjobFinish_banked _ _ hrows hbank

/-- No bytes from other modules. -/
def noFar (o : MxOp) : FarOperands :=
  ⟨List.replicate (64 * slabBytes (cA o.card)) 0, List.replicate (64 * slabBytes (cB o.card)) 0, List.replicate 64 false,
    List.replicate 64 false⟩

/-- The cause that stops a job: one it was given, or that of its next slab. -/
def StopsFor (s : State) (c : Nat) (o : MxOp) (x : Nat) : Prop :=
  o.cause = some x ∨ (o.cause = none ∧ fetchSlab s c o (noFar o) = .fault x)

theorem mjobFaultStop_writes {x : Nat} (hleft : o.prog < cSlabs o.card) (hrows : o.rows = 0)
    (hmay : mxMay s c o.after o.at_ o.colour true = true) (hx : StopsFor s c o x) :
    EndsWith s c o (cProgress o.card o.prog x) (some x) (.mjobFaultStop c none) := by
  refine endsWith_of_finish (name := "MJOB_FAULT_STOP") hp (congrArg (eventO "MJOB_FAULT_STOP" s) ?_) hrows hmay
  unfold mjobStop
  rw [ho, Option.bind_some, if_neg (Nat.not_le.2 hleft), if_neg (by simpa using hrows)]
  dsimp only
  rcases hx with hx | ⟨hnone, hx⟩
  · rw [hx]
  · unfold noFar at hx
    rw [hnone, hx]

theorem matrixTimeout_job (hgo : o.cause = none) (hleft : o.prog < cSlabs o.card) (hrows : o.rows = 0) (ht : o.since + 2 ^ 20 ≤ s.now) :
    exec (.matrixTimeout c false) s =
      .next (endWaits (setMx (dropRows s c o.after) c o (fun e => { e with cause := some 0x52 })) (coreAt s c).node []) := by
  have hst : o.started = true := by
    have h := (Option.filter_eq_some_iff.1 ho).2
    simp at h
    exact h.2
  refine eventO_some hp ?_
  rw [if_neg Bool.false_ne_true, ho, Option.bind_some, accessTimeout_eq, hst, hgo, hrows, decide_eq_true ht, if_neg Bool.false_ne_true,
    decide_eq_true hleft]
  rfl

end

/-! ### Drains (R214, R228, R229) -/

section
variable (ho : drainHead (coreAt s c) = some o)
include ho

theorem drainReadEnd_next (hst : o.started = false) (hedge : edgeHeld s c o.after (mxFoot o) = false)
    (hown : ownBefore s c o.after = false) : exec (.drainReadEnd c) s = .next (
      onCore (setMx s c o (fun e => { e with started := true, since := s.now, buf := drainElems (coreAt s c) o })) c (fun k =>
        clearBusy (if dOpt o.card 5 then clearTiles k o.tile (dTiles o.card o.tile).length else k) (dTiles o.card o.tile))) := by
  refine eventO_some hp ?_
  unfold drainRead
  rw [ho, Option.bind_some, hst, hedge, hown]
  rfl

/-- The pieces of a range that is translated; none where it misses. -/
def EngParts.pieces : EngParts → List Piece
  | .hit ps _ => ps
  | .miss _ => []

theorem matrixTimeout_drain (hst : o.started = true) (hgo : o.cause = none) (hrows : o.rows < 64) (ht : o.since + 2 ^ 20 ≤ s.now) :
    exec (.matrixTimeout c true) s =
      .next (endWaits (setMx (dropRows s c o.after) c o (fun e => { e with cause := some 0x52 })) (coreAt s c).node
        (drainPieces s c o o.rows).pieces) := by
  refine eventO_some hp ?_
  rw [if_pos rfl, ho, Option.bind_some, accessTimeout_eq, hst, hgo, decide_eq_true ht, if_pos rfl, decide_eq_true hrows]
  cases drainPieces s c o o.rows <;> rfl

theorem mdrnEnd_next (hst : o.started = true) (hover : o.cause ≠ none ∨ 64 ≤ o.rows) (hbank : unbanked s (o.writer c) = false) :
    exec (.mdrnEnd c) s = .next
      (writeToken (onCore (dropMx s c o) c (fun k => orFps k o.flags)) c o.tok 3 (tokenWord o.cause 3 o.bytes)) := by
  have hdone : (o.cause.isNone && decide (o.rows < 64)) = false := by
    rcases hover with h | h
    · simp [Option.isNone_eq_false_iff.2 (Option.isSome_iff_ne_none.2 h)]
    · simp [Nat.not_lt.2 h]
  refine eventO_some hp ?_
  unfold mdrnEnd
  rw [ho, Option.bind_some, hst, hdone, hbank]
  rfl

/-- A running drain that has a row to write, and may write it now: with ACC, read it too. -/
structure RowMay (s : State) (c : Nat) (o : MxOp) : Prop where
  started : o.started = true
  going : o.cause = none
  left : o.rows < 64
  writes : mxMay s c o.after o.at_ o.colour true = true
  reads : dAcc o.card = true → mxMay s c o.after o.at_ o.colour false = true

omit hp ho in
theorem RowMay.open_ (h : RowMay s c o) : (!o.started || o.cause.isSome || decide (64 ≤ o.rows) ||
    !mxMay s c o.after o.at_ o.colour true || (dAcc o.card && !mxMay s c o.after o.at_ o.colour false)) = false := by
  have hr : (dAcc o.card && !mxMay s c o.after o.at_ o.colour false) = false := by simpa using h.reads
  rw [h.started, h.going, decide_eq_false (Nat.not_le.2 h.left), h.writes, hr]
  rfl

/-- Element `i` of the row that a drain writes next: its tile word and count. -/
def rowWord (o : MxOp) (i : Nat) : BitVec 64 × Nat := nth (0, 0) ((o.buf.drop (64 * o.rows)).take 64) i

/-- A drain with one more row written: its flags, its bytes, the poison that its row consumed. -/
def rowDone (s : State) (c : Nat) (o : MxOp) (u : State) (poi : Bool) (es : List (Option Nat × Fl)) : State :=
  setMx (onCore u c (consumeIf poi)) c o (fun e => { e with
    rows := e.rows + 1, bytes := e.bytes + dRowBytes o.card, since := s.now,
    flags := e.flags ||| es.foldl (fun a x => a ||| x.2) 0 })

/-- The bytes of an element of a drain. -/
def elemBytes (o : MxOp) : Nat := (dFmt o.card).w / 8

/-- Where element `i` of a row stands, and what stands there. -/
def rowPlace (o : MxOp) (ps : List Piece) (i : Nat) : Place × Bool := nth (Place.dmem 0, false) (placesOf ps) (elemBytes o * i)
def rowOld (t : State) (node : Option Nat) (o : MxOp) (ps : List Piece) (i : Nat) : List Byte × Bool :=
  readPlace t node (rowPlace o ps i).1 (elemBytes o) (rowPlace o ps i).2

/-- The elements of a row, and of one that is added to the words that stand there. -/
def rowElems (o : MxOp) : List (Option Nat × Fl) := (List.range 64).map (fun i => drainElem o (rowWord o i).1 (rowWord o i).2 none)
def accElems (t : State) (node : Option Nat) (o : MxOp) (ps : List Piece) : List (Option Nat × Fl) :=
  (List.range 64).map (fun i => drainElem o (rowWord o i).1 (rowWord o i).2 (some (leNat (rowOld t node o ps i).1)))

/-- Write element `i` of a row that is added to the words that stand there; an absent one leaves its word. -/
def accPut (t : State) (c : Nat) (node : Option Nat) (o : MxOp) (ps : List Piece) (u : State) (i : Nat) : State :=
  match (nth (none, 0) (accElems t node o ps) i).1 with
  | some v => writePlace u (o.writer c) node (rowPlace o ps i).1 (natLe (elemBytes o) v) (rowOld t node o ps i).2
  | none => u

theorem drainRow_faults (h : RowMay s c o) {ps : List Piece} {x : Nat} (hps : drainPieces s c o o.rows = .hit ps (some x)) :
    exec (.writePerformed (.drain c)) s = .next (setMx (engTold s c o.after) c o (fun e => { e with cause := some x })) := by
  refine eventO_some hp ?_
  dsimp only
  unfold drainRow
  rw [ho, Option.bind_some, if_neg (ne_true_of_eq_false h.open_)]
  dsimp only
  rw [hps]

theorem drainRow_plain (h : RowMay s c o) {ps : List Piece} (hacc : dAcc o.card = false) (hps : drainPieces s c o o.rows = .hit ps none)
    (hw : writeGates s (coreAt s c).node true ps = .go) : exec (.writePerformed (.drain c)) s = .next
      (rowDone s c o (writePieces s (o.writer c) (coreAt s c).node ps ((rowElems o).flatMap (fun e => natLe (elemBytes o) (e.1.getD 0))) false)
        false (rowElems o)) := by
  refine eventO_some hp ?_
  dsimp only
  unfold drainRow
  rw [ho, Option.bind_some, if_neg (ne_true_of_eq_false h.open_)]
  dsimp only
  rw [hps, hacc]
  dsimp only
  rw [if_neg Bool.false_ne_true]
  dsimp only
  rw [hw]
  rfl

/-- A row with ACC is read whole, as one consumption, and then written (log entry 112). -/
theorem drainRow_acc (h : RowMay s c o) {ps : List Piece} {t : State} (hacc : dAcc o.card = true)
    (hps : drainPieces s c o o.rows = .hit ps none) (hread : newGate s (coreAt s c).node ps = some t)
    (hw : writeGates t (coreAt s c).node true ps = .go) : exec (.writePerformed (.drain c)) s = .next
      (rowDone s c o ((List.range 64).foldl (accPut t c (coreAt s c).node o ps) t)
        ((List.range 64).any (fun i => (rowOld t (coreAt s c).node o ps i).2)) (accElems t (coreAt s c).node o ps)) := by
  refine eventO_some hp ?_
  dsimp only
  unfold drainRow
  rw [ho, Option.bind_some, if_neg (ne_true_of_eq_false h.open_)]
  dsimp only
  rw [hps, hacc]
  dsimp only
  rw [if_pos rfl, hread]
  dsimp only
  rw [hw]
  rfl

end

/-! ### Known-answer tests (R236) -/

section
variable (ho : arrayHead (coreAt s c) = some o) (hk : o.kind = .mkat)
include ho hk

theorem mkatEnd_agrees : exec (.mkatEnd c (katSig ^^^ o.sig)) s = .next (dropMx s c o) := by
  refine eventO_some hp ?_
  rw [ho, Option.bind_some, hk, if_neg (by decide)]
  exact if_pos (by rw [← BitVec.xor_assoc, BitVec.xor_self, BitVec.zero_xor])

/-- A test whose signature does not agree is logged and marked, and asks for a self-test of its core. -/
def katFailed (s : State) (c : Nat) (o : MxOp) : State :=
  onSched (rasLog (onCore (dropMx s c o) c katMark) 0x53 1 c) (fun h => { h with coreTest := (h.coreTest ++ [c]).eraseDups })

omit hp ho hk in
theorem mem_coreTest_katFailed : c ∈ (katFailed s c o).sched.coreTest := by
  unfold katFailed onSched
  simp

/-- Its node waits for that self-test. -/
def katOver (s : State) (c : Nat) (o : MxOp) : State :=
  match (coreAt (katFailed s c o) c).node with
  | some id => onNode (katFailed s c o) id (fun n => { n with testWait := (n.testWait ++ [TestKey.core c]).eraseDups })
  | none => katFailed s c o

omit hp ho hk in
theorem mem_coreTest_katOver : c ∈ (katOver s c o).sched.coreTest := by
  unfold katOver
  split
  · exact mem_coreTest_katFailed
  · exact mem_coreTest_katFailed

theorem mkatEnd_fails {fault : BitVec 24} (hf : katSig ^^^ fault ≠ o.sig) : exec (.mkatEnd c fault) s = .next (katOver s c o) := by
  refine eventO_some hp ?_
  rw [ho, Option.bind_some, hk, if_neg (by decide)]
  exact if_neg hf

end

end

/-- Settles O41: each event of the array and of the drain unit does its work where its guard holds. -/
theorem matrixRuns : Obligations.MatrixRuns := by
  refine fun s c o hp => ⟨mjobStart_next hp, fun ho hleft hgo hmay far x hf u hu => slabEnd_next hp ho hleft hgo hmay hf hu,
    mjobEnd_fresh hp, fun ho hdone hrows hres hmay => ?_, mjobEnd_banked hp, mjobFaultStop_banked hp,
    fun ho hleft hrows hmay x hx => ?_, matrixTimeout_job hp, fun ho hst hgo hrows ht => ?_, drainReadEnd_next hp,
    fun ho hst hgo hrows hmay => ⟨fun ps x hps hr => drainRow_faults hp ho ⟨hst, hgo, hrows, hmay, hr⟩ hps,
      fun ps hacc => ?_, fun ps t hacc hr => ?_⟩,
    mdrnEnd_next hp, fun ho hk => ⟨mkatEnd_agrees hp ho hk, fun fault hf => ⟨_, mkatEnd_fails hp ho hk hf, mem_coreTest_katOver⟩⟩⟩
  · have h := mjobEnd_resumed hp ho hdone hrows hres hmay
    exact ⟨h.wrote, h.refused⟩
  · have h := mjobFaultStop_writes hp ho hleft hrows hmay hx
    exact ⟨h.wrote, h.refused⟩
  · refine (matrixTimeout_drain hp ho hst hgo hrows ht).trans ?_
    cases drainPieces s c o o.rows <;> rfl
  · exact drainRow_plain hp ho ⟨hst, hgo, hrows, hmay, fun h => absurd h (ne_true_of_eq_false hacc)⟩ hacc
  · exact drainRow_acc hp ho ⟨hst, hgo, hrows, hmay, fun _ => hr⟩ hacc

end Sys2Proof.Machine
end


section
/-! Slot M (R211-R236): jobs, drains and known-answer tests that join the matrix queue, direct access to tiles, and the obligations on
them (O13, O14). -/

namespace Sys2Proof.Machine
open Sys2Proof

/-! ### Reading a card and joining the queue (R214, R216, R222) -/

/-- No tile that the bundle names is busy. -/
theorem withTiles_free {f : Frame} {ts : List Nat} {g : Frame} (h : tilesBusy f.pre ts = false) : withTiles f ts g = g :=
  if_neg (ne_true_of_eq_false h)

/-- An entry and its busy tiles, and the token that the job owes. -/
theorem Clean.queueMatrix {s : State} {i : Instr} {n : Nat} {lat : SMap Vec} {w : Core → Core} {f : Frame} (h : Clean s i n lat w 0 false f)
    (d : BitVec 7) (o : MxOp) (ts : List Nat) :
    Clean s i n lat (fun k => matrixQueued d o ts (w k)) 0 false (Machine.oweToken (setBusy (mxPush f o) ts) d) := by
  refine h.put lat _ (matrixQueued d o ts) ?_
  rw [h.wrote.now]
  rfl

section
variable {s : State} {i : Instr} {ea : Word} {align len : Nat} {ps : List Piece} {r : List Byte × Bool} {g : State → Frame → Frame}
  {ok : List Byte × Bool → Frame} (hl : lone i s = true) (hs : slotOf i = some 2) (hroom : (boundary s).mxq.length < 8)
  (hcard : cardAt s ea align len = some (ps, r))
  (hg : g (entered s) (loneFrame i 2 (reading s)) =
    mxRoom (loneFrame i 2 (reading s)) (readCard (entered s) (loneFrame i 2 (reading s)) 2 ea align len ok))
include hl hroom hcard hg

/-- With room in the queue, the bundle goes by what it makes of its card. -/
theorem matrixCard_eq :
    g (entered s) (loneFrame i 2 (reading s)) = { ok r with late := .touch ps :: (ok r).late, reads := (ok r).reads ++ [(2, r)] } :=
  hg.trans ((mxRoom_loneFrame hroom _).trans (readCard_eq (lone_canIssue hl) hcard))

include hs

/-- A card that is refused traps, and the read of its banks is no part of what stays. -/
theorem runSlot_cardRefused {c info : Nat} (hok : ok r = faultAt (loneFrame i 2 (reading s)) 2 c info) :
    runSlot i g s = .next (trapped s 2 c info) := by
  have hf := matrixCard_eq hl hroom hcard hg
  rw [hok] at hf
  rw [runSlot_lone hs hl _ hf ⟨rfl, rfl, rfl, rfl, rfl, rfl, rfl⟩ rfl rfl rfl rfl,
    finishBundle_fault (slotOf_lt hs) rfl (fun _ => Ctl.noConfusion)]
  rfl

/-- A card that is taken puts its entry into the queue. -/
theorem runSlot_cardQueued {d : BitVec 7} {o : MxOp} {ts : List Nat} (hfree : tilesBusy (boundary s) ts = false)
    (hok : ok r = withTiles (loneFrame i 2 (reading s)) ts (oweToken (setBusy (mxPush (loneFrame i 2 (reading s)) o) ts) d)) :
    runSlot i g s = .next (thenDo s [.touch ps] (retire s (afterBundle s 2 [] (matrixQueued d o ts) 0 false))) := by
  have hf := matrixCard_eq hl hroom hcard hg
  rw [hok, withTiles_free (f := loneFrame i 2 (reading s)) hfree] at hf
  exact ((clean_loneFrame s i 2).queueMatrix d o ts).retires_writes hs hl rfl rfl hf

end

section
variable {s : State} {x : MF} {ps : List Piece} {r : List Byte × Bool} (hroom : (boundary s).mxq.length < 8)

/-! ### MJOB (R218, R219, R222, R364, R377) -/

/-- The operands of a card that lie behind a grant have well-formed fabric addresses (R364). -/
def operandsFit (s : State) (d : List Byte) : Prop :=
  (cAg d ≠ 0 → faddrOk (entered s) (BitVec.ofNat 64 (d64 d 0)) = true) ∧
    (cBg d ≠ 0 → faddrOk (entered s) (BitVec.ofNat 64 (d64 d 8)) = true)

theorem operandsFit_iff (s : State) (d : List Byte) : operandsFit s d ↔
    ((cAg d != 0 && !faddrOk (entered s) (BitVec.ofNat 64 (d64 d 0))) ||
      (cBg d != 0 && !faddrOk (entered s) (BitVec.ofNat 64 (d64 d 8)))) = false := by
  simp [operandsFit]

/-- The entry that MJOB puts into the queue. -/
def jobEntry (s : State) (x : MF) (d : List Byte) : MxOp :=
  { mxNew (reading s) .mjob x.d.toNat d (rdS (reading s) 2 x.a) with
    grA := grantOf (reading s) (cAg d), grB := grantOf (reading s) (cBg d), prog := cStart d }

section
variable (hl : lone (.mjob x) s = true) (hcard : cardAt s (rdS (reading s) 2 x.a) 64 128 = some (ps, r))
include hroom hl hcard

theorem exec_mjob_malformed (hbad : cardOk r.1 = false) : exec (.mjob x) s = .next (trapped s 2 0x50 0) := by
  refine runSlot_cardRefused (g := issueMjob x) hl rfl hroom hcard rfl ?_
  dsimp only
  rw [hbad]
  rfl

theorem exec_mjob_unfit (hok : cardOk r.1 = true) (hfit : ¬operandsFit s r.1) : exec (.mjob x) s = .next (trapped s 2 0x87 0) := by
  rw [operandsFit_iff, Bool.not_eq_false] at hfit
  refine runSlot_cardRefused (g := issueMjob x) hl rfl hroom hcard rfl ?_
  dsimp only
  rw [hok, if_neg (by decide), if_pos hfit]

theorem exec_mjob_queued (hok : cardOk r.1 = true) (hfit : operandsFit s r.1) (hfree : tilesBusy (boundary s) (cTiles r.1) = false) :
    exec (.mjob x) s = .next (thenDo s [.touch ps] (retire s (afterBundle s 2 []
      (matrixQueued x.d (jobEntry s x r.1) (cTiles r.1)) 0 false))) := by
  rw [operandsFit_iff] at hfit
  refine runSlot_cardQueued (g := issueMjob x) hl rfl hroom hcard rfl hfree ?_
  dsimp only
  rw [hok, if_neg (by decide), if_neg (ne_true_of_eq_false hfit)]
  rfl

end

/-! ### MDRN (R222, R227) -/

/-- The rounding mode of a drain (R227). -/
def drainMode (s : State) (d : List Byte) : BitVec 2 :=
  if dB d 0x0D = 3 then (boundary s).csr.fpc.extractLsb' 5 2 else BitVec.ofNat 2 (dB d 0x0D)

/-- The two bits of a good descriptor's rounding mode are its byte. -/
theorem drainMode_eq {s : State} {d : List Byte} {tile : Nat} (hok : drainOk d tile = true) :
    drainMode s d = if BitVec.ofNat 2 (dB d 0x0D) = 3 then (boundary s).csr.fpc.extractLsb' 5 2 else BitVec.ofNat 2 (dB d 0x0D) := by
  simp only [drainOk, Bool.and_eq_true, decide_eq_true_eq] at hok
  obtain ⟨⟨⟨-, hle⟩, -⟩, -⟩ := hok
  refine if_congr ?_ rfl rfl
  rw [← BitVec.toNat_inj, BitVec.toNat_ofNat, Nat.mod_eq_of_lt (by omega)]
  rfl

/-- The entry that MDRN puts into the queue. -/
def drainEntry (s : State) (x : MF) (d : List Byte) : MxOp :=
  { mxNew (reading s) .mdrn x.d.toNat d (rdS (reading s) 2 x.a) with
    tile := mxTile x, scale := rdX (reading s) 2 (mdrnK x), rm := drainMode s d }

section
variable (hl : lone (.mdrn x) s = true) (hcard : cardAt s (rdS (reading s) 2 x.a) 32 32 = some (ps, r))
include hroom hl hcard

theorem exec_mdrn_malformed (hbad : drainOk r.1 (mxTile x) = false) : exec (.mdrn x) s = .next (trapped s 2 0x51 0) := by
  refine runSlot_cardRefused (g := issueMdrn x) hl rfl hroom hcard rfl ?_
  dsimp only
  rw [hbad]
  rfl

theorem exec_mdrn_queued (hok : drainOk r.1 (mxTile x) = true) (hfree : tilesBusy (boundary s) (dTiles r.1 (mxTile x)) = false) :
    exec (.mdrn x) s = .next (thenDo s [.touch ps] (retire s (afterBundle s 2 []
      (matrixQueued x.d (drainEntry s x r.1) (dTiles r.1 (mxTile x))) 0 false))) := by
  refine runSlot_cardQueued (g := issueMdrn x) hl rfl hroom hcard rfl hfree ?_
  unfold drainEntry
  dsimp only
  rw [drainMode_eq hok, hok, if_neg (by decide)]
  rfl

end

/-! ### MKAT (R236) -/

/-- A known-answer test joins the queue: it owes no token, and no tile of it is busy. -/
def testQueued (s : State) (x : MF) (k : Core) : Core :=
  { k with mxq := k.mxq ++ [{ mxNew (reading s) .mkat 0 [] 0 with sig := x.hi ++ x.a ++ x.d }], memNext := k.memNext + 1 }

include hroom in
theorem exec_mkat (hl : lone (.mkat x) s = true) :
    exec (.mkat x) s = .next (retire s (afterBundle s 2 [] (testQueued s x) 0 false)) :=
  ((clean_loneFrame s (.mkat x) 2).put [] (testQueued s x) (testQueued s x) rfl).retires (g := fun _ => issueMkat x) rfl hl rfl rfl
    (mxRoom_loneFrame hroom _)

end

/-- Settles O13: MJOB and MDRN go by what their card says (`runSlot_cardRefused`, `runSlot_cardQueued`), MKAT by its entry. -/
theorem matrixIssue : Obligations.MatrixIssue := fun _ _ hroom =>
  ⟨fun hl _ _ hcard => ⟨exec_mjob_malformed hroom hl hcard, exec_mjob_unfit hroom hl hcard, exec_mjob_queued hroom hl hcard⟩,
   fun hl _ _ hcard => ⟨exec_mdrn_malformed hroom hl hcard, exec_mdrn_queued hroom hl hcard⟩, exec_mkat hroom⟩

/-! ### MZERO and MWAIT (R230, R232) -/

section
variable {s : State} {x : MF}

theorem issueMzero_eq (x : MF) (f : Frame) : issueMzero x f =
    withTiles f ((List.range (x.d.toNat / 16 + 8 * (x.a.toNat % 2) + 1)).map (x.d.toNat % 16 + ·))
      { f with now := clearTiles f.now (x.d.toNat % 16) (x.d.toNat / 16 + 8 * (x.a.toNat % 2) + 1) } := by
  have ht : (x.d.extractLsb' 0 4).toNat = x.d.toNat % 16 := by simp
  have hn : (x.a.extractLsb' 0 1 ++ x.d.extractLsb' 4 3).toNat = x.d.toNat / 16 + 8 * (x.a.toNat % 2) := by
    have hd := x.d.isLt
    rw [toNat_append_eq, toNat_extract_eq, toNat_extract_eq]
    omega
  unfold issueMzero
  rw [ht, hn]

theorem exec_mzero (hl : lone (.mzero x) s = true)
    (hfree : tilesBusy (boundary s) ((List.range (x.d.toNat / 16 + 8 * (x.a.toNat % 2) + 1)).map (x.d.toNat % 16 + ·)) = false) :
    exec (.mzero x) s = .next (retire s (afterBundle s 2 []
      (fun c => clearTiles c (x.d.toNat % 16) (x.d.toNat / 16 + 8 * (x.a.toNat % 2) + 1)) 0 false)) := by
  have hg := (issueMzero_eq x (loneFrame (.mzero x) 2 (reading s))).trans (withTiles_free hfree)
  exact ((clean_loneFrame s (.mzero x) 2).put [] (fun c => clearTiles c _ _) (fun c => clearTiles c _ _) rfl).retires
    (g := fun _ => issueMzero x) rfl hl rfl rfl hg

/-- The mask of MWAIT. -/
def waitMask (x : MF) : BitVec 16 := x.hi.extractLsb' 0 2 ++ x.a ++ x.d

theorem exec_mwait (hl : lone (.mwait x) s = true)
    (hfree : if waitMask x = 0 then (boundary s).mxq = [] else (boundary s).busy &&& waitMask x = 0) :
    exec (.mwait x) s = .next (retire s (passed s 2)) := by
  refine runSlot_nothing (g := fun _ => issueMwait x) rfl hl ?_
  have hgo : (if waitMask x = 0 then !(boundary s).mxq.isEmpty else (boundary s).busy &&& waitMask x != 0) = false := by
    by_cases h0 : waitMask x = 0
    · rw [if_pos h0] at hfree ⊢
      exact congrArg (!·.isEmpty) hfree
    · rw [if_neg h0] at hfree ⊢
      exact bne_eq_false_iff_eq.2 hfree
  exact if_neg (ne_true_of_eq_false hgo)

/-! ### MRD (R231) -/

/-- The registers that MRD writes: the row's elements, 64 bits wide in mode F64. -/
def mrdRegs (k : Core) (x : MF) (r : Nat) : List Vec :=
  splitV (if mxMode x = 2 then 2 else 1) (pack (if mxMode x = 2 then 64 else 32) (mrdRow k x r))

theorem issueMrd_eq (x : MF) (f : Frame) :
    issueMrd x f = withTiles f (mxTiles x) (wrV f 2 x.d (mrdRegs f.pre x (mxRow x f))) := by
  unfold issueMrd mrdRegs mrdRow
  generalize mxMode x = m
  match m with
  | 0 => rfl
  | 1 => rfl
  | 2 => rfl
  | _ + 3 => rfl

theorem exec_mrd (hl : lone (.mrd x) s = true) (hfree : tilesBusy (boundary s) (mxTiles x) = false) :
    let vs := mrdRegs (boundary s) x ((rdS (reading s) 2 x.a).toNat % 64)
    exec (.mrd x) s = .next (retire s (afterBundle s 2 (mput 0 [] 2 (vs.headD 0)) (regV s 2 x.d vs) 0 false)) :=
  ((clean_loneFrame s (.mrd x) 2).wrV x.d _).retires (g := fun _ => issueMrd x) rfl hl (ctl_wrV ..) (late_wrV ..)
    ((issueMrd_eq x _).trans (withTiles_free (f := loneFrame (.mrd x) 2 (reading s)) hfree))

end

/-! ### MWR (R231) -/

/-- Write value words and counts of a core's tiles, by index. -/
def tilePut (vs cs : List (Nat × Nat)) (k : Core) : Core :=
  { k with
    tval := mputs 0 k.tval (vs.map (fun e => (e.1, BitVec.ofNat 32 e.2))),
    tcnt := mputs 0 k.tcnt (cs.map (fun e => (e.1, BitVec.ofNat 16 e.2))) }

theorem tilePut_append (vs cs vs' cs' : List (Nat × Nat)) (k : Core) :
    tilePut vs' cs' (tilePut vs cs k) = tilePut (vs ++ vs') (cs ++ cs') k := by
  simp [tilePut, mputs]

/-- The elements of a row, one after another: values and counts are separate planes. -/
theorem foldl_tilePut {β : Type} (v c : β → List (Nat × Nat)) (es : List β) (k : Core) :
    es.foldl (fun k e => tilePut (v e) (c e) k) k = tilePut (es.flatMap v) (es.flatMap c) k := by
  induction es generalizing k with
  | nil => rfl
  | cons e es ih => rw [List.foldl_cons, ih, tilePut_append, List.flatMap_cons, List.flatMap_cons]

/-- What MWR puts for element `v`: nothing where its code is absent, otherwise `b` (R231). -/
def present (t : ETy) (v b : Nat) : Nat := if isAbsent t v then 0 else b

theorem mwrPut_present (t : ETy) (put : Core → Nat → Nat → Core) (k : Core) (vi ci v : Nat) :
    mwrPut t put k vi ci v = putTileC (put k vi (present t v v)) ci (present t v 1) := by
  unfold mwrPut present
  cases isAbsent t v <;> rfl

/-- Elements with their places in front, and behind. -/
theorem range_zip {es : List Nat} {n : Nat} (h : es.length = n) : (List.range n).zip es = es.zipIdx.map Prod.swap := by
  rw [List.zipIdx_eq_zip_range', ← h, List.range_eq_range', List.zip_swap]

/-- The elements that MWR reads. -/
def mwrElems (s : State) (x : MF) : List Nat :=
  elems (if mxMode x = 2 then 64 else 32) (if mxMode x = 2 then 2 else 1) (rdV (reading s) 2 x.d (if mxMode x = 2 then 2 else 1))

theorem length_mwrElems (s : State) (x : MF) : (mwrElems s x).length = 64 := by
  unfold mwrElems elems
  rw [length_unpack]
  split_ifs <;> rfl

/-- The flag that MWR raises: a count past 65,535 (R231). -/
def mwrFlags (x : MF) (es : List Nat) : Fl := if mxMode x = 1 ∧ (∃ e ∈ es, 65535 < e) then fCSAT else 0

/-- The row that MWR writes. -/
def mwrRow (x : MF) (r : Nat) (es : List Nat) (k : Core) : Core := tilePut (mwrVals x r es) (mwrCnts x r es) k

/-- Where the planes of a row come element by element, so does the row. -/
theorem foldl_zip_mwrRow {x : MF} {r : Nat} {es : List Nat} {v c : Nat × Nat → List (Nat × Nat)} (k : Core) (hlen : es.length = 64)
    (hv : mwrVals x r es = es.zipIdx.flatMap v) (hc : mwrCnts x r es = es.zipIdx.flatMap c) :
    ((List.range 64).zip es).foldl (fun k e => tilePut (v e.swap) (c e.swap) k) k = mwrRow x r es k := by
  unfold mwrRow
  rw [range_zip hlen, List.foldl_map, hv, hc]
  exact foldl_tilePut v c es.zipIdx k

section
variable {x : MF} (r : Nat) {es : List Nat} (k : Core) (hlen : es.length = 64)
include hlen

theorem mwrRow_val (hm : mxMode x = 0) : ((List.range 64).zip es).foldl
    (fun k e => mwrPut .f32 putTileV k (tIx (mxTile x) r e.1) (tIx (mxTile x) r e.1) e.2) k = mwrRow x r es k := by
  simp only [mwrPut_present]
  refine foldl_zip_mwrRow (v := fun e => [(tIx (mxTile x) r e.2, present .f32 e.1 e.1)])
    (c := fun e => [(tIx (mxTile x) r e.2, present .f32 e.1 1)]) k hlen ?_ ?_
  · simp only [mwrVals, hm, List.map_eq_flatMap]; rfl
  · simp only [mwrCnts, hm, List.map_eq_flatMap]; rfl

theorem mwrRow_count (hm : mxMode x = 1) :
    ((List.range 64).zip es).foldl (fun k e => putTileC k (tIx (mxTile x) r e.1) (min e.2 65535)) k = mwrRow x r es k := by
  refine foldl_zip_mwrRow (v := fun _ => []) (c := fun e => [(tIx (mxTile x) r e.2, min e.1 65535)]) k hlen ?_ ?_
  · simp only [mwrVals, hm, List.flatMap_eq_nil_iff.2 (fun _ _ => rfl)]
  · simp only [mwrCnts, hm, List.map_eq_flatMap]

theorem mwrRow_pair (hm : mxMode x = 2) : ((List.range 64).zip es).foldl
    (fun k e => mwrPut .f64 putPairV k (pIx (mxTile x) r e.1) (pCx (mxTile x) r e.1) e.2) k = mwrRow x r es k := by
  simp only [mwrPut_present]
  refine foldl_zip_mwrRow (v := fun e => [(pIx (mxTile x) r e.2, present .f64 e.1 e.1 % 2 ^ 32),
    (pIx (mxTile x) r e.2 + 1, present .f64 e.1 e.1 / 2 ^ 32)]) (c := fun e => [(pCx (mxTile x) r e.2, present .f64 e.1 1)]) k hlen ?_ ?_
  · simp only [mwrVals, hm]; rfl
  · simp only [mwrCnts, hm, List.map_eq_flatMap]; rfl

end

theorem mwrFlags_of_ne {x : MF} {es : List Nat} (hm : mxMode x ≠ 1) : mwrFlags x es = 0 := if_neg (fun h => hm h.1)

/-- Counts with their places are past 65,535 where the counts alone are. -/
theorem mwrFlags_count {x : MF} {es : List Nat} (hm : mxMode x = 1) (hlen : es.length = 64) :
    mwrFlags x es = if ((List.range 64).zip es).any (fun e => decide (65535 < e.2)) then fCSAT else 0 := by
  have hsnd : ((List.range 64).zip es).map Prod.snd = es := List.map_snd_zip (by simp [hlen])
  have hany : ((List.range 64).zip es).any (fun e => decide (65535 < e.2)) = es.any (fun e => decide (65535 < e)) := by
    conv_rhs => rw [← hsnd, List.any_map]
    rfl
  refine if_congr ?_ rfl rfl
  rw [hany, List.any_eq_true]
  simp only [hm, true_and, decide_eq_true_eq]

/-- MWR writes its row, then raises CSAT where a count was too large. -/
theorem issueMwr_eq {s : State} {x : MF} {f : Frame} (hpre : f.pre = boundary s) (hhdr : f.hdr = s.hdr) (hm : mxMode x ≠ 3) :
    issueMwr x f = withTiles f (mxTiles x) (raise { f with now := mwrRow x (mxRow x f) (mwrElems s x) f.now } 2
      (mwrFlags x (mwrElems s x)) false) := by
  have hlen := length_mwrElems s x
  have hcases : mxMode x = 0 ∨ mxMode x = 1 ∨ mxMode x = 2 := by
    have hlt : mxMode x < 4 := (x.hi.extractLsb' 4 2).isLt
    omega
  unfold issueMwr
  extract_lets t r f64 es ies
  have hes : es = mwrElems s x := by
    simp only [es, f64, mwrElems, beq_iff_eq, rdV_of_pre hpre hhdr]
  clear_value es
  subst hes
  refine congrArg (withTiles f (mxTiles x)) ?_
  rcases hcases with h | h | h
  · rw [mwrFlags_of_ne (by omega), raise_zero, ← mwrRow_val r f.now hlen h, h]
    rfl
  · rw [mwrFlags_count h hlen, ← mwrRow_count r f.now hlen h, h]
    rfl
  · rw [mwrFlags_of_ne (by omega), raise_zero, ← mwrRow_pair r f.now hlen h, h]
    rfl

theorem exec_mwr {s : State} {x : MF} (hl : lone (.mwr x) s = true) (hfree : tilesBusy (boundary s) (mxTiles x) = false)
    (hm : mxMode x ≠ 3) (hq : quiet s 2 (mwrFlags x (mwrElems s x)) = true) :
    exec (.mwr x) s = .next (retire s (afterBundle s 2 [] (mwrRow x ((rdS (reading s) 2 x.a).toNat % 64) (mwrElems s x))
      (mwrFlags x (mwrElems s x)) false)) := by
  have hg := (issueMwr_eq (s := s) (f := loneFrame (.mwr x) 2 (reading s)) rfl rfl hm).trans (withTiles_free hfree)
  have h := ((clean_loneFrame s (.mwr x) 2).put [] (mwrRow x (mxRow x (reading s)) (mwrElems s x))
    (mwrRow x (mxRow x (reading s)) (mwrElems s x)) rfl).raise (mwrFlags x (mwrElems s x)) false
  refine Clean.run (g := fun _ => issueMwr x) (hg ▸ h) rfl hl hq ?_ ?_
  · rw [hg, ctl_raise]; rfl
  · rw [hg, late_raise]; rfl

/-- Settles O14: each of the four issues what it reads or writes where no tile of it is busy. -/
theorem tileAccess : Obligations.TileAccess := fun _ _ => ⟨exec_mzero, exec_mrd, exec_mwr, exec_mwait⟩

end Sys2Proof.Machine
end


section
/-! SWAIT (R250, R348, R350), and the obligation on it (O27). -/

namespace Sys2Proof.Machine
open Sys2Proof

section
variable {s u : State} {x : RF} {p : Piece} {ps rest : List Piece}

/-! ### A bundle that reads a word itself -/

/-- A frame whose bundle has read the pieces `ps`: their banks stay as the read leaves them. -/
def touching (ps : List Piece) (f : Frame) : Frame := { f with late := .touch ps :: f.late }

/-- Pieces that nothing earlier disturbs and whose banks serve them are read at the bundle. -/
theorem readSync_touching {i : Instr} {n : Nat} {g : State → Frame} (hu : undisturbed s ps = true)
    (hr : readGate (entered s) (boundary s).node ps = some u) :
    readSync (entered s) (loneFrame i n (reading s)) ps g = touching ps (g u) := by
  unfold readSync
  rw [if_pos (show ps.all (syncClear (entered s) (loneFrame i n (reading s))) = true from hu),
    show (loneFrame i n (reading s)).pre.node = (boundary s).node from rfl, hr]
  rfl

/-- A touch is no write: no acquire of the bundle holds it back. -/
theorem acquireHolds_touching {f : Frame} (hl : f.late = []) (hp : f.park = none) : acquireHolds (touching ps f) = false := by
  unfold acquireHolds touching
  rw [hl, hp]
  rfl

/-- A lone bundle that reads its pieces and goes on in order. -/
theorem Clean.retires_touching {i : Instr} {n : Nat} {lat : SMap Vec} {w : Core → Core} {f : Frame} {g : State → Frame → Frame}
    (h : Clean s i n lat w 0 false f) (hs : slotOf i = some n) (hl : lone i s = true) (hc : f.ctl = .seq) (hla : f.late = [])
    (hg : g (entered s) (loneFrame i n (reading s)) = touching ps f) :
    runSlot i g s = .next (thenDo s [.touch ps] (retire s (afterBundle s n lat w 0 false))) := by
  have ha := acquireHolds_touching (ps := ps) hla h.wrote.park
  unfold touching at hg ha
  rw [hla] at hg ha
  exact h.retires_writes (rd := f.reads) hs hl hc ha hg

/-- A wait that is over, in a bundle that has read its word. -/
theorem LoneIssues.exec_waitEnds_touching {i : Instr} {n : Nat} {d : BitVec 7} {poi ok : Bool}
    (h : LoneIssues s i n (touching ps (waitFrame n d ok (eat (loneFrame i n (reading s)) poi)))) (hl : lone i s = true) :
    exec i s = .next (thenDo s [.touch ps] (waitEnds s n d poi ok)) := by
  obtain ⟨hs, g, hx, hg⟩ := h
  have hc := (clean_loneFrame s i n).eat poi
  rw [hx]
  cases ok with
  | true =>
    refine (hc.wrS d 1).acquire.retires_touching hs hl ?_ ?_ hg
    · rw [ctl_acquire, ctl_wrS, ctl_eat]; rfl
    · rw [late_acquire, late_wrS, late_eat]; rfl
  | false =>
    refine (hc.wrS d 0).retires_touching hs hl ?_ ?_ hg
    · rw [ctl_wrS, ctl_eat]; rfl
    · rw [late_wrS, late_eat]; rfl

/-- A bundle that parks leaves the banks as they were. -/
theorem LoneIssues.exec_parks_touching {i : Instr} {n : Nat} {kind : ParkKind} {deadline : Option Nat}
    (h : LoneIssues s i n (touching ps (parkOn (entered s) (loneFrame i n (reading s)) n kind deadline))) (hl : lone i s = true)
    (hp : (boundary s).park = none) (hk : (Park.mk kind n deadline s.now none []).atomic = false) :
    exec i s = .next (onCore (entered s) s.cur (fun k =>
      bump 1 { k with xlFault := none, park := some ⟨kind, n, deadline, s.now, none, []⟩ })) := by
  obtain ⟨hs, g, hx, hg⟩ := h
  rw [parkOn_loneFrame hp] at hg
  rw [hx, runSlot_lone hs hl _ hg ⟨rfl, rfl, rfl, rfl, rfl, rfl, rfl⟩ rfl rfl rfl (acquireHolds_of_mem le_rfl)]
  unfold finishBundle
  rw [slotFault_none rfl (fun _ => Ctl.noConfusion)]
  refine congrArg Host.Outcome.next ?_
  change issueEarly _ _ ⟨kind, n, deadline, s.now, none, []⟩ = _
  unfold issueEarly
  rw [hk]
  rfl

/-! ### SWAIT (R348) -/

/-- The owner word that a parked SWAIT keeps with INH (R350). -/
def lockOwner (s u : State) (x : RF) (rest : List Piece) : Option Word :=
  if x.f = 1 then some (BitVec.ofNat 64 (leNat (readPieces u (boundary s).node rest).1)) else none

/-- SWAIT at its word: met, not to wait, waited, or to wait. -/
theorem loneIssues_swait (hm : mayLoad s = true)
    (ht : targetFault (entered s) (reading s) (va48 (rdS (reading s) 4 x.a)) 8 false false = none)
    (hr : reached s .rd 8 ((va48 (rdS (reading s) 4 x.a), 8) :: if x.f = 1 then [(va48 (rdS (reading s) 4 x.a) + 8, 8)] else []) =
      some (p :: rest))
    (hu : undisturbed s (p :: rest) = true) (hg : readGate (entered s) (boundary s).node (p :: rest) = some u) :
    LoneIssues s (.swait x) 4 (touching (p :: rest)
      (let f := loneFrame (.swait x) 4 (reading s)
       let r := readPiece u (boundary s).node p
       if (rdS (reading s) 4 x.b).toNat ≤ leNat r.1 then waitFrame 4 x.d true (eat f r.2)
       else if rdS (reading s) 4 x.c = 0 then waitFrame 4 x.d false (eat f r.2)
       else (waitRes (reading s) 4).elim
         (parkOn (entered s) f 4 (.swait (va48 (rdS (reading s) 4 x.a)) p.pl (rdS (reading s) 4 x.b) (lockOwner s u x rest))
           (deadlineOf s (rdS (reading s) 4 x.c)))
         (fun w => waitFrame 4 x.d w.ok (eat f (w.val != 0))))) := by
  refine ⟨rfl, issueSwait x, rfl, ?_⟩
  unfold issueSwait lockOwner
  simp only [beq_iff_eq]
  rw [show targetFault (entered s) (loneFrame (.swait x) 4 (reading s)) (va48 (rdS (loneFrame (.swait x) 4 (reading s)) 4 x.a)) 8 false
    false = none from ht]
  refine ((gateLoad_open hm).trans (withPieces_ok hr)).trans ((readSync_touching hu hg).trans (congrArg (touching (p :: rest)) ?_))
  refine if_congr Iff.rfl rfl (if_congr Iff.rfl rfl ?_)
  rw [show waitRes (loneFrame (.swait x) 4 (reading s)) 4 = waitRes (reading s) 4 from rfl]
  cases waitRes (reading s) 4 <;> rfl

end

/-- Settles O27: SWAIT by its word, its time-out and how its wait ended (`loneIssues_swait`). -/
theorem semaphoreWaits : Obligations.SemaphoreWaits := by
  intro s u x p rest hl hm va ht hr hu hg r thr lim ends
  have h := loneIssues_swait hm ht hr hu hg
  dsimp only at h
  refine ⟨fun hmet => ?_, fun hn hlim => ?_, fun hn hlim w hw => ?_, fun hn hlim hpark => ?_⟩
  · rw [if_pos hmet] at h
    exact h.exec_waitEnds_touching hl
  · rw [if_neg (Nat.not_le.2 hn), if_pos hlim] at h
    exact h.exec_waitEnds_touching hl
  · rw [if_neg (Nat.not_le.2 hn), if_neg hlim, hw] at h
    exact h.exec_waitEnds_touching hl
  · have hw : waitRes (reading s) 4 = none := by
      unfold waitRes
      rw [show (reading s).pre.park = none from hpark]
    rw [if_neg (Nat.not_le.2 hn), if_neg hlim, hw] at h
    exact h.exec_parks_touching hl hpark rfl

end Sys2Proof.Machine
end


section
/-! The stall, the waits and the operations of a Steward (R250, R304, R309, R310, R312, R315-R322, R327), and the obligation on their
ends (O46). -/

namespace Sys2Proof.Machine
open Sys2Proof

section
variable {s u : State} {n : Nat}

/-! ### The stall of a bundle (R304) -/

theorem stewardTimeout_next (hp : s.host.power = true) {a : Nat} (ha : (stewardAt s n).stallSince = some a)
    (hrun : (stewardAt s n).running = true) (hlate : a + 2 ^ 20 ≤ baseNow s) :
    exec (.stewardTimeout n) s = .next (haltSteward s n 0x62 0 nowhere) := by
  have hdue : ((stewardAt s n).running && decide (a + Config.accessTimeout ≤ baseNow s)) = true := by
    rw [hrun, accessTimeout_eq, decide_eq_true hlate]
    rfl
  refine eventO_some hp ?_
  rw [ha]
  exact if_pos hdue

/-! ### sem.wait (R310) -/

/-- The banked word that a sem.wait tests. -/
def bankedWord (s : State) (pa : Nat) : Nat :=
  if live s.dram (locOf s (redirect s none pa) / 32) then leNat (bytesAt s.dram.mem (locOf s (redirect s none pa)) 8) else 0

theorem semPending_eq {a x : Word} {d : Option Nat} {seq pa : Nat} (hsem : (stewardAt s n).sem = some ⟨true, a, x, d, seq⟩)
    (ha : stewardAddr a = some (true, pa)) (hacq : acqBlocks (stewardAt s n) seq = false) :
    semPending s n = some (bankedWord s pa, x.toNat, d) := by
  unfold semPending
  rw [hsem]
  dsimp only
  rw [ha, hacq]
  rfl

/-! ### sem.sig (R310) -/

/-- Nothing of the Steward comes before its sem.sig at place `seq`: no engine operation, no write, no lsu operation. -/
structure SigNext (s : State) (n seq : Nat) : Prop where
  engines : ∀ e ∈ (stewardAt s n).eng, ∀ o ∈ e.q, seq ≤ o.seq
  writes : ∀ e ∈ s.dram.wq, e.by_ ≠ .steward n
  lsu : ∀ l, (stewardAt s n).lsu = some l → seq ≤ l.seq

theorem SigNext.engines_clear {seq : Nat} (h : SigNext s n seq) :
    (stewardAt s n).eng.any (fun e => e.q.any (fun o => decide (o.seq < seq))) = false := by
  simpa using h.engines
theorem SigNext.writes_clear {seq : Nat} (h : SigNext s n seq) : s.dram.wq.any (fun e => e.by_ == .steward n) = false := by
  simpa using h.writes
theorem SigNext.lsu_clear {seq : Nat} (h : SigNext s n seq) : (stewardAt s n).lsu.any (fun l => decide (l.seq < seq)) = false :=
  (Option.any_eq_false ..).2 fun l hl => decide_eq_false (Nat.not_lt.2 (h.lsu l hl))

/-- The add at the controller, and the old value in sem.res. -/
def signalled (s : State) (n pa : Nat) (x : Word) : State :=
  let (bs, r) := stewardRead s n pa
  setSteward (writePlace r (.steward n) none (.dmem pa) (natLe 8 (leNat bs + x.toNat)) false) n (fun t =>
    { setPort t 0x7F (BitVec.ofNat 64 (leNat bs)) with sem := none, waited := false })

theorem sigEnd_eq {a x : Word} {d : Option Nat} {seq pa : Nat} (hsem : (stewardAt s n).sem = some ⟨false, a, x, d, seq⟩)
    (ha : stewardAddr a = some (true, pa)) (hnext : SigNext s n seq) (hw : writeGates s none false [⟨.dmem pa, 8, false⟩] = .go)
    (hr : newGate s none [⟨.dmem pa, 8, false⟩] = some u) : sigEnd s n = some (signalled u n pa x) := by
  unfold sigEnd
  dsimp only
  rw [hsem]
  dsimp only
  rw [ha]
  dsimp only
  rw [hnext.engines_clear, hnext.writes_clear, hnext.lsu_clear, hw, hr]
  rfl

/-! ### The lsu (R309) -/

/-- A store leaves the lsu. -/
def lsuStored (n : Nat) (s : State) : State := setSteward s n (fun t => { t with lsu := none })

/-- A load of device memory returns its word. -/
def lsuLoaded (n pa : Nat) (s : State) : State :=
  let (bs, r) := stewardRead s n pa
  setSteward r n (fun t => { setPort t 0x6F (BitVec.ofNat 64 (leNat bs)) with lsu := none })

variable {o : LsuOp} {pa a : Nat}

theorem lsuEnd_data (ho : (stewardAt s n).lsu = some o) (ha : stewardAddr o.addr = some (false, a))
    (hacq : acqBlocks (stewardAt s n) o.seq = false) : lsuEnd s n = some (setSteward s n (fun t =>
      { (if o.st then { t with dmem := putBytes t.dmem a (natLe 8 o.data.toNat) }
         else setPort t 0x6F (BitVec.ofNat 64 (leNat (bytesAt t.dmem a 8)))) with lsu := none })) := by
  unfold lsuEnd
  dsimp only
  rw [ho]
  dsimp only
  rw [hacq, ha]
  cases o.st <;> rfl

/-- The lsu operation `o` on device memory at `pa` comes next: no acquire, and no engine operation on its row, is before it. -/
structure LsuNext (s : State) (n : Nat) (o : LsuOp) (pa : Nat) : Prop where
  op : (stewardAt s n).lsu = some o
  addr : stewardAddr o.addr = some (true, pa)
  acquired : acqBlocks (stewardAt s n) o.seq = false
  row : ∀ r, ownRow s n pa = some r → enginesBefore s n o.seq r = false

/-- Within a lease of its row it performs banked; with none it goes as any access does. -/
theorem LsuNext.lsuEnd_eq (h : LsuNext s n o pa) : lsuEnd s n =
    if (ownRow s n pa).any (ownLease (stewardAt s n) n) then
      (if o.st then
        if ckptHolds s pa then none
        else match needsRevival s none (.dmem pa) with
          | some b => if s.dram.reviving.contains b then none else some (onDram s (fun d => { d with reviving := d.reviving ++ [b] }))
          | none => some (lsuStored n (rowWrite s n pa (natLe 8 o.data.toNat) false))
       else if beingRevived s none (.dmem pa) then none else some (lsuLoaded n pa s))
    else if o.st then
      match writeGates s none false [⟨.dmem pa, 8, false⟩] with
      | .wait u => some u
      | .go => (hostOpenAll s none [Piece.mk (.dmem pa) 8 false]).map (fun u =>
          lsuStored n (writePlace u (.steward n) none (.dmem pa) (natLe 8 o.data.toNat) false))
    else (newGate s none [Piece.mk (.dmem pa) 8 false]).map (lsuLoaded n pa) := by
  have hrow : (ownRow s n pa).any (fun r => enginesBefore s n o.seq r) = false := (Option.any_eq_false ..).2 h.row
  unfold lsuEnd
  dsimp only
  rw [h.op]
  dsimp only
  rw [h.addr, h.acquired]
  dsimp only
  rw [hrow]
  rfl

section
variable (h : LsuNext s n o pa) (hl : ∃ r, ownRow s n pa = some r ∧ ownLease (stewardAt s n) n r = true)
include h hl

omit h in
theorem in_ownLease : (ownRow s n pa).any (ownLease (stewardAt s n) n) = true := by
  obtain ⟨r, hr, hown⟩ := hl
  rw [hr]
  exact hown

theorem LsuNext.stores_leased (hst : o.st = true) (hc : ckptHolds s pa = false) (hr : needsRevival s none (.dmem pa) = none) :
    lsuEnd s n = some (lsuStored n (rowWrite s n pa (natLe 8 o.data.toNat) false)) := by
  rw [h.lsuEnd_eq, if_pos (in_ownLease hl), if_pos hst, if_neg (ne_true_of_eq_false hc), hr]

theorem LsuNext.revives {b : Nat} (hst : o.st = true) (hc : ckptHolds s pa = false) (hr : needsRevival s none (.dmem pa) = some b)
    (hb : b ∉ s.dram.reviving) : lsuEnd s n = some (onDram s (fun d => { d with reviving := d.reviving ++ [b] })) := by
  rw [h.lsuEnd_eq, if_pos (in_ownLease hl), if_pos hst, if_neg (ne_true_of_eq_false hc), hr]
  exact if_neg (fun hin => hb (List.contains_iff_mem.1 hin))

theorem LsuNext.loads_leased (hst : o.st = false) (hr : beingRevived s none (.dmem pa) = false) :
    lsuEnd s n = some (lsuLoaded n pa s) := by
  rw [h.lsuEnd_eq, if_pos (in_ownLease hl), if_neg (ne_true_of_eq_false hst), if_neg (ne_true_of_eq_false hr)]

end

section
variable (h : LsuNext s n o pa) (hl : ∀ r, ownRow s n pa = some r → ownLease (stewardAt s n) n r = false)
include h hl

omit h in
theorem outside_ownLease : ¬(ownRow s n pa).any (ownLease (stewardAt s n) n) = true := ne_true_of_eq_false ((Option.any_eq_false ..).2 hl)

theorem LsuNext.stores (hst : o.st = true) (hw : writeGates s none false [⟨.dmem pa, 8, false⟩] = .go)
    (ho : hostOpenAll s none [⟨.dmem pa, 8, false⟩] = some u) :
    lsuEnd s n = some (lsuStored n (writePlace u (.steward n) none (.dmem pa) (natLe 8 o.data.toNat) false)) := by
  rw [h.lsuEnd_eq, if_neg (outside_ownLease hl), if_pos hst, hw, ho]
  rfl

theorem LsuNext.loads (hst : o.st = false) (hr : newGate s none [⟨.dmem pa, 8, false⟩] = some u) :
    lsuEnd s n = some (lsuLoaded n pa u) := by
  rw [h.lsuEnd_eq, if_neg (outside_ownLease hl), if_neg (ne_true_of_eq_false hst), hr]
  rfl

end

/-! ### Engine operations (R312, R315-R320, R322) -/

section
variable {e : Nat} {o : EngOp} {rest : List EngOp} (hq : (eng (stewardAt s n) e).q = o :: rest)
  (hacq : acqBlocks (stewardAt s n) o.seq = false)
include hq hacq

/-- An operation with no lease runs up to 16 of its remaining pieces. -/
theorem engineRun_free (hl : o.lease = none) : engineRun s n e 16 none = some
    (onEng (runUnits s n e 0 0 o o.prog (min 16 ((engineUnits o).1 - o.prog))) n e (fun g => { g with
      q := if (engineUnits o).1 - o.prog ≤ 16 then g.q.drop 1 else { o with prog := o.prog + 16 } :: g.q.drop 1 })) := by
  unfold engineRun
  dsimp only
  rw [hq]
  dsimp only
  rw [hacq, hl]
  by_cases hleft : (engineUnits o).1 - o.prog ≤ 16
  · simp [hleft]
  · simp [hleft, show min 16 ((engineUnits o).1 - o.prog) = 16 by omega, show 16 ≠ (engineUnits o).1 - o.prog by omega]

/-- One whose held lease has the budget for its remaining pieces runs them all. -/
theorem engineRun_leased {l : Lease} (hl : o.lease = some l.id) (hlease : leaseOf (stewardAt s n) l.id = some l) (hheld : l.held = true)
    (h16 : (engineUnits o).1 - o.prog ≤ 16) (hbudget : ((engineUnits o).1 - o.prog) * (engineUnits o).2 ≤ l.budget)
    (hlsu : lsuBefore s n o.seq (64 * n + l.bank, l.row) = false)
    (hgate : if o.trig = 9 then storeGate s (64 * n + l.bank) l.row = .go
      else live s.dram (served s (rowAtom (64 * n + l.bank) l.row 0)) = true ∧
        gBlock (served s (rowAtom (64 * n + l.bank) l.row 0)) ∉ s.dram.reviving) :
    engineRun s n e 16 none = some (onEng
      (setSteward (runUnits s n e (64 * n + l.bank) l.row o o.prog ((engineUnits o).1 - o.prog)) n (fun t =>
        onLease t l.id (fun l => { l with budget := l.budget - ((engineUnits o).1 - o.prog) * (engineUnits o).2 }))) n e
      (fun g => { g with q := g.q.drop 1 })) := by
  have hgo : (if o.trig = 9 then storeGate s (64 * n + l.bank) l.row
      else if s.dram.reviving.contains (gBlock (served s (rowAtom (64 * n + l.bank) l.row 0))) then .wait s else .go) = .go := by
    split_ifs at hgate ⊢ with h9 hin
    · exact hgate
    · exact absurd (List.contains_iff_mem.1 hin) hgate.2
    · rfl
  have hfresh : (o.trig != 9 && !live s.dram (served s (rowAtom (64 * n + l.bank) l.row 0))) = false := by
    split_ifs at hgate with h9
    · simp [h9]
    · simp [hgate.1]
  unfold engineRun
  dsimp only
  rw [hq]
  dsimp only
  rw [hacq, hl]
  dsimp only
  rw [hlease]
  dsimp only
  rw [Nat.min_eq_right h16, hheld, hlsu, decide_eq_false (Nat.not_lt.2 hbudget), hgo]
  simp only [engineErr, Option.map_some, hfresh, Bool.false_and, Bool.not_true, Bool.or_self, Bool.false_eq_true, if_false, if_true]

end

end

/-- Settles O46: the wait by its banked word (`semPending_eq`), the signal once nothing is before it (`sigEnd_eq`), the lsu by where
its operation goes (`lsuEnd_data`, `LsuNext.lsuEnd_eq`), an engine by its lease (`engineRun_free`, `engineRun_leased`). -/
theorem stewardOperationsEnd : Obligations.StewardOperationsEnd := by
  intro s n hp t
  refine ⟨?_, ?_, ?_, ?_, ?_, ?_, ?_, ?_⟩
  · exact fun a => stewardTimeout_next hp
  · intro a x d seq pa hsem ha hacq l v ends
    have hpend := semPending_eq hsem ha hacq
    exact ⟨fun hmet => eventO_some hp (by rw [hpend]; exact if_pos hmet),
      fun e hd hlate => eventO_some hp (by rw [hpend, hd]; exact if_pos hlate)⟩
  · intro a x d seq pa u hsem ha heng hwq hlsu hw hr
    exact eventO_some hp (sigEnd_eq hsem ha ⟨heng, hwq, hlsu⟩ hw hr)
  · intro o pa ho ha hacq hrow at_ stored loaded
    have h : LsuNext s n o pa := ⟨ho, ha, hacq, hrow⟩
    exact ⟨fun hl => ⟨fun hst hc hr => eventO_some hp (h.stores_leased hl hst hc hr),
        fun b hst hc hr hb => eventO_some hp (h.revives hl hst hc hr hb), fun hst hr => eventO_some hp (h.loads_leased hl hst hr)⟩,
      fun hl => ⟨fun u hst hw hu => eventO_some hp (h.stores hl hst hw hu), fun u hst hr => eventO_some hp (h.loads hl hst hr)⟩⟩
  · exact fun o a ho ha hacq => eventO_some hp (lsuEnd_data ho ha hacq)
  · exact fun v hv => eventO_some hp (by dsimp only; unfold logEnd; rw [hv]; rfl)
  · exact fun e o rest hq hl hacq => eventO_some hp (engineRun_free hq hacq hl)
  · intro e o rest l hq hl hlease hheld hacq left b h16 hbudget hlsu hgate
    exact eventO_some hp (engineRun_leased hq hacq hl hlease hheld h16 hbudget hlsu hgate)

end Sys2Proof.Machine
end


section
/-! Shadow granules and checkpoints (R259, R393-R396, R402, R404, R405), and the obligation on them (O51). -/

namespace Sys2Proof.Machine
open Sys2Proof

/-! ### Shadow granules (R393-R396) -/

section
variable {s u : State} {id gran : Nat} {r : Redirect} (hp : s.host.power = true)
include hp

theorem shadowCopy_next (hr : s.sched.redir.find? (fun r => r.node == id && r.gran == gran && !r.ready) = some r)
    (hg : granuleGate s gran r.pool = some u) : exec (.shadowCopy id gran) s =
      .next (markReady (killNext (onSched (copyGranule u gran r.pool) (fun h => { h with
        redir := h.redir.map (fun e => if e == r then { e with ready := true } else e) })))) :=
  schedO_some hp (by rw [hr, Option.bind_some, hg]; rfl)

theorem shadowFallback_next {n : Node} (hn : nodeOf s id = some n) (hw : waitedLong s id gran false = true)
    (hr : s.sched.redir.any (fun r => r.gran == gran) = false) (hfull : s.sched.shfree = [] ∨ 4096 ≤ s.sched.redir.length) :
    exec (.shadowFallback id gran) s =
      .next (markReady (killNext (onSched (onNode ((liveOf n).foldl (fun s e => onCore s e.2 fallenCir) s) id
        (fun n => { n with fell := true })) (fun h => { h with shwait := h.shwait.filter (fun w => w.node != id) })))) := by
  refine node_next hp hn (if_pos ?_)
  have hroom : (s.sched.shfree.isEmpty || decide (4096 ≤ s.sched.redir.length)) = true := by simpa using hfull
  rw [hw, hr, hroom]
  rfl

theorem shadowConflict_next {a b : Node} (hr : s.sched.redir.find? (fun r => r.gran == gran && r.node != id && !r.global) = some r)
    (ha : nodeOf s id = some a) (hb : nodeOf s r.node = some b) (hcommit : (younger a b).st ≠ .commit)
    (hstop : ∀ x, (younger a b).st ≠ .stopping x) (hw : waitedLong s id gran true = true) : exec (.shadowConflict id gran) s =
      .next (markReady (killNext (onNode s (younger a b).id (fun n => { n with st := .stopping 0xA3 })))) := by
  refine schedO_some hp ?_
  rw [hr, Option.bind_some, ha, hb]
  dsimp only
  split
  case h_1 hst => exact absurd hst hcommit
  case h_2 x hst => exact absurd hst (hstop x)
  case h_3 => exact if_pos hw

/-- The entries of a node that its commit makes global. -/
def committing (id : Nat) (r : Redirect) : Bool := r.node == id && !r.global

theorem shadowCommit_next {n : Node} (hn : nodeOf s id = some n) (hst : n.st = .commit) (hrec : recordsFree s id = true)
    (hquiet : ∀ r ∈ s.sched.redir, committing id r = true → r.ready = true ∧ granuleQuiet s r.gran = true) :
    exec (.shadowCommit id) s = .next (markReady (killNext (endNode (onSched
      ((s.sched.redir.filter (committing id)).foldl (fun s r => setDirty s .device (r.gran * 2 ^ 18)) s) (fun h => { h with
        redir := h.redir.map (fun r => if committing id r then { r with global := true } else r) })) id true
      (if n.fell then 0xA2 else 0)))) := by
  have hall : s.sched.redir.all (fun r => !committing id r || (r.ready && granuleQuiet s r.gran)) = true := by
    rw [List.all_eq_true]
    intro r hr
    cases hmine : committing id r with
    | false => rfl
    | true =>
      obtain ⟨hready, hq⟩ := hquiet r hr hmine
      rw [hready, hq]
      rfl
  refine node_next hp hn (if_pos ?_)
  rw [hst, hrec]
  exact (Bool.and_true _).trans hall

theorem shadowCopyBack_next (hr : s.sched.redir.find? (fun r => r.gran == gran && r.global) = some r)
    (hg : granuleGate s r.pool gran = some u) : exec (.shadowCopyBack gran) s =
      .next (markReady (killNext (onSched (copyGranule (setDirty u .device (gran * 2 ^ 18)) r.pool gran) (fun h => { h with
        redir := h.redir.filter (fun e => e != r), shfree := h.shfree ++ [r.pool] })))) :=
  schedO_some hp (by rw [hr, Option.bind_some, hg]; rfl)

end

/-! ### The chosen granules of a checkpoint (R404) -/

section
variable {s : State} {k : Ckpt} {i n ha mt : Nat} {disc : Bool}

/-- The granule whose turn it is, or that a write waits for, is streamed. -/
theorem ckptGranule_next {g : Option Nat} {t : State} (hp : s.host.power = true) (hk : s.sched.ckpt = some k)
    (hg : k.chosen.find? (fun g => g.1 == i) = some (i, g))
    (hturn : (∀ e ∈ k.chosen, i ≤ e.1) ∨ (∃ p, g = some p ∧ writeWaits s k p = true)) (ht : streamGranule s k (i, g) = some t) :
    exec (.ckptGranule i) s = .next t := by
  refine eventO_some hp ?_
  rw [hk, Option.bind_some, hg, Option.bind_some]
  refine (if_pos ?_).trans ht
  rw [Bool.or_eq_true]
  refine hturn.imp (fun hlow => ?_) (fun ⟨p, hp, hw⟩ => ?_)
  · exact List.all_eq_true.2 fun e he => decide_eq_true (hlow e he)
  · exact (congrArg (·.any (writeWaits s k)) hp).trans hw

/-- One that is not populated has nothing to stream. -/
theorem streamGranule_absent : streamGranule s k (i, none) = some (ckptFail s 0xA7) := rfl

section
variable (hdest : ctxPieces s k.ctx (kDest k.desc + 2 ^ 18 * i) (2 ^ 18) .wr = .ok [Piece.mk (.sys ha mt) (2 ^ 18) disc])
include hdest

theorem streamGranule_portDown (hport : s.host.portUp.getLsbD (hostPortOf s ha) = false) :
    streamGranule s k (i, some n) = some (ckptFail s 0xA8) := by
  unfold streamGranule
  dsimp only
  rw [hdest]
  dsimp only
  rw [hport]
  rfl

theorem streamGranule_streams {v u : State} (hport : s.host.portUp.getLsbD (hostPortOf s ha) = true)
    (hv : ctxGateOf s k.ctx (kDest k.desc + 2 ^ 18 * i) (2 ^ 18) .wr = some v) (hu : rawOpen v (n * 2 ^ 18) (2 ^ 18) = some u) :
    streamGranule s k (i, some n) = some (
      let r := rawRange (bankAll u) 0 (n * 2 ^ 18) (2 ^ 18)
      onCkpt (onHost u (fun h => { h with sys := mputs 0 (mclear h.sys ha (2 ^ 18)) (r.1.map (fun e => (ha + e.1, e.2))) })) (fun k =>
        { k with chosen := k.chosen.filter (fun e => e.1 != i), streamed := k.streamed + 1, man := k.man ++ [(i, !r.2.isEmpty)] })) := by
  unfold streamGranule
  dsimp only
  rw [hdest]
  dsimp only
  rw [hport, hv, Option.bind_some, hu]
  rfl

end

/-! ### The manifest (R404) -/

/-- The two bits of a granule. -/
def manifestBits (k : Ckpt) (g : Nat) : Nat :=
  match k.man.find? (fun e => e.1 == g) with
  | some (_, poisoned) => if poisoned then 3 else 1
  | none => 0

theorem manifestBits_lt (g : Nat) : manifestBits k g < 4 := by
  unfold manifestBits
  split
  · split_ifs <;> decide
  · decide

/-- A byte holds the bits of four granules. -/
theorem nth_manifest {j : Nat} (h : j < (kLen k.desc / 2 ^ 18 + 3) / 4) : nth 0 (manifest k) j = BitVec.ofNat 8
    (manifestBits k (4 * j) + 4 * manifestBits k (4 * j + 1) + 16 * manifestBits k (4 * j + 2) + 64 * manifestBits k (4 * j + 3)) := by
  unfold nth manifest
  rw [List.getElem?_map, List.getElem?_range h]
  rfl

/-- Four numbers below 4, in base 4. -/
theorem base4_digit {d : Nat → Nat} (hd : ∀ i, d i < 4) {i : Nat} (hi : i < 4) :
    (d 0 + 4 * d 1 + 16 * d 2 + 64 * d 3) % 256 / 4 ^ i % 4 = d i := by
  have h0 := hd 0
  have h1 := hd 1
  have h2 := hd 2
  have h3 := hd 3
  match i, hi with
  | 0, _ | 1, _ | 2, _ | 3, _ => norm_num; omega

theorem manifest_bits {g : Nat} (h : g < kLen k.desc / 2 ^ 18) :
    (nth 0 (manifest k) (g / 4)).toNat / 4 ^ (g % 4) % 4 = manifestBits k g := by
  rw [nth_manifest (by omega), BitVec.toNat_ofNat]
  refine (base4_digit (d := fun i => manifestBits k (4 * (g / 4) + i)) (fun _ => manifestBits_lt _) (Nat.mod_lt g (by decide))).trans ?_
  rw [Nat.div_add_mod]

end

/-! ### The end of a checkpoint (R405) -/

/-- The checkpoint as its end finds it: a failed write at a host port fails it. -/
def closingCkpt (k0 : Ckpt) (ok : Bool) : Ckpt := if ok then k0 else { k0 with cause := some (k0.cause.getD 0xA8), chosen := [] }
def withCkpt (s : State) (k : Option Ckpt) : State := onSched s (fun h => { h with ckpt := k })

/-- The banks as the walks for manifest and record leave them. -/
def ckptWalk (o : Option State) (ctx : BitVec 16) (va len : Nat) : Option State :=
  o.bind (fun u => if va = 0 then some u else ctxGateOf u ctx va len .wr)
def ckptWalked (t : State) (k : Ckpt) : Option State :=
  ckptWalk (ckptWalk (some t) k.ctx (kMan k.desc) (manifest k).length) k.ctx (kDone k.desc) 32

def manifestPieces (t : State) (k : Ckpt) : Except Nat (List Piece) :=
  if kMan k.desc = 0 then .ok [] else ctxPieces t k.ctx (kMan k.desc) (manifest k).length .wr
def recordPieces (t : State) (k : Ckpt) : Except Nat (List Piece) := ctxPieces t k.ctx (kDone k.desc) 32 .wr

/-- Nothing holds back a write to pieces; one that failed its translation is not made. -/
def writable (t : State) (p : Except Nat (List Piece)) : Bool :=
  match p with
  | .ok ps => writableNow t ps
  | .error _ => true

/-- The manifest is written, or its failed translation fails the checkpoint. -/
def afterManifest (v : State) (k : Ckpt) : Except Nat (List Piece) → State × Ckpt
  | .ok ps => (deviceWrite v ps (manifest k), k)
  | .error _ => (v, { k with cause := some (k.cause.getD 0xA7) })

/-- The record is written after a release at SYSTEM, or not at all. -/
def afterRecord (u : State) (k : Ckpt) : Except Nat (List Piece) → State
  | .ok ps => deviceWrite (systemFlush u ps) ps (ckptRecord u k)
  | .error _ => u

section
variable {s t v u : State} {k k' : Ckpt}

/-- A checkpoint with nothing left to stream ends once its manifest and its record can be written. -/
theorem ckptEnd_eq {k0 : Ckpt} {ok : Bool} {p : Except Nat (List Piece)} (hs : s.sched.ckpt = some k0)
    (hk : closingCkpt k0 ok = k) (ht : withCkpt s (some k) = t)
    (hdone : k.chosen = []) (hman : writable t (manifestPieces t k) = true) (hp : recordPieces t k = p) (hrec : writable t p = true)
    (hw : ckptWalked t k = some v) (hr : afterManifest v k (manifestPieces t k) = (u, k')) :
    ckptEnd s ok = some (withCkpt (afterRecord u k' p) none) := by
  have hheld : (!k.chosen.isEmpty || !writable t (manifestPieces t k) || !writable t (recordPieces t k)) = false := by
    rw [hdone, hman, hp, hrec]
    rfl
  subst hk ht hp
  unfold ckptEnd
  rw [hs, Option.bind_some]
  refine (if_neg (ne_true_of_eq_false hheld)).trans ((congrArg (Option.bind · _) hw).trans ?_)
  exact congrArg (fun r => some (withCkpt
    (afterRecord r.1 r.2 (recordPieces (withCkpt s (some (closingCkpt k0 ok))) (closingCkpt k0 ok))) none)) hr

/-- The manifest is not asked for, or written, or fails its translation. -/
theorem afterManifest_of
    (h : (kMan k.desc = 0 ∧ u = v ∧ k' = k) ∨
      (kMan k.desc ≠ 0 ∧ ∃ ms, ctxPieces t k.ctx (kMan k.desc) (manifest k).length .wr = .ok ms ∧ writableNow t ms = true ∧
        u = deviceWrite v ms (manifest k) ∧ k' = k) ∨
      (kMan k.desc ≠ 0 ∧ ∃ x, ctxPieces t k.ctx (kMan k.desc) (manifest k).length .wr = .error x ∧ u = v ∧
        k' = { k with cause := some (k.cause.getD 0xA7) })) :
    writable t (manifestPieces t k) = true ∧ afterManifest v k (manifestPieces t k) = (u, k') := by
  unfold manifestPieces
  obtain ⟨h0, rfl, rfl⟩ | ⟨h0, ms, hms, hfree, rfl, rfl⟩ | ⟨h0, x, hx, rfl, rfl⟩ := h
  · rw [if_pos h0]
    exact ⟨rfl, rfl⟩
  · rw [if_neg h0, hms]
    exact ⟨hfree, rfl⟩
  · rw [if_neg h0, hx]
    exact ⟨rfl, rfl⟩

end

/-- Settles O51: an event of the scheduler for each way of a shadow granule, `streamGranule` for the chosen granules, `manifest_bits`,
and `ckptEnd_eq` for the end. -/
theorem shadowsAndCheckpoints : Obligations.ShadowsAndCheckpoints := by
  intro s hp fin
  refine ⟨fun _ _ _ _ => shadowCopy_next hp, fun _ _ _ => shadowFallback_next hp, fun _ _ _ _ _ => shadowConflict_next hp,
    fun _ _ => shadowCommit_next hp, fun _ _ _ => shadowCopyBack_next hp, ?_, fun _ _ => manifest_bits, ?_⟩
  · intro i k g hk hg hturn
    refine ⟨fun hnone => ?_, fun n ha mt disc hsome hdest => ⟨fun hport => ?_, fun v u hport hv hu => ?_⟩⟩
    · subst hnone
      exact ckptGranule_next hp hk hg hturn streamGranule_absent
    · subst hsome
      exact ckptGranule_next hp hk hg hturn (streamGranule_portDown hdest hport)
    · subst hsome
      exact ckptGranule_next hp hk hg hturn (streamGranule_streams hdest hport hv hu)
  · intro k0 ok hs k t gone man walked v u k' hdone hw hman
    obtain ⟨hfree, hr⟩ := afterManifest_of hman
    exact ⟨fun ps hps hwr => eventO_some hp (ckptEnd_eq hs rfl rfl hdone hfree (p := .ok ps) hps hwr hw hr),
      fun x hx => eventO_some hp (ckptEnd_eq hs rfl rfl hdone hfree (p := .error x) hx rfl hw hr)⟩

end Sys2Proof.Machine
end


section
/-! The publishing of code by CPUB and IPUB (R267, R269, R271), and the obligation on them (O26). -/

namespace Sys2Proof.Machine
open Sys2Proof

section
variable {s : State} {x : RF}

/-! ### CPUB (R269) -/

/-- The first address of the range that CPUB names, and its length. -/
def cpubStart (s : State) (x : RF) : Nat := va48 (rdS (reading s) 4 x.a)
def cpubLen (s : State) (x : RF) : Nat := (rdS (reading s) 4 x.b).toNat

/-- The `n` bytes from `a` on meet a window of R187. -/
def meetsWindow (a n : Nat) : Prop := (a < sliceWin + 2 ^ 32 ∧ sliceWin < a + n) ∨ (a < istWin + 2 ^ 32 ∧ istWin < a + n)

/-- A range that passes the checks made before its first address is translated. -/
structure CpubRange (s : State) (x : RF) : Prop where
  start : cpubStart s x % 64 = 0
  len : cpubLen s x % 64 = 0
  pos : 0 < cpubLen s x
  outside : ¬meetsWindow (cpubStart s x) (cpubLen s x)

/-- The publishing of the range, from place `p` on, in a page of size code `level`. -/
def cpubJob (s : State) (x : RF) (p : Place) (level : Nat) : Cpub :=
  ⟨if x.cpubW then [] else cpubWaits (boundary s) ⟨p, cpubLen s x, false⟩ x.cpubMask, cpubStart s x, p, cpubLen s x, level,
    x.cpubMask, x.cpubScope, []⟩

/-- The begin of a CPUB, after the commit of its bundle. -/
def cpubBegin (x : RF) (j : Cpub) : Late := if x.cpubW then .cpubW j else .cpubX j

/-- The frame of a lone CPUB, as the model issues it. -/
def cpubIssued (s : State) (x : RF) : Frame := issueCpub x (entered s) (loneFrame (.cpub x) 4 (reading s))
def cpubFault (s : State) (x : RF) (cause info : Nat) : Frame := faultAt (loneFrame (.cpub x) 4 (reading s)) 4 cause info

/-- The test that CPUB makes of its length and its windows. -/
theorem cpub_refuses_iff {a n : Nat} :
    (n = 0 ∨ (decide (a < sliceWin + 2 ^ 32) && decide (sliceWin < a + n)) = true ∨
      (decide (a < istWin + 2 ^ 32) && decide (istWin < a + n)) = true) ↔ n = 0 ∨ meetsWindow a n := by
  simp only [meetsWindow, Bool.and_eq_true, decide_eq_true_eq]

theorem cpubIssued_misaligned (h : cpubStart s x % 64 ≠ 0 ∨ cpubLen s x % 64 ≠ 0) : cpubIssued s x = cpubFault s x 0x10 0 :=
  if_pos h

theorem cpubIssued_badRange (ha : cpubStart s x % 64 = 0) (hn : cpubLen s x % 64 = 0)
    (h : cpubLen s x = 0 ∨ meetsWindow (cpubStart s x) (cpubLen s x)) : cpubIssued s x = cpubFault s x 0x34 0 :=
  (if_neg (by rintro (h | h) <;> exact h ‹_›)).trans (if_pos (cpub_refuses_iff.2 h))

/-- What CPUB issues once its first address has been looked up. -/
def cpubTranslated (s : State) (x : RF) : Xl → Frame
  | .fault cause info => cpubFault s x cause info
  | .miss => { loneFrame (.cpub x) 4 (reading s) with walk := [(cpubStart s x, false)] }
  | .ok _ _ none => loneFrame (.cpub x) 4 (reading s)
  | .ok p _ (some e) =>
    if cpubStart s x / 2 ^ pageBits e.level ≠ (cpubStart s x + cpubLen s x - 1) / 2 ^ pageBits e.level then cpubFault s x 0x34 0
    else if !x.cpubW && !e.leaf.getLsbD 4 then cpubFault s x 0x36 0
    else { loneFrame (.cpub x) 4 (reading s) with late := [cpubBegin x (cpubJob s x p e.level)] }

theorem CpubRange.issued (h : CpubRange s x) :
    cpubIssued s x = cpubTranslated s x (xlPub (entered s) s.cur (boundary s) (cpubStart s x)) := by
  obtain ⟨ha, hn, hpos, hout⟩ := h
  have haligned : ¬(cpubStart s x % 64 ≠ 0 ∨ cpubLen s x % 64 ≠ 0) := by omega
  have hrange : ¬(cpubLen s x = 0 ∨ meetsWindow (cpubStart s x) (cpubLen s x)) := not_or.2 ⟨hpos.ne', hout⟩
  refine (if_neg haligned).trans ((if_neg (mt cpub_refuses_iff.1 hrange)).trans ?_)
  rw [show xlPub (entered s) (entered s).cur (loneFrame (.cpub x) 4 (reading s)).pre
      (va48 (rdS (loneFrame (.cpub x) 4 (reading s)) 4 x.a)) = xlPub (entered s) s.cur (boundary s) (cpubStart s x) from rfl]
  rcases xlPub (entered s) s.cur (boundary s) (cpubStart s x) with ⟨p, disc, _ | e⟩ | ⟨cause, info⟩ | _ <;> rfl

/-- A range that a page holds whole, and that it may publish, begins (R269). -/
theorem cpubTranslated_begins {p : Place} {disc : Bool} {e : TlbEnt}
    (hpage : cpubStart s x / 2 ^ pageBits e.level = (cpubStart s x + cpubLen s x - 1) / 2 ^ pageBits e.level)
    (hexec : x.cpubW = true ∨ e.leaf.getLsbD 4 = true) : cpubTranslated s x (.ok p disc (some e)) =
      { loneFrame (.cpub x) 4 (reading s) with late := [cpubBegin x (cpubJob s x p e.level)] } :=
  (if_neg (not_not.2 hpage)).trans (if_neg (by rcases hexec with h | h <;> simp [h]))

theorem exec_cpub_fault {cause info : Nat} (hl : lone (.cpub x) s = true) (h : cpubIssued s x = cpubFault s x cause info) :
    exec (.cpub x) s = .next (trapped s 4 cause info) :=
  LoneIssues.exec_fault ⟨rfl, issueCpub x, rfl, h⟩ hl

theorem exec_cpub_begins {j : Cpub} (hl : lone (.cpub x) s = true)
    (h : cpubIssued s x = { loneFrame (.cpub x) 4 (reading s) with late := [cpubBegin x j] }) :
    exec (.cpub x) s = .next (thenDo s [cpubBegin x j] (retire s (passed s 4))) :=
  (clean_loneFrame s (.cpub x) 4).retires_late (g := issueCpub x) rfl hl rfl rfl h

/-! ### IPUB (R271) -/

/-- The core with its idle half published (R267). -/
def publishIdle (rh : Bool) (k : Core) : Core := if rh then { k with isA := true } else { k with isB := true }

/-- IPUB publishes the idle half where no job may still write it. -/
theorem issueIpub_free (hheld : ipubHeld (entered s) s.cur (boundary s) = false) (hown : ownPending s.cur (boundary s) = false) :
    issueIpub x (entered s) (loneFrame (.ipub x) 4 (reading s)) = { loneFrame (.ipub x) 4 (reading s) with
      now := publishIdle (boundary s).rh (loneFrame (.ipub x) 4 (reading s)).now } := by
  have hfree : ¬(ipubHeld (entered s) s.cur (boundary s) || ownPending s.cur (boundary s)) = true := by simp [hheld, hown]
  refine (if_neg hfree).trans ?_
  rw [show (loneFrame (.ipub x) 4 (reading s)).pre = boundary s from rfl]
  cases (boundary s).rh <;> rfl

theorem clean_publishIdle (s : State) (i : Instr) (rh : Bool) : Clean s i 4 [] (publishIdle rh) 0 false
    { loneFrame i 4 (reading s) with now := publishIdle rh (loneFrame i 4 (reading s)).now } :=
  (clean_loneFrame s i 4).put [] _ (publishIdle rh) (by cases rh <;> rfl)

/-- No other part of the commit reads or writes the states of the two halves. -/
theorem afterBundle_publishIdle (s : State) (n : Nat) (rh : Bool) :
    afterBundle s n [] (publishIdle rh) 0 false = publishIdle rh (passed s n) := by
  cases rh <;> rfl

theorem exec_ipub (hl : lone (.ipub x) s = true) (hheld : ipubHeld (entered s) s.cur (boundary s) = false)
    (hown : ownPending s.cur (boundary s) = false) :
    exec (.ipub x) s = .next (retire s (publishIdle (boundary s).rh (passed s 4))) := by
  rw [← afterBundle_publishIdle]
  exact (clean_publishIdle s (.ipub x) (boundary s).rh).retires (g := issueIpub x) rfl hl rfl rfl (issueIpub_free hheld hown)

end

/-- Settles O26: CPUB by its range, its translation and its page (`CpubRange.issued`), and IPUB by `exec_ipub`. -/
theorem publishCode : Obligations.PublishCode := by
  intro s x k a n inWindow
  refine ⟨fun hl => ⟨fun h => ?_, fun ha hn h => ?_, fun ha hn hpos hout cause info hx => ?_, fun ha hn hpos hout p e hx => ?_⟩,
    exec_ipub⟩
  · exact exec_cpub_fault hl (cpubIssued_misaligned h)
  · exact exec_cpub_fault hl (cpubIssued_badRange ha hn h)
  · exact exec_cpub_fault hl ((CpubRange.issued ⟨ha, hn, hpos, hout⟩).trans (congrArg (cpubTranslated s x) hx))
  · have hissued : cpubIssued s x = cpubTranslated s x (.ok p false (some e)) :=
      (CpubRange.issued ⟨ha, hn, hpos, hout⟩).trans (congrArg (cpubTranslated s x) hx)
    refine ⟨fun hcross => ?_, fun hpage hX hleaf => ?_, fun hpage hexec => ?_⟩
    · exact exec_cpub_fault hl (hissued.trans (if_pos hcross))
    · exact exec_cpub_fault hl (hissued.trans ((if_neg (not_not.2 hpage)).trans (if_pos (by rw [hX, hleaf]; rfl))))
    · exact exec_cpub_begins hl (hissued.trans (cpubTranslated_begins hpage hexec))

end Sys2Proof.Machine
end


section
/-! The banks of the DRAM (R287, R288, R292), and the obligation on them (O47): where the table of banks lists one bank twice, closing
the row of the first entry uncovers the second, whose refresh position is another. -/

namespace Sys2Proof.Machine
open Sys2Proof

/-! ### A bank listed twice -/

/-- An open bank that is otherwise as at reset: with its row closed, the table lists it no more. -/
def openAtRow3 : Bank := { Bank.idle with row := .host 3 }

/-- A bank at its sixth group of rows, of which row 0 has been activated once. -/
def atSixthGroup : Bank := { Bank.idle with refresh := 5, acts := [(0, 1)] }

/-- A powered module whose table lists bank 0 as both of them, at base-die cycle 15,625, where the refresh of the first is due. No write of
the model lists a bank twice, but the statement quantifies over every state and asks for no canonical form. -/
def bankTwice : State :=
  onDram (onHost { State.reset with now := 31250 } (fun h => { h with power := true }))
    (fun d => { d with banks := [(0, openAtRow3), (0, atSixthGroup)] })

/-- The activation counters of bank 0 after an event that occurs. -/
def countersOf : Out → SMap (BitVec 11)
  | .next t => (bank t.dram 0).acts
  | _ => []

/-- What O47 says that the refresh leaves: the eight rows of the group at which the uncovered bank stands, refreshed. -/
def refreshClaimed : State :=
  onBank (precharge bankTwice 0 3) 0 (fun k =>
    { (if live bankTwice.dram (rowAtom 0 (8 * k.refresh) 0) then
        ((List.range 8).map (fun i => 8 * k.refresh + i)).foldl refreshRow k
       else k) with
      refresh := (k.refresh + 1) % 2048, refAt := baseNow (precharge bankTwice 0 3) })

theorem bankTwice_row : (bank bankTwice.dram 0).row = .host 3 := rfl
theorem bankTwice_due : (bank bankTwice.dram 0).refAt + 15625 ≤ baseNow bankTwice := by decide

/-- The model refreshes rows 0 to 7, the group at which the bank stood before its row was closed. -/
theorem perBankRefresh_bankTwice_counters : countersOf (exec (.perBankRefresh 0) bankTwice) = [] := by decide +kernel
theorem refreshClaimed_counters : countersOf (.next refreshClaimed) = [(0, 1)] := by decide +kernel

/-- Refutes O47: its refresh clause takes the group of rows from the bank after its row is closed, the model from the bank before. The two
differ in `bankTwice`, where the bank whose row closes leaves the table and the second entry of its number comes into view. -/
theorem not_banksServe : ¬ Obligations.BanksServe := by
  intro h
  obtain ⟨-, -, -, -, -, -, -, hrefresh⟩ := h bankTwice 0 0 rfl
  have hexec : exec (.perBankRefresh 0) bankTwice = .next refreshClaimed :=
    hrefresh (precharge bankTwice 0 3) (by decide) bankTwice_due (.inr ⟨3, .inl bankTwice_row, rfl⟩)
  have hcounters := perBankRefresh_bankTwice_counters.symm.trans ((congrArg countersOf hexec).trans refreshClaimed_counters)
  exact absurd hcounters (by decide)

end Sys2Proof.Machine
end


section
/-! How the operations that a write of the control space starts end, host links, accesses of the host to memory, and interrupt messages
(R278, R284, R331, R359, R406, R409, R412, R415), and the obligation on them (O53). -/

namespace Sys2Proof.Machine
open Sys2Proof

section
variable {s : State} (hp : s.host.power = true)
include hp

/-! ### The ends of commits, invalidations and contexts (R278, R284, R331, R359) -/

/-- No access of a core that has still to perform reaches a byte that the old or the new mapping of region `r` holds. -/
def mappingIdle (s : State) (r : Nat) (x : Option Region) : Prop :=
  ∀ e ∈ s.cores, ∀ m ∈ e.2.mem, m.acc = true ∨ ∀ q ∈ m.op.pieces, ∀ pa, q.pl = .dmem pa →
    inRegion x pa = false ∧ inRegion (mget none s.dram.regions r) pa = false

theorem interleaveCommitEnd_next {r : Nat} {x : Option Region} (hx : (regionRegs s r).pend = some x)
    (hin : ingressHolds s (fun _ _ => true) = false) (hidle : mappingIdle s r x) : exec (.interleaveCommitEnd r) s =
      .next (setRegs (onDram s (fun d => { d with regions := mput none d.regions r x })) r (fun g => { g with pend := none })) := by
  refine eventO_some hp ?_
  rw [hx, Option.bind_some]
  refine if_neg ?_
  rw [hin, Bool.or_false, List.any_eq_true]
  rintro ⟨e, he, hm⟩
  obtain ⟨m, hm, hflying⟩ := List.any_eq_true.1 hm
  obtain ⟨hacc, hany⟩ := Bool.and_eq_true_iff.1 hflying
  obtain ⟨q, hq, hpl⟩ := List.any_eq_true.1 hany
  rcases hidle e he m hm with hdone | hout
  · rw [hdone] at hacc
    cases hacc
  · split at hpl
    case h_1 pa hpa =>
      obtain ⟨hnew, hold⟩ := hout q hq pa hpa
      rw [hnew, hold] at hpl
      cases hpl
    case h_2 => cases hpl

theorem tinvEnd_next {mode va : Nat} {ctx : BitVec 16} (ht : s.host.tinv = some (mode, ctx, va))
    (hquiet : quietCtx s (fun x => mode == 2 || x == ctx) = true) : exec .tinvEnd s = .next (onHost
      (newTranslations (dropTlbs s (tinvHits (mode, ctx, va))) (fun x => mode == 2 || x == ctx)) (fun h => { h with tinv := none })) :=
  eventO_some hp (by rw [ht, Option.bind_some]; exact if_pos hquiet)

theorem winvEnd_next {w : Nat} (hw : s.fab.winvOn = some w) (hin : ingressHolds s (fun v _ => v == w) = false) :
    exec .winvEnd s = .next (onFab s (fun h => { h with wcache := h.wcache.filter (fun e => e.1 != w), winvOn := none })) :=
  eventO_some hp (by rw [hw, Option.bind_some]; exact if_neg (ne_true_of_eq_false hin))

theorem ctxkillEnd_next {c : BitVec 16} (hc : s.sched.killing = some c) (hended : ended s (fun x => x == c) = true) :
    exec .ctxkillEnd s = .next (onHost
      (onSched (dropTlbs s (fun e => e.ctx == c)) (fun h =>
        { h with killing := none, nodes := h.nodes.filter (fun n => n.ctx != c) }))
      (fun h => { h with ctxkill := h.ctxkill &&& 0x7FFFFFFFFFFFFFFF })) :=
  eventO_some hp (by rw [hc, Option.bind_some]; exact if_pos hended)

/-! ### Host links (R406, R409, R416) -/

section
variable {port : Nat} (hport : port < 2)
include hport

theorem hostLinkUp_next (hdown : s.host.portUp.getLsbD port = false) (hstep : s.host.state = 2 ∨ 4 ≤ s.host.step) :
    exec (.hostLinkUp port) s = .next (onHost s (fun h => { h with portUp := h.portUp ||| BitVec.ofNat 2 (2 ^ port) })) :=
  event_next hp (by rw [decide_eq_true hport, hdown]; simpa using hstep)

theorem hostLinkDown_next (hup : s.host.portUp.getLsbD port = true) : exec (.hostLinkDown port) s = .next (onHost s (fun h =>
    { h with portUp := h.portUp &&& ~~~(BitVec.ofNat 2 (2 ^ port)), hsem := h.hsem.filter (fun e => e.2 != some port) })) :=
  event_next hp (by simp [hport, hup])

theorem powerState_next (d3 : Bool) (hup : s.host.portUp.getLsbD port = true) : exec (.hostMemoryAccess (.powerState port d3)) s =
    .next (onHost s (fun h => { h with
      d3hot := if d3 = true then h.d3hot ||| BitVec.ofNat 2 (2 ^ port) else h.d3hot &&& ~~~BitVec.ofNat 2 (2 ^ port) })) :=
  eventO_some hp (if_neg (by simp [hport, hup]))

end

/-! ### Accesses of the host to memory (R406, R412) -/

section
variable {port pa : Nat} (hmay : hostMay s port = true)
include hmay

omit hp in
/-- A port that may access memory is refused nothing within device memory. -/
theorem hostMay_inRange {n : Nat} (hfits : pa + n ≤ 2 ^ 39) : ¬(!hostMay s port || decide (2 ^ 39 < pa + n)) = true := by
  rw [hmay, decide_eq_false (Nat.not_lt.2 hfits)]
  exact Bool.false_ne_true

theorem hostRead_next {t : State} {cxl : Bool} {len : Nat} (hfits : pa + len ≤ 2 ^ 39)
    (hgate : newGate s none (dmemPieces pa len) = some t) :
    exec (.hostMemoryAccess (.read port cxl pa len)) s =
      .next (onHost t (fun h => { h with reply := (readPieces t none (dmemPieces pa len)).1 })) := by
  refine eventO_some hp ((if_neg (hostMay_inRange hmay hfits)).trans ?_)
  rw [hgate]
  rfl

theorem hostWrite_next {cxl : Bool} {bs : List Byte} (hfits : pa + bs.length ≤ 2 ^ 39)
    (hgate : writeGates s none false (dmemPieces pa bs.length) = .go) :
    exec (.hostMemoryAccess (.write port cxl pa bs)) s =
      .next (writePieces s (.host port) none (dmemPieces pa bs.length) bs false) := by
  refine eventO_some hp ((if_neg (hostMay_inRange hmay hfits)).trans ?_)
  rw [hgate]

end

theorem ownWrite_next {ha : Nat} {bs : List Byte}
    (hfree : s.host.owned.any (fun l => decide (ha / 64 ≤ l) && decide (l ≤ (ha + bs.length - 1) / 64)) = false) :
    exec (.hostMemoryAccess (.ownWrite ha bs)) s = .next (onHost s (fun h => { h with sys := putBytes h.sys ha bs })) :=
  eventO_some hp (if_neg (ne_true_of_eq_false hfree))

/-! ### Interrupts (R415) -/

theorem interruptSend_next {v : Nat} (hpend : mget false s.host.pend v = true) (hmask : vMasked (vector s.host v) = false)
    (hup : s.host.portUp.getLsbD (vPort (vector s.host v)) = true) : exec (.interruptSend v) s =
      .next (onHost s (fun h => { h with
        pend := mput false h.pend v false,
        msgs := h.msgs ++ [(vPort (vector s.host v), ((vector s.host v).setWidth 64).toNat,
          ((vector s.host v >>> 64).setWidth 32).toNat)] })) :=
  event_next hp (by rw [hpend, hmask, hup]; rfl)

end

theorem hostMay_of {s : State} {port : Nat} (hport : port < 2) (hstate : s.host.state = 2) (hup : s.host.portUp.getLsbD port = true)
    (hd0 : s.host.d3hot.getLsbD port = false) : hostMay s port = true := by
  rw [hostMay, decide_eq_true hport, hstate, hup, hd0]
  rfl

/-- Settles O53: each of these events does its work where its guard holds. -/
theorem hostSideRuns : Obligations.HostSideRuns := fun _ hp =>
  ⟨fun _ _ => interleaveCommitEnd_next hp, fun _ _ _ => tinvEnd_next hp, fun _ => winvEnd_next hp, fun _ => ctxkillEnd_next hp,
   fun _ hport => ⟨hostLinkUp_next hp hport, hostLinkDown_next hp hport⟩, fun _ d3 hport => powerState_next hp hport d3,
   fun _ _ _ _ _ hport hstate hup hd0 =>
     have hmay := hostMay_of hport hstate hup hd0
     ⟨fun _ => hostRead_next hp hmay, hostWrite_next hp hmay⟩,
   fun _ _ => ownWrite_next hp, fun _ => interruptSend_next hp⟩

end Sys2Proof.Machine
end


section
/-! The registers of the control space (R407): what a write of one does to the state, and what it reads as afterwards. -/

namespace Sys2Proof.Machine
open Sys2Proof

/-! ### Semaphores (R409) -/

/-- What a write behind semaphore `k` leaves, where it leaves `t` once it is let through. -/
def behind (s : State) (p : HostPort) (k : Nat) (t : State) : State := if discards s p k then s else t

theorem behind_free {s t : State} {p : HostPort} {k : Nat} (h : discards s p k = false) : behind s p k t = t :=
  if_neg (ne_true_of_eq_false h)

theorem behind_held {s t : State} {p : HostPort} {k : Nat} (h : discards s p k = true) : behind s p k t = s := if_pos h

/-- A write that its register ignores under a condition of its own. -/
theorem behind_ite {s t : State} {p : HostPort} {k : Nat} {c : Prop} [Decidable c] :
    behind s p k (if c then s else t) = if discards s p k = true ∨ c then s else t := (ite_or ..).symm

/-! ### Registers by their offsets (R407) -/

section
variable (s : State) (p : HostPort) (v : Word)

theorem writeOwn_hpath {i : Nat} (hi : i < 2) : writeOwn s p (0x20 + 8 * i) v =
    behind s p 8 (onHost s (fun h => { h with hpath := mput 0 h.hpath i (v &&& 0x7F) })) :=
  match i, hi with
  | 0, _ => rfl
  | 1, _ => rfl

theorem writeOwn_irbase {r : Nat} (hr : r < 16) : writeOwn s p (0x20000 + 0x200 * r) v =
    behind s p 0 (setRegs s r (fun g => { g with irbase := v &&& 0x7FC0000000 })) := by
  have hregion : (0x20000 + 0x200 * r - 0x20000) / 0x200 = r := by omega
  simp (disch := omega) only [writeOwn, ↓if_pos, ↓if_neg, hregion]
  rfl

theorem writeOwn_ircfg {r : Nat} (hr : r < 16) : writeOwn s p (0x20008 + 0x200 * r) v =
    behind s p 0 (setRegs s r (fun g => { g with ircfg := v &&& 0x13F })) := by
  have hregion : (0x20008 + 0x200 * r - 0x20000) / 0x200 = r := by omega
  simp (disch := omega) only [writeOwn, ↓if_pos, ↓if_neg, hregion]
  rfl

theorem writeOwn_mrow {r j : Nat} (hr : r < 16) (hj : j < 34) : writeOwn s p (0x20010 + 0x200 * r + 8 * j) v =
    behind s p 0 (setRegs s r (fun g => { g with mrow := mput 0 g.mrow j ((v.setWidth 34 ^^^ unitRow j).setWidth 64) })) := by
  have hregion : (0x20010 + 0x200 * r + 8 * j - 0x20000) / 0x200 = r := by omega
  have hrow : ((0x20010 + 0x200 * r + 8 * j) % 0x200 - 0x10) / 8 = j := by omega
  simp (disch := omega) only [writeOwn, ↓if_pos, ↓if_neg, hregion, hrow]
  rfl

theorem writeOwn_queueBase {q : Nat} (hq : q < 256) : writeOwn s p (0x40000 + 0x40 * q) v =
    behind s p 2 (setQueue s q (fun u => { u with base := v &&& 0x7FFFFFFF00 })) := by
  have hqueue : (0x40000 + 0x40 * q - 0x40000) / 0x40 = q := by omega
  simp (disch := omega) only [writeOwn, ↓if_pos, ↓if_neg, hqueue]
  rfl

theorem writeOwn_queueCode {q : Nat} (hq : q < 256) : writeOwn s p (0x40028 + 0x40 * q) v =
    behind s p 2 (setQueue s q (fun u => { u with code := v.setWidth 8 })) := by
  have hqueue : (0x40028 + 0x40 * q - 0x40000) / 0x40 = q := by omega
  simp (disch := omega) only [writeOwn, ↓if_pos, ↓if_neg, hqueue]
  rfl

theorem writeOwn_key {j : Nat} (hj : j < 8) : writeOwn s p (0x60040 + 8 * j) v =
    behind s p 4 (onFab s (fun h => { h with keys := mput 0 h.keys j v })) := by
  have hkey : (0x60040 + 8 * j - 0x60040) / 8 = j := by omega
  simp (disch := omega) only [writeOwn, ↓if_pos, ↓if_neg, hkey]
  rfl

theorem writeOwn_lpcfg {n : Nat} (hn : n < 16) : writeOwn s p (0x60100 + 8 * n) v =
    behind s p 4 (reroute s (onFab s (fun h => { h with lpcfg := mput 0 h.lpcfg n (v &&& 0x703F) }))) := by
  have hport : (0x60100 + 8 * n - 0x60100) / 8 = n := by omega
  simp (disch := omega) only [writeOwn, ↓if_pos, ↓if_neg, hport]
  rfl

theorem writeOwn_parkbase {k : Nat} (hk : k < 8) : writeOwn s p (0x70100 + 8 * k) v =
    behind s p 5 (onSched s (fun h => { h with parkbase := mput 0 h.parkbase k (v &&& 0x7FFF000001) })) := by
  have hstack : (0x70100 + 8 * k - 0x70100) / 8 = k := by omega
  simp (disch := omega) only [writeOwn, ↓if_pos, ↓if_neg, hstack]
  rfl

/-- The low half of an interrupt vector. -/
theorem writeOwn_vectorLow {n : Nat} (hn : n < 2048) : writeOwn s p (0x100000 + 16 * n) v =
    behind s p 7 (onHost s (fun h => setVector h n ((vector s.host n >>> 64) <<< 64 ||| v.setWidth 128))) := by
  have hvec : (0x100000 + 16 * n - 0x100000) / 16 = n := by omega
  simp (disch := omega) only [writeOwn, ↓if_pos, ↓if_neg, hvec]
  rfl

/-- The high half of an interrupt vector. -/
theorem writeOwn_vectorHigh {n : Nat} (hn : n < 2048) : writeOwn s p (0x100008 + 16 * n) v =
    behind s p 7 (onHost s (fun h => setVector h n (((vector s.host n).setWidth 64).setWidth 128 |||
      (v &&& 0x3FFFFFFFF).setWidth 128 <<< 64))) := by
  have hvec : (0x100008 + 16 * n - 0x100000) / 16 = n := by omega
  simp (disch := omega) only [writeOwn, ↓if_pos, ↓if_neg, hvec]
  rfl

end

section
variable (t : State)

theorem readOwn_irbase {r : Nat} (hr : r < 16) : readOwn t (0x20000 + 0x200 * r) = (regionRegs t r).irbase := by
  have hregion : (0x20000 + 0x200 * r - 0x20000) / 0x200 = r := by omega
  simp (disch := omega) only [readOwn, ↓if_pos, ↓if_neg, hregion]

theorem readOwn_ircfg {r : Nat} (hr : r < 16) : readOwn t (0x20008 + 0x200 * r) = (regionRegs t r).ircfg := by
  have hregion : (0x20008 + 0x200 * r - 0x20000) / 0x200 = r := by omega
  simp (disch := omega) only [readOwn, ↓if_pos, ↓if_neg, hregion]

theorem readOwn_queueBase {q : Nat} (hq : q < 256) : readOwn t (0x40000 + 0x40 * q) = (queueAt t q).base := by
  have hqueue : (0x40000 + 0x40 * q - 0x40000) / 0x40 = q := by omega
  simp (disch := omega) only [readOwn, readQueue, ↓if_pos, ↓if_neg, hqueue]

theorem readOwn_queueCode {q : Nat} (hq : q < 256) : readOwn t (0x40028 + 0x40 * q) = (queueAt t q).code.setWidth 64 := by
  have hqueue : (0x40028 + 0x40 * q - 0x40000) / 0x40 = q := by omega
  simp (disch := omega) only [readOwn, readQueue, ↓if_pos, ↓if_neg, hqueue]

theorem readOwn_lpcfg {n : Nat} (hn : n < 16) :
    readOwn t (0x60100 + 8 * n) = mget 0 t.fab.lpcfg n ||| flagBit (t.fab.up.getLsbD n) 15 := by
  have hport : (0x60100 + 8 * n - 0x60100) / 8 = n := by omega
  simp (disch := omega) only [readOwn, ↓if_pos, ↓if_neg, hport]

theorem readOwn_parkbase {k : Nat} (hk : k < 8) : readOwn t (0x70100 + 8 * k) = mget 0 t.sched.parkbase k := by
  have hstack : (0x70100 + 8 * k - 0x70100) / 8 = k := by omega
  simp (disch := omega) only [readOwn, ↓if_pos, ↓if_neg, hstack]

end

/-! ### Tables that a write leaves (R276, R332, R352, R399, R410, R415) -/

/-- The tables of the control space, each in canonical form. -/
structure Tables (s : State) : Prop where
  stage : canon RegionRegs.reset s.dram.stage = true
  rows : ∀ e ∈ s.dram.stage, canon 0 e.2.mrow = true
  queues : canon Queue.reset s.sched.queues = true
  hpath : canon 0 s.host.hpath = true
  lpcfg : canon 0 s.fab.lpcfg = true
  parkbase : canon 0 s.sched.parkbase = true
  vectors : canon 0 s.host.vectors = true

theorem tables_of_tablesCanon {s : State} (h : tablesCanon s = true) : Tables s := by
  simp only [tablesCanon, Bool.and_eq_true, List.all_eq_true] at h
  obtain ⟨⟨⟨⟨⟨⟨hstage, hrows⟩, hqueues⟩, hpath⟩, hlpcfg⟩, hpark⟩, hvectors⟩ := h
  exact ⟨hstage, hrows, hqueues, hpath, hlpcfg, hpark, hvectors⟩

/-- What a table reads as is its default, or a value that it lists. -/
theorem mget_default_or_mem {α : Type} (z : α) (m : SMap α) (n : Nat) : mget z m n = z ∨ ∃ e ∈ m, e.2 = mget z m n := by
  induction m with
  | nil => exact .inl rfl
  | cons e t ih =>
    unfold mget
    split_ifs
    · exact .inl rfl
    · exact .inr ⟨e, List.mem_cons_self, rfl⟩
    · exact ih.imp_right fun ⟨x, hx, hv⟩ => ⟨x, List.mem_cons_of_mem _ hx, hv⟩

namespace Tables
variable {s : State} (h : Tables s)
include h

theorem regionRegs_setRegs (r : Nat) (f : RegionRegs → RegionRegs) : regionRegs (setRegs s r f) r = f (regionRegs s r) :=
  (mget_mput h.stage r _ r).trans (if_pos rfl)

theorem queueAt_setQueue (q : Nat) (f : Queue → Queue) : queueAt (setQueue s q f) q = f (queueAt s q) :=
  (mget_mput h.queues q _ q).trans (if_pos rfl)

theorem vector_setVector (n : Nat) (b : BitVec 128) : vector (onHost s (fun g => setVector g n b)).host n = b := by
  refine (congrArg (· ^^^ _) ((mget_mput h.vectors n _ n).trans (if_pos rfl))).trans ?_
  rw [BitVec.xor_assoc, BitVec.xor_self, BitVec.xor_zero]

theorem canon_mrow (r : Nat) : canon 0 (regionRegs s r).mrow = true := by
  rcases mget_default_or_mem RegionRegs.reset s.dram.stage r with hr | ⟨e, he, hr⟩
  · exact congrArg (canon 0 ·.mrow) hr
  · exact (congrArg (canon 0 ·.mrow) hr).symm.trans (h.rows e he)

end Tables

/-- A row of the staged matrix after one was written (R276). -/
theorem mrow_write {g : RegionRegs} (h : canon 0 g.mrow = true) (j i : Nat) (v : Word) :
    mrow { g with mrow := mput 0 g.mrow j ((v.setWidth 34 ^^^ unitRow j).setWidth 64) } i =
      if i = j then v.setWidth 34 else mrow g i := by
  unfold mrow
  dsimp only
  rw [mget_mput h]
  split_ifs with hi
  · rw [BitVec.setWidth_setWidth_of_le _ (by decide), BitVec.setWidth_eq, BitVec.xor_assoc, hi, BitVec.xor_self, BitVec.xor_zero]
  · rfl

/-! ### Registers that read as they were written (R407) -/

/-- A field of `w` bits keeps the low `w` bits of a word. -/
theorem setWidth_setWidth_eq_and (v : Word) (w : Nat) : (v.setWidth w).setWidth 64 = v &&& (BitVec.allOnes w).setWidth 64 := by
  ext i hi
  simp only [BitVec.getElem_setWidth, BitVec.getElem_and, BitVec.getLsbD_setWidth, BitVec.getLsbD_allOnes,
    BitVec.getLsbD_eq_getElem hi]
  exact Bool.and_comm _ _

/-- Cores and memories, regions and nodes are the same. -/
structure Untouched (s t : State) : Prop where
  cores : t.cores = s.cores
  slices : t.slices = s.slices
  mem : t.dram.mem = s.dram.mem
  regions : t.dram.regions = s.dram.regions
  nodes : t.sched.nodes = s.sched.nodes

/-- A register at an aligned offset that is no IRCMD: a write of `v` behind semaphore `k` leaves `t`, where it reads as `v` with its
reserved bits zero. -/
structure ReadsBack (s : State) (p : HostPort) (off k : Nat) (m v : Word) (t : State) : Prop where
  aligned : off % 8 = 0
  plain : ∀ r < 16, off ≠ 0x20120 + 0x200 * r
  written : writeOwn s p off v = behind s p k t
  read : readOwn t off = v &&& m
  frame : Untouched s t

theorem untouched_onHost (s : State) (f : HostSide → HostSide) : Untouched s (onHost s f) := ⟨rfl, rfl, rfl, rfl, rfl⟩
theorem untouched_onFab (s : State) (f : Fabric → Fabric) : Untouched s (onFab s f) := ⟨rfl, rfl, rfl, rfl, rfl⟩
theorem untouched_reroute (s : State) (f : Fabric → Fabric) : Untouched s (reroute s (onFab s f)) := ⟨rfl, rfl, rfl, rfl, rfl⟩
theorem untouched_onSched (s : State) (f : Sched → Sched) (h : (f s.sched).nodes = s.sched.nodes) : Untouched s (onSched s f) :=
  ⟨rfl, rfl, rfl, rfl, h⟩
theorem untouched_setQueue (s : State) (q : Nat) (f : Queue → Queue) : Untouched s (setQueue s q f) := ⟨rfl, rfl, rfl, rfl, rfl⟩
theorem untouched_setRegs (s : State) (r : Nat) (f : RegionRegs → RegionRegs) : Untouched s (setRegs s r f) :=
  ⟨rfl, rfl, rfl, rfl, rfl⟩

section
variable {s : State} (p : HostPort) (v : Word)

theorem hp1base_readsBack : ReadsBack s p 0x30 8 0xFFFFFFFFC0000 v (onHost s (fun h => { h with hp1base := v &&& 0xFFFFFFFFC0000 })) :=
  ⟨by decide, by omega, rfl, rfl, untouched_onHost ..⟩

theorem hp1limit_readsBack : ReadsBack s p 0x38 8 0xFFFFFFFFC0000 v (onHost s (fun h => { h with hp1limit := v &&& 0xFFFFFFFFC0000 })) :=
  ⟨by decide, by omega, rfl, rfl, untouched_onHost ..⟩

theorem tinvAddr_readsBack : ReadsBack s p 0x30000 1 0xFFFFFFFC0000 v (onHost s (fun h => { h with tinvAddr := v &&& 0xFFFFFFFC0000 })) :=
  ⟨by decide, by omega, rfl, rfl, untouched_onHost ..⟩

theorem dirtybase_readsBack : ReadsBack s p 0x30010 1 0x7FFFFC0001 v (onHost s (fun h => { h with dirtybase := v &&& 0x7FFFFC0001 })) :=
  ⟨by decide, by omega, rfl, rfl, untouched_onHost ..⟩

theorem ctxbase_readsBack : ReadsBack s p 0x30018 1 0x7FFFC00000 v (onHost s (fun h => { h with ctxbase := v &&& 0x7FFFC00000 })) :=
  ⟨by decide, by omega, rfl, rfl, untouched_onHost ..⟩

theorem tvecinit_readsBack : ReadsBack s p 0x30028 1 0xFFFFFFFFFF00 v
    (onHost s (fun h => { h with tvecinit := (v &&& 0xFFFFFFFFFF00).setWidth 48 })) := by
  refine ⟨by decide, by omega, rfl, (setWidth_setWidth_eq_and _ 48).trans ?_, untouched_onHost ..⟩
  rw [BitVec.and_assoc]
  rfl

theorem fabcfg_readsBack : ReadsBack s p 0x60000 4 0xFC003F v (reroute s (onFab s (fun h => { h with fabcfg := v &&& 0xFC003F }))) :=
  ⟨by decide, by omega, rfl, rfl, untouched_reroute ..⟩

theorem ftime_readsBack : ReadsBack s p 0x60008 4 0xFFFFFFFFFFFFFFFF v (onFab s (fun h => { h with ftime := v })) :=
  ⟨by decide, by omega, rfl, BitVec.and_allOnes.symm, untouched_onFab ..⟩

theorem winbase_readsBack : ReadsBack s p 0x60010 4 0x7FFFFE0001 v (onFab s (fun h => { h with winbase := v &&& 0x7FFFFE0001 })) :=
  ⟨by decide, by omega, rfl, rfl, untouched_onFab ..⟩

theorem keyctl_readsBack : ReadsBack s p 0x60020 4 0xF v (onFab s (fun h => { h with keyctl := v.setWidth 4 })) :=
  ⟨by decide, by omega, rfl, setWidth_setWidth_eq_and v 4, untouched_onFab ..⟩

theorem rasctl_readsBack : ReadsBack s p 0x70018 5 0xFFF v (onSched s (fun h => { h with rasctl := v &&& 0xFFF })) :=
  ⟨by decide, by omega, rfl, rfl, untouched_onSched _ _ rfl⟩

section
variable (htab : Tables s)
include htab

theorem hpath0_readsBack : ReadsBack s p 0x20 8 0x7F v (onHost s (fun h => { h with hpath := mput 0 h.hpath 0 (v &&& 0x7F) })) :=
  ⟨by decide, by omega, rfl, (mget_mput htab.hpath 0 _ 0).trans (if_pos rfl), untouched_onHost ..⟩

theorem hpath1_readsBack : ReadsBack s p 0x28 8 0x7F v (onHost s (fun h => { h with hpath := mput 0 h.hpath 1 (v &&& 0x7F) })) :=
  ⟨by decide, by omega, rfl, (mget_mput htab.hpath 1 _ 1).trans (if_pos rfl), untouched_onHost ..⟩

theorem irbase_readsBack {r : Nat} (hr : r < 16) : ReadsBack s p (0x20000 + 0x200 * r) 0 0x7FC0000000 v
    (setRegs s r (fun g => { g with irbase := v &&& 0x7FC0000000 })) :=
  ⟨by omega, by omega, writeOwn_irbase s p v hr,
    (readOwn_irbase _ hr).trans (congrArg (·.irbase) (htab.regionRegs_setRegs r _)), untouched_setRegs ..⟩

theorem ircfg_readsBack {r : Nat} (hr : r < 16) : ReadsBack s p (0x20008 + 0x200 * r) 0 0x13F v
    (setRegs s r (fun g => { g with ircfg := v &&& 0x13F })) :=
  ⟨by omega, by omega, writeOwn_ircfg s p v hr,
    (readOwn_ircfg _ hr).trans (congrArg (·.ircfg) (htab.regionRegs_setRegs r _)), untouched_setRegs ..⟩

theorem queueBase_readsBack {q : Nat} (hq : q < 256) : ReadsBack s p (0x40000 + 0x40 * q) 2 0x7FFFFFFF00 v
    (setQueue s q (fun u => { u with base := v &&& 0x7FFFFFFF00 })) :=
  ⟨by omega, by omega, writeOwn_queueBase s p v hq,
    (readOwn_queueBase _ hq).trans (congrArg (·.base) (htab.queueAt_setQueue q _)), untouched_setQueue ..⟩

theorem queueCode_readsBack {q : Nat} (hq : q < 256) : ReadsBack s p (0x40028 + 0x40 * q) 2 0xFF v
    (setQueue s q (fun u => { u with code := v.setWidth 8 })) := by
  refine ⟨by omega, by omega, writeOwn_queueCode s p v hq, (readOwn_queueCode _ hq).trans ?_, untouched_setQueue ..⟩
  rw [htab.queueAt_setQueue]
  exact setWidth_setWidth_eq_and v 8

theorem parkbase_readsBack {k : Nat} (hk : k < 8) : ReadsBack s p (0x70100 + 8 * k) 5 0x7FFF000001 v
    (onSched s (fun h => { h with parkbase := mput 0 h.parkbase k (v &&& 0x7FFF000001) })) :=
  ⟨by omega, by omega, writeOwn_parkbase s p v hk,
    (readOwn_parkbase _ hk).trans ((mget_mput htab.parkbase k _ k).trans (if_pos rfl)), untouched_onSched _ _ rfl⟩

/-- Every register of the list reads back, in the order of the list. -/
theorem plainRegs_readsBack : ∀ e ∈ plainRegs, ∃ t, ReadsBack s p e.1 e.2.1 e.2.2 v t := by
  unfold plainRegs
  simp only [List.forall_mem_append, List.forall_mem_cons, List.mem_flatMap, List.mem_range, List.forall_mem_map,
    forall_exists_index, and_imp]
  refine ⟨⟨⟨⟨⟨_, hpath0_readsBack p v htab⟩, ⟨_, hpath1_readsBack p v htab⟩, ⟨_, hp1base_readsBack p v⟩,
    ⟨_, hp1limit_readsBack p v⟩, ⟨_, tinvAddr_readsBack p v⟩, ⟨_, dirtybase_readsBack p v⟩, ⟨_, ctxbase_readsBack p v⟩,
    ⟨_, tvecinit_readsBack p v⟩, ⟨_, fabcfg_readsBack p v⟩, ⟨_, ftime_readsBack p v⟩, ⟨_, winbase_readsBack p v⟩, ⟨_, keyctl_readsBack p v⟩,
    ⟨_, rasctl_readsBack p v⟩, fun e he => absurd he List.not_mem_nil⟩, fun e r hr he => ?_⟩, fun e q hq he => ?_⟩,
    fun k hk => ⟨_, parkbase_readsBack p v htab hk⟩⟩
  · rcases List.mem_pair.1 he with rfl | rfl
    · exact ⟨_, irbase_readsBack p v htab hr⟩
    · exact ⟨_, ircfg_readsBack p v htab hr⟩
  · rcases List.mem_pair.1 he with rfl | rfl
    · exact ⟨_, queueBase_readsBack p v htab hq⟩
    · exact ⟨_, queueCode_readsBack p v htab hq⟩

end

end

end Sys2Proof.Machine
end


section
/-! Writes of the control space by a host port (R276, R277, R284, R285, R328-R333, R343, R352, R359, R379, R393, R399, R407-R410, R415,
R416, R419), and the obligation on them (O52). -/

namespace Sys2Proof.Machine
open Sys2Proof

section
variable {s : State} {p : HostPort} (hp : s.host.power = true) (hopen : portOk s p = true)
include hp hopen

/-! ### Events of an open port (R407, R409) -/

theorem portEvent_next {name : String} {c : Bool} {t : State} (hc : c = true) : event name (portOk s p && c) s t = .next t :=
  event_next hp (by rw [hopen, hc]; rfl)

omit hp in
/-- The control space is open in state 2 only. -/
theorem portOk_state : s.host.state = 2 := by
  obtain ⟨hstate, -⟩ := Bool.and_eq_true_iff.1 hopen
  exact eq_of_beq hstate

/-! ### Commits of regions (R276, R277) -/

theorem ircmdCommit_next {r : Nat} (v : Word) (hr : r < 16) (hpend : (regionRegs s r).pend = none) :
    exec (.ircmdCommit p r v) s = .next (if discards s p 0 = true ∨ v.getLsbD 0 = false then s else commitRegion s r) := by
  refine (event_next hp (by rw [hopen, decide_eq_true hr, hpend]; rfl)).trans (congrArg Host.Outcome.next (if_congr ?_ rfl rfl))
  rw [Bool.or_eq_true, Bool.not_eq_true']

/-! ### Translations and contexts (R284, R331) -/

omit hp hopen in
theorem writeTinv_eq (v : Word) : writeTinv s v =
    if s.host.tinv.isSome = true ∧ v.getLsbD 16 = true then s
    else onHost s (fun h => { h with
      tinvCtl := v &&& 0xCFFFF,
      tinv := if v.getLsbD 16 = true ∧ (v.extractLsb' 18 2).toNat ≠ 3 then
          some ((v.extractLsb' 18 2).toNat, v.extractLsb' 0 16, (h.tinvAddr.extractLsb' 18 30).toNat * 2 ^ 18)
        else h.tinv }) := by
  unfold writeTinv tinvBusy
  simp only [Bool.and_eq_true, bne_iff_ne]
  rfl

omit hp hopen in
theorem writeCtxkill_eq (v : Word) : writeCtxkill s v =
    if s.host.ctxkill.getLsbD 63 = true then s
    else if v.getLsbD 16 = false then
      onHost (onSched s (fun h => { h with ctxCache := [] })) (fun h => { h with ctxkill := (v.extractLsb' 0 16).setWidth 64 })
    else killNext (endContexts (onSched (onHost (onSched s (fun h => { h with ctxCache := [] })) (fun h =>
      { h with ctxkill := 0x8000000000000000 ||| (v.extractLsb' 0 16).setWidth 64 })) (fun h =>
        { h with killing := some (v.extractLsb' 0 16) })) (fun x => x == v.extractLsb' 0 16)) := by
  unfold writeCtxkill
  cases v.getLsbD 16 <;> rfl

theorem tinvGo_next (v : Word) : exec (.tinvGo p v) s = .next (behind s p 1 (writeTinv s v)) := event_next hp hopen
theorem ctxkillGo_next (v : Word) : exec (.ctxkillGo p v) s = .next (behind s p 1 (writeCtxkill s v)) := event_next hp hopen

/-! ### Queues and bookings (R332, R333, R343) -/

omit hp hopen in
theorem doorbell_eq (q : Nat) (v : Word) : doorbell s q v =
    if (queueAt s q).en = true ∧ (queueAt s q).dev = false ∧ 0 < ((v.setWidth 32 : BitVec 32) - (queueAt s q).tail).toNat ∧
        ((v.setWidth 32 : BitVec 32) - (queueAt s q).tail).toNat + ((queueAt s q).tail - (queueAt s q).head).toNat ≤
          ringSize (queueAt s q) then
      setQueue s q (fun u => { u with tail := v.setWidth 32 })
    else setQueue s q (fun u => { u with
      code := 0x99, en := u.en && u.dev,
      drainTo := if u.en && !u.dev && u.head != u.tail then some u.tail else u.drainTo }) := by
  refine if_congr ?_ rfl rfl
  simp only [Bool.and_eq_true, decide_eq_true_eq, Bool.not_eq_true', and_assoc]

theorem qdbDoorbell_next {q : Nat} (v : Word) (hq : q < 256) : exec (.qdbDoorbell p q v) s = .next (doorbell s q v) :=
  portEvent_next hp hopen (decide_eq_true hq)

theorem qcfgWrite_next {q : Nat} (v : Word) (hq : q < 256) : exec (.qcfgWrite p q v) s = .next (behind s p 2 (writeQcfg s q v)) :=
  portEvent_next hp hopen (decide_eq_true hq)

theorem bkcfgCommit_next {b : Nat} (v : Word) (hb : b < 32) : exec (.bkcfgCommit p b v) s = .next (behind s p 3 (writeBkcfg s b v)) :=
  portEvent_next hp hopen (decide_eq_true hb)

/-- A booking's register as a write leaves it staged (R343). -/
def bookingStaged (s : State) (b : Nat) (v : Word) : State := setBooking s b (fun k => { k with stage := v &&& 0xFFFFFFFFFF3FFD })

/-- Why a commit of the booking is refused; 0 where it is not (R343). -/
def bookingRefusal (t : State) (b : Nat) (v : Word) : BitVec 8 :=
  if v.getLsbD 0 = false then 0
  else if t.sched.bookings.any (fun e => e.1 != b && e.2.en && e.2.clus &&& v.extractLsb' 32 24 != 0) = true then 1
  else if ctxValid t (v.extractLsb' 16 16) = false then 2
  else if v.extractLsb' 32 24 = 0 then 3 else 0

omit hp hopen in
theorem writeBkcfg_eq (b : Nat) (v : Word) : writeBkcfg s b v =
    if v.getLsbD 1 = false then bookingStaged s b v
    else if bookingRefusal (bookingStaged s b v) b v ≠ 0 then
      setBooking (bookingStaged s b v) b (fun k => { k with code := bookingRefusal (bookingStaged s b v) b v })
    else setBooking (bookingStaged s b v) b (fun k => { k with
      clus := v.extractLsb' 32 24, ctx := v.extractLsb' 16 16, ceil := v.extractLsb' 8 6, level := v.extractLsb' 2 6,
      en := v.getLsbD 0, code := 0, use := 0, idle := 0 }) := by
  unfold writeBkcfg bookingRefusal bookingStaged
  simp only [Bool.not_eq_true', bne_iff_ne]
  rfl

/-! ### Windows and semaphores (R359, R409) -/

omit hp hopen in
theorem writeWinv_eq (v : Word) : writeWinv s v =
    if s.fab.winvOn.isSome = true ∧ v.getLsbD 16 = true then s
    else onFab s (fun h => { h with
      winv := v &&& 0xFFF, winvOn := if v.getLsbD 16 = true then some (v.extractLsb' 0 12).toNat else h.winvOn }) := by
  refine if_congr ?_ rfl rfl
  rw [Bool.and_eq_true]

theorem winvGo_next (v : Word) : exec (.winvGo p v) s = .next (behind s p 4 (writeWinv s v)) := event_next hp hopen

theorem hsemRel_next {k : Nat} (hk : k < 32) : exec (.hsemRel p k) s = .next (
    if (hsemOwner s k).isSome ∧ hsemOwner s k = portNo p then onHost s (fun h => { h with hsem := mput none h.hsem k none })
    else s) := by
  refine (event_next hp (by rw [hopen, decide_eq_true hk]; rfl)).trans (congrArg Host.Outcome.next (if_congr ?_ rfl rfl))
  rw [Bool.and_eq_true, beq_iff_eq]

theorem hsemClaim_next {k n : Nat} (hk : k < 32) (hn : portNo p = some n) : exec (.hsemClaim k (n == 0) (n == 1)) s = .next (
    if (hsemOwner s k).isSome then s else onHost s (fun h => { h with hsem := mput none h.hsem k (some n) })) := by
  cases p with
  | port0 =>
    cases hn
    exact event_next hp (by rw [hopen, decide_eq_true hk]; rfl)
  | port1 =>
    cases hn
    exact event_next hp (by rw [hopen, decide_eq_true hk]; rfl)
  | board => cases hn

omit hopen in
theorem hsemClaim_tie {k : Nat} (hk : k < 32) (h0 : portOk s .port0 = true) (h1 : portOk s .port1 = true) :
    exec (.hsemClaim k true true) s = .next (
      if (hsemOwner s k).isSome then s
      else onHost s (fun h => { h with
        hsem := mput none h.hsem k (some (if h.hsemTie = true then 1 else 0)), hsemTie := !h.hsemTie })) :=
  event_next hp (by rw [h0, h1, decide_eq_true hk]; rfl)

/-! ### Starts, the power limit, held banks and logs (R328, R399, R408, R416, R419) -/

omit hp in
theorem beginStart_eq (warm : Bool) : beginStart s warm = killNext (onHost (endContexts s (fun _ => true)) (fun h =>
    { h with state := 1, step := 1, warm := warm, meas := [], spdm := [] })) :=
  if_neg (by rw [portOk_state hopen]; decide)

theorem startctl_next (warm : Bool) : exec (if warm then .startctlWarm p else .startctlCold p) s = .next (
    if discards s p 8 = true then s
    else killNext (onHost (endContexts s (fun _ => true)) (fun h =>
      { h with state := 1, step := 1, warm := warm, meas := [], spdm := [] }))) := by
  rw [← beginStart_eq hopen]
  cases warm <;> exact event_next hp hopen

theorem pwrlimWrite_next (v : Word) : exec (.pwrlimWrite p v) s = .next (
    if discards s p 8 = false ∧ 600 ≤ (v.extractLsb' 0 11).toNat ∧ (v.extractLsb' 0 11).toNat ≤ 1600 then
      onHost s (fun h => { h with pwrlim := v.extractLsb' 0 11 }) else s) := by
  refine (event_next hp hopen).trans (congrArg Host.Outcome.next ?_)
  rw [ite_and]
  cases discards s p 8 <;> rfl

theorem parkrelGo_next {k : Nat} (hk : k < 8) : exec (.parkrelGo p k) s = .next (behind s p 5 (parkRelease s k)) :=
  portEvent_next hp hopen (decide_eq_true hk)

theorem logclrGo_next {n : Nat} (hn : n < 512) : exec (.logclrGo p n) s = .next (behind s p 6 (clearLog s n)) :=
  portEvent_next hp hopen (decide_eq_true hn)

/-! ### Writes of registers by their offsets (R407) -/

omit hp hopen in
/-- Only a write of IRCMD waits for a commit. -/
theorem commitWaits_plain {off width : Nat} (h : ∀ r < 16, off ≠ 0x20120 + 0x200 * r) : commitWaits s (.bar0 off width) = false := by
  rw [← Bool.not_eq_true]
  intro hw
  simp only [commitWaits, Bool.and_eq_true, decide_eq_true_eq, beq_iff_eq] at hw
  obtain ⟨⟨⟨hlo, hhi⟩, hoff⟩, -⟩ := hw
  exact h ((off - 0x20000) / 0x200) (by omega) (by omega)

omit hp in
theorem registerWrite_guard {off width : Nat} (h : ∀ r < 16, off ≠ 0x20120 + 0x200 * r) :
    (portOk s p && !commitWaits s (.bar0 off width)) = true := by
  rw [hopen, commitWaits_plain h]
  rfl

theorem registerWrite_malformed {off width : Nat} {v : Word} (h : ∀ r < 16, off ≠ 0x20120 + 0x200 * r)
    (hbad : width ≠ 8 ∨ off % 8 ≠ 0) :
    exec (.registerWrite p (.bar0 off width) v) s = .next s :=
  (event_next hp (registerWrite_guard hopen h)).trans
    (congrArg Host.Outcome.next (if_neg fun ⟨hwidth, halign⟩ => hbad.elim (· hwidth) (· halign)))

/-- An aligned write of a register other than IRCMD. -/
theorem registerWrite_own {off : Nat} {v : Word} (h8 : off % 8 = 0) (h : ∀ r < 16, off ≠ 0x20120 + 0x200 * r) :
    exec (.registerWrite p (.bar0 off 8) v) s = .next (writeOwn s p off v) :=
  (event_next hp (registerWrite_guard hopen h)).trans (congrArg Host.Outcome.next (if_pos ⟨rfl, h8⟩))

/-- The same behind a semaphore that the other port does not hold. -/
theorem registerWrite_free {off k : Nat} {v : Word} {t : State} (h8 : off % 8 = 0) (h : ∀ r < 16, off ≠ 0x20120 + 0x200 * r)
    (hw : writeOwn s p off v = behind s p k t) (hfree : discards s p k = false) : exec (.registerWrite p (.bar0 off 8) v) s = .next t :=
  (registerWrite_own hp hopen h8 h).trans (congrArg Host.Outcome.next (hw.trans (behind_free hfree)))

theorem registerWrite_live {hc word : Nat} {v : Word} (hhc : hc < 512) (hword : word < 8) :
    exec (.registerWrite p (.live hc word) v) s = .next (writeLive s hc word v) :=
  (event_next hp (by rw [hopen]; rfl)).trans (congrArg Host.Outcome.next (if_pos ⟨hhc, hword⟩))

theorem registerWrite_plain {off k : Nat} {m : Word} (v : Word) (hmem : (off, k, m) ∈ plainRegs) (htab : Tables s) :
    (discards s p k = true → exec (.registerWrite p (.bar0 off 8) v) s = .next s) ∧
    (discards s p k = false → ∃ t, exec (.registerWrite p (.bar0 off 8) v) s = .next t ∧ readOwn t off = v &&& m ∧
      t.cores = s.cores ∧ t.slices = s.slices ∧ t.dram.mem = s.dram.mem ∧ t.dram.regions = s.dram.regions ∧
      t.sched.nodes = s.sched.nodes) := by
  obtain ⟨t, halign, hplain, hw, hread, hcores, hslices, hdram, hregions, hnodes⟩ := plainRegs_readsBack p v htab _ hmem
  refine ⟨fun hheld => ?_, fun hfree => ⟨t, ?_, hread, hcores, hslices, hdram, hregions, hnodes⟩⟩
  · exact (registerWrite_own hp hopen halign hplain).trans (congrArg Host.Outcome.next (hw.trans (behind_held hheld)))
  · exact registerWrite_free hp hopen halign hplain hw hfree

theorem registerWrite_hpath {i : Nat} (v : Word) (hi : i < 2) (hfree : discards s p 8 = false) :
    exec (.registerWrite p (.bar0 (0x20 + 8 * i) 8) v) s =
      .next (onHost s (fun h => { h with hpath := mput 0 h.hpath i (v &&& 0x7F) })) :=
  registerWrite_free hp hopen (by omega) (by omega) (writeOwn_hpath s p v hi) hfree

theorem registerWrite_tvecinit (v : Word) (hfree : discards s p 1 = false) : exec (.registerWrite p (.bar0 0x30028 8) v) s =
    .next (onHost s (fun h => { h with tvecinit := (v &&& 0xFFFFFFFFFF00).setWidth 48 })) :=
  registerWrite_free hp hopen (by decide) (by omega) rfl hfree

theorem registerWrite_key {j : Nat} (v : Word) (hj : j < 8) (hfree : discards s p 4 = false) :
    exec (.registerWrite p (.bar0 (0x60040 + 8 * j) 8) v) s = .next (onFab s (fun h => { h with keys := mput 0 h.keys j v })) :=
  registerWrite_free hp hopen (by omega) (by omega) (writeOwn_key s p v hj) hfree

theorem registerWrite_mrow {r j : Nat} (v : Word) (hr : r < 16) (hj : j < 34) (htab : Tables s) (hfree : discards s p 0 = false) :
    ∃ t, exec (.registerWrite p (.bar0 (0x20010 + 0x200 * r + 8 * j) 8) v) s = .next t ∧ mrow (regionRegs t r) j = v.setWidth 34 ∧
      ∀ i, i ≠ j → mrow (regionRegs t r) i = mrow (regionRegs s r) i := by
  refine ⟨_, registerWrite_free hp hopen (by omega) (by omega) (writeOwn_mrow s p v hr hj) hfree, ?_, fun i hi => ?_⟩
  · rw [htab.regionRegs_setRegs, mrow_write (htab.canon_mrow r), if_pos rfl]
  · rw [htab.regionRegs_setRegs, mrow_write (htab.canon_mrow r), if_neg hi]

theorem registerWrite_lpcfg {n : Nat} (v : Word) (hn : n < 16) (htab : Tables s) (hfree : discards s p 4 = false) :
    ∃ t, exec (.registerWrite p (.bar0 (0x60100 + 8 * n) 8) v) s = .next t ∧
      readOwn t (0x60100 + 8 * n) = (v &&& 0x703F) ||| if s.fab.up.getLsbD n = true then 0x8000 else 0 := by
  refine ⟨_, registerWrite_free hp hopen (by omega) (by omega) (writeOwn_lpcfg s p v hn) hfree, ?_⟩
  rw [readOwn_lpcfg _ hn]
  exact congrArg (· ||| flagBit (s.fab.up.getLsbD n) 15) ((mget_mput htab.lpcfg n _ n).trans (if_pos rfl))

/-- The shadow pool laid out anew from `base` on (R393). -/
def poolLaid (s : State) (base : Word) (size : BitVec 16) : State := onSched s (fun h => { h with
  shbase := base, shsize := size, shfree := (List.range size.toNat).map (fun i => (base.extractLsb' 18 21).toNat + i) })

omit hp hopen in
theorem writePool_laid (base : Word) (size : BitVec 16) (hall : s.sched.shfree.length = s.sched.shsize.toNat) :
    writePool s base size = poolLaid s base size := if_neg (not_not.2 hall)

omit hp hopen in
theorem writePool_inUse (base : Word) (size : BitVec 16) (hused : s.sched.shfree.length ≠ s.sched.shsize.toNat) :
    writePool s base size = s := if_pos hused

theorem registerWrite_shbase {base : Word} (hfree : discards s p 5 = false) : exec (.registerWrite p (.bar0 0x70000 8) base) s =
    .next (writePool s (base &&& 0x7FFFFC0000) s.sched.shsize) :=
  registerWrite_free hp hopen (by decide) (by omega) rfl hfree

theorem registerWrite_shsize {n : Word} (hfree : discards s p 5 = false) : exec (.registerWrite p (.bar0 0x70008 8) n) s =
    .next (writePool s s.sched.shbase (n.setWidth 16)) :=
  registerWrite_free hp hopen (by decide) (by omega) rfl hfree

theorem registerWrite_vectors {n : Nat} (v : Word) (hn : n < 2048) (htab : Tables s) (hfree : discards s p 7 = false) :
    (∃ t, exec (.registerWrite p (.bar0 (0x100000 + 16 * n) 8) v) s = .next t ∧
      vector t.host n = (((vector s.host n) >>> 64) <<< 64 ||| v.setWidth 128)) ∧
    (∃ t, exec (.registerWrite p (.bar0 (0x100008 + 16 * n) 8) v) s = .next t ∧
      vector t.host n = ((vector s.host n).setWidth 64).setWidth 128 ||| (v &&& 0x3FFFFFFFF).setWidth 128 <<< 64) :=
  ⟨⟨_, registerWrite_free hp hopen (by omega) (by omega) (writeOwn_vectorLow s p v hn) hfree, htab.vector_setVector n _⟩,
   ⟨_, registerWrite_free hp hopen (by omega) (by omega) (writeOwn_vectorHigh s p v hn) hfree, htab.vector_setVector n _⟩⟩

end

/-- Settles O52: a write that is let through (`behind`) takes the effect of its register, event by event and, for REGISTER_WRITE, offset by
offset (`registerWrite_free`); the plain registers read back by `plainRegs_readsBack`. -/
theorem controlSpaceWrites : Obligations.ControlSpaceWrites := fun s p hp hopen =>
  ⟨fun _ v => ircmdCommit_next hp hopen v,
   fun v => (tinvGo_next hp hopen v).trans (congrArg Host.Outcome.next (by rw [writeTinv_eq, behind_ite])),
   rfl,
   fun v => (ctxkillGo_next hp hopen v).trans (congrArg Host.Outcome.next (by rw [writeCtxkill_eq, behind_ite])),
   fun q v hq => (qdbDoorbell_next hp hopen v hq).trans (congrArg Host.Outcome.next (doorbell_eq q v)),
   fun _ => qcfgWrite_next hp hopen,
   fun b v hb hfree => (bkcfgCommit_next hp hopen v hb).trans
     (congrArg Host.Outcome.next ((behind_free hfree).trans (writeBkcfg_eq b v))),
   fun v => (winvGo_next hp hopen v).trans (congrArg Host.Outcome.next (by rw [writeWinv_eq, behind_ite])),
   rfl,
   fun _ => hsemRel_next hp hopen, fun _ _ => hsemClaim_next hp hopen, fun _ => hsemClaim_tie hp, startctl_next hp hopen,
   fun _ => parkrelGo_next hp hopen, fun _ => logclrGo_next hp hopen, pwrlimWrite_next hp hopen,
   fun _ _ _ => registerWrite_malformed hp hopen,
   fun _ _ _ v hmem htab => registerWrite_plain hp hopen v hmem (tables_of_tablesCanon htab),
   fun _ => registerWrite_hpath hp hopen, registerWrite_tvecinit hp hopen,
   fun _ _ v hr hj htab => registerWrite_mrow hp hopen v hr hj (tables_of_tablesCanon htab),
   fun _ v hn htab => registerWrite_lpcfg hp hopen v hn (tables_of_tablesCanon htab),
   fun _ => registerWrite_key hp hopen,
   fun _ _ hfree =>
     have hbase := registerWrite_shbase hp hopen hfree
     have hsize := registerWrite_shsize hp hopen hfree
     ⟨fun hall => ⟨hbase.trans (congrArg Host.Outcome.next (writePool_laid _ _ hall)),
        hsize.trans (congrArg Host.Outcome.next (writePool_laid _ _ hall))⟩,
      fun hused => ⟨hbase.trans (congrArg Host.Outcome.next (writePool_inUse _ _ hused)),
        hsize.trans (congrArg Host.Outcome.next (writePool_inUse _ _ hused))⟩⟩,
   fun _ v hn htab => registerWrite_vectors hp hopen v hn (tables_of_tablesCanon htab),
   fun _ _ _ => registerWrite_live hp hopen⟩

end Sys2Proof.Machine
end

section
/-! The moves of a Steward (R302-R311, R315-R320, R324, R327): what a bundle of one move comes to, and the obligations on it (O34-O37). -/

namespace Sys2Proof.Machine
open Sys2Proof

/-! ### A bundle of one move (R75, R304, R305) -/

/-- The frame of a Steward's bundle before its move. -/
def moveFrame (s : State) : SFrame := ⟨s.cur, steward s, steward s, false, false, none, none⟩

/-- The frame of a move that writes the Steward by `w` and goes to `b`. -/
def movesFrame (s : State) (w : Steward → Steward) (b : Option Nat) : SFrame := { moveFrame s with now := w (steward s), branch := b }

/-- A move that reads sem.res takes the wait's mark, and is an acquire where the mark stood (R250, R310). -/
theorem acquired_semRead {s : State} {x : MV} {w : Steward → Steward} (b : Option Nat) (hw : (w (steward s)).waited = (steward s).waited) :
    acquired (semRead x.src (movesFrame s w b)) = { w (steward s) with
      waited := if x.src = 0x7F then false else (w (steward s)).waited,
      acqSeq := if acquires s x then (w (steward s)).opNext else (w (steward s)).acqSeq } := by
  unfold acquired semRead acquires
  by_cases hsrc : x.src = 0x7F
  · cases hwait : (steward s).waited <;> simp [hsrc, movesFrame, moveFrame, hwait]
  · rw [if_neg hsrc, if_neg hsrc, beq_eq_false_iff_ne.2 hsrc]
    simp only [movesFrame, moveFrame, hw, Bool.and_false, Bool.and_not_self, Bool.false_eq_true, if_false]
    rw [← hw]

theorem startClk_cur (s : State) (n : Nat) : (startClk s n).cur = s.cur := by
  unfold startClk
  dsimp only
  split <;> rfl

theorem baseNow_startClk (s : State) (n : Nat) : baseNow (startClk s n) = baseNow s := by
  unfold startClk
  dsimp only
  split <;> rfl

/-- What the commit of one move's image leaves. -/
theorem movedTo_eq (s : State) (x : MV) (pc : Nat) (w : Steward → Steward) :
    movedTo s x pc w = setSteward (startClk s s.cur) s.cur (fun _ => { w (steward s) with
      waited := if x.src = 0x7F then false else (w (steward s)).waited,
      acqSeq := if acquires s x then (w (steward s)).opNext else (w (steward s)).acqSeq,
      pc := pc, stallSince := none, clk := (stewardAt (startClk s s.cur) s.cur).clk }) := by
  have hself : steward (startClk s s.cur) = stewardAt (startClk s s.cur) s.cur := congrArg (stewardAt _) (startClk_cur ..)
  unfold movedTo
  dsimp only
  rw [hself]

/-- The read of sem.res changes the Steward's image only, and not whether it has ended. -/
theorem semRead_frame (src : BitVec 11) (s : State) (w : Steward → Steward) (b : Option Nat) :
    (semRead src (movesFrame s w b)).now.done = (w (steward s)).done ∧
      semRead src (movesFrame s w b) = { movesFrame s w b with now := (semRead src (movesFrame s w b)).now } := by
  unfold semRead
  split <;> exact ⟨rfl, rfl⟩

/-- The commit of a bundle of one move. -/
theorem closeSteward_moves {s : State} {x : MV} {w : Steward → Steward} {b : Option Nat}
    (hw : (w (steward s)).waited = (steward s).waited) (hd : (w (steward s)).done = none) :
    closeSteward s (semRead x.src (movesFrame s w b)) = movedTo s x (b.getD ((steward s).pc + 1)) w := by
  obtain ⟨hdone, hrest⟩ := semRead_frame x.src s w b
  rw [closeSteward_commit (by rw [hrest]; rfl) (by rw [hrest]; rfl) (by rw [hrest]; rfl) (hdone.trans hd), acquired_semRead b hw, hrest, movedTo_eq]
  rfl

/-- The commit of a bundle whose one move ends the node with a status. -/
theorem closeSteward_ends {s : State} {x : MV} {w : Steward → Steward} {st : Nat}
    (hw : (w (steward s)).waited = (steward s).waited) (hd : (w (steward s)).done = some (st, none)) :
    closeSteward s (semRead x.src (movesFrame s w none)) =
      if st = 0 then moved s x w else stewardLog (moved s x w) s.cur 0x69 st (steward s).pc nowhere := by
  obtain ⟨hdone, hrest⟩ := semRead_frame x.src s w none
  have hacq := acquired_semRead (x := x) none hw
  unfold closeSteward
  rw [hdone, hacq, hrest, hd, moved, movedTo_eq]
  rfl

section
variable {s : State} {x : MV} {eff : Word → SFrame → SFrame} (hl : loneMove x s = true)
include hl

theorem guardOk_of_loneMove : guardOk (steward s) x.g = true := by
  simp only [loneMove, Bool.and_eq_true] at hl
  exact hl.1.2

theorem loneMove_running : (steward s).running = true := by
  simp only [loneMove, Bool.and_eq_true] at hl
  exact hl.1.1.1.2

theorem loneMove_done : (steward s).done = none := by
  simp only [loneMove, Bool.and_eq_true, Option.isNone_iff_eq_none] at hl
  exact hl.1.1.2

theorem runMove_frame {f : SFrame} (heff : eff (moveValue s x) (moveFrame s) = f) :
    runMove x eff s = .next (closeSteward s (semRead x.src f)) := heff ▸ runMove_lone hl

/-- A move that writes the Steward by `w` and goes to `b`, or on in order. -/
theorem runMove_moves (w : Steward → Steward) (b : Option Nat) (heff : eff (moveValue s x) (moveFrame s) = movesFrame s w b)
    (hw : (w (steward s)).waited = (steward s).waited) (hd : (w (steward s)).done = (steward s).done) :
    runMove x eff s = .next (movedTo s x (b.getD ((steward s).pc + 1)) w) := by
  rw [runMove_frame hl heff, closeSteward_moves hw (hd.trans (loneMove_done hl))]

theorem runMove_halts {cause info : Nat} {a : At} (w : Steward → Steward)
    (heff : eff (moveValue s x) (moveFrame s) = haltAt cause info a (movesFrame s w none)) : runMove x eff s = .next (halted s cause info a) := by
  rw [runMove_frame hl heff]
  unfold semRead
  split <;> rfl

theorem runMove_stalls (heff : eff (moveValue s x) (moveFrame s) = { moveFrame s with stall := true }) :
    runMove x eff s = .next (stalled s) := by
  rw [runMove_frame hl heff, stalled, ← baseNow_startClk s s.cur]
  unfold semRead
  split <;> rfl

/-- A unit that runs one operation at a time: busy, it stalls the bundle (R304). -/
theorem runMove_trigger {busy : Bool} {g : SFrame} {t : State} (heff : eff (moveValue s x) (moveFrame s) = trigger busy (moveFrame s) g)
    (hfree : runMove x (fun _ _ => g) s = .next t) : runMove x eff s = .next (if busy then stalled s else t) := by
  cases busy with
  | true => exact runMove_stalls hl heff
  | false => rw [if_neg Bool.false_ne_true, ← hfree, runMove_frame hl heff, runMove_frame hl rfl]; rfl

/-! ### The ALU (R307) -/

theorem runMove_aluRes (r : Word → Word → Word) :
    runMove x (aluRes r) s = .next (moved s x (fun t => setPort t 0x4F (r (moveValue s x) (port (steward s) 0x40)))) :=
  runMove_moves hl (fun t => setPort t 0x4F (r (moveValue s x) (port (steward s) 0x40))) none rfl rfl rfl

theorem runMove_aluCmp {r : Word → Word → Bool} {b : Bool} (hb : r (moveValue s x) (port (steward s) 0x40) = b) :
    runMove x (aluCmp r) s = .next (moved s x (fun t => { setPort t 0x4F (if b then 1 else 0) with g := b })) :=
  runMove_moves hl (fun t => { setPort t 0x4F (if b then 1 else 0) with g := b }) none (hb ▸ rfl) rfl rfl

theorem exec_stewardAlu {i : Instr} {v : Word} (h : stewardAlu (moveValue s x) (port (steward s) 0x40) i = some (x, v)) :
    exec i s = .next (moved s x (fun t => setPort t 0x4F v)) := by
  cases i <;> cases h <;> exact runMove_aluRes hl _

theorem exec_stewardCmp {i : Instr} {b : Bool} (h : stewardCmp (moveValue s x) (port (steward s) 0x40) i = some (x, b)) :
    exec i s = .next (moved s x (fun t => { setPort t 0x4F (if b then 1 else 0) with g := b })) := by
  cases i <;> cases h <;> exact runMove_aluCmp hl rfl

end

/-- Settles O34: each ALU trigger has the effect of one operation on T and O, which the bundle commits. -/
theorem stewardMoves : Obligations.StewardMoves := fun _ _ _ hl =>
  ⟨fun _ h => exec_stewardAlu hl h, fun _ h => exec_stewardCmp hl h⟩

/-! ### Plain moves (R302) -/

/-- A move whose guard fails leaves the Steward as it stands. -/
theorem exec_stewardMove_unguarded {s : State} {x : MV} {dst : BitVec 11} (hp : s.host.power = true) (hf : s.sframe = none)
    (hr : (steward s).running = true) (hd : (steward s).done = none) (hg : guardOk (steward s) x.g = false) :
    exec (.stewardMove x dst) s = .next (moved s { x with src := 0 } id) := by
  have ho : openSteward s = some (moveFrame s) := if_pos hr
  have hm : moveIn s x (fun v f => { f with now := writePort f.now dst.toNat v }) (moveFrame s) = moveFrame s :=
    if_pos (by rw [show (moveFrame s).pre = steward s from rfl, hg]; rfl)
  show runMove _ _ s = _
  unfold runMove
  rw [hp, hf, ho]
  exact congrArg Host.Outcome.next ((congrArg (closeSteward s) hm).trans
    (closeSteward_moves (x := { x with src := 0 }) (w := id) (b := none) rfl hd))

section
variable {s : State} {x : MV} (hl : loneMove x s = true)
include hl

/-- A plain move writes its destination. -/
theorem exec_stewardMove_writes (dst : BitVec 11) :
    exec (.stewardMove x dst) s = .next (moved s x (fun t => writePort t dst.toNat (moveValue s x))) := by
  have hkeeps : ∀ (t : Steward) (p : Nat) (v : Word), (writePort t p v).waited = t.waited ∧ (writePort t p v).done = t.done := by
    intro t p v
    unfold writePort
    split_ifs <;> exact ⟨rfl, rfl⟩
  exact runMove_moves hl (fun t => writePort t dst.toNat (moveValue s x)) none rfl (hkeeps ..).1 (hkeeps ..).2

/-! ### Branches (R308) -/

/-- A jump to a bundle, or the halt on one outside the memory. -/
theorem runMove_brTo {eff : Word → SFrame → SFrame} (v : Word) (w : Steward → Steward)
    (heff : eff (moveValue s x) (moveFrame s) = brTo v (movesFrame s w none))
    (hw : (w (steward s)).waited = (steward s).waited) (hd : (w (steward s)).done = (steward s).done) :
    runMove x eff s = .next (if 682 ≤ v.toNat then halted s 0x61 0 nowhere else movedTo s x v.toNat w) := by
  unfold brTo at heff
  split_ifs at heff ⊢ with hv
  · exact runMove_halts hl w heff
  · exact runMove_moves hl w (some v.toNat) heff hw hd

theorem exec_brJump : exec (.brJump x) s = .next (if 682 ≤ (moveValue s x).toNat then halted s 0x61 0 nowhere
    else movedTo s x (moveValue s x).toNat id) :=
  runMove_brTo hl (moveValue s x) id rfl rfl rfl

theorem exec_brIf : exec (.brIf x) s = .next (if (steward s).g = false then moved s x id
    else if 682 ≤ (moveValue s x).toNat then halted s 0x61 0 nowhere else movedTo s x (moveValue s x).toNat id) := by
  cases hg : (steward s).g with
  | false => exact runMove_moves hl id none (if_neg (by rw [show (moveFrame s).pre = steward s from rfl, hg]; decide)) rfl rfl
  | true => exact runMove_brTo hl (moveValue s x) id (if_pos hg) rfl rfl

theorem exec_brCall : exec (.brCall x) s = .next (if 8 ≤ (steward s).calls.length ∨ 682 ≤ (moveValue s x).toNat then halted s 0x61 0 nowhere
    else movedTo s x (moveValue s x).toNat (fun t => { t with calls := t.calls ++ [t.pc + 1] })) := by
  by_cases hfull : 8 ≤ (steward s).calls.length
  · rw [if_pos (.inl hfull)]
    exact runMove_halts hl id (if_pos hfull)
  · rw [if_congr (or_iff_right hfull) rfl rfl]
    exact runMove_brTo hl (moveValue s x) (fun t => { t with calls := t.calls ++ [t.pc + 1] }) (if_neg hfull) rfl rfl

theorem exec_brRet_pops {b : Nat} (hb : (steward s).calls.getLast? = some b) :
    exec (.brRet x) s = .next (movedTo s x b (fun t => { t with calls := t.calls.dropLast })) :=
  runMove_moves hl (fun t => { t with calls := t.calls.dropLast }) (some b)
    (by rw [show (moveFrame s).pre = steward s from rfl, hb]; rfl) rfl rfl

theorem exec_brRet_empty (hb : (steward s).calls.getLast? = none) : exec (.brRet x) s = .next (halted s 0x61 0 nowhere) :=
  runMove_halts hl id (by rw [show (moveFrame s).pre = steward s from rfl, hb]; rfl)

end

/-- Settles O35: a plain move writes the port that its destination names, a branch goes to its target or halts. -/
theorem stewardBranches : Obligations.StewardBranches := by
  refine ⟨fun s x dst hp hf hr hd => ⟨exec_stewardMove_unguarded hp hf hr hd, fun hl => ?_⟩, fun s x hl => ?_⟩
  · rw [exec_stewardMove_writes hl]
    refine ⟨fun h1 => ?_, fun hlo hhi => ?_, fun hop => ?_, fun h1 hq hop => ?_⟩ <;>
      refine congrArg (fun w => Host.Outcome.next (moved s x w)) (funext fun t => ?_)
    · exact if_pos h1
    · exact (if_neg (by omega)).trans (if_pos ⟨hlo, hhi⟩)
    · have h1 : dst.toNat ≠ 1 := fun h => by rw [h] at hop; cases hop
      have hq : ¬(0x10 ≤ dst.toNat ∧ dst.toNat < 0x30) := by
        simp only [isOperand, List.contains_eq_mem, List.mem_cons, List.not_mem_nil, or_false, Bool.or_eq_true, Bool.and_eq_true, decide_eq_true_eq] at hop
        omega
      exact (if_neg h1).trans ((if_neg hq).trans (if_pos hop))
    · exact (if_neg h1).trans ((if_neg hq).trans (if_neg (by rw [hop]; decide)))
  · refine ⟨exec_brJump hl, exec_brIf hl, exec_brCall hl, ?_⟩
    cases hb : (steward s).calls.getLast? with
    | some b => exact exec_brRet_pops hl hb
    | none => exact exec_brRet_empty hl hb

/-! ### The lsu, the sem unit, the log and nmk.done (R306, R309, R310, R324, R327) -/

/-- A Steward address in its data memory, and one in the device memory (R306). -/
abbrev isLocal (v : Word) : Prop := v.getLsbD 63 = false ∧ v.toNat ≤ 0x1FF8
abbrev isDevice (v : Word) : Prop := v.getLsbD 63 = true ∧ v.extractLsb' 39 24 = 0

theorem stewardAddr_device {v : Word} (h8 : v.toNat % 8 = 0) (hd : isDevice v) : stewardAddr v = some (true, v.toNat % 2 ^ 39) := by
  obtain ⟨h63, hz⟩ := hd
  exact (if_neg (not_not.2 h8)).trans ((if_pos h63).trans (if_pos (by rw [hz]; rfl)))

theorem stewardAddr_local {v : Word} (h8 : v.toNat % 8 = 0) (hl : isLocal v) : stewardAddr v = some (false, v.toNat) := by
  obtain ⟨h63, hle⟩ := hl
  exact (if_neg (not_not.2 h8)).trans ((if_neg (by rw [h63]; decide)).trans (if_pos hle))

theorem stewardAddr_bad {v : Word} (h : ¬(v.toNat % 8 = 0 ∧ (isLocal v ∨ isDevice v))) : stewardAddr v = none := by
  unfold stewardAddr
  split_ifs with h8 h63 hz hle
  · rfl
  · exact absurd ⟨not_not.1 h8, .inr ⟨h63, BitVec.eq_of_toNat_eq hz⟩⟩ h
  · rfl
  · exact absurd ⟨not_not.1 h8, .inl ⟨eq_false_of_ne_true h63, hle⟩⟩ h
  · rfl

theorem not_isLocal_of_isDevice {v : Word} (hd : isDevice v) : ¬isLocal v := fun hl => absurd (hd.1.symm.trans hl.1) (by decide)

section
variable {s : State} {x : MV} (hl : loneMove x s = true)
include hl

theorem runMove_lsuOp (st : Bool) : runMove x (lsuOp st) s = .next (
    if (steward s).lsu.isSome then stalled s
    else if (moveValue s x).toNat % 8 = 0 ∧ (isLocal (moveValue s x) ∨ isDevice (moveValue s x)) then
      moved s x (withLsu st (moveValue s x))
    else halted s 0x60 0 nowhere) := by
  refine runMove_trigger hl rfl ?_
  split_ifs with h
  · obtain ⟨h8, hin⟩ := h
    refine runMove_moves hl (withLsu st (moveValue s x)) none ?_ rfl rfl
    obtain hin | hin := hin
    · rw [stewardAddr_local h8 hin]; rfl
    · rw [stewardAddr_device h8 hin]; rfl
  · exact runMove_halts hl id (by rw [stewardAddr_bad h]; rfl)

theorem runMove_semOp (wait : Bool) : runMove x (semOp wait (baseNow s)) s = .next (
    if (steward s).sem.isSome then stalled s
    else if (moveValue s x).toNat % 8 = 0 ∧ isDevice (moveValue s x) then moved s x (withSem s wait (moveValue s x))
    else halted s 0x60 0 nowhere) := by
  refine runMove_trigger hl rfl ?_
  by_cases h : (moveValue s x).toNat % 8 = 0 ∧ isDevice (moveValue s x)
  · rw [if_pos h]
    refine runMove_moves hl (withSem s wait (moveValue s x)) none ?_ rfl rfl
    rw [stewardAddr_device h.1 h.2]
    simp [withSem, movesFrame, moveFrame]
  · rw [if_neg h]
    refine runMove_halts hl id ?_
    by_cases hloc : (moveValue s x).toNat % 8 = 0 ∧ isLocal (moveValue s x)
    · rw [stewardAddr_local hloc.1 hloc.2]; rfl
    · rw [stewardAddr_bad fun ⟨h8, hin⟩ => hin.elim (fun hi => hloc ⟨h8, hi⟩) (fun hi => h ⟨h8, hi⟩)]; rfl

theorem exec_logRd : exec (.logRd x) s = .next (if (steward s).logop.isSome then stalled s
    else if 31 < (moveValue s x).toNat then halted s 0x64 0 nowhere
    else moved s x (fun t => { t with logop := some (moveValue s x) })) := by
  refine runMove_trigger hl rfl ?_
  split_ifs with h
  · exact runMove_halts hl id rfl
  · exact runMove_moves hl (fun t => { t with logop := some (moveValue s x) }) none rfl rfl rfl

/-- The Steward ends with a status. -/
def endedWith (st : Nat) (t : Steward) : Steward := { t with running := false, done := some (st, none) }

theorem exec_nmkDone : exec (.nmkDone x) s = .next (if 256 ≤ (moveValue s x).toNat then halted s 0x64 0 nowhere
    else if moveValue s x = 0 then moved s x (endedWith (moveValue s x).toNat)
    else stewardLog (moved s x (endedWith (moveValue s x).toNat)) s.cur 0x69 (moveValue s x).toNat (steward s).pc nowhere) := by
  split_ifs with hbig hz
  · exact runMove_halts hl id (if_pos hbig)
  · refine (runMove_frame hl (if_neg hbig)).trans (congrArg Host.Outcome.next ?_)
    exact (closeSteward_ends (w := endedWith (moveValue s x).toNat) rfl rfl).trans (if_pos (congrArg BitVec.toNat hz))
  · refine (runMove_frame hl (if_neg hbig)).trans (congrArg Host.Outcome.next ?_)
    exact (closeSteward_ends (w := endedWith (moveValue s x).toNat) rfl rfl).trans (if_neg fun h => hz (BitVec.eq_of_toNat_eq h))

end

/-- Settles O36: the lsu, the sem unit and the log take one operation at a time, and nmk.done ends the Steward. -/
theorem stewardUnits : Obligations.StewardUnits := fun _ _ hl =>
  ⟨runMove_lsuOp hl false, runMove_lsuOp hl true, runMove_semOp hl false, runMove_semOp hl true, exec_logRd hl, exec_nmkDone hl⟩

end Sys2Proof.Machine
end

section
/-! Leases and the engine triggers of a Steward (R304, R311, R315-R320), and the obligation on them (O37). -/

namespace Sys2Proof.Machine
open Sys2Proof

/-! ### Engine triggers (R315-R320) -/

section
variable {s : State} {x : MV} (hl : loneMove x s = true)
include hl

/-- The operation that an engine takes. -/
def engineQueued (trig e : Nat) (v o0 o1 o2 : Word) (lease : Option Lease) (t : Steward) : Steward :=
  { setEng t e (fun g => { g with q := g.q ++ [⟨trig, v, o0, o1, o2, lease.map (·.id), t.opNext, 0⟩] }) with opNext := t.opNext + 1 }

theorem runMove_engineOp (trig e : Nat) :
    let t := steward s
    let o (k : Nat) : Word := port t (0x100 + 0x20 * e + k)
    let c := engineCheck trig e (moveValue s x) (o 0) (o 1) (o 2)
    let lease := c.2.bind (newestLease t)
    runMove x (engineOp trig e) s = .next (
      if 4 ≤ (eng t e).q.length then stalled s
      else if c.1 then halted s 0x64 e nowhere
      else if c.2.isSome ∧ lease = none then halted s 0x63 e ⟨c.2.getD 0, 0, 0⟩
      else moved s x (engineQueued trig e (moveValue s x) (o 0) (o 1) (o 2) lease)) := by
  intro t o c lease
  rw [← if_congr (decide_eq_true_iff (p := 4 ≤ (eng t e).q.length)) rfl rfl]
  refine runMove_trigger hl rfl ?_
  by_cases hc : c.1 = true
  · rw [if_pos hc]
    exact runMove_halts hl id (if_pos hc)
  by_cases hm : c.2.isSome ∧ lease = none
  · rw [if_neg hc, if_pos hm]
    exact runMove_halts hl id ((if_neg hc).trans (if_pos (by rw [Bool.and_eq_true, Option.isNone_iff_eq_none]; exact hm)))
  · rw [if_neg hc, if_neg hm]
    exact runMove_moves hl (engineQueued trig e (moveValue s x) (o 0) (o 1) (o 2) lease) none
      ((if_neg hc).trans (if_neg (by rw [Bool.and_eq_true, Option.isNone_iff_eq_none]; exact hm))) rfl rfl

/-! ### Leases (R311) -/

/-- A Steward that runs on is listed, so it reads back. -/
theorem stewardAt_moved {w : Steward → Steward} (hw : (w (steward s)).running = (steward s).running) :
    stewardAt (moved s x w) s.cur = { w (steward s) with
      waited := if x.src = 0x7F then false else (w (steward s)).waited,
      acqSeq := if acquires s x then (w (steward s)).opNext else (w (steward s)).acqSeq,
      pc := (steward s).pc + 1, stallSince := none, clk := (stewardAt (startClk s s.cur) s.cur).clk } := by
  rw [moved, movedTo_eq]
  refine mget_mput_of_ne _ _ _ _ fun hidle => ?_
  have := congrArg Steward.running hidle
  exact absurd ((loneMove_running hl).symm.trans (hw.symm.trans this)) (by decide)

end

/-- The request that row.lease appends for a bank. -/
def leaseAsked (row now : Nat) (several : Bool) (t : Steward) (b : Nat) : Steward :=
  { t with leases := t.leases ++ [Lease.mk t.leaseNext b row several false 0 false now true], leaseNext := t.leaseNext + 1 }

/-- A request for each bank, numbered in order. -/
theorem foldl_leaseAsked (row now : Nat) (several : Bool) (bs : List Nat) (t : Steward) :
    bs.foldl (leaseAsked row now several) t = { t with
      leases := t.leases ++ bs.zipIdx.map (fun e => Lease.mk (t.leaseNext + e.2) e.1 row several false 0 false now true),
      leaseNext := t.leaseNext + bs.length } := by
  induction bs generalizing t with
  | nil => simp
  | cons b bs ih =>
    rw [List.foldl_cons, ih]
    simp [leaseAsked, List.zipIdx_cons, List.zipIdx_succ, Function.comp_def, Nat.add_comm, Nat.add_left_comm]

theorem exec_rowLease_halts {s : State} {x : MV} (hl : loneMove x s = true) (h : 2 ^ 14 ≤ (moveValue s x).toNat) :
    exec (.rowLease x) s = .next (halted s 0x64 0 nowhere) := runMove_halts hl id (if_pos h)

theorem mem_bitsOf (v : Word) (b : Nat) : b ∈ bitsOf v ↔ v.getLsbD b = true := by
  rw [bitsOf, List.mem_filter, List.mem_range, and_iff_right_iff_imp]
  exact fun h => BitVec.lt_of_getLsbD h

theorem exec_rowLease_asks {s : State} {x : MV} (hl : loneMove x s = true) (h : (moveValue s x).toNat < 2 ^ 14) :
    let bs := bitsOf (port (steward s) 0x80)
    exec (.rowLease x) s = .next (moved s x (fun t =>
      bs.foldl (leaseAsked (moveValue s x).toNat (baseNow s) (decide (1 < bs.length))) t)) := by
  intro bs
  have hrest := foldl_leaseAsked (moveValue s x).toNat (baseNow s) (decide (1 < bs.length)) bs (steward s)
  exact runMove_moves hl (fun t => bs.foldl (leaseAsked (moveValue s x).toNat (baseNow s) (decide (1 < bs.length))) t) none
    (if_neg (by omega)) (by rw [hrest]) (by rw [hrest])

/-- The newest request of a bank, released. -/
def leaseReleased (t : Steward) (b : Nat) : Steward :=
  match newestLease t b with
  | some l => { t with leases := t.leases.map (fun e => if e.id == l.id then { e with released := true } else e) }
  | none => t

/-- A request as row.release leaves it where it names the banks `bs`. -/
def markReleased (t : Steward) (bs : List Nat) (l : Lease) : Lease :=
  { l with released := l.released || (decide (l.bank ∈ bs) && ((newestLease t l.bank).map (·.id) == some l.id)) }

theorem markReleased_named {t : Steward} {bs : List Nat} {l : Lease} (hb : l.bank ∈ bs) (hn : (newestLease t l.bank).map (·.id) = some l.id) :
    markReleased t bs l = { l with released := true } := by
  simp [markReleased, hb, hn]

theorem markReleased_unnamed {t : Steward} {bs : List Nat} {l : Lease}
    (h : ¬(l.bank ∈ bs ∧ (newestLease t l.bank).map (·.id) = some l.id)) : markReleased t bs l = l := by
  have hf : (decide (l.bank ∈ bs) && ((newestLease t l.bank).map (·.id) == some l.id)) = false := by
    rw [← Bool.not_eq_true, Bool.and_eq_true, decide_eq_true_eq, beq_iff_eq]
    exact h
  rw [markReleased, hf, Bool.or_false]

theorem leaseReleased_keeps (t : Steward) (b : Nat) :
    leaseReleased t b = { t with leases := (leaseReleased t b).leases } ∧ (leaseReleased t b).leases.length = t.leases.length := by
  unfold leaseReleased
  split
  · exact ⟨rfl, List.length_map _⟩
  · exact ⟨rfl, rfl⟩

theorem foldl_leaseReleased_keeps (bs : List Nat) (t : Steward) :
    bs.foldl leaseReleased t = { t with leases := (bs.foldl leaseReleased t).leases } ∧
      (bs.foldl leaseReleased t).leases.length = t.leases.length := by
  induction bs generalizing t with
  | nil => exact ⟨rfl, rfl⟩
  | cons b bs ih =>
    obtain ⟨hrest, hlen⟩ := leaseReleased_keeps t b
    obtain ⟨hrest', hlen'⟩ := ih (leaseReleased t b)
    exact ⟨by rw [List.foldl_cons, hrest', hrest], hlen'.trans hlen⟩

theorem newestLease_mem {t : Steward} {b : Nat} {l : Lease} (h : newestLease t b = some l) : l ∈ t.leases ∧ l.bank = b := by
  have hm := List.mem_filter.1 (List.mem_of_getLast? h)
  simp only [Bool.and_eq_true, beq_iff_eq] at hm
  exact ⟨hm.1, hm.2.1⟩

/-- Where each request has its own number, the one with the number of a bank's newest is that one. -/
theorem leaseReleased_leases {t : Steward} (hid : (t.leases.map (·.id)).Nodup) (b : Nat) :
    (leaseReleased t b).leases = t.leases.map (markReleased t [b]) := by
  unfold leaseReleased
  split
  · rename_i l hl
    obtain ⟨hmem, hbank⟩ := newestLease_mem hl
    refine List.map_congr_left fun e he => ?_
    by_cases hel : e.id = l.id
    · obtain rfl : e = l := List.inj_on_of_nodup_map hid he hmem hel
      rw [markReleased_named (by rw [hbank]; exact List.mem_singleton_self b) (by rw [hbank, hl]; rfl), if_pos (beq_self_eq_true _)]
    · rw [if_neg (by rw [beq_iff_eq]; exact hel), markReleased_unnamed]
      rintro ⟨hb, hn⟩
      rw [List.mem_singleton.1 hb, hl] at hn
      exact hel (Option.some.inj hn).symm
  · rename_i hn
    refine (List.map_id _).symm.trans (List.map_congr_left fun e _ => (markReleased_unnamed ?_).symm)
    rintro ⟨hb, he⟩
    rw [List.mem_singleton.1 hb, hn] at he
    cases he

/-- A release of one bank leaves the newest requests of the others. -/
theorem newestLease_leaseReleased {t : Steward} (hid : (t.leases.map (·.id)).Nodup) {b c : Nat} (hbc : c ≠ b) :
    newestLease (leaseReleased t b) c = newestLease t c := by
  have hsame : ∀ l : Lease, l.bank = c → markReleased t [b] l = l := by
    rintro l rfl
    exact markReleased_unnamed fun h => hbc (List.mem_singleton.1 h.1)
  have hpass : (fun l : Lease => l.bank == c && !l.released) ∘ markReleased t [b] = fun l => l.bank == c && !l.released := by
    funext l
    by_cases hl : l.bank = c
    · rw [Function.comp_apply, hsame l hl]
    · have hbank : (markReleased t [b] l).bank = l.bank := rfl
      rw [Function.comp_apply, hbank, beq_eq_false_iff_ne.2 hl, Bool.false_and, Bool.false_and]
  unfold newestLease
  rw [leaseReleased_leases hid, List.filter_map, hpass]
  refine congrArg List.getLast? ((List.map_congr_left fun l hl => hsame l ?_).trans (List.map_id _))
  exact eq_of_beq (Bool.and_eq_true_iff.1 (List.mem_filter.1 hl).2).1

theorem foldl_leaseReleased_leases {bs : List Nat} {t : Steward} (hid : (t.leases.map (·.id)).Nodup) (hbs : bs.Nodup) :
    (bs.foldl leaseReleased t).leases = t.leases.map (markReleased t bs) := by
  induction bs generalizing t with
  | nil => exact (List.map_id _).symm.trans (List.map_congr_left fun l _ => (markReleased_unnamed fun h => List.not_mem_nil h.1).symm)
  | cons b bs ih =>
    obtain ⟨hb, hbs⟩ := List.nodup_cons.1 hbs
    have hids : ((leaseReleased t b).leases.map (·.id)).Nodup := by
      rw [leaseReleased_leases hid, List.map_map]
      exact hid
    rw [List.foldl_cons, ih hids hbs, leaseReleased_leases hid, List.map_map]
    refine List.map_congr_left fun l _ => ?_
    by_cases hl : l.bank = b
    · have hout : ∀ u, markReleased u bs (markReleased t [b] l) = markReleased t [b] l :=
        fun u => markReleased_unnamed fun h => hb (hl ▸ h.1)
      rw [Function.comp_apply, hout]
      simp [markReleased, hl]
    · rw [Function.comp_apply, markReleased_unnamed fun h => hl (List.mem_singleton.1 h.1)]
      simp only [markReleased, newestLease_leaseReleased hid hl, List.mem_cons, hl, false_or]

theorem exec_rowRelease {s : State} {x : MV} (hl : loneMove x s = true) :
    exec (.rowRelease x) s = .next (moved s x (fun t => (bitsOf (moveValue s x)).foldl leaseReleased t)) := by
  obtain ⟨hrest, -⟩ := foldl_leaseReleased_keeps (bitsOf (moveValue s x)) (steward s)
  exact runMove_moves hl (fun t => (bitsOf (moveValue s x)).foldl leaseReleased t) none rfl (by rw [hrest]) (by rw [hrest])

theorem nodup_bitsOf (v : Word) : (bitsOf v).Nodup := List.nodup_range.filter _

/-- Settles O37: the requests that row.lease and row.release leave are those of the banks named, one after another, and an engine
takes an operation as `runMove_engineOp` says. -/
theorem stewardLeasesAndEngines : Obligations.StewardLeasesAndEngines := by
  refine ⟨fun s x hl => ⟨exec_rowLease_halts hl, fun h => ⟨_, exec_rowLease_asks hl h, ?_⟩, _, exec_rowRelease hl, ?_⟩,
    fun s i x e trig hl htrig => ?_⟩
  · have hasks := foldl_leaseAsked (moveValue s x).toNat (baseNow s) (decide (1 < (bitsOf (port (steward s) 0x80)).length))
      (bitsOf (port (steward s) 0x80)) (steward s)
    rw [stewardAt_moved hl (by rw [hasks]), hasks]
    exact ⟨rfl, rfl, rfl⟩
  · obtain ⟨hrest, hlen⟩ := foldl_leaseReleased_keeps (bitsOf (moveValue s x)) (steward s)
    rw [stewardAt_moved hl (by rw [hrest])]
    refine ⟨rfl, hlen, fun hid l hmem => ⟨markReleased (steward s) (bitsOf (moveValue s x)) l, ?_, ?_⟩⟩
    · rw [foldl_leaseReleased_leases hid (nodup_bitsOf _)]
      exact List.mem_map_of_mem hmem
    · rw [markReleased, show decide (l.bank ∈ bitsOf (moveValue s x)) = (moveValue s x).getLsbD l.bank from
        Bool.eq_iff_iff.2 (by rw [decide_eq_true_eq, mem_bitsOf])]
  · cases i <;> cases htrig <;> exact runMove_engineOp hl _ _

end Sys2Proof.Machine
end

section
/-! A module without power (R416, R420), and the obligation on it (O55). -/

namespace Sys2Proof.Machine
open Sys2Proof

/-- What asks for power first stops without it. -/
theorem asked_unpowered {s : State} (hp : s.host.power = false) {o : Out} :
    (if (!s.host.power) = true then .fault .unpowered else o) = (.fault .unpowered : Out) := if_pos (by rw [hp]; rfl)

/-- `runSlot`, `runMove`, `event` and ILLEGAL_OPCODE ask for power first, and every arm but POWER_ON is one of them; the links of the fabric
are events once it is known which link is meant. -/
theorem exec_unpowered {s : State} (hp : s.host.power = false) {i : Instr} (hi : i ≠ .powerOn) : exec i s = .fault .unpowered := by
  cases i with
  | powerOn => exact absurd rfl hi
  | fabricLinkUp l => cases l <;> exact event_unpowered hp
  | fabricLinkDown l => cases l <;> exact event_unpowered hp
  | _ => exact asked_unpowered hp

/-- Settles O55: whatever runs asks for power first. -/
theorem unpoweredStops : Obligations.UnpoweredStops := fun _ _ hp hi => exec_unpowered hp hi

end Sys2Proof.Machine
end

section
/-! Power, the steps of a start, the management port and the SPDM responder (R400, R416-R418, R420), and the obligation on them (O54). -/

namespace Sys2Proof.Machine
open Sys2Proof

theorem powerOn_next {s : State} (hp : s.host.power = false) :
    exec .powerOn s = .next (onHost (outside s State.reset) (fun h => { h with power := true, state := 1, step := 1 })) :=
  if_neg (by rw [hp]; decide)

/-! ### The steps of a start (R416, R417) -/

/-- The digest of an image, as step 1 measures it. -/
def fwDigest (x : FwImage) : BitVec 256 := BitVec.ofNat 256 (leNat (sha256 x.image).reverse)

/-- The state of step 1 after it has measured the images `l`. -/
def measured (s : State) (l : List FwImage) : State := l.foldl (fun s x => measure s (x.stage, fwDigest x)) (startReset s)

theorem measure_step (s : State) (m : Nat × BitVec 256) : (measure s m).host.step = s.host.step := by
  by_cases h : m.1 < 8
  · rw [measure, if_pos h, onHost_host]
  · rw [measure, if_neg h]

theorem measured_step (s : State) (l : List FwImage) : (measured s l).host.step = 1 := by
  unfold measured
  refine List.foldlRecOn (motive := fun t : State => t.host.step = 1) l _ ?_ fun t ht x _ => (measure_step ..).trans ht
  rfl

theorem stepWork_first (s : State) (images : List FwImage) : stepWork s 1 images = measured s (images.takeWhile fwValid) := rfl

section
variable {s : State} (hp : s.host.power = true)
include hp

section
variable (hstate : s.host.state = 1)
include hstate

/-- A step after the first waits for nothing. -/
theorem startStepEnd_later {passed : Bool} {images : List FwImage} (hstep : 1 < s.host.step) :
    exec (.startStepEnd passed images) s = .next (
      if passed = false then onHost s (fun h => { h with state := 3 })
      else if s.host.step = 6 then onHost (stepWork s s.host.step images) (fun h => { h with state := 2 })
      else onHost (stepWork s s.host.step images) (fun h => { h with step := nextStep h.warm h.step })) := by
  have hne : s.host.step ≠ 1 := by omega
  have hready : (s.host.state == 1 && (s.host.step != 1 || (ended s (fun _ => true) && (!s.host.warm || s.dram.wq.isEmpty)))) = true := by
    rw [hstate, bne_iff_ne.2 hne]; rfl
  refine (event_next hp hready).trans (congrArg Host.Outcome.next ?_)
  have hpass : stepPassed s.host.step passed images = passed := by
    rw [stepPassed, bne_iff_ne.2 hne, Bool.true_or, Bool.and_true]
  rw [hpass, if_neg hne]
  cases passed <;> rfl

theorem startStepEnd_next {images : List FwImage} (hlo : 1 < s.host.step) (hhi : s.host.step < 4) :
    exec (.startStepEnd true images) s = .next (onHost s (fun h => { h with step := h.step + 1 })) := by
  have hwork : stepWork s s.host.step images = s := by
    unfold stepWork
    rw [if_neg (by omega), if_neg (by rw [Bool.and_eq_true, decide_eq_true_eq]; omega), if_neg (by omega)]
  have hnext : nextStep s.host.warm s.host.step = s.host.step + 1 := if_neg (by rw [Bool.and_eq_true, beq_iff_eq]; omega)
  rw [startStepEnd_later hp hstate hlo, if_neg (by decide), if_neg (by omega), hwork, onHost, hnext]
  rfl

theorem startStepEnd_training {images : List FwImage} (hstep : s.host.step = 4) : exec (.startStepEnd true images) s = .next (
    if s.host.warm = true then onHost (endMigrations s) (fun h => { h with step := 6 }) else onHost s (fun h => { h with step := 5 })) := by
  rw [startStepEnd_later hp hstate (by omega), if_neg (by decide), if_neg (by omega), hstep]
  cases hwarm : s.host.warm with
  | false =>
    have hwork : stepWork s 4 images = s := (if_neg (by decide)).trans ((if_neg (by rw [hwarm]; decide)).trans (if_neg (by decide)))
    have hnext : nextStep s.host.warm s.host.step = 5 := by rw [hwarm, hstep]; rfl
    rw [hwork, onHost, hnext]
    rfl
  | true =>
    have hwork : stepWork s 4 images = endMigrations s := (if_neg (by decide)).trans (if_pos (by rw [hwarm]; rfl))
    have hnext : nextStep (endMigrations s).host.warm (endMigrations s).host.step = 6 := by
      rw [show (endMigrations s).host = s.host from rfl, hwarm, hstep]; rfl
    rw [hwork, onHost, hnext]
    rfl

theorem startStepEnd_scrub {images : List FwImage} (hstep : s.host.step = 5) : exec (.startStepEnd true images) s =
    .next (onHost (onDram s (fun _ => Dram.reset)) (fun h => { h with step := 6 })) := by
  have hnext : ∀ w : Bool, nextStep w 5 = 6 := by decide
  rw [startStepEnd_later hp hstate (by omega), if_neg (by decide), if_neg (by omega), hstep, onHost,
    show (stepWork s 5 images).host = s.host from rfl, hstep, hnext]
  rfl

theorem startStepEnd_last {images : List FwImage} (hstep : s.host.step = 6) :
    exec (.startStepEnd true images) s = .next (onHost s (fun h => { h with state := 2 })) := by
  rw [startStepEnd_later hp hstate (by omega), if_neg (by decide), if_pos hstep, hstep]
  rfl

/-- The first waits for the contexts, and in a warm start for the writes; it ends as its images allow. -/
theorem startStepEnd_first {images : List FwImage} (hstep : s.host.step = 1) (hended : ended s (fun _ => true) = true)
    (hwq : s.host.warm = false ∨ s.dram.wq = []) : exec (.startStepEnd true images) s = .next (
      if images.all fwValid = false then onHost (measured s (images.takeWhile fwValid)) (fun h => { h with state := 3 })
      else onHost (measured s (images.takeWhile fwValid)) (fun h => { h with step := 2 })) := by
  have hready : (s.host.state == 1 && (s.host.step != 1 || (ended s (fun _ => true) && (!s.host.warm || s.dram.wq.isEmpty)))) = true := by
    rw [hstate, hstep, hended]
    obtain hwarm | hwq := hwq
    · rw [hwarm]; rfl
    · rw [hwq]; cases s.host.warm <;> rfl
  refine (event_next hp hready).trans (congrArg Host.Outcome.next ?_)
  rw [hstep, stepWork_first]
  cases hall : images.all fwValid with
  | false => exact if_pos (by rw [stepPassed, hall]; rfl)
  | true =>
    refine (if_neg (by rw [stepPassed, hall]; decide)).trans ((if_neg (by decide)).trans ?_)
    have hnext : ∀ w : Bool, nextStep w 1 = 2 := by decide
    rw [onHost, onHost, measured_step, hnext]
    rfl

end

/-! ### The SPDM responder (R417, R418) -/

/-- A response on a channel, and where its negotiation then stands. -/
def spdmTold (s : State) (ch : SpdmChannel) (code stage : Nat) (body : List Byte) : State := onHost s (fun h => { h with
  reply := Config.spdmBody code body,
  spdm := mput Spdm.reset h.spdm (channelNo ch) ⟨stage, Config.spdmBody code body⟩ })

/-- A request is answered where the negotiation stands at `n` and it is well formed, otherwise with an error. -/
theorem spdm_next {ch : SpdmChannel} (hup : channelUp s ch = true) (name : String) (code n : Nat) (ok : Bool) (stage : Nat → Nat)
    (body : List Byte) : spdm name code ch n ok stage body s = .next (
      if n ≤ (spdmAt s ch).stage ∧ ok = true then spdmTold s ch code (stage (spdmAt s ch).stage) body
      else spdmTold s ch 0x7F (spdmAt s ch).stage []) := by
  refine (event_next hp hup).trans (congrArg Host.Outcome.next ?_)
  by_cases hgood : n ≤ (spdmAt s ch).stage ∧ ok = true
  · have hb : (decide (n ≤ (spdmAt s ch).stage) && ok) = true := by rw [Bool.and_eq_true, decide_eq_true_eq]; exact hgood
    rw [if_pos hgood, hb]
    rfl
  · have hb : (decide (n ≤ (spdmAt s ch).stage) && ok) = false := by
      rw [← Bool.not_eq_true, Bool.and_eq_true, decide_eq_true_eq]; exact hgood
    rw [if_neg hgood, hb]
    rfl

theorem getVersion_next {ch : SpdmChannel} (hup : channelUp s ch = true) :
    exec (.getVersion ch) s = .next (spdmTold s ch 0x04 1 [0x12]) :=
  (spdm_next hp hup "GET_VERSION" 0x04 0 true (fun _ => 1) [0x12]).trans (congrArg Host.Outcome.next (if_pos ⟨Nat.zero_le _, rfl⟩))

/-! ### The management port (R400, R420) -/

theorem managementRequest_next {rq : MgmtRequest} {t : State} (hready : s.host.mgmtReady = true) (ht : management s rq = some t) :
    exec (.managementRequest rq) s = .next t := eventO_some hp ((if_pos hready).trans ht)

end

theorem takeWhile_of_all {α : Type} {p : α → Bool} {l : List α} (h : l.all p = true) : l.takeWhile p = l :=
  List.takeWhile_eq_self_iff.2 fun x hx => List.all_eq_true.1 h x hx

/-- Settles O54: power, each step of a start, each request of the management port and each SPDM request by its own rule. -/
theorem powerAndManagement : Obligations.PowerAndManagement := fun s => by
  refine ⟨powerOn_next, fun hp => ⟨event_next hp rfl, fun hfirst hms => ?_, fun images hstate => ⟨?_, ?_, ?_, ?_, ?_, ?_⟩, fun hready => ?_,
    fun ch hup => ?_⟩⟩
  · have hwait : 10 * Config.ms ≤ s.now := hms
    exact event_next hp (by rw [hfirst, decide_eq_true hwait]; rfl)
  · exact fun hstep => startStepEnd_later hp hstate hstep
  · refine fun hstep hended hwq => ⟨fun hall => ?_, fun good x rest himages hgood hx => ?_⟩
    · refine (startStepEnd_first hp hstate hstep hended hwq).trans (congrArg Host.Outcome.next ((if_neg (by rw [hall]; decide)).trans ?_))
      rw [takeWhile_of_all hall]
      rfl
    · have hall : images.all fwValid = false := by rw [himages, List.all_append, List.all_cons, hx, Bool.false_and, Bool.and_false]
      have hpre : images.takeWhile fwValid = good := by
        rw [himages, List.takeWhile_append_of_pos (fun y hy => List.all_eq_true.1 hgood y hy),
          List.takeWhile_cons_of_neg (by rw [hx]; decide), List.append_nil]
      refine (startStepEnd_first hp hstate hstep hended hwq).trans (congrArg Host.Outcome.next ((if_pos hall).trans ?_))
      rw [hpre]
      rfl
  · exact fun hstep => startStepEnd_next hp hstate (by omega) (by omega)
  · exact fun hstep => startStepEnd_training hp hstate hstep
  · exact fun hstep => startStepEnd_scrub hp hstate hstep
  · exact fun hstep => startStepEnd_last hp hstate hstep
  · refine ⟨fun k hk => managementRequest_next hp hready (if_pos hk), managementRequest_next hp hready rfl, managementRequest_next hp hready rfl,
      managementRequest_next hp hready rfl, fun i hi => managementRequest_next hp hready (if_neg (by omega)),
      fun n i hn hi => managementRequest_next hp hready (if_neg (by omega)), fun v => managementRequest_next hp hready rfl,
      fun v => managementRequest_next hp hready rfl⟩
  · exact ⟨getVersion_next hp hup, spdm_next hp hup "GET_CAPABILITIES" 0x61 1 true (fun k => max k 2) [],
      fun sign hash => spdm_next hp hup "NEGOTIATE_ALGORITHMS" 0x63 2 (sign / 4 % 2 == 1 && hash % 2 == 1) (fun _ => 3) [4, 1],
      spdm_next hp hup "GET_DIGESTS" 0x01 3 true id (sha256 Config.certChain),
      spdm_next hp hup "GET_CERTIFICATE" 0x02 3 true id Config.certChain,
      fun _ => ⟨spdm_next hp hup "CHALLENGE" 0x03 3 true id _, spdm_next hp hup "GET_MEASUREMENTS" 0x60 3 true id _⟩⟩

end Sys2Proof.Machine
end

section
/-! The instructions of the fabric in a lone bundle (R355, R363-R365, R370, R372-R374), barriers, grants and check intervals (R349, R362,
R387, R388), and the obligations on them (O24, O28, O29). -/

namespace Sys2Proof.Machine
open Sys2Proof

/-! ### FLD, FST and FATOM (R363-R365) -/

section
variable {s : State} {i : Instr}

/-- A fabric address that names a device, at an offset aligned to `n` (R364). -/
def fabFits (s : State) (fa : Word) (n : Nat) : Prop := faddrOk (entered s) fa = true ∧ offOf fa % n = 0

theorem fabCheck_fits {f g : Frame} {k n : Nat} {fa : Word} (h : fabFits s fa n) : fabCheck (entered s) f k fa n g = g :=
  (if_neg (by rw [h.1]; decide)).trans (if_neg (not_not.2 h.2))

theorem fabCheck_fault {f g : Frame} {k n : Nat} {fa : Word} (h : ¬fabFits s fa n) :
    fabCheck (entered s) f k fa n g = faultAt f k (if faddrOk (entered s) fa then 0x10 else 0x87) 0 := by
  unfold fabCheck
  cases hok : faddrOk (entered s) fa with
  | false => rfl
  | true => exact (if_neg (by decide)).trans (if_pos fun h0 => h ⟨hok, h0⟩)

/-- A bundle that writes no memory of its core holds for no acquire (R250). -/
theorem acquireHolds_of_noOwn {f : Frame} (hl : ∀ p bs nib, Late.own p bs nib ∉ f.late) (hp : f.park = none) : acquireHolds f = false := by
  unfold acquireHolds
  rw [hp, Bool.and_assoc]
  refine Bool.and_eq_false_imp.2 fun hany => ?_
  obtain ⟨l, hmem, hown⟩ := List.any_eq_true.1 ((Bool.or_false _).symm.trans hany)
  cases l with
  | own p bs nib => exact absurd hmem (hl p bs nib)
  | _ => cases hown

/-- A lone bundle that sends requests, having read `rd`. -/
theorem Clean.retires_sends {n : Nat} {lat : SMap Vec} {w : Core → Core} {f : Frame} {g : State → Frame → Frame} {la : List Late}
    {rd : List (Nat × List Byte × Bool)} (h : Clean s i n lat w 0 false f) (hs : slotOf i = some n) (hl : lone i s = true)
    (hc : f.ctl = .seq) (hla : ∀ p bs nib, Late.own p bs nib ∉ la)
    (hg : g (entered s) (loneFrame i n (reading s)) = { f with late := la, reads := rd }) :
    runSlot i g s = .next (thenDo s la (retire s (afterBundle s n lat w 0 false))) :=
  h.retires_writes hs hl hc (acquireHolds_of_noOwn hla h.wrote.park) hg

variable {x : LF}

/-- The request of a bundle of slot L, and where one that loops back leads. -/
def fabSent (s : State) (x : LF) (kind : FabKind) : FabReq :=
  fabReq (entered s) (reading s) kind x.d.toNat (rdS (reading s) 3 x.a) (some ((boundary s).regs.rG x.grant.toNat))
def fabLed (s : State) (x : LF) (kind : FabKind) (right : Nat) : List Piece := loopPieces (entered s) (fabSent s x kind) (lw x / 8) right

/-- The entry of a request whose answer brings a value and a status. -/
def fabEntry (s : State) (x : LF) (kind : FabKind) (right : Nat) (wr : Bool) : MemOp :=
  .fab true wr false (fabLed s x kind right) (fabPair x.d)

/-- The frame of a bundle that sends such a request. -/
def fabFrame (s : State) (x : LF) (kind : FabKind) (right : Nat) (wr : Bool) (f : Frame) : Frame :=
  { pushLate f (fabEntry s x kind right wr) (fabPair x.d) with late := [.fabric (fabSent s x kind)] }

theorem runSlot_fabFrame {g : State → Frame → Frame} {kind : FabKind} {right : Nat} {wr : Bool} (hs : slotOf i = some 3) (hl : lone i s = true)
    (hg : g (entered s) (loneFrame i 3 (reading s)) = fabFrame s x kind right wr (loneFrame i 3 (reading s))) :
    runSlot i g s = .next (thenDo s [.fabric (fabSent s x kind)]
      (retire s (afterBundle s 3 [] (requested s (fabEntry s x kind right wr) (fabPair x.d)) 0 false))) :=
  ((clean_loneFrame s i 3).pushLate _ _).retires_sends (rd := []) hs hl rfl (by simp) hg

theorem issueFld_checks (hl : lone (.fld x) s = true) (hm : mayLoad s = true) : issueFld x (entered s) (loneFrame (.fld x) 3 (reading s)) =
    fabCheck (entered s) (loneFrame (.fld x) 3 (reading s)) 3 (rdS (reading s) 3 x.a) (lw x / 8)
      (fabFrame s x (.fld (ty? x.ty)) 0 false (loneFrame (.fld x) 3 (reading s))) := by
  unfold issueFld
  rw [heldRead_none (lone_canIssue hl)]
  exact gateLoad_open hm

theorem runSlot_issueFld (hl : lone (.fld x) s = true) (hm : mayLoad s = true) (h : fabFits s (rdS (reading s) 3 x.a) (lw x / 8)) :
    runSlot (.fld x) (issueFld x) s = .next (thenDo s [.fabric (fabSent s x (.fld (ty? x.ty)))]
      (retire s (afterBundle s 3 [] (requested s (fabEntry s x (.fld (ty? x.ty)) 0 false) (fabPair x.d)) 0 false))) :=
  runSlot_fabFrame rfl hl ((issueFld_checks hl hm).trans (fabCheck_fits h))

theorem runSlot_issueFatom (hl : lone (.fatom x) s = true) (hm : mayLoad s = true) (hroom : writesOut (boundary s) < 64)
    (h : fabFits s (rdS (reading s) 3 x.a) (lw x / 8)) :
    let kind : FabKind := .fatom x.op.toNat (ty? x.ty) (rdS (reading s) 3 x.c)
    runSlot (.fatom x) (issueFatom x) s = .next (thenDo s [.fabric (fabSent s x kind)]
      (retire s (afterBundle s 3 [] (requested s (fabEntry s x kind 2 true) (fabPair x.d)) 0 false))) := by
  intro kind
  refine runSlot_fabFrame (right := 2) (wr := true) rfl hl (((gateLoad_open hm).trans (fabCheck_fits h)).trans (if_neg ?_))
  exact Nat.not_le.2 hroom

theorem runSlot_issueFst (hl : lone (.fst x) s = true) (hm : mayWrite s = true) (hroom : writesOut (boundary s) < 64)
    (h : fabFits s (rdS (reading s) 3 x.a) (lw x / 8)) :
    let kind : FabKind := .fst (rdS (reading s) 3 x.c) (lw x / 8)
    runSlot (.fst x) (issueFst x) s = .next (thenDo s [.fabric (fabSent s x kind)] (retire s (afterBundle s 3 [] (fun k =>
      { listed s (.fab false true false (fabLed s x kind 1) (fabWord x.d)) k with pendS := k.pendS ++ [x.d.toNat] }) 0 false))) := by
  intro kind
  have hc := ((clean_loneFrame s (.fst x) 3).pushMem (.fab false true false (fabLed s x kind 1) (fabWord x.d))).put []
    (fun k => { listed s (.fab false true false (fabLed s x kind 1) (fabWord x.d)) k with pendS := k.pendS ++ [x.d.toNat] })
    (fun k => { k with pendS := k.pendS ++ [x.d.toNat] }) rfl
  refine hc.retires_sends (g := issueFst x) (rd := []) rfl hl rfl (by simp) (((gateWrite_open hm).trans (fabCheck_fits h)).trans (if_neg ?_))
  exact Nat.not_le.2 hroom

end

/-- Settles O24: each of the three checks its address and then sends its request. -/
theorem fabricAccess : Obligations.FabricAccess := fun _ _ =>
  ⟨fun hl hm => ⟨fun h => fault_run ((issueFld_checks hl hm).trans (fabCheck_fault h)) rfl hl, fun h => runSlot_issueFld hl hm h⟩,
    fun hl hm => ⟨fun h => fault_run ((gateWrite_open hm).trans (fabCheck_fault h)) rfl hl,
      fun h hroom => runSlot_issueFst hl hm hroom h⟩,
    fun hl hm => ⟨fun h => fault_run ((gateLoad_open hm).trans (fabCheck_fault h)) rfl hl,
      fun h hroom => runSlot_issueFatom hl hm hroom h⟩⟩

/-! ### Barriers (R349) -/

theorem issueGbar_eq (s : State) (x : RF) : issueGbar x (entered s) (loneFrame (.gbar x) 4 (reading s)) =
    if (((boundary s).node.bind (nodeOf (entered s))).map nGbarn).getD 0 ≤ x.gbarK then faultAt (loneFrame (.gbar x) 4 (reading s)) 4 0x97 0
    else if released (entered s) (reading s) x.gbarScope = false then { loneFrame (.gbar x) 4 (reading s) with stall := true }
    else { loneFrame (.gbar x) 4 (reading s) with late := [.gbar x.gbarK] } := by
  unfold issueGbar
  rw [show (loneFrame (.gbar x) 4 (reading s)).pre = boundary s from rfl, show released (entered s) (loneFrame (.gbar x) 4 (reading s)) x.gbarScope =
    released (entered s) (reading s) x.gbarScope from rfl]
  cases (boundary s).node.bind (nodeOf (entered s)) <;> cases released (entered s) (reading s) x.gbarScope <;> rfl

theorem exec_gbar_arrives {s : State} {x : RF} (hl : lone (.gbar x) s = true)
    (hk : x.gbarK < (((boundary s).node.bind (nodeOf (entered s))).map nGbarn).getD 0)
    (hr : released (entered s) (reading s) x.gbarScope = true) :
    exec (.gbar x) s = .next (thenDo s [.gbar x.gbarK] (retire s (passed s 4))) :=
  (clean_loneFrame s (.gbar x) 4).retires_sends (g := issueGbar x) (rd := []) rfl hl rfl (by simp)
    ((issueGbar_eq s x).trans ((if_neg (Nat.not_le.2 hk)).trans (if_neg (by rw [hr]; decide))))

/-! ### Grants (R362) -/

theorem exec_gset {s : State} {x : RF} (hl : lone (.gset x) s = true) : exec (.gset x) s = .next (retire s (afterBundle s 4 []
    (fun k => onRegs k (fun r => r.wG (x.d.toNat % 8) (rdS (reading s) 4 x.a))) 0 false)) :=
  ((clean_loneFrame s (.gset x) 4).put [] (fun k => onRegs k (fun r => r.wG (x.d.toNat % 8) (rdS (reading s) 4 x.a)))
    (fun k => onRegs k (fun r => r.wG (x.d.toNat % 8) (rdS (reading s) 4 x.a))) rfl).retires (g := fun _ => issueGset x) rfl hl rfl rfl rfl

section
variable {s : State} {x : RF}

/-- The grant that GSET.MINT makes of its draft. -/
def mintedGrant (s : State) (x : RF) : Word :=
  let g := rdS (reading s) 4 x.a
  BitVec.ofNat 64 (macTag (entered s) (gKey g) (g.toNat % 2 ^ 40) (rdS (reading s) 4 x.b).toNat * 2 ^ 40) ||| g

theorem issueGsetMint_eq (s : State) (x : RF) : issueGsetMint x (entered s) (loneFrame (.gsetMint x) 4 (reading s)) =
    (mintFault (entered s) (boundary s) (rdS (reading s) 4 x.a) (rdS (reading s) 4 x.b)).elim
      (wrS (loneFrame (.gsetMint x) 4 (reading s)) 4 x.d (mintedGrant s x))
      (fun cause => faultAt (loneFrame (.gsetMint x) 4 (reading s)) 4 cause 0) := by
  unfold issueGsetMint
  dsimp only
  rw [show mintFault (entered s) (loneFrame (.gsetMint x) 4 (reading s)).pre (rdS (loneFrame (.gsetMint x) 4 (reading s)) 4 x.a)
    (rdS (loneFrame (.gsetMint x) 4 (reading s)) 4 x.b) =
      mintFault (entered s) (boundary s) (rdS (reading s) 4 x.a) (rdS (reading s) 4 x.b) from rfl]
  cases mintFault (entered s) (boundary s) (rdS (reading s) 4 x.a) (rdS (reading s) 4 x.b) <;> rfl

variable (hl : lone (.gsetMint x) s = true)
include hl

theorem exec_gsetMint_makes (hfit : mintFault (entered s) (boundary s) (rdS (reading s) 4 x.a) (rdS (reading s) 4 x.b) = none) :
    exec (.gsetMint x) s = .next (retire s (afterBundle s 4 (latS 4 (mintedGrant s x)) (regS s 4 x.d (mintedGrant s x)) 0 false)) :=
  ((clean_loneFrame s (.gsetMint x) 4).wrS x.d _).retires rfl hl ((ctl_wrS ..).trans rfl) ((late_wrS ..).trans rfl)
    ((issueGsetMint_eq s x).trans (by rw [hfit]; rfl))

theorem exec_gsetMint_refused {cause : Nat}
    (hbad : mintFault (entered s) (boundary s) (rdS (reading s) 4 x.a) (rdS (reading s) 4 x.b) = some cause) :
    exec (.gsetMint x) s = .next (trapped s 4 cause 0) :=
  fault_run ((issueGsetMint_eq s x).trans (by rw [hbad]; rfl)) rfl hl

end

/-! ### Check intervals (R388) -/

/-- A lone bundle whose slot stops the node. -/
theorem runSlot_chkfail {s : State} {i : Instr} {n cause : Nat} {g : State → Frame → Frame} (hs : slotOf i = some n) (hl : lone i s = true)
    (hg : g (entered s) (loneFrame i n (reading s)) = { loneFrame i n (reading s) with chkfail := some cause }) :
    runSlot i g s = .next (stopNode (onCore (entered s) s.cur (bump 1)) s.cur cause) := by
  rw [runSlot_lone hs hl _ hg ⟨rfl, rfl, rfl, rfl, rfl, rfl, rfl⟩ rfl rfl rfl (acquireHolds_of_late rfl rfl)]
  unfold finishBundle
  rw [slotFault_none rfl (fun _ => Ctl.noConfusion)]
  rfl

section
variable {s : State} {x : RF} (hl : lone (.chkerr x) s = true) (ho : checkOpen (entered s) s.cur (boundary s) = false)
include ho

/-- The verdicts of CIR that CHKERR asks for. -/
def chkHit (s : State) (x : RF) : BitVec 2 := (boundary s).csr.cir.extractLsb' 0 2 &&& x.chkMask

theorem issueChkerr_eq : issueChkerr x (entered s) (loneFrame (.chkerr x) 4 (reading s)) =
    if x.chkMode = 1 ∧ chkHit s x ≠ 0 then
      faultAt (loneFrame (.chkerr x) 4 (reading s)) 4 0xA1 ((boundary s).csr.cir.extractLsb' 0 16).toNat
    else if x.chkMode = 2 ∧ chkHit s x ≠ 0 then
      { loneFrame (.chkerr x) 4 (reading s) with chkfail := some (if (chkHit s x).getLsbD 0 then 0xA0 else 0x53) }
    else wrS (loneFrame (.chkerr x) 4 (reading s)) 4 x.d (boundary s).csr.cir :=
  if_neg (by rw [show checkOpen (entered s) (entered s).cur (loneFrame (.chkerr x) 4 (reading s)).pre = false from ho]; decide)

include hl

theorem exec_chkerr_reads (h : x.chkMode = 0 ∨ chkHit s x = 0) : exec (.chkerr x) s =
    .next (retire s (afterBundle s 4 (latS 4 (boundary s).csr.cir) (regS s 4 x.d (boundary s).csr.cir) 0 false)) := by
  have hnot : ∀ m, m ≠ 0 → ¬(x.chkMode = m ∧ chkHit s x ≠ 0) := fun m hm hx =>
    h.elim (fun h0 => hm (hx.1.symm.trans h0)) hx.2
  exact ((clean_loneFrame s (.chkerr x) 4).wrS x.d _).retires rfl hl ((ctl_wrS ..).trans rfl) ((late_wrS ..).trans rfl)
    ((issueChkerr_eq ho).trans ((if_neg (hnot 1 (by decide))).trans (if_neg (hnot 2 (by decide)))))

theorem exec_chkerr_traps (h1 : x.chkMode = 1) (h : chkHit s x ≠ 0) : exec (.chkerr x) s =
    .next (trapped s 4 0xA1 ((boundary s).csr.cir.extractLsb' 0 16).toNat) :=
  fault_run ((issueChkerr_eq ho).trans (if_pos ⟨h1, h⟩)) rfl hl

theorem exec_chkerr_stops (h2 : x.chkMode = 2) (h : chkHit s x ≠ 0) : exec (.chkerr x) s =
    .next (stopNode (onCore (entered s) s.cur (bump 1)) s.cur (if (chkHit s x).getLsbD 0 then 0xA0 else 0x53)) :=
  runSlot_chkfail rfl hl ((issueChkerr_eq ho).trans ((if_neg (by omega)).trans (if_pos ⟨h2, h⟩)))

end

/-- Settles O28: each of the four by what it makes of its checks. -/
theorem barriersGrantsChecks : Obligations.BarriersGrantsChecks :=
  ⟨fun s x hl => ⟨fun h => fault_run ((issueGbar_eq s x).trans (if_pos h)) rfl hl, exec_gbar_arrives hl⟩,
    fun _ _ => ⟨exec_gset, fun hl => ⟨fun _ => exec_gsetMint_refused hl, exec_gsetMint_makes hl⟩⟩,
    fun _ _ hl ho => ⟨exec_chkerr_reads hl ho, exec_chkerr_traps hl ho, exec_chkerr_stops hl ho⟩⟩

/-! ### Cards of MCST and CARAV (R370, R372-R374) -/

section
variable {s : State} {x : RF} {ps qs : List Piece} {h r : List Byte × Bool}

/-- A slot that faults after the bundle has read: the reads of its banks are no part of what stays. -/
theorem runSlot_readFault {i : Instr} {n c info : Nat} {g : State → Frame → Frame} {la : List Late} {rd : List (Nat × List Byte × Bool)}
    (hs : slotOf i = some n) (hl : lone i s = true) (hla : ∀ p bs nib, Late.own p bs nib ∉ la)
    (hg : g (entered s) (loneFrame i n (reading s)) = { faultAt (loneFrame i n (reading s)) n c info with late := la, reads := rd }) :
    runSlot i g s = .next (trapped s n c info) := by
  rw [runSlot_lone hs hl _ hg ⟨rfl, rfl, rfl, rfl, rfl, rfl, rfl⟩ rfl rfl rfl (acquireHolds_of_noOwn hla rfl),
    finishBundle_fault (slotOf_lt hs) rfl (fun _ => Ctl.noConfusion)]
  rfl

theorem mayLoad_of_cardAt {ea : Word} {align n : Nat} (hcard : cardAt s ea align n = some (ps, r)) : mayLoad s = true := by
  obtain ⟨_, -, hc⟩ := Option.bind_eq_some_iff.1 hcard
  split at hc
  · rename_i hm
    exact (Bool.and_eq_true_iff.1 hm).1
  · cases hc

/-- The request of MCST, and the frame of its bundle once it has read its card. -/
def mcstReq (s : State) (x : RF) (d : List Byte) : FabReq := fabReq (entered s) (reading s)
  (.mcst d none (List.replicate (mNum d) none) (List.replicate (mNum d) none)) x.d.toNat 0 none
def mcstFrame (s : State) (x : RF) (r : List Byte × Bool) : Frame :=
  if !(List.range (mNum r.1)).all (fun m => faddrOk (entered s) (mFaddr r.1 m)) then faultAt (loneFrame (.mcst x) 4 (reading s)) 4 0x87 0
  else { oweToken (loneFrame (.mcst x) 4 (reading s)) x.d with late := [.fabric (mcstReq s x r.1)] }

theorem mcstFrame_sends (hfit : ∀ m, m < mNum r.1 → faddrOk (entered s) (mFaddr r.1 m) = true) : mcstFrame s x r =
    { oweToken (loneFrame (.mcst x) 4 (reading s)) x.d with late := [.fabric (mcstReq s x r.1)] } :=
  if_neg (by rw [Bool.not_eq_true', Bool.not_eq_false]; exact List.all_eq_true.2 fun m hm => hfit m (List.mem_range.1 hm))

theorem mcstFrame_faults (hbad : ∃ m, m < mNum r.1 ∧ faddrOk (entered s) (mFaddr r.1 m) = false) :
    mcstFrame s x r = faultAt (loneFrame (.mcst x) 4 (reading s)) 4 0x87 0 := by
  obtain ⟨m, hm, hm'⟩ := hbad
  exact if_pos (by rw [Bool.not_eq_true', List.all_eq_false]; exact ⟨m, List.mem_range.2 hm, by rw [hm']; decide⟩)

section
variable (hl : lone (.mcst x) s = true) (hhead : cardAt s (rdS (reading s) 4 x.a) 64 32 = some (qs, h))
include hl hhead

theorem exec_mcst_badHead (hbad : mHead h.1 = false) : exec (.mcst x) s = .next (trapped s 4 0x87 0) := by
  refine runSlot_readFault (g := issueMcst x) (la := [.touch qs]) (rd := [(4, h)]) rfl hl (by simp) ?_
  refine (readCard_eq (lone_canIssue hl) hhead).trans ?_
  rw [if_pos (by rw [hbad]; rfl)]
  rfl

variable (hgood : mHead h.1 = true)
include hgood

/-- With a good head MCST goes on to its members. -/
theorem issueMcst_good {f : Frame} (hf : readCard (entered s) (loneFrame (.mcst x) 4 (reading s)) 4 (rdS (reading s) 4 x.a) 64
      (32 + 16 * mNum h.1) (mcstFrame s x) = f) : issueMcst x (entered s) (loneFrame (.mcst x) 4 (reading s)) =
    { f with late := .touch qs :: f.late, reads := f.reads ++ [(4, h)] } := by
  refine (readCard_eq (lone_canIssue hl) hhead).trans ?_
  rw [if_neg (by rw [hgood]; decide), ← hf]
  rfl

theorem exec_mcst_cardFault {cause info : Nat}
    (hr : reach s .rd 64 [(va48 (rdS (reading s) 4 x.a), 32 + 16 * mNum h.1)] = .fault cause info) :
    exec (.mcst x) s = .next (trapped s 4 cause info) :=
  runSlot_readFault (la := [.touch qs]) (rd := [(4, h)]) rfl hl (by simp)
    (issueMcst_good hl hhead hgood (readCard_loneFault hl (mayLoad_of_cardAt hhead) hr))

variable (hcard : cardAt s (rdS (reading s) 4 x.a) 64 (32 + 16 * mNum h.1) = some (ps, r))
include hcard

theorem exec_mcst_badMember (hbad : ∃ m, m < mNum r.1 ∧ faddrOk (entered s) (mFaddr r.1 m) = false) :
    exec (.mcst x) s = .next (trapped s 4 0x87 0) := by
  refine runSlot_readFault (g := issueMcst x) (la := [.touch qs, .touch ps]) (rd := [(4, r), (4, h)]) rfl hl (by simp) ?_
  refine (issueMcst_good hl hhead hgood (readCard_eq (lone_canIssue hl) hcard)).trans ?_
  rw [mcstFrame_faults hbad]
  rfl

theorem exec_mcst_sends (hfit : ∀ m, m < mNum r.1 → faddrOk (entered s) (mFaddr r.1 m) = true) :
    exec (.mcst x) s = .next (thenDo s [.touch qs, .touch ps, .fabric (mcstReq s x r.1)]
      (retire s (afterBundle s 4 [] (tokened x.d) 0 false))) := by
  refine ((clean_loneFrame s (.mcst x) 4).oweToken x.d).retires_sends (g := issueMcst x) (rd := [(4, r), (4, h)]) rfl hl rfl (by simp) ?_
  refine (issueMcst_good hl hhead hgood (readCard_eq (lone_canIssue hl) hcard)).trans ?_
  rw [mcstFrame_sends hfit]
  rfl

end

/-- A descriptor that starts at a good pointer and whose unused offsets are zero (R373, R374). -/
def caravFits (x : RF) (d : List Byte) : Prop :=
  carOk (BitVec.ofNat 64 (d64 d 0)) = true ∧ ∀ o ∈ (cOffs d).drop ((x.c.extractLsb' 3 3).toNat + 1), o = 0

/-- The request of CARAV. -/
def caravReq (s : State) (x : RF) (d : List Byte) : FabReq :=
  let p : Word := BitVec.ofNat 64 (d64 d 0)
  fabReq (entered s) (reading s)
    (.carav p (cOffs d) (BitVec.ofNat 64 (d64 d 0x18)) ((x.c.extractLsb' 3 3).toNat + 1) 0 24 false none .core) x.d.toNat p
    (if x.c.getLsbD 6 then some ((boundary s).regs.rG (x.c.extractLsb' 0 3).toNat) else none)

theorem caravFits_iff (x : RF) (d : List Byte) : caravFits x d ↔
    (!carOk (BitVec.ofNat 64 (d64 d 0)) || ((cOffs d).drop ((x.c.extractLsb' 3 3).toNat + 1)).any (· != 0)) = false := by
  simp [caravFits]

section
variable (hl : lone (.carav x) s = true) (hcard : cardAt s (rdS (reading s) 4 x.a) 32 32 = some (ps, r))
include hl hcard

theorem exec_carav_refused (hbad : ¬caravFits x r.1) : exec (.carav x) s = .next (trapped s 4 0x75 0) := by
  refine runSlot_readFault (g := issueCarav x) (la := [.touch ps]) (rd := [(4, r)]) rfl hl (by simp) ?_
  refine (readCard_eq (lone_canIssue hl) hcard).trans ?_
  rw [if_pos (by rw [caravFits_iff, Bool.not_eq_false] at hbad; exact hbad)]
  rfl

theorem exec_carav_sends (hfit : caravFits x r.1) : exec (.carav x) s = .next (thenDo s [.touch ps, .fabric (caravReq s x r.1)]
    (retire s (afterBundle s 4 [] (fun k =>
      { listed s (.fab true false false [] (carPair x.d)) k with pendS := k.pendS ++ [x.d.toNat, x.d.toNat + 1] }) 0 false))) := by
  have hc := ((clean_loneFrame s (.carav x) 4).pushMem (.fab true false false [] (carPair x.d))).put []
    (fun k => { listed s (.fab true false false [] (carPair x.d)) k with pendS := k.pendS ++ [x.d.toNat, x.d.toNat + 1] })
    (fun k => { k with pendS := k.pendS ++ [x.d.toNat, x.d.toNat + 1] }) rfl
  refine hc.retires_sends (g := issueCarav x) (rd := [(4, r)]) rfl hl rfl (by simp) ((readCard_eq (lone_canIssue hl) hcard).trans ?_)
  rw [if_neg (by rw [(caravFits_iff x r.1).1 hfit]; decide)]
  rfl

end

end

/-- Settles O29: each of the two reads its card (`readCard_eq`), and traps or sends its request by what it holds. -/
theorem multicastAndCaravans : Obligations.MulticastAndCaravans := fun _ _ _ _ =>
  ⟨fun hl _ _ hhead => ⟨exec_mcst_badHead hl hhead, fun hgood _ _ => exec_mcst_cardFault hl hhead hgood,
      fun hgood hcard => ⟨exec_mcst_badMember hl hhead hgood hcard, exec_mcst_sends hl hhead hgood hcard⟩⟩,
    fun hl hcard => ⟨exec_carav_refused hl hcard, exec_carav_sends hl hcard⟩⟩

end Sys2Proof.Machine
end

section
/-! Links, flow control, starvation, detours and the tick of time (R352-R354, R357, R358, R416), and the obligation on them (O43). -/

namespace Sys2Proof.Machine
open Sys2Proof

section
variable {s : State} (hp : s.host.power = true)
include hp

/-! ### Links (R352, R416) -/

theorem fabricLinkUp_port {port : Nat} (hport : port < 16) (hup : s.fab.up.getLsbD port = false)
    (hstate : s.host.state = 2 ∨ (s.host.state = 1 ∧ 4 ≤ s.host.step)) :
    exec (.fabricLinkUp (.port port)) s = .next (onFab s (fun h => { h with up := h.up ||| BitVec.ofNat 16 (2 ^ port) })) :=
  event_next hp (by simpa only [Bool.and_eq_true, Bool.or_eq_true, decide_eq_true_eq, beq_iff_eq, hup, Bool.not_false, and_true]
    using ⟨hport, hstate⟩)

theorem fabricLinkDown_port {port : Nat} (hport : port < 16) (hup : s.fab.up.getLsbD port = true) :
    exec (.fabricLinkDown (.port port)) s = .next (reroute s (onFab s (fun h =>
      { h with up := h.up &&& ~~~(BitVec.ofNat 16 (2 ^ port)), off := mclear h.off (8 * port) 8,
               rx := mclear h.rx (8 * port) 8, rxOff := mclear h.rxOff (8 * port) 8,
               starved := mput none h.starved port none }))) :=
  event_next hp (by rw [hup, Bool.and_true, decide_eq_true_eq]; exact hport)

theorem fabricLinkUp_between {a b : Nat} (hpair : farPair s a b = true) (hdown : s.fab.farDown.contains (a, b) = true) :
    exec (.fabricLinkUp (.between a b)) s = .next (onFab s (fun h => { h with farDown := h.farDown.filter (· != (a, b)) })) :=
  event_next hp (by rw [hpair, hdown]; rfl)

theorem fabricLinkDown_between {a b : Nat} (hpair : farPair s a b = true) (hdown : s.fab.farDown.contains (a, b) = false) :
    exec (.fabricLinkDown (.between a b)) s = .next (reroute s (onFab s (fun h => { h with farDown := (a, b) :: h.farDown }))) :=
  event_next hp (by rw [hpair, hdown]; rfl)

/-! ### Flow control (R357) -/

theorem flowOff_next {port prio : Nat} {resp : Bool} (hport : portOn s port = true) (hprio : prio < 4)
    (hon : mget 0 s.fab.off (offKey port prio resp) = 0) : exec (.flowOff port prio resp) s =
      .next (onFab s (fun h => { h with off := mput 0 h.off (offKey port prio resp) (s.now + 1) })) :=
  event_next hp (by rw [hport, hon, decide_eq_true hprio]; rfl)

theorem flowOn_next {port prio : Nat} {resp : Bool} (hprio : prio < 4) (hoff : mget 0 s.fab.off (offKey port prio resp) ≠ 0) :
    exec (.flowOn port prio resp) s = .next (onFab s (fun h => { h with
      off := mput 0 h.off (offKey port prio resp) 0, onAt := if resp then h.onAt else mput 0 h.onAt (flowKey port prio) s.now,
      detour := if resp then h.detour
        else h.detour.filter (fun e => !(e.1 % 4 == prio && firstPort s (e.1 / 4) == some port)) })) :=
  event_next hp (by rw [decide_eq_true hprio, bne_iff_ne.2 hoff]; rfl)

theorem ingressArrive_next {port prio n : Nat} {resp : Bool} (hport : portOn s port = true) (hprio : prio < 4) (hn : 0 < n)
    (hroom : mget 0 s.fab.rx (offKey port prio resp) + n ≤ 2560) : exec (.ingressRequest (.arrive port prio resp n)) s =
      .next (rxSet s (offKey port prio resp) (mget 0 s.fab.rx (offKey port prio resp) + n)) :=
  eventO_some hp (if_pos (by rw [hport, decide_eq_true hprio, decide_eq_true hn, decide_eq_true hroom]; rfl))

theorem ingressLeave_next {port prio n : Nat} {resp : Bool} (hprio : prio < 4) (hn : 0 < n)
    (hheld : n ≤ mget 0 s.fab.rx (offKey port prio resp)) : exec (.ingressRequest (.leave port prio resp n)) s =
      .next (rxSet s (offKey port prio resp) (mget 0 s.fab.rx (offKey port prio resp) - n)) :=
  eventO_some hp (if_pos (by rw [decide_eq_true hprio, decide_eq_true hn, decide_eq_true hheld]; rfl))
omit hp

/-! ### Starvation and detours (R354, R358) -/

/-- Where no lower priority has a packet, the head of the queue of `prio` is the first looked at. -/
theorem starving_head {port prio m d : Nat} {r : FabReq} {rest : List (FabReq × Nat × Nat)} (hprio : prio < 4)
    (hlower : ∀ q, q < prio → portQueue s port q = []) (hqueue : portQueue s port prio = (r, m, d) :: rest)
    (hon : mget 0 s.fab.off (8 * port + 2 * prio) = 0)
    (hold : max r.at_ (max (mget 0 s.fab.lastSend (4 * port + prio)) (mget 0 s.fab.onAt (4 * port + prio))) + 2048 ≤ s.now) :
    starving s port = some (r.id, m) := by
  have hrange : List.range 4 = List.range' 0 prio ++ prio :: List.range' (prio + 1) (3 - prio) := by
    interval_cases prio <;> rfl
  unfold starving
  rw [hrange, List.findSome?_append, List.findSome?_eq_none_iff.2, Option.none_or, List.findSome?_cons, hqueue]
  · dsimp only [List.head?_cons]
    rw [if_pos]
    exact ⟨hon, hold⟩
  · intro q hq
    rw [hlower q (by have := List.mem_range'_1.1 hq; omega)]
    rfl

include hp

theorem flitStarvation_next {port : Nat} {x : Nat × Nat} (hport : portOn s port = true) (hnone : starvedHead s port = none)
    (hx : starving s port = some x) : exec (.flitStarvation port) s =
      .next (onFab s (fun h => { h with starved := mput none h.starved port (some x) })) := by
  refine eventO_some hp ?_
  rw [hport, hnone, hx]
  rfl

theorem flowDetour_next {port dev prio : Nat} (hdev : dev < 64) (hprio : prio < 4) (hfar : dev ≠ myDev s)
    (hport : firstPort s dev = some port) (hoff : mget 0 s.fab.off (offKey port prio false) ≠ 0)
    (hold : mget 0 s.fab.off (offKey port prio false) + 1023 ≤ s.now) (hnew : mget false s.fab.detour (flowKey dev prio) = false)
    (hfree : inFlight s (flowKey dev prio) = false) (hroute : (routeBy s (detourHop s) (myDev s) dev).isSome = true) :
    exec (.flowDetour dev prio) s =
      .next (onFab s (fun h => { h with detour := mput false h.detour (flowKey dev prio) true })) := by
  refine event_next hp ?_
  rw [hport, Option.getD_some, hnew, hfree, hroute, decide_eq_true hdev, decide_eq_true hprio, bne_iff_ne.2 hfar,
    decide_eq_true hoff, decide_eq_true hold]
  rfl

end

/-! ### The tick of time (R5) -/

/-- The bookings count into the scheduler and leave everything else. -/
theorem countBookings_sched (s : State) : ∃ h, countBookings s = { s with sched := h } := by
  unfold countBookings
  refine List.foldlRecOn (motive := fun t : State => ∃ h, t = { s with sched := h }) s.sched.bookings _ ⟨s.sched, rfl⟩ ?_
  rintro t ⟨h, rfl⟩ e -
  split
  · exact ⟨h, rfl⟩
  · exact ⟨_, rfl⟩

theorem ftimeTick_next {s : State} (hp : s.host.power = true) : ∃ t, exec .ftimeTick s = .next t ∧ t.now = s.now + 2 ∧
    t.fab.ftime = s.fab.ftime + 1 ∧ t.cores = s.cores ∧ t.slices = s.slices ∧ t.dram = s.dram := by
  refine ⟨_, event_next hp rfl, ?_⟩
  obtain ⟨h, hs⟩ := countBookings_sched s
  rw [hs]
  exact ⟨rfl, rfl, rfl, rfl, rfl⟩

/-- Settles O43: each link event, flow-control event and tick is the clause of its own. -/
theorem fabricLinks : Obligations.FabricLinks := by
  intro s port dev prio resp hp
  refine ⟨fabricLinkUp_port hp, fabricLinkDown_port hp,
    fun a b hpair => ⟨fabricLinkUp_between hp hpair, fabricLinkDown_between hp hpair⟩,
    flowOff_next hp, flowOn_next hp,
    fun n hprio hn => ⟨fun hport hroom => ingressArrive_next hp hport hprio hn hroom, ingressLeave_next hp hprio hn⟩,
    fun hport hnone hprio hlower r m d rest hqueue hon hold =>
      flitStarvation_next hp hport hnone (starving_head hprio hlower hqueue hon hold), ?_, ftimeTick_next hp⟩
  rintro hdev hprio hfar hport rfl
  exact flowDetour_next hp hdev hprio hfar hport
end Sys2Proof.Machine
end

section
/-! Requests at the ingress and the answers to them (R353, R354, R356-R358, R361, R363, R365, R391), and the obligation on them (O44). -/

namespace Sys2Proof.Machine
open Sys2Proof

/-- Past the link time-out, or not yet: `linkLate` as the statements say it. -/
theorem linkLate_true {s : State} {r : FabReq} (h : r.at_ + 2 ^ 22 ≤ s.now) : linkLate s r = true := decide_eq_true h
theorem linkLate_false {s : State} {r : FabReq} (h : s.now < r.at_ + 2 ^ 22) : linkLate s r = false :=
  decide_eq_false (Nat.not_le.2 h)

theorem isLoop_iff {s : State} {r : FabReq} : isLoop s r = true ↔ devOf r.faddr = myDev s := beq_iff_eq

theorem linkCause_routed {s : State} {sent : Bool} {dev t : Nat} (h : sent = true ∨ routedSince s dev t = true) :
    linkCause s sent dev t = 0x80 := if_pos (Bool.or_eq_true _ _ ▸ h)
theorem linkCause_unrouted {s : State} {sent : Bool} {dev t : Nat} (h : ¬(sent = true ∨ routedSince s dev t = true)) :
    linkCause s sent dev t = 0x81 := if_neg (Bool.or_eq_true _ _ ▸ h)

/-- A cause that another module may answer with. -/
theorem farCause_ok {cause : Nat} (h : cause = 0 ∨ cause ∈ farCauses) : (cause == 0 || farCauses.contains cause) = true := by
  rwa [Bool.or_eq_true, beq_iff_eq, List.contains_iff_mem]

/-! ### Requests of this module (R353, R356, R361, R365) -/

section
variable {s : State} {r : FabReq} (hp : s.host.power = true) (hr : reqOf s r.id = some r)
include hp hr

section
variable {op : IngressOp} {u : State} (hop : fabOp r.kind = some op) (hloop : isLoop s r = true) (hresp : r.resp = none)
  (hmay : mayPerform s r.core r.mid = true) (hfirst : flowFirst s r = true)
  (hgate : ingressGate s (myDev s) (r.grant.getD 0) (offOf r.faddr) (lenOf op) (rightOf op) = some u)
include hop hloop hresp hmay hfirst hgate

theorem loopback_refused {cause : Nat}
    (hchk : ingressCheck u (myDev s) (r.grant.getD 0) (offOf r.faddr) (lenOf op) (rightOf op) = .error cause) :
    exec (.ingressRequest (.loopback r.id)) s = .next (setReq u r.id (fun r => { r with resp := some (cause, 0, false) })) := by
  refine eventO_some hp ?_
  dsimp only
  rw [loopRequest, hr, Option.bind_some, hop]
  dsimp only
  rw [if_neg (by rw [hloop, hresp, hmay, hfirst]; decide), hgate, Option.bind_some, hchk]

theorem loopback_done {ps : List Piece} {a : Answer} {t : State}
    (hchk : ingressCheck u (myDev s) (r.grant.getD 0) (offOf r.faddr) (lenOf op) (rightOf op) = .ok ps)
    (hdo : ingressDo u (.fabric r.core r.colour r.id) (coreAt s r.core).node op ps = some (a, t)) :
    exec (.ingressRequest (.loopback r.id)) s =
      .next (setReq (ingressNote t (r.grant.getD 0) (offOf r.faddr) (lenOf op) (rightOf op)) r.id
        (fun r => { r with resp := some (0, BitVec.ofNat 64 (leNat a.bytes), a.poison) })) := by
  refine eventO_some hp ?_
  dsimp only
  rw [loopRequest, hr, Option.bind_some, hop]
  dsimp only
  rw [if_neg (by rw [hloop, hresp, hmay, hfirst]; decide), hgate, Option.bind_some, hchk]
  dsimp only
  rw [hdo]

end

section
variable (hop : (fabOp r.kind).isSome = true)
include hop

theorem fabricResponse_loop (hearly : s.now < r.at_ + 2 ^ 22) (hloop : isLoop s r = true) {cause : Nat} {v : Word} {poi : Bool}
    (hresp : r.resp = some (cause, v, poi)) (hbanked : unbanked s (.fabric r.core r.colour r.id) = false) (x : Nat) (y : Word) (z : Bool) :
    exec (.fabricResponse r.id x y z) s = .next (fabAnswer s r cause v poi) := by
  refine eventO_some hp ?_
  rw [hr, Option.bind_some, if_neg (by rw [linkLate_false hearly, ← Option.not_isSome, hop]; decide), if_pos hloop, hresp,
    Option.bind_some, hbanked]
  rfl

theorem fabricResponse_far (hearly : s.now < r.at_ + 2 ^ 22) (hloop : isLoop s r = false) (hsent : r.sent.contains 0 = true)
    {cause : Nat} {v : Word} {poi : Bool} {u : State} (hcause : cause = 0 ∨ cause ∈ farCauses)
    (hrx : rxTake s r.prio (respFlits r) = some u) :
    exec (.fabricResponse r.id cause v poi) s = .next (fabAnswer u r cause v poi) := by
  refine eventO_some hp ?_
  rw [hr, Option.bind_some, if_neg (by rw [linkLate_false hearly, ← Option.not_isSome, hop]; decide), if_neg (by rw [hloop]; decide),
    if_pos (by rw [hsent, farCause_ok hcause]; rfl), hrx]
  rfl
omit hp

/-- A request with an operation at the ingress fails by the cause that its route decides. -/
theorem linkFail_op (hlate : r.at_ + 2 ^ 22 ≤ s.now) {cause : Nat}
    (hcause : linkCause s (r.sent.contains 0) (devOf r.faddr) r.at_ = cause) :
    linkFail s r.id cause = some (fabAnswer s r cause 0 false) := by
  rw [linkFail, hr, Option.bind_some, linkLate_true hlate, if_neg (by decide)]
  cases hk : r.kind with
  | fld | fst | fatom => exact if_neg (not_not.2 hcause.symm)
  | _ => rw [hk] at hop; cases hop

end
end

/-! ### Requests of other modules (R354, R361, R365) -/

/-- The sequence number `want` of a flow is used up. -/
def takeSeq (t : State) (dev prio want : Nat) : State :=
  onFab t (fun h => { h with seqs := mput 0 h.seqs (flowKey dev prio) (want + 1) })

/-- A write or atomic of another module, checked and noted in `t`, stands admitted; `u` is the state it was taken in. -/
def admitFar (u t : State) (dev prio seq : Nat) (g : Word) (off : Nat) (op : IngressOp) (ps : List Piece) (cells : List (Byte × Bool))
    (a : Answer) : State :=
  onFab (ingressNote (takeSeq t dev prio seq) g off (lenOf op) (rightOf op)) (fun h => { h with
    far := h.far ++ [⟨h.farNext, dev, prio, seq, gWin g, eCtx (winEntry u (gWin g)), ps, cells, a.bytes, a.poison⟩],
    farNext := h.farNext + 1 })

section
variable {s u : State} {port dev prio seq : Nat} {g : Word} {off : Nat} {op : IngressOp} (hp : s.host.power = true)
  (hdev : dev < 64) (hfar : dev ≠ myDev s) (hprio : prio < 4) (hoff : off < 2 ^ 48) (hop : farOpOk op = true)
  (hport : portOn s port = true) (hfree : s.fab.far.any (fun q => flowKey q.dev q.prio == flowKey dev prio && !q.todo.isEmpty) = false)
  (hrx : rxLeave s port prio false (reqFlits op) = some u)
include hdev hfar hprio hoff hop hport hfree

/-- A request up to the number wanted next is well formed, and nothing holds it in its buffer. -/
theorem farRequest_guard (hseq : seq ≤ mget 0 s.fab.seqs (flowKey dev prio)) :
    ¬(64 ≤ dev ∨ dev = myDev s ∨ 4 ≤ prio ∨ 2 ^ 48 ≤ off ∨ (!farOpOk op) = true ∨ mget 0 s.fab.seqs (flowKey dev prio) < seq ∨
      (!portOn s port) = true ∨ (s.fab.far.any (fun q => flowKey q.dev q.prio == flowKey dev prio && !q.todo.isEmpty)) = true) := by
  rw [hop, hport, hfree]
  simp only [Bool.not_true, Bool.false_eq_true, hfar, or_false, false_or, not_or]
  omega

include hp hrx

theorem remote_duplicate (hseq : seq < mget 0 s.fab.seqs (flowKey dev prio)) :
    exec (.ingressRequest (.remote port dev prio seq g off op)) s = .next u := by
  refine eventO_some hp ?_
  dsimp only
  rw [farRequest]
  dsimp only
  rw [if_neg (farRequest_guard hdev hfar hprio hoff hop hport hfree hseq.le), hrx, Option.bind_some, if_pos hseq]

section
variable {w : State} (hseq : seq = mget 0 s.fab.seqs (flowKey dev prio))
  (hgate : ingressGate u dev g off (lenOf op) (rightOf op) = some w)
include hseq hgate

theorem remote_refused {cause : Nat} (hchk : ingressCheck w dev g off (lenOf op) (rightOf op) = .error cause) :
    exec (.ingressRequest (.remote port dev prio seq g off op)) s =
      .next (ingressAnswer (takeSeq w dev prio seq) dev prio seq (refusal cause)) := by
  refine eventO_some hp ?_
  dsimp only
  rw [farRequest]
  dsimp only
  rw [if_neg (farRequest_guard hdev hfar hprio hoff hop hport hfree hseq.le), hrx, Option.bind_some, if_neg hseq.not_lt, hgate,
    Option.bind_some, hchk, ← hseq]
  rfl

variable {ps : List Piece} (hchk : ingressCheck w dev g off (lenOf op) (rightOf op) = .ok ps)
include hchk

theorem remote_write {bs : List Byte} {poi : List Bool} (hwrite : op = .write bs poi) :
    exec (.ingressRequest (.remote port dev prio seq g off op)) s =
      .next (admitFar u w dev prio seq g off op (atomPieces ps) (bs.zip (poi ++ List.replicate bs.length false)) (refusal 0)) := by
  refine eventO_some hp ?_
  dsimp only
  rw [farRequest]
  dsimp only
  rw [if_neg (farRequest_guard hdev hfar hprio hoff hop hport hfree hseq.le), hrx, Option.bind_some, if_neg hseq.not_lt, hgate,
    Option.bind_some, hchk, ← hseq]
  subst hwrite
  rfl

theorem remote_atom {o : BitVec 4} {ty : BitVec 5} {v : Word} {a : Answer} {t : State} (hatom : op = .atom o ty v)
    (hdo : ingressDo w (.ingress (2 ^ 32 + u.fab.farNext)) none op ps = some (a, t)) :
    exec (.ingressRequest (.remote port dev prio seq g off op)) s = .next (admitFar u t dev prio seq g off op [] [] a) := by
  refine eventO_some hp ?_
  dsimp only
  rw [farRequest]
  dsimp only
  rw [if_neg (farRequest_guard hdev hfar hprio hoff hop hport hfree hseq.le), hrx, Option.bind_some, if_neg hseq.not_lt, hgate,
    Option.bind_some, hchk, ← hseq]
  subst hatom
  dsimp only
  rw [hdo]
  rfl

theorem remote_read {a : Answer} {t : State} (hread : rightOf op = 0 ∨ rightOf op = 3)
    (hdo : ingressDo w (.ingress (2 ^ 32)) none op ps = some (a, t)) :
    exec (.ingressRequest (.remote port dev prio seq g off op)) s =
      .next (ingressAnswer (ingressNote (takeSeq t dev prio seq) g off (lenOf op) (rightOf op)) dev prio seq a) := by
  refine eventO_some hp ?_
  dsimp only
  rw [farRequest]
  dsimp only
  rw [if_neg (farRequest_guard hdev hfar hprio hoff hop hport hfree hseq.le), hrx, Option.bind_some, if_neg hseq.not_lt, hgate,
    Option.bind_some, hchk, ← hseq]
  cases op with
  | read | step => dsimp only; rw [hdo]; rfl
  | write | atom => rcases hread with h | h <;> cases h

end
end

/-! ### Answers to other modules (R354, R357, R358) -/

/-- One answer stands before another at a port. -/
def AnsBefore (s : State) (a e : FarAns) : Prop :=
  if a.at_ + 2048 ≤ s.now then e.at_ + 2048 ≤ s.now → a.at_ ≤ e.at_ else s.now < e.at_ + 2048 ∧ e.prio ≤ a.prio

theorem answer_leaves {s : State} {i p : Nat} {a : FarAns} (hp : s.host.power = true) (ha : s.fab.answers[i]? = some a)
    (hport : ansPort s a = some p) (hflow : ∀ e ∈ s.fab.answers.take i, e.dev ≠ a.dev ∨ e.prio ≠ a.prio)
    (hfirst : ∀ e ∈ s.fab.answers, ansPort s e = some p → AnsBefore s a e) :
    exec (.ingressRequest (.answer i)) s = .next (onFab s (fun h => { h with
      answers := h.answers.eraseIdx i, ingress := h.ingress ++ [(a.dev, a.seq, a.cause, a.bytes, a.poison)] })) := by
  refine eventO_some hp ?_
  dsimp only
  rw [ansLeaves, ha, Option.bind_some, hport, Option.bind_some]
  dsimp only
  rw [if_neg, if_neg]
  · rw [List.any_eq_true]
    rintro ⟨e, he, hb⟩
    rw [Bool.and_eq_true, beq_iff_eq] at hb
    obtain ⟨hep, hb⟩ := hb
    have hbefore := hfirst e he hep
    by_cases hold : a.at_ + 2048 ≤ s.now
    · rw [AnsBefore, if_pos hold] at hbefore
      rw [if_pos (decide_eq_true hold), Bool.and_eq_true, decide_eq_true_eq, decide_eq_true_eq] at hb
      exact absurd (hbefore hb.1) (Nat.not_le.2 hb.2)
    · rw [AnsBefore, if_neg hold] at hbefore
      rw [if_neg (by rwa [decide_eq_true_eq]), Bool.or_eq_true, decide_eq_true_eq, decide_eq_true_eq] at hb
      omega
  · rw [List.any_eq_true]
    rintro ⟨e, he, hb⟩
    simp only [Bool.and_eq_true, beq_iff_eq] at hb
    exact (hflow e he).elim (· hb.1) (· hb.2)

/-! ### Admitted writes (R365, R371) -/

section
variable {s : State} {q : FarReq} (hp : s.host.power = true) (hq : s.fab.far.find? (fun e => e.tag == q.tag) = some q)
include hp hq

theorem atom_next {p : Piece} {ps : List Piece} (htodo : q.todo = p :: ps) (hgo : writeGates s none false [p] = .go) :
    exec (.ingressRequest (.atom q.tag)) s = .next (onFab
      (putCells s (.ingress (2 ^ 32 + q.tag)) none p (q.cells.take p.len)) (fun h => { h with
        far := h.far.map (fun e => if e.tag == q.tag then { e with todo := ps, cells := e.cells.drop p.len } else e) })) := by
  refine eventO_some hp ?_
  dsimp only
  rw [farAtom, hq, Option.bind_some, htodo]
  dsimp only
  rw [hgo]

theorem acknowledge_next (htodo : q.todo = []) (hbanked : unbanked s (.ingress (2 ^ 32 + q.tag)) = false) :
    exec (.ingressRequest (.acknowledge q.tag)) s = .next (ingressAnswer
      (onFab s (fun h => { h with far := h.far.filter (fun e => e.tag != q.tag) })) q.dev q.prio q.seq ⟨0, q.bytes, q.poison⟩) := by
  refine eventO_some hp ?_
  dsimp only
  rw [farAck, hq, Option.bind_some, htodo, hbanked]
  rfl

end

/-- Settles O44: the loopback requests, those of other modules, the answers that leave, and the writes that were admitted, each by its
lemma. -/
theorem fabricAnswers : Obligations.FabricAnswers := by
  refine ⟨fun s r hp hr => ⟨?_, ?_, ?_⟩, ?_, fun s i p a hp ha hport hflow hfirst => answer_leaves hp ha hport hflow hfirst,
    fun s q hp hq => ⟨fun p ps => atom_next hp hq, acknowledge_next hp hq⟩⟩
  · intro op hop hloop hresp hmay hfirst g u hgate
    exact ⟨fun cause => loopback_refused hp hr hop hloop hresp hmay hfirst hgate,
      fun ps a t => loopback_done hp hr hop hloop hresp hmay hfirst hgate⟩
  · intro hop hearly
    exact ⟨fun hloop cause v poi => fabricResponse_loop hp hr hop hearly hloop,
      fun hloop hsent cause v poi u => fabricResponse_far hp hr hop hearly hloop hsent⟩
  · intro hop hlate
    exact ⟨fun h => eventO_some hp (linkFail_op hr hop hlate (linkCause_routed h)),
      fun h => eventO_some hp (linkFail_op hr hop hlate (linkCause_unrouted h))⟩
  · intro s u port dev prio seq g off op hp hdev hfar hprio hoff hop hport hfree hrx
    refine ⟨remote_duplicate hp hdev hfar hprio hoff hop hport hfree hrx, ?_⟩
    rintro rfl w hgate
    refine ⟨fun cause => remote_refused hp hdev hfar hprio hoff hop hport hfree hrx rfl hgate, fun ps hchk => ⟨fun bs poi => ?_, ?_, ?_⟩⟩
    · exact remote_write hp hdev hfar hprio hoff hop hport hfree hrx rfl hgate hchk
    · intro o ty v a t
      exact remote_atom hp hdev hfar hprio hoff hop hport hfree hrx rfl hgate hchk
    · intro a t
      exact remote_read hp hdev hfar hprio hoff hop hport hfree hrx rfl hgate hchk

end Sys2Proof.Machine
end

section
/-! Multicasts and Caravans as they run and end (R356, R357, R371, R374-R376, R391), and the obligation on them (O45). -/

namespace Sys2Proof.Machine
open Sys2Proof

/-! ### Multicasts (R371) -/

/-- Member `m` has ended with cause `x`. -/
def memberEnds (s : State) (r : FabReq) (d : List Byte) (pay : List Byte × List Bool) (st : List (Option Nat))
    (todo : List (Option (List Piece))) (m x : Nat) : State :=
  tidyRoutes (setReq s r.id (fun q => { q with kind := .mcst d (some pay) (st.set m (some (memberCode x))) (todo.set m none) }))

/-- Member `m` has the atoms `ps` to write. -/
def memberGoes (s : State) (r : FabReq) (d : List Byte) (pay : List Byte × List Bool) (st : List (Option Nat))
    (todo : List (Option (List Piece))) (m : Nat) (ps : List Piece) : State :=
  setReq s r.id (fun q => { q with kind := .mcst d (some pay) st (todo.set m (some ps)) })

section
variable {s : State} {r : FabReq} (hp : s.host.power = true) (hr : reqOf s r.id = some r)
include hp hr

section
variable {d : List Byte} {st : List (Option Nat)} {todo : List (Option (List Piece))} (hkind : r.kind = .mcst d none st todo)
  (hedge : edgeHeld s r.core r.after [span (mSrc d) [] (mLen d) false] = false) (hown : ownBefore s r.core r.after = false)
  (hmay : jobMay s r.core r.after r.colour false = true)
include hkind hedge hown hmay

theorem mcstRead_fault (m cause : Nat) {src : List Piece} {x : Nat}
    (hfound : engParts s r.core r.mid r.handler .rd (chunks (va48 (BitVec.ofNat 64 (mSrc d))) (mLen d)) = .hit src (some x)) :
    exec (.mcstMemberWrite r.id m cause) s = .next (setReq (engTold s r.core r.mid) r.id (fun q =>
      { q with kind := .mcst d (some ([], [])) (st.map (fun _ => some (256 + x))) (st.map (fun _ => none)) })) := by
  refine eventO_some hp ?_
  rw [hr, Option.bind_some, hkind]
  dsimp only
  rw [mcstRead]
  dsimp only
  rw [if_neg (by rw [hedge, hown, hmay]; decide), hfound]

theorem mcstRead_payload (m cause : Nat) {src : List Piece} {t : State}
    (hfound : engParts s r.core r.mid r.handler .rd (chunks (va48 (BitVec.ofNat 64 (mSrc d))) (mLen d)) = .hit src none)
    (hgate : newGate s (coreAt s r.core).node src = some t) :
    let l := cellsOf t (coreAt s r.core).node src
    exec (.mcstMemberWrite r.id m cause) s = .next (onCore (onFab t (fun h => { h with
      reqNext := h.reqNext + 1,
      reqs := h.reqs.filter (fun q => q.id != r.id) ++ [{ r with
        kind := .mcst d (some (l.map (·.1), l.map (·.2))) st (st.map (fun _ => none)), order := h.reqNext }] })) r.core (fun k =>
        insertMem k ⟨r.mid, r.colour, .fab false true true [] tokenDst, false, k.csr.cycle.toNat⟩)) := by
  refine eventO_some hp ?_
  rw [hr, Option.bind_some, hkind]
  dsimp only
  rw [mcstRead]
  dsimp only
  rw [if_neg (by rw [hedge, hown, hmay]; decide), hfound]
  dsimp only
  rw [hgate]
  rfl

end

section
variable {d : List Byte} {pay : List Byte × List Bool} {st : List (Option Nat)} {todo : List (Option (List Piece))} {m : Nat}

theorem mcstMemberWrite_next (hkind : r.kind = .mcst d (some pay) st todo) {cause : Nat} {t : State}
    (ht : memberWrite s r d pay st todo m cause = some t) : exec (.mcstMemberWrite r.id m cause) s = .next t := by
  refine eventO_some hp ?_
  rw [hr, Option.bind_some, hkind]
  exact ht

theorem mcstEnd_next (hkind : r.kind = .mcst d (some pay) st todo) (hst : ∀ e ∈ st, e ≠ none)
    (hbanked : unbanked s (.fabric r.core r.colour r.id) = false) :
    exec (.mcstEnd r.id) s = .next (mcstDone s r (st.filterMap id)) := by
  refine eventO_some hp ?_
  rw [hr, Option.bind_some, hkind]
  refine if_pos ?_
  rw [hbanked, List.all_eq_true.2 fun e he => Option.isSome_iff_ne_none.2 (hst e he)]
  rfl
omit hp hr

variable (hst : st[m]? = some none) (hmay : jobMay s r.core r.after r.colour true = true)
include hst hmay

/-- A member that has not ended, of a multicast that its core lets write. -/
theorem memberWrite_guard : ¬(!(st[m]? == some none) || !jobMay s r.core r.after r.colour true) = true := by
  rw [hst, hmay]
  simp only [beq_self_eq_true, Bool.not_true, Bool.or_self, Bool.false_eq_true, not_false_eq_true]

theorem memberWrite_late (hlate : r.at_ + 2 ^ 22 ≤ s.now) {cause : Nat}
    (hcause : linkCause s (r.sent.contains m) (devOf (mFaddr d m)) r.at_ = cause) :
    memberWrite s r d pay st todo m cause = some (memberEnds s r d pay st todo m cause) := by
  rw [memberWrite]
  dsimp only
  rw [if_neg (memberWrite_guard hst hmay), if_pos (linkLate_true hlate), if_pos hcause.symm]
  rfl

variable (hearly : s.now < r.at_ + 2 ^ 22)
include hearly

theorem memberWrite_answered (hfar : devOf (mFaddr d m) ≠ myDev s) (hsent : r.sent.contains m = true) {cause : Nat} {u : State}
    (hcause : cause = 0 ∨ cause ∈ farCauses) (hrx : rxTake s r.prio (respFlits r) = some u) :
    memberWrite s r d pay st todo m cause = some (memberEnds u r d pay st todo m cause) := by
  rw [memberWrite]
  dsimp only
  rw [if_neg (memberWrite_guard hst hmay), if_neg (by rw [linkLate_false hearly]; decide), if_neg hfar,
    if_pos (by rw [hsent, farCause_ok hcause]; rfl), hrx]
  rfl

variable (hhere : devOf (mFaddr d m) = myDev s) (cause : Nat)
include hhere

section
variable {u : State} (hnew : nth none todo m = none) (hfirst : flowFirst s r = true)
  (hgate : ingressGate s (myDev s) (mGrant d m) (offOf (mFaddr d m)) (mLen d) 1 = some u)
include hnew hfirst hgate

theorem memberWrite_refused {x : Nat} (hchk : ingressCheck u (myDev u) (mGrant d m) (offOf (mFaddr d m)) (mLen d) 1 = .error x) :
    memberWrite s r d pay st todo m cause = some (memberEnds u r d pay st todo m x) := by
  rw [memberWrite]
  dsimp only
  rw [if_neg (memberWrite_guard hst hmay), if_neg (by rw [linkLate_false hearly]; decide), if_pos hhere, hnew]
  dsimp only
  rw [if_neg (by rw [hfirst]; decide), hgate, Option.map_some, hchk]
  rfl

theorem memberWrite_checked {ps : List Piece}
    (hchk : ingressCheck u (myDev u) (mGrant d m) (offOf (mFaddr d m)) (mLen d) 1 = .ok ps) :
    memberWrite s r d pay st todo m cause =
      some (memberGoes (ingressNote u (mGrant d m) (offOf (mFaddr d m)) (mLen d) 1) r d pay st todo m (atomPieces ps)) := by
  rw [memberWrite]
  dsimp only
  rw [if_neg (memberWrite_guard hst hmay), if_neg (by rw [linkLate_false hearly]; decide), if_pos hhere, hnew]
  dsimp only
  rw [if_neg (by rw [hfirst]; decide), hgate, Option.map_some, hchk]
  rfl

end

theorem memberWrite_atom {p : Piece} {ps : List Piece} (htodo : nth none todo m = some (p :: ps))
    (hgo : writeGates s (coreAt s r.core).node false [p] = .go) :
    memberWrite s r d pay st todo m cause = some (memberGoes (putCells s (.fabric r.core r.colour r.id) (coreAt s r.core).node p
      (((pay.1.zip pay.2).drop (mLen d - ((p :: ps).map (·.len)).sum)).take p.len)) r d pay st todo m ps) := by
  rw [memberWrite]
  dsimp only
  rw [if_neg (memberWrite_guard hst hmay), if_neg (by rw [linkLate_false hearly]; decide), if_pos hhere, htodo]
  dsimp only
  rw [hgo]
  rfl

theorem memberWrite_done (htodo : nth none todo m = some []) :
    memberWrite s r d pay st todo m cause = some (memberEnds s r d pay st todo m 0) := by
  rw [memberWrite]
  dsimp only
  rw [if_neg (memberWrite_guard hst hmay), if_neg (by rw [linkLate_false hearly]; decide), if_pos hhere, htodo]
  rfl

end
end

/-! ### Caravans (R374-R376) -/

/-- A step that fails after `cost` transfers, or that the budget does not reach. -/
def carStop (s : State) (r : FabReq) (p : Word) (k budget : Nat) (poi : Bool) (pos : CarPos) (a : Word) (cost cause : Nat) : State :=
  let at_ := if devOf a = myDev s ∨ cost = 0 then pos else .far (devOf a)
  if budget < cost then setCar s r p k 0 poi (some 0x73) at_ else setCar s r p k (budget - cost) poi (some cause) at_

/-- Where a step to the address `a` is served, and what comes of it. -/
def carServed (s : State) (r : FabReq) (budget : Nat) (pos : CarPos) (a : Word) (remote : CaravanRemote) : Option CarStep :=
  if devOf a == myDev s then (if remote == .here then carHere s r pos (offOf a) else none)
  else if budget = 0 then (if remote == .here then some (.fail 0 0x73) else none)
  else carFar s r pos (devOf a) remote

theorem carServed_of {s : State} {r : FabReq} {budget : Nat} {pos : CarPos} {a : Word} {remote : CaravanRemote} {o : CarStep}
    (h : if devOf a = myDev s then remote = .here ∧ carHere s r pos (offOf a) = some o
      else if budget = 0 then remote = .here ∧ o = .fail 0 0x73 else carFar s r pos (devOf a) remote = some o) :
    carServed s r budget pos a remote = some o := by
  unfold carServed
  by_cases hhere : devOf a = myDev s
  · rw [if_pos hhere] at h
    rw [if_pos (beq_iff_eq.2 hhere), if_pos (beq_iff_eq.2 h.1), h.2]
  · rw [if_neg hhere] at h
    rw [if_neg (by rwa [beq_iff_eq])]
    by_cases hbudget : budget = 0
    · rw [if_pos hbudget] at h
      rw [if_pos hbudget, if_pos (beq_iff_eq.2 h.1), h.2]
    · rw [if_neg hbudget] at h
      rw [if_neg hbudget, h]

section
variable {s : State} {r : FabReq} (hp : s.host.power = true) (hr : reqOf s r.id = some r)
include hp hr

section
variable {p : Word} {offs : List (BitVec 16)} {mask : Word} {n k budget : Nat} {poi : Bool} {pos : CarPos} {remote : CaravanRemote}
  (hkind : r.kind = .carav p offs mask n k budget poi none pos) (hk : k < n) (hmay : mayPerform s r.core r.mid = true)
  (hearly : s.now < r.at_ + 2 ^ 22)
omit hp hr
include hk hmay hearly

/-- A Caravan that has not ended, is not late, and may read. -/
theorem carStep_guard : ¬(n ≤ k ∨ (!mayPerform s r.core r.mid) = true ∨ linkLate s r = true) := by
  rw [hmay, linkLate_false hearly]
  simp only [Bool.not_true, Bool.false_eq_true, or_false]
  omega

include hp hr hkind

theorem caravanStep_badPointer (hbad : carOk (p + (nth 0 offs k).signExtend 64 * 8) = false) :
    exec (.caravanStep r.id remote) s =
      .next (carStop s r p k budget poi pos (p + (nth 0 offs k).signExtend 64 * 8) 0 0x74) := by
  refine eventO_some hp ?_
  rw [carStep, hr, Option.bind_some, hkind]
  dsimp only
  rw [if_neg (carStep_guard hk hmay hearly), if_pos (by rw [hbad]; rfl)]
  simp only [carStop, beq_self_eq_true, Bool.or_true, or_true, if_true]

variable (hok : carOk (p + (nth 0 offs k).signExtend 64 * 8) = true)
include hok

theorem caravanStep_misaligned (halign : offOf (p + (nth 0 offs k).signExtend 64 * 8) % 8 ≠ 0) :
    exec (.caravanStep r.id remote) s =
      .next (carStop s r p k budget poi pos (p + (nth 0 offs k).signExtend 64 * 8) 0 0x10) := by
  refine eventO_some hp ?_
  rw [carStep, hr, Option.bind_some, hkind]
  dsimp only
  rw [if_neg (carStep_guard hk hmay hearly), if_neg (by rw [hok]; decide), if_pos halign]
  simp only [carStop, beq_self_eq_true, Bool.or_true, or_true, if_true]

variable (halign : offOf (p + (nth 0 offs k).signExtend 64 * 8) % 8 = 0)
include halign

theorem caravanStep_waits {t : State} (ho : carServed s r budget pos (p + (nth 0 offs k).signExtend 64 * 8) remote = some (.wait t)) :
    exec (.caravanStep r.id remote) s = .next t := by
  refine eventO_some hp ?_
  rw [carStep, hr, Option.bind_some, hkind]
  dsimp only
  rw [if_neg (carStep_guard hk hmay hearly), if_neg (by rw [hok]; decide), if_neg (not_not.2 halign)]
  rw [carServed] at ho
  rw [ho]

theorem caravanStep_fails {cost cause : Nat}
    (ho : carServed s r budget pos (p + (nth 0 offs k).signExtend 64 * 8) remote = some (.fail cost cause)) :
    exec (.caravanStep r.id remote) s = .next (carStop (engTold s r.core r.mid) r p k budget poi pos
      (p + (nth 0 offs k).signExtend 64 * 8) cost cause) := by
  refine eventO_some hp ?_
  rw [carStep, hr, Option.bind_some, hkind]
  dsimp only
  rw [if_neg (carStep_guard hk hmay hearly), if_neg (by rw [hok]; decide), if_neg (not_not.2 halign)]
  rw [carServed] at ho
  rw [ho]
  have hdev : myDev (engTold s r.core r.mid) = myDev s := rfl
  simp only [carStop, hdev, Bool.or_eq_true, beq_iff_eq]

theorem caravanStep_goes {cost : Nat} {v : Word} {pz : Bool} {pos' : CarPos} {t : State}
    (ho : carServed s r budget pos (p + (nth 0 offs k).signExtend 64 * 8) remote = some (.ok cost v pz pos' t)) :
    exec (.caravanStep r.id remote) s = .next (
      if budget < cost then carStop s r p k budget poi pos (p + (nth 0 offs k).signExtend 64 * 8) cost 0x73
      else tidyRoutes (setCar t r (v &&& mask) (k + 1) (budget - cost) (poi || pz)
        (if carOk (v &&& mask) = false ∧ k + 1 < n then some 0x74 else none) pos')) := by
  refine eventO_some hp ?_
  rw [carStep, hr, Option.bind_some, hkind]
  dsimp only
  rw [if_neg (carStep_guard hk hmay hearly), if_neg (by rw [hok]; decide), if_neg (not_not.2 halign)]
  rw [carServed] at ho
  rw [ho]
  simp only [carStop, Bool.or_eq_true, beq_iff_eq, Bool.and_eq_true, Bool.not_eq_true', decide_eq_true_eq]
  exact (apply_ite some ..).symm

end

section
variable {p : Word} {offs : List (BitVec 16)} {mask : Word} {n k budget : Nat} {poi : Bool} {res : Option Nat} {pos : CarPos}
  (hkind : r.kind = .carav p offs mask n k budget poi res pos)
include hkind

section
variable (hearly : s.now < r.at_ + 2 ^ 22) (hended : res ≠ none ∨ k = n)
include hearly hended
omit hp hr hkind in
theorem caravanReturn_guard : ((res.isSome || k == n) && !linkLate s r) = true := by
  rwa [linkLate_false hearly, Bool.not_false, Bool.and_true, Bool.or_eq_true, Option.isSome_iff_ne_none, beq_iff_eq]

theorem caravanReturn_here (hpos : ∀ d, pos ≠ .far d) :
    exec (.caravanReturn r.id) s = .next (carDeliver s r p k budget poi res) := by
  refine eventO_some hp ?_
  rw [hr, Option.bind_some, hkind]
  dsimp only
  rw [if_pos (caravanReturn_guard hearly hended)]
  cases pos with
  | far d => exact absurd rfl (hpos d)
  | _ => rfl

theorem caravanReturn_far {d : Nat} {u : State} (hpos : pos = .far d) (hrx : rxTake s r.prio (respFlits r) = some u) :
    exec (.caravanReturn r.id) s = .next (carDeliver u r p k budget poi res) := by
  refine eventO_some hp ?_
  rw [hr, Option.bind_some, hkind]
  dsimp only
  rw [if_pos (caravanReturn_guard hearly hended), hpos]
  dsimp only
  rw [hrx]
  rfl

end

section
variable (hlate : r.at_ + 2 ^ 22 ≤ s.now)
include hlate

theorem linkTimeout_caravan (hheld : carHeld s r = false) :
    exec (.linkTimeout r.id) s = .next (carDeliver s r r.faddr k budget poi (some 0x80)) := by
  refine eventO_some hp ?_
  rw [linkFail, hr, Option.bind_some, linkLate_true hlate, hkind, hheld]
  rfl

theorem linkNoRoute_caravan (hheld : carHeld s r = true) :
    exec (.linkNoRoute r.id) s = .next (carDeliver s r p k budget poi (some 0x81)) := by
  refine eventO_some hp ?_
  rw [linkFail, hr, Option.bind_some, linkLate_true hlate, hkind, hheld]
  rfl

end
end
end

/-- Settles O45: a multicast reads, writes its members and ends, a Caravan steps, returns and is lost, each by its lemma. -/
theorem multicastAndCaravansRun : Obligations.MulticastAndCaravansRun := by
  intro s r hp hr
  refine ⟨?_, ?_, fun d pay st todo => mcstEnd_next hp hr, ?_, ?_⟩
  · intro d st todo hkind hedge hown hmay m cause src
    exact ⟨fun x => mcstRead_fault hp hr hkind hedge hown hmay m cause,
      fun t => mcstRead_payload hp hr hkind hedge hown hmay m cause⟩
  · intro d pay st todo m hkind hst hmay
    refine ⟨fun hlate => mcstMemberWrite_next hp hr hkind (memberWrite_late hst hmay hlate ?_), ?_, ?_⟩
    · split
      case isTrue h => exact linkCause_routed h
      case isFalse h => exact linkCause_unrouted h
    · intro hearly hfar hsent cause u hcause hrx
      exact mcstMemberWrite_next hp hr hkind (memberWrite_answered hst hmay hearly hfar hsent hcause hrx)
    · intro hearly hhere cause
      refine ⟨fun u hnew hfirst hgate => ⟨fun x hchk => ?_, fun ps hchk => ?_⟩, fun p ps htodo hgo => ?_, fun htodo => ?_⟩
      · exact mcstMemberWrite_next hp hr hkind (memberWrite_refused hst hmay hearly hhere cause hnew hfirst hgate hchk)
      · exact mcstMemberWrite_next hp hr hkind (memberWrite_checked hst hmay hearly hhere cause hnew hfirst hgate hchk)
      · exact mcstMemberWrite_next hp hr hkind (memberWrite_atom hst hmay hearly hhere cause htodo hgo)
      · exact mcstMemberWrite_next hp hr hkind (memberWrite_done hst hmay hearly hhere cause htodo)
  · intro p offs mask n k budget poi pos remote hkind hk hmay hearly
    refine ⟨caravanStep_badPointer hp hr hkind hk hmay hearly, caravanStep_misaligned hp hr hkind hk hmay hearly,
      fun hok halign o ho => ?_⟩
    replace ho := carServed_of ho
    cases o with
    | wait t => exact caravanStep_waits hp hr hkind hk hmay hearly hok halign ho
    | fail cost cause => exact caravanStep_fails hp hr hkind hk hmay hearly hok halign ho
    | ok cost v pz pos' t => exact caravanStep_goes hp hr hkind hk hmay hearly hok halign ho
  · intro p offs mask n k budget poi res pos hkind
    exact ⟨fun hearly hended => ⟨caravanReturn_here hp hr hkind hearly hended, fun d u => caravanReturn_far hp hr hkind hearly hended⟩,
      fun hlate => ⟨linkTimeout_caravan hp hr hkind hlate, linkNoRoute_caravan hp hr hkind hlate⟩⟩

end Sys2Proof.Machine
end

section
/-! The entry to a trap (R118, R199, R380-R383), and the obligation on it (O31). -/

namespace Sys2Proof.Machine
open Sys2Proof

/-! ### A running core is written at its own place only -/

/-- Inserting leaves the other keys of any table alone. -/
theorem mget_mins_ne {α : Type} (z : α) (m : SMap α) {n k : Nat} (v : α) (h : k ≠ n) : mget z (mins m n v) k = mget z m k := by
  induction m with
  | nil => simp only [mins, mget, if_neg h, ite_self]
  | cons e t ih =>
    obtain ⟨i, w⟩ := e
    rw [mins]
    split_ifs with hlt heq
    · simp only [mget, if_neg h]
      exact ite_eq_right_iff.2 fun hk => (if_pos (hk.trans hlt)).symm
    · subst heq
      simp only [mget, if_neg h]
    · simp only [mget, ih]

theorem coreAt_setCore_ne (s : State) {c c' : Nat} {k : Core} (hrun : k.running = true) (h : c' ≠ c) :
    coreAt (setCore s c k) c' = coreAt s c' := by
  have hk : k ≠ Core.idle := fun he => absurd hrun (by rw [he]; decide)
  unfold coreAt setCore
  dsimp only
  rw [mput, if_neg hk, mget_mins_ne _ _ _ h]

/-! ### What the bundle of a system atomic had issued (R381, R412) -/

section
variable {s : State} {c : Nat} (hrun : (coreAt s c).running = true)
include hrun

/-- Forgetting it takes entries from two lists of the core, and nothing else of it. -/
theorem coreAt_dropEarly : ∃ early mem, coreAt (dropEarly s c) c = { coreAt s c with early := early, mem := mem } := by
  unfold dropEarly
  dsimp only
  split
  · exact ⟨_, _, rfl⟩
  · exact ⟨_, _, coreAt_setCore_running _ _ _ hrun⟩

theorem coreAt_dropEarly_ne {c' : Nat} (h : c' ≠ c) : coreAt (dropEarly s c) c' = coreAt s c' := by
  unfold dropEarly
  dsimp only
  split
  · rfl
  · exact coreAt_setCore_ne s hrun h

omit hrun in
theorem dropEarly_memory : (dropEarly s c).slices = s.slices ∧ (dropEarly s c).dram = s.dram := by
  unfold dropEarly
  dsimp only
  split <;> exact ⟨rfl, rfl⟩

/-! ### Taking a trap (R199, R380, R382) -/

/-- The core at handler level, as a trap that it takes at user level leaves it (R380). -/
def handling (k : Core) (cause : Nat) (epc : BitVec 48) (tr : Word) : Core :=
  bump 1 { k with
    xlFault := none, fetchFault := none, park := none, owed := none, csr := { k.csr with cause := BitVec.ofNat 8 cause, epc := epc, trec := tr },
    tlat := k.lat, tlatBoost := k.latBoost, lat := [], latBoost := 0, held := k.exposed, exposed := [], tlevel := k.level, level := true,
    pc := handlerPc k.csr.tvec cause }

/-- The core of a trap that nothing handles: the causes are noted (R380). -/
def unhandled (k : Core) (cause : Nat) (epc : BitVec 48) (tr : Word) : Core :=
  bump 1 { k with
    xlFault := none, fetchFault := none, park := none, owed := none, csr := { k.csr with cause := BitVec.ofNat 8 cause, epc := epc, trec := tr } }

variable (cause : Nat) (epc : BitVec 48) (tr : Word)

omit hrun in
theorem takeTrap_waits (hl : landed (coreAt s c) = false) : takeTrap s c cause epc tr = setCore s c (bump 1 (coreAt s c)) := by
  unfold takeTrap
  dsimp only
  rw [if_pos]
  exact congrArg (!·) hl

variable (hl : landed (coreAt s c) = true)
include hl

theorem takeTrap_handlerLevel (hv : (coreAt s c).level = true) : takeTrap s c cause epc tr =
    stopNode (setCore (dropEarly s c) c (bump 1 { coreAt (dropEarly s c) c with
      xlFault := none, fetchFault := none, csr := { (coreAt s c).csr with cause := BitVec.ofNat 8 cause } })) c 0xB1 := by
  obtain ⟨early, mem, hd⟩ := coreAt_dropEarly hrun
  unfold takeTrap
  dsimp only
  rw [if_neg, if_pos, hd]
  · rfl
  · rw [hd]
    exact hv
  · exact fun h => Bool.false_ne_true ((congrArg (!·) hl).symm.trans h)

variable (hv : (coreAt s c).level = false)
include hv

theorem takeTrap_handled (ht : (coreAt s c).csr.tvec ≠ 0) :
    takeTrap s c cause epc tr = setCore (dropEarly s c) c (handling (coreAt (dropEarly s c) c) cause epc tr) := by
  obtain ⟨early, mem, hd⟩ := coreAt_dropEarly hrun
  unfold takeTrap
  dsimp only
  rw [if_neg, if_neg, if_neg]
  · rfl
  · rw [hd]
    exact ht
  · rw [hd]
    exact fun h => Bool.false_ne_true (hv.symm.trans h)
  · exact fun h => Bool.false_ne_true ((congrArg (!·) hl).symm.trans h)

theorem takeTrap_unhandled (ht : (coreAt s c).csr.tvec = 0) :
    takeTrap s c cause epc tr = stopNode (setCore (dropEarly s c) c (unhandled (coreAt (dropEarly s c) c) cause epc tr)) c cause := by
  obtain ⟨early, mem, hd⟩ := coreAt_dropEarly hrun
  unfold takeTrap
  dsimp only
  rw [if_neg, if_neg, if_pos]
  · rfl
  · rw [hd]
    exact ht
  · rw [hd]
    exact fun h => Bool.false_ne_true (hv.symm.trans h)
  · exact fun h => Bool.false_ne_true ((congrArg (!·) hl).symm.trans h)

end

/-! ### A cause due at the boundary (R381) -/

/-- It is taken before anything else of the bundle, the wait for landings apart. -/
theorem openOn_trapDue {s : State} {k : Core} {e : Bool × Nat × Word} (hi : issues s k = true) (hp : k.park = none) (hg : k.gwait = none)
    (he : k.postTrap.find? (fun e => e.1 == k.level) = some e) (hl : landed k = true) :
    openOn s k = .stop (takeTrap (setCore s s.cur { k with postTrap := k.postTrap.erase e }) s.cur e.2.1 k.pc e.2.2) := by
  unfold openOn
  rw [if_neg (by rw [hi]; decide), hp, hg]
  dsimp only
  rw [if_neg (by decide), he]
  dsimp only
  rw [if_pos hl]

theorem runSlot_stopped {i : Instr} {g : State → Frame → Frame} {s t : State} (hp : s.host.power = true) (hf : s.frame = none)
    (ho : openBundle s = .stop t) : runSlot i g s = .next t := by
  unfold runSlot
  rw [if_neg (by rw [hp]; decide), hf]
  dsimp only
  rw [ho]

/-- Settles O31: the four ends of a trap, and the cause that is due at a boundary. -/
theorem trapEntry : Obligations.TrapEntry := by
  refine ⟨fun s c cause epc tr hrun => ⟨takeTrap_waits cause epc tr, takeTrap_handlerLevel hrun cause epc tr, ?_, ?_⟩, ?_⟩
  · intro hl hv ht
    obtain ⟨early, mem, hd⟩ := coreAt_dropEarly hrun
    have hk : (handling (coreAt (dropEarly s c) c) cause epc tr).running = true := by rw [hd]; exact hrun
    rw [takeTrap_handled hrun cause epc tr hl hv ht, coreAt_setCore_running _ _ _ hk, hd]
    refine ⟨rfl, rfl, rfl, rfl, hv, rfl, rfl, rfl, rfl, rfl, rfl, rfl, rfl, rfl, rfl, rfl, dropEarly_memory.1, dropEarly_memory.2,
      fun c' hc => ?_⟩
    rw [← hd, coreAt_setCore_ne _ hk hc, coreAt_dropEarly_ne hrun hc]
  · intro hl hv ht
    obtain ⟨early, mem, hd⟩ := coreAt_dropEarly hrun
    have hk : (unhandled (coreAt (dropEarly s c) c) cause epc tr).running = true := by rw [hd]; exact hrun
    refine ⟨_, takeTrap_unhandled hrun cause epc tr hl hv ht, ?_⟩
    rw [coreAt_setCore_running _ _ _ hk]
    exact ⟨rfl, rfl, rfl⟩
  · intro s i n lv cause tr hs hp hf k hi hpark hg he hl
    obtain ⟨g, hexec, -⟩ := exec_issues hs
    exact (hexec s).trans (runSlot_stopped hp hf (openOn_trapDue hi hpark hg he hl))

end Sys2Proof.Machine
end
